-- ==== Sys2Proof/Word.lean ====
section
/-! DEFINITION. The word types of the YH-880 and the plainest arithmetic of R6: `trunc`, `zext`, `sext`. -/

namespace Sys2Proof

/-- A 64-bit value: an s register, a PC, a virtual address, a control register (R163, R122). -/
abbrev Word := BitVec 64

/-- One byte (R3). -/
abbrev Byte := BitVec 8

/-- A vector register or a mask register: 8192 bits (R4, R232). -/
abbrev VReg := BitVec 8192

/-- A scale register: 64 exponents of 8 bits (R49). -/
abbrev EReg := BitVec 512

/-- `trunc(x, w)` of R6 on an integer: x mod 2^w, a natural number. -/
def truncInt (x : Int) (w : Nat) : Nat := (x % (2 ^ w : Nat)).toNat

/-- `zext(x, w)` of R6. -/
def zextNat (x w : Nat) : Nat := x % 2 ^ w

/-- `sext(x, w)` of R6: the low w bits of x read in two's complement. -/
def sextNat (x w : Nat) : Int :=
  let t := x % 2 ^ w
  if w ≠ 0 ∧ 2 ^ (w - 1) ≤ t then (t : Int) - (2 ^ w : Nat) else t

/-- The field x[hi:lo] of a natural number (R3, R6). -/
def field (x hi lo : Nat) : Nat := (x >>> lo) % 2 ^ (hi + 1 - lo)

end Sys2Proof
end

