-- ==== Sys2Proof/Config.lean ====
section
/-! DEFINITION. What an implementation fixes or the spec leaves open, as constants with no body: nothing can be proved
about their values, so a theorem about the machine holds whatever they are. Each is named in a log entry. -/

namespace Sys2Proof.Config

/-- A free 64-bit value, indexed by the counter `State.fresh` (log 4). -/
opaque freeWord : Nat → Word

/-- A free choice between two outcomes the spec allows, indexed by `State.fresh` (log 4). -/
opaque freeBit : Nat → Bool

/-- A free natural number, indexed by `State.fresh` (log 4). -/
opaque freeNat : Nat → Nat

/-- The spar link directions, numbered 2 × (16 × package + link) + (1 when outward), on the route from one package to another, which
Horsil sets at boot (R376; log 13). -/
opaque sparRoute : Nat → Nat → List Nat

/-- The capacity in bytes of the expander on a package's CXL port (R153; log 12). -/
opaque cxlCapacity : Nat → Nat → Nat

/-- The SM3 digest of a byte string (named in R456, R464, not defined in the spec; log 14). -/
opaque sm3 : List Byte → BitVec 256

/-- Whether an SM2 signature (64 bytes) over a digest verifies under a public key (R456; log 14). -/
opaque sm2Verify : BitVec 512 → BitVec 256 → List Byte → Bool

/-- The SM2 signature (64 bytes) by a package's attestation key over a byte string (R462, R466; log 14). -/
opaque sm2Sign : Nat → List Byte → BitVec 512

/-- The signing key that a certificate presents, when the certificate is signed by the key given (R462; log 14). -/
opaque certKey : BitVec 512 → List Byte → Option (BitVec 512)

/-- The Widal root public key, fixed in ROM (R462; log 14). -/
opaque rootKey : BitVec 512

/-- The Horsil release that service 0x0000 returns (R463; log 14). -/
opaque horsilRelease : Word

/-- The generation of the part, which a manifest names for native code (R457, R461; log 14). -/
opaque generation : Nat

/-- The native code that the translator of this Horsil release makes for this generation of the bytes of a Crela section: one translation, whose
choices R460 leaves to it (log 27). -/
opaque translateCrela : List Byte → List Byte

/-- Whether the work of a start step comes out well, by the package, the step and its unit, when nothing from outside says so (R464; log 14). -/
opaque startOk : Nat → Nat → Nat → Bool

/-- The image that a start step loads on a package, with its signature (R464; log 14). -/
opaque startImage : Nat → Nat → List Byte × List Byte

/-- The seed firmware gives a core's sampling generator at boot (R441; log 9). -/
opaque samplingSeed : Nat → BitVec 32

/-- One step of the sampling generator, a 32-bit xorshift whose shifts the spec does not give (R441; log 9). -/
opaque samplingNext : BitVec 32 → BitVec 32

end Sys2Proof.Config
end

