-- ==== Sys2Proof/Syntax.lean ====
section
/-! DEFINITION. The abstract syntax: one constructor of `Instr` per row of the opcode table (R139 for the encoded
instructions; the other rows are steps of the hardware, Horsil, the boot or the outside). Field names are those of R126. -/

namespace Sys2Proof

/-- The six scopes of R23, in ascending extent. -/
inductive Scope where
  | lane | core | quad | die | pkg | pod
  deriving DecidableEq, Repr

/-- The scope code of R130. -/
def Scope.code : Scope → Nat
  | .lane => 0 | .core => 1 | .quad => 2 | .die => 3 | .pkg => 4 | .pod => 5

/-- The scope of a code of R130, none for the reserved codes 6 and 7. -/
def Scope.ofCode : Nat → Option Scope
  | 0 => some .lane | 1 => some .core | 2 => some .quad | 3 => some .die | 4 => some .pkg | 5 => some .pod | _ => none

/-- Format Q3. -/
structure Q3 where
  fd : BitVec 5
  fa : BitVec 5
  fb : BitVec 5
  deriving DecidableEq, Repr

/-- Format QC. -/
structure QC where
  fd : BitVec 5
  crn : BitVec 11
  deriving DecidableEq, Repr

/-- Format QI. -/
structure QI where
  imm : BitVec 16
  deriving DecidableEq, Repr

/-- Format QN. -/
structure QN where
  cnt : BitVec 8
  deriving DecidableEq, Repr

/-- Format W4 (SQF is kept beside the instruction). -/
structure W4 where
  fd : BitVec 5
  fa : BitVec 5
  fb : BitVec 5
  fc : BitVec 5
  ty : BitVec 5
  sc : BitVec 3
  deriving DecidableEq, Repr

/-- Format WI. -/
structure WI where
  fd : BitVec 5
  fa : BitVec 5
  imm : BitVec 18
  deriving DecidableEq, Repr

/-- Format WB. -/
structure WB where
  fa : BitVec 5
  fb : BitVec 5
  ld : BitVec 13
  hd : BitVec 5
  deriving DecidableEq, Repr

/-- Format WJ. -/
structure WJ where
  fd : BitVec 5
  ld : BitVec 18
  hd : BitVec 5
  deriving DecidableEq, Repr

/-- Format WL. -/
structure WL where
  msk : BitVec 3
  ld : BitVec 18
  hd : BitVec 5
  deriving DecidableEq, Repr

/-- The second source of formats WV and LV, by the form field FM (R133). -/
inductive Src2 where
  /-- form 0b00: vector register vb with its chain bit -/
  | vec (vb : BitVec 5) (cb : Bool)
  /-- form 0b01: the s register sb -/
  | scal (sb : BitVec 5)
  /-- form 0b10: IMM32 of LV -/
  | imm (v : BitVec 32)
  /-- form 0b11: popped from dq0 (false) or dq1 (true) -/
  | queue (k : Bool)
  deriving DecidableEq, Repr

/-- Formats WV and LV. -/
structure WV where
  ty : BitVec 5
  msk : BitVec 3
  vd : BitVec 5
  va : BitVec 5
  ca : Bool
  src : Src2
  deriving DecidableEq, Repr

/-- Format WM. -/
structure WM where
  ty : BitVec 5
  msk : BitVec 3
  cv : Bool
  vd : BitVec 5
  sa : BitVec 5
  xb : BitVec 5
  deriving DecidableEq, Repr

/-- Format WX. -/
structure WX where
  ty : BitVec 5
  ad : BitVec 1
  ta : BitVec 2
  tb : BitVec 2
  vs : BitVec 5
  sk : BitVec 5
  msk : BitVec 3
  cv : Bool
  deriving DecidableEq, Repr

/-- Format LI: the immediate is IMMH × 2^23 + IMML. -/
structure LI where
  fd : BitVec 5
  imm : BitVec 55
  deriving DecidableEq, Repr

/-- Format LF: a WM tail with a folio reference above it. -/
structure LF where
  wm : WM
  fh : BitVec 4
  foff : BitVec 22
  deriving DecidableEq, Repr

/-- Format LE. -/
structure LE where
  imm : BitVec 32
  fd : BitVec 5
  fa : BitVec 5
  fb : BitVec 5
  fc : BitVec 5
  sc : BitVec 3
  deriving DecidableEq, Repr

/-- The sequencer flag of R128. -/
inductive SeqFlag where
  | none
  | first (level : Nat)
  | last (level : Nat)
  deriving DecidableEq, Repr

/-- A trap on its way: its class (R435), tval, telem, and whether tval holds a virtual address (R437). -/
structure Trap where
  cls : Nat
  tval : Word
  telem : Nat
  va : Bool
  deriving DecidableEq, Repr

/-- One EG-slice of a core, as the vector sequencer weighs it (R81): the thread slot, the place of its instruction in that thread's
vector queue, the beats it has been issuable, the EGs its instruction has still to issue, and when that entered its queue. -/
structure Slice where
  slot : Nat
  entry : Nat
  waited : Nat
  remaining : Nat
  age : Nat
  deriving DecidableEq, Repr

/-- What Horsil supplies when it maps a page (R436): the leaf entry, its level, and frames for the tables that are missing. -/
structure PageGrant where
  leaf : Word
  level : Nat
  tables : List Nat
  deriving DecidableEq, Repr

/-- What the scrubber found, by owner (R446, R447), or, for `prefetched`, a line fetched ahead that was dropped (R448). `corrected`
names the unit and address of the word, with its owner tag's thread slot where that is a thread context; `correctedCache` and
`correctedFolio` a cached entry or a folio entry that holds the word. -/
inductive ScrubFinding where
  | corrected (unit addr : Nat) (slot : Option Nat)
  | correctedCache (place index addr : Nat)
  | correctedFolio (core entry addr : Nat)
  | thread (core slot : Nat) (addr : Nat)
  | context (uid : Nat) (addr : Nat)
  | prefetched (core slot : Nat) (line : Word)
  | folioEntry (core entry : Nat)
  | memory (pa len : Nat)
  | poolElement (part pool die index : Nat)
  | viewBlock (part handle copy block : Nat)
  | cacheEntry (place index : Nat)
  | horsil
  deriving DecidableEq, Repr

/-- The shared paths of R26, each on one package. -/
inductive Path where
  | bridle (pkg index : Nat) (up : Bool)
  | stack (pkg index : Nat)
  | second (pkg group : Nat)
  | cxl (pkg port : Nat)
  | spar (pkg link : Nat) (out : Bool)
  | fabric (pkg die : Nat)
  deriving DecidableEq, Repr

/-- What led to the re-execution of a slice, the sampling check (R441) or an uncorrectable error (R443), whether it has delivered good
results, and the element that an uncorrectable error lies in. -/
structure LaneCheck where
  sampled : Bool
  repaired : Bool
  elem : Nat
  deriving DecidableEq, Repr

/-- A call of Horsil by a control program or the host (R463): who asks, the control core of the package that serves it (R20; log 33,
DESIGN CHOICE: Horsil works on the core that made the call), the arguments a0 to a3, and what Horsil brings to the work (page frames, frames for
tables, bytes: those that a control program stores, or as many as a certificate has). -/
structure Call where
  part : Nat
  pkg : Nat
  core : Nat
  a0 : Word
  a1 : Word
  a2 : Word
  a3 : Word
  frames : List Nat
  tables : List Nat
  bytes : List Byte
  deriving DecidableEq, Repr

/-- One section entry of a codex's directory (R456): kind, offset and size in the file, count; and the largest alignment that an `.align` in
the section names (R96; 0 for none). -/
structure CodexSection where
  kind : Nat
  offset : Nat
  size : Nat
  count : Nat
  align : Nat
  deriving DecidableEq, Repr

/-- One record of a codex manifest (R457): name, generation, node descriptor (8 words) and folio list (2 words an entry), with the byte offsets
in the manifest section at which they stand (log 27, DESIGN CHOICE: the spec does not lay the records out). -/
structure ManifestRecord where
  name : List Byte
  generation : Nat
  descriptor : List Word
  folios : List (Word × Word)
  nameAt : Nat
  generationAt : Nat
  descriptorAt : Nat
  foliosAt : Nat
  deriving DecidableEq, Repr

/-- A Crela kernel (R459): its operand streams with their direction (true for a store), how many scalar arguments it takes, and
its body as heads with their tails. -/
structure CrelaKernel where
  streams : List (Bool × List Word)
  args : Nat
  body : List (BitVec 16 × BitVec 64)
  deriving DecidableEq, Repr

/-- The frames that Horsil gives a codex on one package: for its data image and its folio lists, and for tables. -/
structure CodexPlace where
  pkg : Nat
  dataFrames : List Nat
  listFrames : List Nat
  tables : List Nat
  deriving DecidableEq, Repr

/-- A codex as it arrives at a package (R456 to R460): the bytes of the file; what they hold, as its directory, its manifest section and its Crela
section say it; and what Horsil chooses at load, the places of the images and folio lists. -/
structure CodexFile where
  pkg : Nat
  bytes : List Byte
  sections : List CodexSection
  manifest : List ManifestRecord
  crela : List CrelaKernel
  codeBase : Word
  dataBase : Word
  listBase : Word
  places : List CodexPlace
  deriving DecidableEq, Repr

/-- A window that Horsil maps for a package's host into a partition's memory (R467). -/
structure HostWindow where
  part : Nat
  va : Word
  size : Nat
  write : Bool
  deriving DecidableEq, Repr

/-- What comes through a package's host port or the work that Horsil does for it (R467): a codex or a service call; an access to BAR0, the mailbox
itself, or through a window, by its number; a window opened or closed; a secret sealed or asked for (R462). Or an access to memory by a control
program on a core of the control cluster (R20): `c` names the core and, in a0, the address. -/
inductive MailboxRequest where
  | codex (part : Nat) (f : CodexFile)
  | service (n : Nat) (c : Call)
  | controlLoad (c : Call) (size : Nat)
  | controlStore (c : Call)
  | barRead (pkg off size : Nat)
  | barWrite (pkg off : Nat) (bytes : List Byte)
  | openWindow (pkg : Nat) (w : HostWindow)
  | closeWindow (pkg index : Nat)
  | hostLoad (pkg index off size : Nat)
  | hostStore (pkg index off : Nat) (bytes : List Byte)
  | seal (pkg : Nat) (secret : List Byte)
  | unseal (pkg index : Nat)
  deriving DecidableEq, Repr

/-- A verifier's request for a quote of a package (R466). -/
structure QuoteAsk where
  pkg : Nat
  nonce : BitVec 256
  deriving DecidableEq, Repr

/-- A codex that a start loads at its step 10 (R464): its partition, its file, whether it is required. -/
structure StartCodex where
  part : Nat
  file : CodexFile
  required : Bool
  deriving DecidableEq, Repr

/-- How the work of one unit of a start step came out on a package (R464): whether it succeeded, the image it loaded, if any, and at step 10 the
next codex, none after the last. -/
structure StartOutcome where
  pkg : Nat
  ok : Bool
  image : List Byte
  signature : List Byte
  codex : Option StartCodex
  deriving DecidableEq, Repr

/-- What Horsil fixes when it creates a partition (R25, R26, R155, R318): slot, quads (package × 96 + quad), translation roots
per package, memory shares (physical bases with numbers of 1 GiB units), reserved units, the catalogue's package, address and size, and the tops and sizes of the private areas of the slots (R152). -/
structure PartitionSpec where
  slot : Nat
  quads : List Nat
  roots : List (Nat × Nat)
  shares : List (Nat × Nat)
  units : List (Path × Nat)
  catPkg : Nat
  catBase : Nat
  catSize : Nat
  stackTops : List (Nat × Word)
  stackSize : Nat
  deriving DecidableEq, Repr

/-- The instructions and the machine steps of the opcode table, one constructor per row (first those with operand fields). An instruction carries the fields
of its format (R126); a row that no encoding names (a step of the hardware, of Horsil, of the boot or of the outside) carries
what that happening brings with it. -/
inductive Instr where
  /-- `SVC`. -/
  | svc (o : QI)
  /-- `MFC`. -/
  | mfc (o : QC)
  /-- `MTC`. -/
  | mtc (o : QC)
  /-- `MTC_TPC`. -/
  | mtcTpc (o : QC)
  /-- `MTC_VTYPE`. -/
  | mtcVtype (o : QC)
  /-- `MTC_VL`. -/
  | mtcVl (o : QC)
  /-- `MTC_FRM`. -/
  | mtcFrm (o : QC)
  /-- `MTC_PBND`. -/
  | mtcPbnd (o : QC)
  /-- `DQPUT`. -/
  | dqput (o : Q3)
  /-- `DQGET`. -/
  | dqget (o : Q3)
  /-- `XQPUT`. -/
  | xqput (o : Q3)
  /-- `XQGET`. -/
  | xqget (o : Q3)
  /-- `BQPUT`. -/
  | bqput (o : Q3)
  /-- `PHASE`. -/
  | phase (sc : Scope)
  /-- `FENCE`. -/
  | fence (sc : Scope)
  /-- `BAR`. -/
  | bar (sc : Scope)
  /-- `ADD`. -/
  | add (o : Q3)
  /-- `SUB`. -/
  | sub (o : Q3)
  /-- `AND`. -/
  | and (o : Q3)
  /-- `OR`. -/
  | or (o : Q3)
  /-- `XOR`. -/
  | xor (o : Q3)
  /-- `SLL`. -/
  | sll (o : Q3)
  /-- `SRL`. -/
  | srl (o : Q3)
  /-- `SRA`. -/
  | sra (o : Q3)
  /-- `SLT`. -/
  | slt (o : Q3)
  /-- `SLTN`. -/
  | sltn (o : Q3)
  /-- `MUL`. -/
  | mul (o : Q3)
  /-- `MULH`. -/
  | mulh (o : Q3)
  /-- `MULHN`. -/
  | mulhn (o : Q3)
  /-- `DIV`. -/
  | div (o : Q3)
  /-- `DIVN`. -/
  | divn (o : Q3)
  /-- `REM`. -/
  | rem (o : Q3)
  /-- `REMN`. -/
  | remn (o : Q3)
  /-- `MIN`. -/
  | min (o : Q3)
  /-- `MAX`. -/
  | max (o : Q3)
  /-- `MINN`. -/
  | minn (o : Q3)
  /-- `MAXN`. -/
  | maxn (o : Q3)
  /-- `POPC`. -/
  | popc (o : Q3)
  /-- `CLZ`. -/
  | clz (o : Q3)
  /-- `CTZ`. -/
  | ctz (o : Q3)
  /-- `FADD`. -/
  | fadd (dbl : Bool) (o : Q3)
  /-- `FSUB`. -/
  | fsub (dbl : Bool) (o : Q3)
  /-- `FMUL`. -/
  | fmul (dbl : Bool) (o : Q3)
  /-- `FDIV`. -/
  | fdiv (dbl : Bool) (o : Q3)
  /-- `FSQRT`. -/
  | fsqrt (dbl : Bool) (o : Q3)
  /-- `FMIN`. -/
  | fmin (dbl : Bool) (o : Q3)
  /-- `FMAX`. -/
  | fmax (dbl : Bool) (o : Q3)
  /-- `FEQ`. -/
  | feq (dbl : Bool) (o : Q3)
  /-- `FLT`. -/
  | flt (dbl : Bool) (o : Q3)
  /-- `FLE`. -/
  | fle (dbl : Bool) (o : Q3)
  /-- `FSGNJ`. -/
  | fsgnj (dbl : Bool) (o : Q3)
  /-- `FMADD`. -/
  | fmadd (o : W4)
  /-- `FMSUB`. -/
  | fmsub (o : W4)
  /-- `FNMADD`. -/
  | fnmadd (o : W4)
  /-- `FNMSUB`. -/
  | fnmsub (o : W4)
  /-- `FCVT`. -/
  | fcvt (o : W4)
  /-- `NSPAWN`. -/
  | nspawn (o : W4)
  /-- `NSPAWN_W`. -/
  | nspawnW (o : W4)
  /-- `ADDI`. -/
  | addi (o : WI)
  /-- `ANDI`. -/
  | andi (o : WI)
  /-- `ORI`. -/
  | ori (o : WI)
  /-- `XORI`. -/
  | xori (o : WI)
  /-- `SLLI`. -/
  | slli (o : WI)
  /-- `SRLI`. -/
  | srli (o : WI)
  /-- `SRAI`. -/
  | srai (o : WI)
  /-- `SLTI`. -/
  | slti (o : WI)
  /-- `SLTNI`. -/
  | sltni (o : WI)
  /-- `LIMM`. -/
  | limm (o : LI)
  /-- `PCADDR`. -/
  | pcaddr (o : WJ)
  /-- `BEQ`. -/
  | beq (o : WB)
  /-- `BNE`. -/
  | bne (o : WB)
  /-- `BLT`. -/
  | blt (o : WB)
  /-- `BGE`. -/
  | bge (o : WB)
  /-- `BLTN`. -/
  | bltn (o : WB)
  /-- `BGEN`. -/
  | bgen (o : WB)
  /-- `JAL`. -/
  | jal (o : WJ)
  /-- `JALR`. -/
  | jalr (o : Q3)
  /-- `BQX`. -/
  | bqx (o : QN)
  /-- `SEQLEV`. -/
  | seqlev (o : W4)
  /-- `SEQBIND`. -/
  | seqbind (o : W4)
  /-- `SEQSTRIDE`. -/
  | seqstride (o : W4)
  /-- `SEQRUN`. -/
  | seqrun (o : W4)
  /-- `SEQHALT`. -/
  | seqhalt (o : W4)
  /-- `LD_S8`. -/
  | ldS8 (o : WI)
  /-- `LD_S16`. -/
  | ldS16 (o : WI)
  /-- `LD_S32`. -/
  | ldS32 (o : WI)
  /-- `LD_S64`. -/
  | ldS64 (o : WI)
  /-- `LD_N8`. -/
  | ldN8 (o : WI)
  /-- `LD_N16`. -/
  | ldN16 (o : WI)
  /-- `LD_N32`. -/
  | ldN32 (o : WI)
  /-- `ST_N8`. -/
  | stN8 (o : WI)
  /-- `ST_N16`. -/
  | stN16 (o : WI)
  /-- `ST_N32`. -/
  | stN32 (o : WI)
  /-- `ST_N64`. -/
  | stN64 (o : WI)
  /-- `LDQ`. -/
  | ldq (o : WI)
  /-- `ATSWAP`. -/
  | atswap (o : W4)
  /-- `ATADD`. -/
  | atadd (o : W4)
  /-- `ATAND`. -/
  | atand (o : W4)
  /-- `ATOR`. -/
  | ator (o : W4)
  /-- `ATXOR`. -/
  | atxor (o : W4)
  /-- `ATMIN`. -/
  | atmin (o : W4)
  /-- `ATMAX`. -/
  | atmax (o : W4)
  /-- `ATMINN`. -/
  | atminn (o : W4)
  /-- `ATMAXN`. -/
  | atmaxn (o : W4)
  /-- `ATCAS`. -/
  | atcas (o : W4)
  /-- `VSTREAM`. -/
  | vstream (o : WM)
  /-- `VSTREAM_ST`. -/
  | vstreamSt (o : WM)
  /-- `VSUNBIND`. -/
  | vsunbind (o : WM)
  /-- `VLD`. -/
  | vld (o : WM)
  /-- `VST`. -/
  | vst (o : WM)
  /-- `VLDS`. -/
  | vlds (o : WM)
  /-- `VSTS`. -/
  | vsts (o : WM)
  /-- `VLDX`. -/
  | vldx (o : WM)
  /-- `VSTX`. -/
  | vstx (o : WM)
  /-- `VLDU`. -/
  | vldu (o : WM)
  /-- `VSTU`. -/
  | vstu (o : WM)
  /-- `VLDBP`. -/
  | vldbp (o : WM)
  /-- `VSTBP`. -/
  | vstbp (o : WM)
  /-- `SLDSC`. -/
  | sldsc (o : WM)
  /-- `SSTSC`. -/
  | sstsc (o : WM)
  /-- `VSPILL`. -/
  | vspill (o : WM)
  /-- `VFILL`. -/
  | vfill (o : WM)
  /-- `VLDF`. -/
  | vldf (o : LF)
  /-- `VSTF`. -/
  | vstf (o : LF)
  /-- `FOLBIND`. -/
  | folbind (o : W4)
  /-- `FOLREL`. -/
  | folrel (o : W4)
  /-- `FOLFILL`. -/
  | folfill (o : W4)
  /-- `FOLDRAIN`. -/
  | foldrain (o : W4)
  /-- `VLD_VIEW`. -/
  | vldView (o : WM)
  /-- `VREG_VIEW`. -/
  | vregView (o : W4)
  /-- `VDROP_VIEW`. -/
  | vdropView (o : W4)
  /-- `VWAIT_VIEW`. -/
  | vwaitView (o : W4)
  /-- `VSETVL`. -/
  | vsetvl (o : W4)
  /-- `VSETTYPE`. -/
  | vsettype (o : W4)
  /-- `VADD`. -/
  | vadd (o : WV)
  /-- `VSUB`. -/
  | vsub (o : WV)
  /-- `VRSUB`. -/
  | vrsub (o : WV)
  /-- `VMUL`. -/
  | vmul (o : WV)
  /-- `VMULH`. -/
  | vmulh (o : WV)
  /-- `VMIN`. -/
  | vmin (o : WV)
  /-- `VMAX`. -/
  | vmax (o : WV)
  /-- `VAND`. -/
  | vand (o : WV)
  /-- `VOR`. -/
  | vor (o : WV)
  /-- `VXOR`. -/
  | vxor (o : WV)
  /-- `VADDS`. -/
  | vadds (o : WV)
  /-- `VSUBS`. -/
  | vsubs (o : WV)
  /-- `VABS`. -/
  | vabs (o : WV)
  /-- `VAVG`. -/
  | vavg (o : WV)
  /-- `VSLL`. -/
  | vsll (o : WV)
  /-- `VSRL`. -/
  | vsrl (o : WV)
  /-- `VSRA`. -/
  | vsra (o : WV)
  /-- `VSRAR`. -/
  | vsrar (o : WV)
  /-- `VSRLR`. -/
  | vsrlr (o : WV)
  /-- `VNSRA`. -/
  | vnsra (o : WV)
  /-- `VFUNL`. -/
  | vfunl (o : WV)
  /-- `VFUNR`. -/
  | vfunr (o : WV)
  /-- `VMAC`. -/
  | vmac (o : WV)
  /-- `VMACS`. -/
  | vmacs (o : WV)
  /-- `VDOT2`. -/
  | vdot2 (o : WV)
  /-- `VDOT2S`. -/
  | vdot2s (o : WV)
  /-- `VDOT4`. -/
  | vdot4 (o : WV)
  /-- `VDOT4S`. -/
  | vdot4s (o : WV)
  /-- `VCEQ`. -/
  | vceq (o : WV)
  /-- `VCNE`. -/
  | vcne (o : WV)
  /-- `VCLT`. -/
  | vclt (o : WV)
  /-- `VCLE`. -/
  | vcle (o : WV)
  /-- `VCGT`. -/
  | vcgt (o : WV)
  /-- `VCGE`. -/
  | vcge (o : WV)
  /-- `MAND`. -/
  | mand (o : WV)
  /-- `MOR`. -/
  | mor (o : WV)
  /-- `MXOR`. -/
  | mxor (o : WV)
  /-- `MNOT`. -/
  | mnot (o : WV)
  /-- `MPOPC`. -/
  | mpopc (o : WV)
  /-- `VSLUP`. -/
  | vslup (o : WV)
  /-- `VSLDN`. -/
  | vsldn (o : WV)
  /-- `VCOMPRESS`. -/
  | vcompress (o : WV)
  /-- `VEXPAND`. -/
  | vexpand (o : WV)
  /-- `VIOTA`. -/
  | viota (o : WV)
  /-- `VGATHER`. -/
  | vgather (o : WV)
  /-- `VMERGE`. -/
  | vmerge (o : WV)
  /-- `VMV`. -/
  | vmv (o : WV)
  /-- `VREDSUM`. -/
  | vredsum (o : WV)
  /-- `VREDSUMS`. -/
  | vredsums (o : WV)
  /-- `VREDMAX`. -/
  | vredmax (o : WV)
  /-- `VREDMIN`. -/
  | vredmin (o : WV)
  /-- `VREDAND`. -/
  | vredand (o : WV)
  /-- `VREDOR`. -/
  | vredor (o : WV)
  /-- `VREDXOR`. -/
  | vredxor (o : WV)
  /-- `VSCAN`. -/
  | vscan (o : WV)
  /-- `VFADD`. -/
  | vfadd (o : WV)
  /-- `VFSUB`. -/
  | vfsub (o : WV)
  /-- `VFMUL`. -/
  | vfmul (o : WV)
  /-- `VFDIV`. -/
  | vfdiv (o : WV)
  /-- `VFSQRT`. -/
  | vfsqrt (o : WV)
  /-- `VFMIN`. -/
  | vfmin (o : WV)
  /-- `VFMAX`. -/
  | vfmax (o : WV)
  /-- `VFABS`. -/
  | vfabs (o : WV)
  /-- `VFNEG`. -/
  | vfneg (o : WV)
  /-- `VFSGNJ`. -/
  | vfsgnj (o : WV)
  /-- `VFMA`. -/
  | vfma (o : WV)
  /-- `VFMS`. -/
  | vfms (o : WV)
  /-- `VFNMA`. -/
  | vfnma (o : WV)
  /-- `VFNMS`. -/
  | vfnms (o : WV)
  /-- `VCVT`. -/
  | vcvt (o : WV)
  /-- `VCVTZ`. -/
  | vcvtz (o : WV)
  /-- `VQUANT`. -/
  | vquant (o : WV)
  /-- `VDEQ`. -/
  | vdeq (o : WV)
  /-- `VFREDSUM`. -/
  | vfredsum (o : WV)
  /-- `VFREDMAX`. -/
  | vfredmax (o : WV)
  /-- `VFREDMIN`. -/
  | vfredmin (o : WV)
  /-- `VFSCAN`. -/
  | vfscan (o : WV)
  /-- `VFRED2`. -/
  | vfred2 (o : WV)
  /-- `VBLK`. -/
  | vblk (o : WJ)
  /-- `LFETCH`. -/
  | lfetch (o : WL)
  /-- `MMODE`. -/
  | mmode (o : WX)
  /-- `MEXIT`. -/
  | mexit (o : WX)
  /-- `TCFG`. -/
  | tcfg (o : WX)
  /-- `TREL`. -/
  | trel (o : WX)
  /-- `TMVR`. -/
  | tmvr (o : WX)
  /-- `TMVC`. -/
  | tmvc (o : WX)
  /-- `TLD`. -/
  | tld (o : WX)
  /-- `TST`. -/
  | tst (o : WX)
  /-- `MOP`. -/
  | mop (o : WX)
  /-- `MOPSP`. -/
  | mopsp (o : WX)
  /-- `MOPNEG`. -/
  | mopneg (o : WX)
  /-- `ACCMV`. -/
  | accmv (o : WX)
  /-- `ACC_PEEK`. -/
  | accPeek (o : WX)
  /-- `ACCZERO`. -/
  | acczero (o : WX)
  /-- `ACCSP`. -/
  | accsp (o : WX)
  /-- `ACCFL`. -/
  | accfl (o : WX)
  /-- `GCVT`. -/
  | gcvt (o : WV)
  /-- `GADD`. -/
  | gadd (o : WV)
  /-- `GSUB`. -/
  | gsub (o : WV)
  /-- `GSCALE`. -/
  | gscale (o : WV)
  /-- `GSETTAG`. -/
  | gsettag (o : WV)
  /-- `GTAGOF`. -/
  | gtagof (o : WV)
  /-- `FNEW`. -/
  | fnew (o : W4)
  /-- `FMOVE`. -/
  | fmove (o : W4)
  /-- `FSPLIT`. -/
  | fsplit (o : W4)
  /-- `FDEL`. -/
  | fdel (o : W4)
  /-- `FDEL_ADOPT`. -/
  | fdelAdopt (o : W4)
  /-- `FDEL_FWD`. -/
  | fdelFwd (o : W4)
  /-- `FRECLAIM`. -/
  | freclaim (o : W4)
  /-- `FREAD`. -/
  | fread (o : W4)
  /-- `XCOPY`. -/
  | xcopy (o : LE)
  /-- `XPUT`. -/
  | xput (o : LE)
  /-- `XPUT_W`. -/
  | xputW (o : LE)
  /-- `XREDUCE`. -/
  | xreduce (o : LE)
  /-- `XCOPY_VIEW`. -/
  | xcopyView (o : LE)
  /-- `ZENC`. -/
  | zenc (o : LE)
  /-- `ZDEC`. -/
  | zdec (o : LE)
  /-- `CBINIT`. -/
  | cbinit (o : LE)
  /-- `CBARRIVE`. -/
  | cbarrive (o : LE)
  /-- `CBWAIT`. -/
  | cbwait (o : LE)
  /-- `CBTEST`. -/
  | cbtest (o : LE)
  /-- `PPUT`. -/
  | pput (o : LE)
  /-- `PTAKE`. -/
  | ptake (o : LE)
  /-- `PTAKE_W`. -/
  | ptakeW (o : LE)
  /-- `PBND`. -/
  | pbnd (o : LE)
  /-- `PSTAT`. -/
  | pstat (o : LE)
  /-- `PDRAIN`. -/
  | pdrain (o : LE)
  /-- `NOP`. -/
  | nop
  /-- `NEND`. -/
  | nend
  /-- `TRET`. -/
  | tret
  /-- `BRK`. -/
  | brk
  /-- `VJOIN`. -/
  | vjoin
  /-- `LSTOP`. -/
  | lstop
  /-- `BARRIER_COMPLETE`. -/
  | barrierComplete (sc : Scope)
  /-- `SPAWN_QUEUE_MADE`. -/
  | spawnQueueMade (die : Nat)
  /-- `LINE_ENTRY`. -/
  | lineEntry
  /-- `STREAM_CHUNK_FILL`. -/
  | streamChunkFill (vd : BitVec 5)
  /-- `STREAM_EG_LANDED`. -/
  | streamEgLanded (vd : BitVec 5) (eg : Nat)
  /-- `FOLIO_FILL_COMPLETE`. -/
  | folioFillComplete (core entry : Nat)
  /-- `FOLIO_FILL_FAULT`. -/
  | folioFillFault (core entry : Nat)
  /-- `FOLIO_DRAIN_COMPLETE`. -/
  | folioDrainComplete (core entry : Nat)
  /-- `LANE_FAULT`. -/
  | laneFault (g : Nat) (tr : Trap)
  /-- `SLICE_ISSUE`. -/
  | sliceIssue (pkg core : Nat)
  /-- `MMODE_GRANT`. -/
  | mmodeGrant (core : Nat)
  /-- `MATRIX_QUEUE_COMPLETE`. -/
  | matrixQueueComplete
  /-- `XCOPY_COMPLETE`. -/
  | xcopyComplete (cmd : Nat)
  /-- `PUT_WAIT_ACCEPT`. -/
  | putWaitAccept (cont : Nat)
  /-- `PUT_SOURCE_READ`. -/
  | putSourceRead (cmd : Nat)
  /-- `PUT_PACKET_LAND`. -/
  | putPacketLand (cmd : Nat) (size : Nat)
  /-- `PUT_COMPLETE`. -/
  | putComplete (cmd : Nat)
  /-- `COLLECTIVE_FORM`. -/
  | collectiveForm (part : Nat) (key : Word)
  /-- `ZCODEC_COMPLETE`. -/
  | zcodecComplete (cmd : Nat)
  /-- `CB_FLIP_OBSERVED`. -/
  | cbFlipObserved (cont : Nat)
  /-- `ROUND_BOUNDARY`. -/
  | roundBoundary (pkg : Nat)
  /-- `POOL_STEAL`. -/
  | poolSteal (steal : Nat)
  /-- `POOL_PUT_WAKE`. -/
  | poolPutWake (part pool : Nat)
  /-- `DISPATCH`. -/
  | dispatch (die : Nat)
  /-- `PRIORITY_AGING`. -/
  | priorityAging (die : Nat)
  /-- `RESUME_LIST_POST`. -/
  | resumeListPost (die : Nat)
  /-- `RESUME_LIST_TAKE`. -/
  | resumeListTake (die : Nat)
  /-- `CONTINUATION_READY`. -/
  | continuationReady (cont : Nat)
  /-- `CROSS_DIE_EDGE`. -/
  | crossDieEdge (launch node : Nat)
  /-- `QUEUE_STALL_TIMEOUT`. -/
  | queueStallTimeout
  /-- `TRAP_ENTRY`. -/
  | trapEntry (tr : Trap)
  /-- `PAGE_FAULT_SERVICE`. -/
  | pageFaultService (grant : Option PageGrant)
  /-- `LANE_REEXECUTE`. -/
  | laneReexecute (lane eg : Nat) (check : LaneCheck)
  /-- `SCRUB`. -/
  | scrub (finding : ScrubFinding)
  /-- `DIE_CACHE_EVICT`. -/
  | dieCacheEvict (die line : Nat)
  /-- `TLB_SHOOTDOWN`. -/
  | tlbShootdown (part pkg : Nat)
  /-- `PAGE_MIGRATION`. -/
  | pageMigration (part pkg : Nat) (va : Word) (newPa : Nat)
  /-- `PAGE_SWITCH`. -/
  | pageSwitch (part pkg : Nat) (va : Word)
  /-- `VIEW_REFRESH_READ`. -/
  | viewRefreshRead (die : Nat)
  /-- `VIEW_REFRESH_PUBLISH`. -/
  | viewRefreshPublish (die : Nat)
  /-- `PATH_ARBITRATION`. -/
  | pathArbitration (path : Path) (demands : List (Nat × Nat))
  /-- `PREEMPT`. -/
  | preempt (uid : Nat) (area : Word)
  /-- `PREEMPT_RESUME`. -/
  | preemptResume (saved quad : Nat)
  /-- `NODE_ENDED`. -/
  | nodeEnded (core slot : Nat)
  /-- `CODE_PAGE_HASH_FAIL`. -/
  | codePageHashFail (part pkg : Nat) (va : Word)
  /-- `TETHER_PEER_END`. -/
  | tetherPeerEnd (part : Nat)
  /-- `VERSION`. -/
  | version (c : Call)
  /-- `LAUNCH`. -/
  | launch (c : Call)
  /-- `WAIT_FOR_LAUNCH`. -/
  | waitForLaunch (c : Call)
  /-- `POOL_CREATE`. -/
  | poolCreate (c : Call)
  /-- `POOL_END`. -/
  | poolEnd (c : Call)
  /-- `TETHER_GRANT`. -/
  | tetherGrant (c : Call)
  /-- `TETHER_REVOKE`. -/
  | tetherRevoke (c : Call)
  /-- `MAP_MEMORY`. -/
  | mapMemory (c : Call)
  /-- `UNMAP`. -/
  | unmap (c : Call)
  /-- `LOG`. -/
  | log (c : Call)
  /-- `ATTESTATION_QUOTE`. -/
  | attestationQuote (c : Call)
  /-- `ENROL_SIGNING_KEY`. -/
  | enrolSigningKey (c : Call)
  /-- `CLEAR_BOOT_RECORD_ALTERNATIVES`. -/
  | clearBootRecordAlternatives (c : Call)
  /-- `UNKNOWN_SERVICE`. -/
  | unknownService (n : BitVec 16) (c : Call)
  /-- `CODEX_LOAD`. -/
  | codexLoad (part : Nat) (f : CodexFile)
  /-- `HOST_MAILBOX_REQUEST`. -/
  | hostMailboxRequest (r : MailboxRequest)
  /-- `QUOTE_REQUEST`. -/
  | quoteRequest (q : QuoteAsk)
  /-- `PACKAGE_START`. -/
  | packageStart (o : StartOutcome)
  /-- `POWER_LOSS`. -/
  | powerLoss
  /-- `XCOPY_VIEW_COMPLETE`. -/
  | xcopyViewComplete (cmd : Nat)
  /-- `PARTITION_CREATE`. -/
  | partitionCreate (p : PartitionSpec)
  /-- `PARTITION_RESIZE`. -/
  | partitionResize (part : Nat) (path : Path) (units : Nat)
  /-- `DEBUG_STEP`. -/
  | debugStep
  deriving DecidableEq, Repr

end Sys2Proof
end

