-- ==== Sys2Proof/Machine/Fields.lean ====
section
/-! DEFINITION. The static rules of instruction fields (R125 to R137 and the entries): which type codes, forms, register
numbers, scopes and immediates each instruction admits. What depends on the machine's state is checked by the meanings. -/

namespace Sys2Proof.Machine

/-- The integer type codes s8 to n64 (R31). -/
def isInt (ty : Nat) : Bool := decide (ty ≤ 0x07)

/-- fp16, bf16, fp32, fp64: the types floating-point arithmetic admits (R31, R258). -/
def isFp (ty : Nat) : Bool := decide (0x0A ≤ ty ∧ ty ≤ 0x0D)

/-- Any floating-point storage format, fp8 included (R31). -/
def isFloat (ty : Nat) : Bool := decide (0x08 ≤ ty ∧ ty ≤ 0x0D)

/-- bfp2 to bfp8 (R31). -/
def isBfp (ty : Nat) : Bool := decide (0x10 ≤ ty ∧ ty ≤ 0x16)

/-- A type code that R31 does not reserve. -/
def typeValid (ty : Nat) : Bool := decide (ty ≤ 0x0E) || isBfp ty

/-- The types of the permutations that move bit patterns (R238). -/
def moveTy (ty : Nat) : Bool := typeValid ty

/-- The types of plain vector memory instructions (R205). -/
def plainTy (ty : BitVec 5) : Bool := decide (ty.toNat ≤ 0x0E)

/-- The types of atomics (R222). -/
def atomicTy (ty : BitVec 5) : Bool := ty == 2 || ty == 3 || ty == 6 || ty == 7

/-- A scope from .core to .pod (R130, R222, R221). -/
def atomicSc (sc : BitVec 3) : Bool := decide (1 ≤ sc.toNat ∧ sc.toNat ≤ 5)

/-- The formats a view may have (R408). -/
def viewTy (ty : Nat) : Bool := decide (0x08 ≤ ty ∧ ty ≤ 0x0B) || isBfp ty

/-- The types of matrix modes and tiles (R293, R303). -/
def modeTy (ty : Nat) : Bool := isFp ty || isBfp ty

/-- The types a tile row or column may be moved in (R305, R306). -/
def tileMoveTy (ty : Nat) : Bool := isFloat ty || isBfp ty

/-- Every control register of R186. -/
def crnDefined (c : Nat) : Bool :=
  decide (c ≤ 0x005 ∨ (0x010 ≤ c ∧ c ≤ 0x012) ∨ (0x020 ≤ c ∧ c ≤ 0x023) ∨ (0x030 ≤ c ∧ c ≤ 0x033) ∨
    (0x040 ≤ c ∧ c ≤ 0x046) ∨ (0x050 ≤ c ∧ c ≤ 0x051) ∨ (0x060 ≤ c ∧ c ≤ 0x065) ∨ (0x070 ≤ c ∧ c ≤ 0x075))

/-- The registers that the plain `mtc` row writes: those of access RW in R186 without the ones that have a row of their own. -/
def crnPlain (c : Nat) : Bool :=
  decide (c = 0x003 ∨ c = 0x004 ∨ c = 0x011 ∨ c = 0x012 ∨ (0x020 ≤ c ∧ c ≤ 0x023) ∨ c = 0x040 ∨
    (0x042 ≤ c ∧ c ≤ 0x044) ∨ c = 0x046 ∨ c = 0x050 ∨ c = 0x051)

/-- The execute-side registers of R187. -/
def executeSide (c : Nat) : Bool :=
  decide (c ≤ 0x005 ∨ (0x010 ≤ c ∧ c ≤ 0x012) ∨ (0x020 ≤ c ∧ c ≤ 0x023))

/-- A W4 tail with TY and SC zero. -/
def w4Zero (o : W4) : Bool := o.ty == 0 && o.sc == 0

def isImm : Src2 → Bool
  | .imm _ => true
  | .vec _ _ | .scal _ | .queue _ => false

def isVec : Src2 → Bool
  | .vec _ _ => true
  | .imm _ | .scal _ | .queue _ => false

/-- Form 0b00 with VB = 0 and CB = 0: an instruction without second source. -/
def noSrc : Src2 → Bool
  | .vec vb cb => vb == 0 && !cb
  | .imm _ | .scal _ | .queue _ => false

/-- Form 0b00 whose VB holds a number up to `n` with no chain: a type code or a scale register. -/
def numSrc (n : Nat) : Src2 → Bool
  | .vec vb cb => decide (vb.toNat ≤ n) && !cb
  | .imm _ | .scal _ | .queue _ => false

/-- A mask register as second source (R248). -/
def maskSrc : Src2 → Bool := numSrc 7

/-- A mask register as destination (R132). -/
def maskDest (vd : BitVec 5) : Bool := decide (1 ≤ vd.toNat ∧ vd.toNat ≤ 7)

/-- The limits that R133 and R134 put on the form by type. -/
def formOk (ty : Nat) : Src2 → Bool
  | .vec _ _ => true
  | .scal _ | .queue _ => decide (ty ≤ 0x0D)
  | .imm v => isInt ty || ty == 0x0C || ty == 0x0D || ((ty == 0x0A || ty == 0x0B) && decide (v.toNat < 2 ^ 16))

/-- The fields of WX beside TY that are not marked 0 in R316: AD, TA, TB, VS, SK; MK and CV are zero. -/
def wxOnly (o : WX) (ad ta tb vs sk : Bool) : Bool :=
  (ad || o.ad == 0) && (ta || o.ta == 0) && (tb || o.tb == 0) && (vs || o.vs == 0) && (sk || o.sk == 0) &&
    o.msk == 0 && !o.cv

/-- The scale operands of mop: registers 0 to 15 in BFPm types, zero otherwise (R309). -/
def scaleOps (o : WX) : Bool :=
  if isBfp o.ty.toNat then decide (o.vs.toNat ≤ 15) && decide (o.sk.toNat ≤ 15) else o.vs == 0 && o.sk == 0

/-- R426: no two of ptake's destinations name one register other than s0. -/
def destsApart (o : LE) : Bool :=
  (o.fd == 0 || (o.fd != o.fb && o.fd != o.fc)) && (o.fb == 0 || o.fb != o.fc)

/-- The static field rules of every encoded instruction, by its entry: true when the fields are ones the entry admits
(R125 to R137, R141 and the entries). Steps without an encoding have no fields to check. An XB above 7 of vstream or vstream.st is refused here,
so with the old binding kept and the descriptor not read: R217 lists it among the checks that follow those, R132 and R141 make it illegal at
issue (log 19, DESIGN CHOICE). tcfg's TY is judged by its entry (R304). -/
def fieldsOk : Instr → Bool
  | .mfc o => crnDefined o.crn.toNat
  | .mtc o => crnPlain o.crn.toNat
  | .mtcTpc o => o.crn == 0x041
  | .mtcVtype o => o.crn == 0x000
  | .mtcVl o => o.crn == 0x001
  | .mtcFrm o => o.crn == 0x010
  | .mtcPbnd o => decide (0x030 ≤ o.crn.toNat ∧ o.crn.toNat ≤ 0x033)
  | .dqput o => decide (o.fd.toNat ≤ 1) && o.fb == 0
  | .dqget o => (o.fa == 2 || o.fa == 3) && o.fb == 0
  | .xqput o => o.fd == 2 || o.fd == 3
  | .xqget o => decide (o.fa.toNat ≤ 1)
  | .bqput o => o.fd == 0 && o.fb == 0
  | .phase sc | .fence sc | .bar sc => sc != .lane
  | .popc o | .clz o | .ctz o | .jalr o => o.fb == 0
  | .fsqrt _ o => o.fb == 0
  | .fmadd o | .fmsub o | .fnmadd o | .fnmsub o => (o.ty == 0x0C || o.ty == 0x0D) && o.sc == 0
  | .fcvt o => decide (o.ty.toNat ≤ 0x0D) && decide (o.fc.toNat ≤ 0x0D) && o.fb == 0 && o.sc == 0
  | .nspawn o | .nspawnW o => o.fc == 0 && o.ty == 0 && o.sc == 0
  | .slli o | .srli o | .srai o => decide (o.imm.toNat < 64)
  | .bqx o => o.cnt != 0
  | .seqlev o => w4Zero o && o.fd == 0 && o.fb == 0 && decide (o.fc.toNat ≤ 5)
  | .seqbind o => w4Zero o && o.fd == 0 && o.fa != 0 && o.fb == 0 && decide (o.fc.toNat ≤ 7)
  | .seqstride o => w4Zero o && o.fd == 0 && decide (o.fb.toNat ≤ 7) && decide (o.fc.toNat ≤ 5)
  | .seqrun o => w4Zero o && o.fa == 0 && o.fb == 0 && decide (1 ≤ o.fc.toNat ∧ o.fc.toNat ≤ 6)
  | .seqhalt o => w4Zero o && o.fd == 0 && o.fa == 0 && o.fb == 0 && o.fc == 0
  | .ldq o => decide (o.fd.toNat ≤ 1)
  | .atswap o | .atadd o | .atand o | .ator o | .atxor o => atomicTy o.ty && atomicSc o.sc && o.fc == 0
  | .atmin o | .atmax o => (o.ty == 2 || o.ty == 3) && atomicSc o.sc && o.fc == 0
  | .atminn o | .atmaxn o => (o.ty == 6 || o.ty == 7) && atomicSc o.sc && o.fc == 0
  | .atcas o => atomicTy o.ty && atomicSc o.sc
  | .vstream o | .vstreamSt o => o.ty == 0 && o.msk == 0 && !o.cv && decide (o.xb.toNat ≤ 7)
  | .vsunbind o => o.ty == 0 && o.msk == 0 && !o.cv && o.sa == 0 && o.xb == 0
  | .vld o => plainTy o.ty && o.xb == 0 && !o.cv
  | .vst o => plainTy o.ty && o.xb == 0
  | .vlds o => plainTy o.ty && !o.cv
  | .vsts o | .vldx o | .vstx o => plainTy o.ty
  | .vldu o => decide (o.ty.toNat ≤ 0x0D) && o.xb == 0 && !o.cv
  | .vstu o => decide (o.ty.toNat ≤ 0x0D) && o.xb == 0
  | .vldbp o => isBfp o.ty.toNat && o.xb == 0 && !o.cv
  | .vstbp o => isBfp o.ty.toNat && o.xb == 0
  | .sldsc o | .sstsc o => o.ty == 0 && o.msk == 0 && !o.cv && decide (o.vd.toNat ≤ 15)
  | .vspill o => o.ty == 0 && o.msk == 0 && o.xb == 0
  | .vfill o => o.ty == 0 && o.msk == 0 && o.xb == 0 && !o.cv
  | .vldf o => plainTy o.wm.ty && !o.wm.cv
  | .vstf o => plainTy o.wm.ty
  | .folbind o => o.fd == 0 && o.fb == 0 && decide (o.fc.toNat ≤ 15) && o.ty == 0 && o.sc == 0
  | .folrel o | .foldrain o => o.fd == 0 && o.fb == 0 && decide (o.fc.toNat ≤ 15) && o.ty == 0 && o.fa == 0 && atomicSc o.sc
  | .folfill o => o.fd == 0 && o.fb == 0 && decide (o.fc.toNat ≤ 15) && o.ty == 0 && o.fa == 0 && o.sc == 0
  | .vldView o => viewTy o.ty.toNat && !o.cv
  | .vregView o | .vdropView o => w4Zero o && o.fb == 0 && o.fc == 0
  | .vwaitView o => w4Zero o && decide (o.fc.toNat ≤ 1)
  | .vsetvl o => w4Zero o && o.fd == 0 && o.fb == 0 && o.fc == 0
  | .vsettype o => decide (o.fd.toNat ≤ 15) && decide (o.fa.toNat ≤ 3) && decide (o.fb.toNat ≤ 3) && o.fc == 0 && o.sc == 0 && typeValid o.ty.toNat
  | .vadd o | .vsub o | .vrsub o | .vmul o | .vmulh o | .vmin o | .vmax o | .vand o | .vor o | .vxor o
  | .vadds o | .vsubs o | .vavg o | .vsll o | .vsrl o | .vsra o | .vsrar o | .vsrlr o | .vfunl o | .vfunr o => isInt o.ty.toNat
  | .vabs o => isInt o.ty.toNat && noSrc o.src
  | .vnsra o => isInt o.ty.toNat && o.ty != 0 && o.ty != 4
  | .vmac o | .vmacs o | .vdot2 o | .vdot2s o => isInt o.ty.toNat && o.ty != 3 && o.ty != 7 && !isImm o.src
  | .vdot4 o | .vdot4s o => (o.ty == 0 || o.ty == 1 || o.ty == 4 || o.ty == 5) && !isImm o.src
  | .vceq o | .vcne o | .vclt o | .vcle o | .vcgt o | .vcge o => (isInt o.ty.toNat || isFp o.ty.toNat) && !isImm o.src && maskDest o.vd
  | .mand o | .mor o | .mxor o => o.ty == 0 && o.msk == 0 && !o.ca && maskDest o.vd && decide (o.va.toNat ≤ 7) && maskSrc o.src
  | .mnot o => o.ty == 0 && o.msk == 0 && !o.ca && maskDest o.vd && decide (o.va.toNat ≤ 7) && noSrc o.src
  | .mpopc o => o.ty == 0 && !o.ca && decide (o.va.toNat ≤ 7) && noSrc o.src
  | .vslup o | .vsldn o | .vgather o | .vmerge o => moveTy o.ty.toNat && formOk o.ty.toNat o.src
  | .vcompress o | .vexpand o => moveTy o.ty.toNat && noSrc o.src
  | .viota o => isInt o.ty.toNat && o.va == 0 && !o.ca && noSrc o.src
  | .vmv o => moveTy o.ty.toNat && o.va == 0 && !o.ca && formOk o.ty.toNat o.src
  | .vredsum o | .vredsums o | .vredmax o | .vredmin o | .vredand o | .vredor o | .vredxor o | .vscan o => isInt o.ty.toNat && !isImm o.src
  | .vfadd o | .vfsub o | .vfmul o | .vfdiv o | .vfmin o | .vfmax o | .vfsgnj o | .vfma o | .vfms o | .vfnma o
  | .vfnms o => isFp o.ty.toNat && formOk o.ty.toNat o.src
  | .vfsqrt o | .vfabs o | .vfneg o => isFp o.ty.toNat && noSrc o.src
  | .vcvt o | .vcvtz o => decide (o.ty.toNat ≤ 0x0D) && numSrc 0x0D o.src
  | .vquant o | .vdeq o => isBfp o.ty.toNat && numSrc 15 o.src
  | .vfredsum o | .vfredmax o | .vfredmin o | .vfscan o => isFp o.ty.toNat && !isImm o.src
  | .vfred2 o => (o.ty == 0x0C || o.ty == 0x0D) && isVec o.src
  | .vblk o => o.fd == 0
  | .mmode o => modeTy o.ty.toNat && wxOnly o false false false false false
  | .mexit o => o.ty == 0 && wxOnly o false false false false false
  | .tcfg o => wxOnly o false true false false true
  | .trel o => o.ty == 0 && wxOnly o false true false false false
  | .tmvr o => tileMoveTy o.ty.toNat && o.ad == 0 && o.tb == 0 && o.msk == 0
  | .tmvc o => tileMoveTy o.ty.toNat && wxOnly o false true false true true
  | .tld o | .tst o => modeTy o.ty.toNat && wxOnly o false true false true true
  | .mop o | .mopneg o => modeTy o.ty.toNat && scaleOps o && o.msk == 0 && !o.cv
  | .mopsp o => modeTy o.ty.toNat && scaleOps o && o.msk != 0 && !o.cv
  | .accmv o | .accPeek o => isFp o.ty.toNat && wxOnly o true false false true true
  | .acczero o => o.ty == 0 && wxOnly o true false false false false
  | .accsp o | .accfl o => o.ty == 0 && wxOnly o true false false false true
  | .gcvt o | .gadd o | .gsub o | .gscale o | .gsettag o => o.ty == 0x0E && isVec o.src
  | .gtagof o => o.ty == 0x0E && noSrc o.src
  | .fnew o | .fsplit o | .fdelAdopt o => o.ty == 0 && decide (2 ≤ o.sc.toNat ∧ o.sc.toNat ≤ 5)
  | .fmove o => o.ty == 0 && decide (2 ≤ o.sc.toNat ∧ o.sc.toNat ≤ 5) && o.fc == 0
  | .fdel o | .fdelFwd o | .freclaim o => o.ty == 0 && decide (2 ≤ o.sc.toNat ∧ o.sc.toNat ≤ 5) && o.fb == 0 && o.fc == 0
  | .fread o => o.ty == 0 && o.sc == 0 && o.fc == 0
  | .xcopy o | .xput o | .xputW o | .xreduce o | .xcopyView o => o.fb == 0 && o.sc == 0 && o.imm == 0
  | .zenc o | .zdec o => o.sc == 0 && decide (o.imm.toNat < 4096)
  | .cbinit o => o.fd == 0 && o.sc == 0 && o.imm == 0
  | .cbarrive o | .cbtest o => o.fc == 0 && o.sc == 0 && o.imm == 0
  | .cbwait o => o.fc == 0 && o.sc == 0 && decide (o.imm.toNat ≤ 1)
  | .pput o => o.sc == 0 && o.imm == 0
  | .ptake o | .ptakeW o => o.sc == 0 && decide (o.imm.toNat ≤ 3) && destsApart o
  | .pbnd o => o.fd == 0 && o.fb == 0 && o.fc == 0 && o.sc == 0 && decide (o.imm.toNat ≤ 3)
  | .pstat o => o.fb == 0 && o.fc == 0 && o.sc == 0 && decide (o.imm.toNat ≤ 3)
  | .pdrain o => o.fb == 0 && o.fc == 0 && o.sc == 0 && decide (o.imm.toNat ≤ 2)
  | .svc _ | .add _ | .sub _ | .and _ | .or _ | .xor _ | .sll _ | .srl _ | .sra _ | .slt _ | .sltn _ | .mul _
  | .mulh _ | .mulhn _ | .div _ | .divn _ | .rem _ | .remn _ | .min _ | .max _ | .minn _ | .maxn _ | .fadd _ _
  | .fsub _ _ | .fmul _ _ | .fdiv _ _ | .fmin _ _ | .fmax _ _ | .feq _ _ | .flt _ _ | .fle _ _ | .fsgnj _ _
  | .addi _ | .andi _ | .ori _ | .xori _ | .slti _ | .sltni _ | .limm _ | .pcaddr _ | .beq _ | .bne _ | .blt _
  | .bge _ | .bltn _ | .bgen _ | .jal _ | .ldS8 _ | .ldS16 _ | .ldS32 _ | .ldS64 _ | .ldN8 _ | .ldN16 _
  | .ldN32 _ | .stN8 _ | .stN16 _ | .stN32 _ | .stN64 _ | .lfetch _ | .nop | .nend | .tret | .brk | .vjoin
  | .lstop | .barrierComplete _ | .spawnQueueMade _ | .lineEntry | .streamChunkFill _ | .streamEgLanded _ _
  | .folioFillComplete _ _ | .folioFillFault _ _ | .folioDrainComplete _ _ | .laneFault _ _ | .sliceIssue _ _
  | .mmodeGrant _ | .matrixQueueComplete | .xcopyComplete _ | .putWaitAccept _ | .putSourceRead _
  | .putPacketLand _ _ | .putComplete _ | .collectiveForm _ _ | .zcodecComplete _ | .cbFlipObserved _
  | .roundBoundary _ | .poolSteal _ | .poolPutWake _ _ | .dispatch _ | .priorityAging _ | .resumeListPost _
  | .resumeListTake _ | .continuationReady _ | .crossDieEdge _ _ | .queueStallTimeout | .trapEntry _
  | .pageFaultService _ | .laneReexecute _ _ _ | .scrub _ | .dieCacheEvict _ _ | .tlbShootdown _ _
  | .pageMigration _ _ _ _ | .pageSwitch _ _ _ | .viewRefreshRead _ | .viewRefreshPublish _
  | .pathArbitration _ _ | .preempt _ _ | .preemptResume _ _ | .nodeEnded _ _ | .codePageHashFail _ _ _
  | .tetherPeerEnd _ | .version _ | .launch _ | .waitForLaunch _ | .poolCreate _ | .poolEnd _ | .tetherGrant _
  | .tetherRevoke _ | .mapMemory _ | .unmap _ | .log _ | .attestationQuote _ | .enrolSigningKey _
  | .clearBootRecordAlternatives _ | .unknownService _ _ | .codexLoad _ _ | .hostMailboxRequest _
  | .quoteRequest _ | .packageStart _ | .powerLoss | .xcopyViewComplete _ | .partitionCreate _
  | .partitionResize _ _ _ | .debugStep => true

/-- The stream class of R138, R139; `step` is a happening that no stream issues. -/
inductive StreamClass where
  | access | execute | both | step
  deriving DecidableEq, Repr

/-- The stream an instruction belongs to (R139); moves to the execute-side registers of R187 are of the execute stream. -/
def streamOf : Instr → StreamClass
  | .mtc o => if executeSide o.crn.toNat then .execute else .access
  | .svc _ | .mfc _ | .mtcTpc _ | .mtcPbnd _ | .dqput _ | .dqget _ | .bqput _ | .add _ | .sub _ | .and _
  | .or _ | .xor _ | .sll _ | .srl _ | .sra _ | .slt _ | .sltn _ | .mul _ | .mulh _ | .mulhn _ | .div _
  | .divn _ | .rem _ | .remn _ | .min _ | .max _ | .minn _ | .maxn _ | .popc _ | .clz _ | .ctz _ | .nspawn _
  | .nspawnW _ | .addi _ | .andi _ | .ori _ | .xori _ | .slli _ | .srli _ | .srai _ | .slti _ | .sltni _
  | .limm _ | .pcaddr _ | .beq _ | .bne _ | .blt _ | .bge _ | .bltn _ | .bgen _ | .jal _ | .jalr _ | .seqlev _
  | .seqbind _ | .seqstride _ | .seqrun _ | .seqhalt _ | .ldS8 _ | .ldS16 _ | .ldS32 _ | .ldS64 _ | .ldN8 _
  | .ldN16 _ | .ldN32 _ | .stN8 _ | .stN16 _ | .stN32 _ | .stN64 _ | .ldq _ | .atswap _ | .atadd _ | .atand _
  | .ator _ | .atxor _ | .atmin _ | .atmax _ | .atminn _ | .atmaxn _ | .atcas _ | .vstream _ | .vstreamSt _
  | .vsunbind _ | .folbind _ | .folrel _ | .folfill _ | .foldrain _ | .vregView _ | .vdropView _
  | .vwaitView _ | .xcopy _ | .xput _ | .xputW _ | .xreduce _ | .xcopyView _ | .zenc _ | .zdec _ | .cbinit _
  | .cbarrive _ | .cbwait _ | .cbtest _ | .pput _ | .ptake _ | .ptakeW _ | .pbnd _ | .pstat _ | .pdrain _
  | .nop => .access
  | .mtcVtype _ | .mtcVl _ | .mtcFrm _ | .xqput _ | .xqget _ | .fadd _ _ | .fsub _ _ | .fmul _ _ | .fdiv _ _
  | .fsqrt _ _ | .fmin _ _ | .fmax _ _ | .feq _ _ | .flt _ _ | .fle _ _ | .fsgnj _ _ | .fmadd _ | .fmsub _
  | .fnmadd _ | .fnmsub _ | .fcvt _ | .bqx _ | .vld _ | .vst _ | .vlds _ | .vsts _ | .vldx _ | .vstx _
  | .vldu _ | .vstu _ | .vldbp _ | .vstbp _ | .sldsc _ | .sstsc _ | .vspill _ | .vfill _ | .vldf _ | .vstf _
  | .vldView _ | .vsetvl _ | .vsettype _ | .vadd _ | .vsub _ | .vrsub _ | .vmul _ | .vmulh _ | .vmin _
  | .vmax _ | .vand _ | .vor _ | .vxor _ | .vadds _ | .vsubs _ | .vabs _ | .vavg _ | .vsll _ | .vsrl _
  | .vsra _ | .vsrar _ | .vsrlr _ | .vnsra _ | .vfunl _ | .vfunr _ | .vmac _ | .vmacs _ | .vdot2 _ | .vdot2s _
  | .vdot4 _ | .vdot4s _ | .vceq _ | .vcne _ | .vclt _ | .vcle _ | .vcgt _ | .vcge _ | .mand _ | .mor _
  | .mxor _ | .mnot _ | .mpopc _ | .vslup _ | .vsldn _ | .vcompress _ | .vexpand _ | .viota _ | .vgather _
  | .vmerge _ | .vmv _ | .vredsum _ | .vredsums _ | .vredmax _ | .vredmin _ | .vredand _ | .vredor _
  | .vredxor _ | .vscan _ | .vfadd _ | .vfsub _ | .vfmul _ | .vfdiv _ | .vfsqrt _ | .vfmin _ | .vfmax _
  | .vfabs _ | .vfneg _ | .vfsgnj _ | .vfma _ | .vfms _ | .vfnma _ | .vfnms _ | .vcvt _ | .vcvtz _ | .vquant _
  | .vdeq _ | .vfredsum _ | .vfredmax _ | .vfredmin _ | .vfscan _ | .vfred2 _ | .vblk _ | .lfetch _ | .mmode _
  | .mexit _ | .tcfg _ | .trel _ | .tmvr _ | .tmvc _ | .tld _ | .tst _ | .mop _ | .mopsp _ | .mopneg _
  | .accmv _ | .accPeek _ | .acczero _ | .accsp _ | .accfl _ | .gcvt _ | .gadd _ | .gsub _ | .gscale _
  | .gsettag _ | .gtagof _ | .fnew _ | .fmove _ | .fsplit _ | .fdel _ | .fdelAdopt _ | .fdelFwd _
  | .freclaim _ | .fread _ | .vjoin | .lstop => .execute
  | .phase _ | .fence _ | .bar _ | .nend | .tret | .brk => .both
  | .barrierComplete _ | .spawnQueueMade _ | .lineEntry | .streamChunkFill _ | .streamEgLanded _ _
  | .folioFillComplete _ _ | .folioFillFault _ _ | .folioDrainComplete _ _ | .laneFault _ _ | .sliceIssue _ _
  | .mmodeGrant _ | .matrixQueueComplete | .xcopyComplete _ | .putWaitAccept _ | .putSourceRead _
  | .putPacketLand _ _ | .putComplete _ | .collectiveForm _ _ | .zcodecComplete _ | .cbFlipObserved _
  | .roundBoundary _ | .poolSteal _ | .poolPutWake _ _ | .dispatch _ | .priorityAging _ | .resumeListPost _
  | .resumeListTake _ | .continuationReady _ | .crossDieEdge _ _ | .queueStallTimeout | .trapEntry _
  | .pageFaultService _ | .laneReexecute _ _ _ | .scrub _ | .dieCacheEvict _ _ | .tlbShootdown _ _
  | .pageMigration _ _ _ _ | .pageSwitch _ _ _ | .viewRefreshRead _ | .viewRefreshPublish _
  | .pathArbitration _ _ | .preempt _ _ | .preemptResume _ _ | .nodeEnded _ _ | .codePageHashFail _ _ _
  | .tetherPeerEnd _ | .version _ | .launch _ | .waitForLaunch _ | .poolCreate _ | .poolEnd _ | .tetherGrant _
  | .tetherRevoke _ | .mapMemory _ | .unmap _ | .log _ | .attestationQuote _ | .enrolSigningKey _
  | .clearBootRecordAlternatives _ | .unknownService _ _ | .codexLoad _ _ | .hostMailboxRequest _
  | .quoteRequest _ | .packageStart _ | .powerLoss | .xcopyViewComplete _ | .partitionCreate _
  | .partitionResize _ _ _ | .debugStep => .step

/-- The s register of form 0b01. -/
def scalReg : Src2 → List (BitVec 5)
  | .scal sb => [sb]
  | .vec _ _ | .imm _ | .queue _ => []

/-- The s registers an instruction reads as sources; an execute-stream instruction has them captured (R133, R163). -/
def readsS : Instr → List (BitVec 5)
  | .svc _ => [10, 11, 12, 13, 14, 15]
  | .mtc o | .mtcTpc o | .mtcVtype o | .mtcVl o | .mtcFrm o | .mtcPbnd o => [o.fd]
  | .dqput o | .bqput o | .add o | .sub o | .and o | .or o | .xor o | .sll o | .srl o | .sra o | .slt o
  | .sltn o | .mul o | .mulh o | .mulhn o | .div o | .divn o | .rem o | .remn o | .min o | .max o | .minn o
  | .maxn o | .popc o | .clz o | .ctz o | .jalr o => [o.fa, o.fb]
  | .fadd _ o | .fsub _ o | .fmul _ o | .fdiv _ o | .fsqrt _ o | .fmin _ o | .fmax _ o | .feq _ o | .flt _ o
  | .fle _ o | .fsgnj _ o => [o.fa, o.fb]
  | .fmadd o | .fmsub o | .fnmadd o | .fnmsub o | .atswap o | .atadd o | .atand o | .ator o | .atxor o
  | .atmin o | .atmax o | .atminn o | .atmaxn o | .atcas o | .fnew o | .fmove o | .fsplit o | .fdel o
  | .fdelAdopt o | .fdelFwd o | .freclaim o | .fread o => [o.fa, o.fb, o.fc]
  | .fcvt o | .seqlev o | .seqbind o | .seqstride o | .folbind o | .vregView o | .vdropView o | .vsetvl o => [o.fa]
  | .nspawn o | .nspawnW o | .vwaitView o => [o.fa, o.fb]
  | .addi o | .andi o | .ori o | .xori o | .slli o | .srli o | .srai o | .slti o | .sltni o | .ldS8 o
  | .ldS16 o | .ldS32 o | .ldS64 o | .ldN8 o | .ldN16 o | .ldN32 o | .ldq o => [o.fa]
  | .beq o | .bne o | .blt o | .bge o | .bltn o | .bgen o => [o.fa, o.fb]
  | .stN8 o | .stN16 o | .stN32 o | .stN64 o => [o.fa, o.fd]
  | .vstream o | .vstreamSt o | .vsunbind o | .vld o | .vst o | .vldx o | .vstx o | .vldu o | .vstu o
  | .vldbp o | .vstbp o | .vspill o | .vfill o => [o.sa]
  | .vlds o | .vsts o | .sldsc o | .sstsc o | .vldView o => [o.sa, o.xb]
  | .vldf o | .vstf o => [o.wm.sa, o.wm.xb]
  | .vadd o | .vsub o | .vrsub o | .vmul o | .vmulh o | .vmin o | .vmax o | .vand o | .vor o | .vxor o
  | .vadds o | .vsubs o | .vabs o | .vavg o | .vsll o | .vsrl o | .vsra o | .vsrar o | .vsrlr o | .vnsra o
  | .vfunl o | .vfunr o | .vmac o | .vmacs o | .vdot2 o | .vdot2s o | .vdot4 o | .vdot4s o | .vceq o | .vcne o
  | .vclt o | .vcle o | .vcgt o | .vcge o | .mand o | .mor o | .mxor o | .mnot o | .mpopc o | .vslup o
  | .vsldn o | .vcompress o | .vexpand o | .viota o | .vgather o | .vmerge o | .vmv o | .vredsum o
  | .vredsums o | .vredmax o | .vredmin o | .vredand o | .vredor o | .vredxor o | .vscan o | .vfadd o
  | .vfsub o | .vfmul o | .vfdiv o | .vfsqrt o | .vfmin o | .vfmax o | .vfabs o | .vfneg o | .vfsgnj o
  | .vfma o | .vfms o | .vfnma o | .vfnms o | .vcvt o | .vcvtz o | .vquant o | .vdeq o | .vfredsum o
  | .vfredmax o | .vfredmin o | .vfscan o | .vfred2 o | .gcvt o | .gadd o | .gsub o | .gscale o | .gsettag o
  | .gtagof o => scalReg o.src
  | .vblk _ => (List.range 32).map (BitVec.ofNat 5)
  | .tcfg o | .tmvr o | .tmvc o | .accmv o | .accPeek o | .accsp o | .accfl o => [o.sk]
  | .tld o | .tst o => [o.sk, o.vs]
  | .xcopy o | .xput o | .xputW o | .xreduce o | .xcopyView o => [o.fa, o.fc]
  | .zenc o | .zdec o | .cbinit o | .cbarrive o | .cbwait o | .cbtest o | .pput o => [o.fa, o.fb, o.fc]
  | .ptake o | .ptakeW o | .pbnd o | .pstat o | .pdrain o => [o.fa]
  | .mfc _ | .dqget _ | .xqput _ | .xqget _ | .phase _ | .fence _ | .bar _ | .limm _ | .pcaddr _ | .jal _
  | .bqx _ | .seqrun _ | .seqhalt _ | .folrel _ | .folfill _ | .foldrain _ | .vsettype _ | .lfetch _
  | .mmode _ | .mexit _ | .trel _ | .mop _ | .mopsp _ | .mopneg _ | .acczero _ | .nop | .nend | .tret | .brk
  | .vjoin | .lstop | .barrierComplete _ | .spawnQueueMade _ | .lineEntry | .streamChunkFill _
  | .streamEgLanded _ _ | .folioFillComplete _ _ | .folioFillFault _ _ | .folioDrainComplete _ _
  | .laneFault _ _ | .sliceIssue _ _ | .mmodeGrant _ | .matrixQueueComplete | .xcopyComplete _
  | .putWaitAccept _ | .putSourceRead _ | .putPacketLand _ _ | .putComplete _ | .collectiveForm _ _
  | .zcodecComplete _ | .cbFlipObserved _ | .roundBoundary _ | .poolSteal _ | .poolPutWake _ _ | .dispatch _
  | .priorityAging _ | .resumeListPost _ | .resumeListTake _ | .continuationReady _ | .crossDieEdge _ _
  | .queueStallTimeout | .trapEntry _ | .pageFaultService _ | .laneReexecute _ _ _ | .scrub _
  | .dieCacheEvict _ _ | .tlbShootdown _ _ | .pageMigration _ _ _ _ | .pageSwitch _ _ _ | .viewRefreshRead _
  | .viewRefreshPublish _ | .pathArbitration _ _ | .preempt _ _ | .preemptResume _ _ | .nodeEnded _ _
  | .codePageHashFail _ _ _ | .tetherPeerEnd _ | .version _ | .launch _ | .waitForLaunch _ | .poolCreate _
  | .poolEnd _ | .tetherGrant _ | .tetherRevoke _ | .mapMemory _ | .unmap _ | .log _ | .attestationQuote _
  | .enrolSigningKey _ | .clearBootRecordAlternatives _ | .unknownService _ _ | .codexLoad _ _
  | .hostMailboxRequest _ | .quoteRequest _ | .packageStart _ | .powerLoss | .xcopyViewComplete _
  | .partitionCreate _ | .partitionResize _ _ _ | .debugStep => []

end Sys2Proof.Machine
end

