-- ==== Sys2Proof/WellFormed.lean ====
section
/-! DEFINITION. Well-formed instructions: those whose fields their entries admit (R125 to R137, R141). -/

namespace Sys2Proof

/-- An instruction whose fields are ones its entry admits; every other word of its opcode is Illegal Instruction. -/
def wf (i : Instr) : Bool := Machine.fieldsOk i

end Sys2Proof
end

