-- ==== Sys2Proof/Decode.lean ====
section
/-! DEFINITION. Decoding: a line into heads and tails (R116 to R119), a head and its tail into an instruction (R117 to R141),
and the encoder that is its inverse. Total on any bits; what is not an instruction is refused with `none`, which the machine
turns into Illegal Instruction (R141) or Line Format (R119 to R121). -/

namespace Sys2Proof

/-- The tail lengths an instruction may call for (R125): none, 16, 32 or 64 bits, or WV / LV by its form. -/
inductive TailKind where
  | none | half | word | vec | long
  deriving DecidableEq, Repr

/-- SQF of R128: none for its reserved values. -/
def SeqFlag.dec (f : BitVec 4) : Option SeqFlag :=
  if f.toNat = 0 then some .none
  else if f.toNat ≤ 6 then some (.first (f.toNat - 1))
  else if 9 ≤ f.toNat ∧ f.toNat ≤ 14 then some (.last (f.toNat - 9))
  else Option.none

/-- SQF of R128. -/
def SeqFlag.enc : SeqFlag → BitVec 4
  | .none => 0
  | .first k => BitVec.ofNat 4 (k + 1)
  | .last k => BitVec.ofNat 4 (k + 9)

/-- The flags R128 has: levels 0 to 5. -/
def SeqFlag.wf : SeqFlag → Bool
  | .none => true
  | .first k | .last k => decide (k ≤ 5)

/-- Reads format Q3; bit 15 is reserved. -/
def Q3.dec (w : BitVec 64) : Option Q3 :=
  if w.extractLsb' 15 1 = 0 then
    some { fd := w.extractLsb' 10 5, fa := w.extractLsb' 5 5, fb := w.extractLsb' 0 5 }
  else none

def Q3.enc (o : Q3) : BitVec 16 := 0#1 ++ o.fd ++ o.fa ++ o.fb

def QC.dec (w : BitVec 64) : QC := { fd := w.extractLsb' 11 5, crn := w.extractLsb' 0 11 }

def QC.enc (o : QC) : BitVec 16 := o.fd ++ o.crn

def QI.dec (w : BitVec 64) : QI := { imm := w.extractLsb' 0 16 }

def QI.enc (o : QI) : BitVec 16 := o.imm

/-- Reads format QN; bits 15:8 are reserved. -/
def QN.dec (w : BitVec 64) : Option QN :=
  if w.extractLsb' 8 8 = 0 then some { cnt := w.extractLsb' 0 8 } else none

def QN.enc (o : QN) : BitVec 16 := 0#8 ++ o.cnt

def W4.dec (w : BitVec 64) : W4 :=
  { fd := w.extractLsb' 23 5, fa := w.extractLsb' 18 5, fb := w.extractLsb' 13 5, fc := w.extractLsb' 8 5,
    ty := w.extractLsb' 3 5, sc := w.extractLsb' 0 3 }

def W4.enc (o : W4) : BitVec 28 := o.fd ++ o.fa ++ o.fb ++ o.fc ++ o.ty ++ o.sc

def WI.dec (w : BitVec 64) : WI :=
  { fd := w.extractLsb' 23 5, fa := w.extractLsb' 18 5, imm := w.extractLsb' 0 18 }

def WI.enc (o : WI) : BitVec 28 := o.fd ++ o.fa ++ o.imm

def WB.dec (w : BitVec 64) : WB :=
  { fa := w.extractLsb' 23 5, fb := w.extractLsb' 18 5, ld := w.extractLsb' 5 13, hd := w.extractLsb' 0 5 }

def WB.enc (o : WB) : BitVec 28 := o.fa ++ o.fb ++ o.ld ++ o.hd

def WJ.dec (w : BitVec 64) : WJ :=
  { fd := w.extractLsb' 23 5, ld := w.extractLsb' 5 18, hd := w.extractLsb' 0 5 }

def WJ.enc (o : WJ) : BitVec 28 := o.fd ++ o.ld ++ o.hd

/-- Reads format WL; bits 24:23 are reserved. -/
def WL.dec (w : BitVec 64) : Option WL :=
  if w.extractLsb' 23 2 = 0 then
    some { msk := w.extractLsb' 25 3, ld := w.extractLsb' 5 18, hd := w.extractLsb' 0 5 }
  else none

def WL.enc (o : WL) : BitVec 28 := o.msk ++ 0#2 ++ o.ld ++ o.hd

/-- The second source of WV and LV by FM (R133); none where a field of the form must be 0 and is not. -/
def Src2.dec (w : BitVec 64) : Option Src2 :=
  let vb : BitVec 5 := w.extractLsb' 0 5
  let cb := w.getLsbD 19
  match (w.extractLsb' 21 2).toNat with
  | 0 => some (.vec vb cb)
  | 1 => if cb then none else some (.scal vb)
  | 2 => if cb = false ∧ vb = 0 then some (.imm (w.extractLsb' 32 32)) else none
  | _ => if cb = false ∧ vb.toNat ≤ 1 then some (.queue (decide (vb = 1))) else none

/-- FM, CB, VB and IMM32 of a second source. -/
def Src2.fm : Src2 → BitVec 2
  | .vec _ _ => 0
  | .scal _ => 1
  | .imm _ => 2
  | .queue _ => 3

def Src2.cb : Src2 → Bool
  | .vec _ cb => cb
  | .scal _ | .imm _ | .queue _ => false

def Src2.vb : Src2 → BitVec 5
  | .vec vb _ => vb
  | .scal sb => sb
  | .imm _ => 0
  | .queue k => if k then 1 else 0

def Src2.imm32 : Src2 → BitVec 32
  | .imm v => v
  | .vec _ _ | .scal _ | .queue _ => 0

/-- Reads formats WV and LV; bit 15 is reserved. -/
def WV.dec (w : BitVec 64) : Option WV :=
  if w.extractLsb' 15 1 = 0 then
    (Src2.dec w).map fun s =>
      { ty := w.extractLsb' 23 5, msk := w.extractLsb' 16 3, vd := w.extractLsb' 10 5, va := w.extractLsb' 5 5,
        ca := w.getLsbD 20, src := s }
  else none

def WV.enc (o : WV) : BitVec 28 :=
  o.ty ++ o.src.fm ++ BitVec.ofBool o.ca ++ BitVec.ofBool o.src.cb ++ o.msk ++ 0#1 ++ o.vd ++ o.va ++ o.src.vb

/-- Reads format WM; bits 18:15 are reserved. -/
def WM.dec (w : BitVec 64) : Option WM :=
  if w.extractLsb' 15 4 = 0 then
    some { ty := w.extractLsb' 23 5, msk := w.extractLsb' 20 3, cv := w.getLsbD 19, vd := w.extractLsb' 10 5,
           sa := w.extractLsb' 5 5, xb := w.extractLsb' 0 5 }
  else none

def WM.enc (o : WM) : BitVec 28 :=
  o.ty ++ o.msk ++ BitVec.ofBool o.cv ++ 0#4 ++ o.vd ++ o.sa ++ o.xb

/-- Reads format WX; bits 3:0 are reserved. -/
def WX.dec (w : BitVec 64) : Option WX :=
  if w.extractLsb' 0 4 = 0 then
    some { ty := w.extractLsb' 23 5, ad := w.extractLsb' 22 1, ta := w.extractLsb' 20 2, tb := w.extractLsb' 18 2,
           vs := w.extractLsb' 13 5, sk := w.extractLsb' 8 5, msk := w.extractLsb' 5 3, cv := w.getLsbD 4 }
  else none

def WX.enc (o : WX) : BitVec 28 :=
  o.ty ++ o.ad ++ o.ta ++ o.tb ++ o.vs ++ o.sk ++ o.msk ++ BitVec.ofBool o.cv ++ 0#4

/-- Reads format LI: IMMH above IMML. -/
def LI.dec (w : BitVec 64) : LI :=
  { fd := w.extractLsb' 23 5, imm := w.extractLsb' 32 32 ++ w.extractLsb' 0 23 }

def LI.enc (o : LI) : BitVec 28 := o.fd ++ o.imm.extractLsb' 0 23

def LI.encHigh (o : LI) : BitVec 32 := o.imm.extractLsb' 23 32

/-- Reads format LF; bits 63:58 are reserved. -/
def LF.dec (w : BitVec 64) : Option LF :=
  if w.extractLsb' 58 6 = 0 then
    (WM.dec w).map fun m => { wm := m, fh := w.extractLsb' 54 4, foff := w.extractLsb' 32 22 }
  else none

def LF.enc (o : LF) : BitVec 28 := o.wm.enc

def LF.encHigh (o : LF) : BitVec 32 := 0#6 ++ o.fh ++ o.foff

/-- Reads format LE; bits 4:0 are reserved. -/
def LE.dec (w : BitVec 64) : Option LE :=
  if w.extractLsb' 0 5 = 0 then
    some { imm := w.extractLsb' 32 32, fd := w.extractLsb' 23 5, fa := w.extractLsb' 18 5, fb := w.extractLsb' 13 5,
           fc := w.extractLsb' 8 5, sc := w.extractLsb' 5 3 }
  else none

def LE.enc (o : LE) : BitVec 28 := o.fd ++ o.fa ++ o.fb ++ o.fc ++ o.sc ++ 0#5

def LE.encHigh (o : LE) : BitVec 32 := o.imm

/-- The rows of the opcode table that share the encoding of mtc are told apart by CRN (R186). -/
def mtcOf (o : QC) : Instr :=
  if o.crn = 0x041 then .mtcTpc o
  else if o.crn = 0x000 then .mtcVtype o
  else if o.crn = 0x001 then .mtcVl o
  else if o.crn = 0x010 then .mtcFrm o
  else if 0x030 ≤ o.crn.toNat ∧ o.crn.toNat ≤ 0x033 then .mtcPbnd o
  else .mtc o

/-- The tail a head's opcode calls for (R125, R139, R140); none for an opcode that R139 does not list. -/
def tailKind (maj mn : Nat) : Option TailKind :=
  match maj with
  | 0x00 => if mn ≤ 0x07 then some .half else none
  | 0x01 => if mn ≤ 0x05 ∨ (0x11 ≤ mn ∧ mn ≤ 0x15) ∨ (0x19 ≤ mn ∧ mn ≤ 0x1D) ∨ (0x21 ≤ mn ∧ mn ≤ 0x25) then some .none else none
  | 0x02 => if mn ≤ 0x17 then some .half else none
  | 0x03 => if mn ≤ 0x15 then some .half else none
  | 0x04 => if mn ≤ 0x04 then some .word else none
  | 0x05 => if mn ≤ 0x01 then some .word else none
  | 0x08 => if mn ≤ 0x08 then some .word else none
  | 0x09 => if mn = 0x00 then some .long else none
  | 0x0A => if mn = 0x00 then some .word else none
  | 0x10 => if mn ≤ 0x05 then some .word else none
  | 0x11 => if mn = 0x00 then some .word else none
  | 0x12 => if mn = 0x00 then some .half else none
  | 0x13 => if mn = 0x00 then some .half else none
  | 0x14 => if mn ≤ 0x04 then some .word else none
  | 0x18 => if mn ≤ 0x06 ∨ (0x08 ≤ mn ∧ mn ≤ 0x0B) then some .word else none
  | 0x19 => if mn = 0x00 then some .word else none
  | 0x1A => if mn ≤ 0x09 then some .word else none
  | 0x1B => if mn ≤ 0x02 then some .word else none
  | 0x1C => if mn ≤ 0x0D then some .word else none
  | 0x1D => if mn ≤ 0x01 then some .long else none
  | 0x1E => if mn ≤ 0x03 then some .word else none
  | 0x1F => if mn ≤ 0x03 then some .word else none
  | 0x20 => if mn ≤ 0x01 then some .word else none
  | 0x21 => if mn ≤ 0x0D then some .vec else none
  | 0x22 => if mn ≤ 0x07 then some .vec else none
  | 0x23 => if mn ≤ 0x05 then some .vec else none
  | 0x24 => if mn ≤ 0x05 ∨ (0x08 ≤ mn ∧ mn ≤ 0x0C) then some .vec else none
  | 0x25 => if mn ≤ 0x07 then some .vec else none
  | 0x26 => if mn ≤ 0x07 then some .vec else none
  | 0x27 => if mn ≤ 0x09 then some .vec else none
  | 0x28 => if mn ≤ 0x03 then some .vec else none
  | 0x29 => if mn ≤ 0x01 then some .vec else none
  | 0x2A => if mn ≤ 0x01 then some .vec else none
  | 0x2B => if mn ≤ 0x04 then some .vec else none
  | 0x2C => if mn ≤ 0x01 then some .word else none
  | 0x30 => if mn ≤ 0x01 then some .word else none
  | 0x31 => if mn ≤ 0x05 then some .word else none
  | 0x32 => if mn ≤ 0x02 then some .word else none
  | 0x33 => if mn ≤ 0x04 then some .word else none
  | 0x38 => if mn ≤ 0x05 then some .vec else none
  | 0x39 => if mn ≤ 0x07 then some .word else none
  | 0x3C => if mn ≤ 0x06 then some .long else none
  | 0x3D => if mn ≤ 0x03 then some .long else none
  | 0x3E => if mn ≤ 0x05 then some .long else none
  | _ => none

/-- The instruction of an opcode with its tail's operand bits (SQF removed), before the field rules (R126, R139). -/
noncomputable def build (maj mn : Nat) (w : BitVec 64) : Option Instr :=
  match maj, mn with
  | 0x00, 0x00 => some (.svc (QI.dec w))
  | 0x00, 0x01 => some (.mfc (QC.dec w))
  | 0x00, 0x02 => some (mtcOf (QC.dec w))
  | 0x00, 0x03 => (Q3.dec w).map .dqput
  | 0x00, 0x04 => (Q3.dec w).map .dqget
  | 0x00, 0x05 => (Q3.dec w).map .xqput
  | 0x00, 0x06 => (Q3.dec w).map .xqget
  | 0x00, 0x07 => (Q3.dec w).map .bqput
  | 0x01, 0x00 => some .nop
  | 0x01, 0x01 => some .nend
  | 0x01, 0x02 => some .tret
  | 0x01, 0x03 => some .brk
  | 0x01, 0x04 => some .vjoin
  | 0x01, 0x05 => some .lstop
  | 0x01, 0x11 => some (.phase .core)
  | 0x01, 0x12 => some (.phase .quad)
  | 0x01, 0x13 => some (.phase .die)
  | 0x01, 0x14 => some (.phase .pkg)
  | 0x01, 0x15 => some (.phase .pod)
  | 0x01, 0x19 => some (.fence .core)
  | 0x01, 0x1A => some (.fence .quad)
  | 0x01, 0x1B => some (.fence .die)
  | 0x01, 0x1C => some (.fence .pkg)
  | 0x01, 0x1D => some (.fence .pod)
  | 0x01, 0x21 => some (.bar .core)
  | 0x01, 0x22 => some (.bar .quad)
  | 0x01, 0x23 => some (.bar .die)
  | 0x01, 0x24 => some (.bar .pkg)
  | 0x01, 0x25 => some (.bar .pod)
  | 0x02, 0x00 => (Q3.dec w).map .add
  | 0x02, 0x01 => (Q3.dec w).map .sub
  | 0x02, 0x02 => (Q3.dec w).map .and
  | 0x02, 0x03 => (Q3.dec w).map .or
  | 0x02, 0x04 => (Q3.dec w).map .xor
  | 0x02, 0x05 => (Q3.dec w).map .sll
  | 0x02, 0x06 => (Q3.dec w).map .srl
  | 0x02, 0x07 => (Q3.dec w).map .sra
  | 0x02, 0x08 => (Q3.dec w).map .slt
  | 0x02, 0x09 => (Q3.dec w).map .sltn
  | 0x02, 0x0A => (Q3.dec w).map .mul
  | 0x02, 0x0B => (Q3.dec w).map .mulh
  | 0x02, 0x0C => (Q3.dec w).map .mulhn
  | 0x02, 0x0D => (Q3.dec w).map .div
  | 0x02, 0x0E => (Q3.dec w).map .divn
  | 0x02, 0x0F => (Q3.dec w).map .rem
  | 0x02, 0x10 => (Q3.dec w).map .remn
  | 0x02, 0x11 => (Q3.dec w).map .min
  | 0x02, 0x12 => (Q3.dec w).map .max
  | 0x02, 0x13 => (Q3.dec w).map .minn
  | 0x02, 0x14 => (Q3.dec w).map .maxn
  | 0x02, 0x15 => (Q3.dec w).map .popc
  | 0x02, 0x16 => (Q3.dec w).map .clz
  | 0x02, 0x17 => (Q3.dec w).map .ctz
  | 0x03, 0x00 => (Q3.dec w).map (.fadd false)
  | 0x03, 0x01 => (Q3.dec w).map (.fadd true)
  | 0x03, 0x02 => (Q3.dec w).map (.fsub false)
  | 0x03, 0x03 => (Q3.dec w).map (.fsub true)
  | 0x03, 0x04 => (Q3.dec w).map (.fmul false)
  | 0x03, 0x05 => (Q3.dec w).map (.fmul true)
  | 0x03, 0x06 => (Q3.dec w).map (.fdiv false)
  | 0x03, 0x07 => (Q3.dec w).map (.fdiv true)
  | 0x03, 0x08 => (Q3.dec w).map (.fsqrt false)
  | 0x03, 0x09 => (Q3.dec w).map (.fsqrt true)
  | 0x03, 0x0A => (Q3.dec w).map (.fmin false)
  | 0x03, 0x0B => (Q3.dec w).map (.fmin true)
  | 0x03, 0x0C => (Q3.dec w).map (.fmax false)
  | 0x03, 0x0D => (Q3.dec w).map (.fmax true)
  | 0x03, 0x0E => (Q3.dec w).map (.feq false)
  | 0x03, 0x0F => (Q3.dec w).map (.feq true)
  | 0x03, 0x10 => (Q3.dec w).map (.flt false)
  | 0x03, 0x11 => (Q3.dec w).map (.flt true)
  | 0x03, 0x12 => (Q3.dec w).map (.fle false)
  | 0x03, 0x13 => (Q3.dec w).map (.fle true)
  | 0x03, 0x14 => (Q3.dec w).map (.fsgnj false)
  | 0x03, 0x15 => (Q3.dec w).map (.fsgnj true)
  | 0x04, 0x00 => some (.fmadd (W4.dec w))
  | 0x04, 0x01 => some (.fmsub (W4.dec w))
  | 0x04, 0x02 => some (.fnmadd (W4.dec w))
  | 0x04, 0x03 => some (.fnmsub (W4.dec w))
  | 0x04, 0x04 => some (.fcvt (W4.dec w))
  | 0x05, 0x00 => some (.nspawn (W4.dec w))
  | 0x05, 0x01 => some (.nspawnW (W4.dec w))
  | 0x08, 0x00 => some (.addi (WI.dec w))
  | 0x08, 0x01 => some (.andi (WI.dec w))
  | 0x08, 0x02 => some (.ori (WI.dec w))
  | 0x08, 0x03 => some (.xori (WI.dec w))
  | 0x08, 0x04 => some (.slli (WI.dec w))
  | 0x08, 0x05 => some (.srli (WI.dec w))
  | 0x08, 0x06 => some (.srai (WI.dec w))
  | 0x08, 0x07 => some (.slti (WI.dec w))
  | 0x08, 0x08 => some (.sltni (WI.dec w))
  | 0x09, 0x00 => some (.limm (LI.dec w))
  | 0x0A, 0x00 => some (.pcaddr (WJ.dec w))
  | 0x10, 0x00 => some (.beq (WB.dec w))
  | 0x10, 0x01 => some (.bne (WB.dec w))
  | 0x10, 0x02 => some (.blt (WB.dec w))
  | 0x10, 0x03 => some (.bge (WB.dec w))
  | 0x10, 0x04 => some (.bltn (WB.dec w))
  | 0x10, 0x05 => some (.bgen (WB.dec w))
  | 0x11, 0x00 => some (.jal (WJ.dec w))
  | 0x12, 0x00 => (Q3.dec w).map .jalr
  | 0x13, 0x00 => (QN.dec w).map .bqx
  | 0x14, 0x00 => some (.seqlev (W4.dec w))
  | 0x14, 0x01 => some (.seqbind (W4.dec w))
  | 0x14, 0x02 => some (.seqstride (W4.dec w))
  | 0x14, 0x03 => some (.seqrun (W4.dec w))
  | 0x14, 0x04 => some (.seqhalt (W4.dec w))
  | 0x18, 0x00 => some (.ldS8 (WI.dec w))
  | 0x18, 0x01 => some (.ldS16 (WI.dec w))
  | 0x18, 0x02 => some (.ldS32 (WI.dec w))
  | 0x18, 0x03 => some (.ldS64 (WI.dec w))
  | 0x18, 0x04 => some (.ldN8 (WI.dec w))
  | 0x18, 0x05 => some (.ldN16 (WI.dec w))
  | 0x18, 0x06 => some (.ldN32 (WI.dec w))
  | 0x18, 0x08 => some (.stN8 (WI.dec w))
  | 0x18, 0x09 => some (.stN16 (WI.dec w))
  | 0x18, 0x0A => some (.stN32 (WI.dec w))
  | 0x18, 0x0B => some (.stN64 (WI.dec w))
  | 0x19, 0x00 => some (.ldq (WI.dec w))
  | 0x1A, 0x00 => some (.atswap (W4.dec w))
  | 0x1A, 0x01 => some (.atadd (W4.dec w))
  | 0x1A, 0x02 => some (.atand (W4.dec w))
  | 0x1A, 0x03 => some (.ator (W4.dec w))
  | 0x1A, 0x04 => some (.atxor (W4.dec w))
  | 0x1A, 0x05 => some (.atmin (W4.dec w))
  | 0x1A, 0x06 => some (.atmax (W4.dec w))
  | 0x1A, 0x07 => some (.atminn (W4.dec w))
  | 0x1A, 0x08 => some (.atmaxn (W4.dec w))
  | 0x1A, 0x09 => some (.atcas (W4.dec w))
  | 0x1B, 0x00 => (WM.dec w).map .vstream
  | 0x1B, 0x01 => (WM.dec w).map .vstreamSt
  | 0x1B, 0x02 => (WM.dec w).map .vsunbind
  | 0x1C, 0x00 => (WM.dec w).map .vld
  | 0x1C, 0x01 => (WM.dec w).map .vst
  | 0x1C, 0x02 => (WM.dec w).map .vlds
  | 0x1C, 0x03 => (WM.dec w).map .vsts
  | 0x1C, 0x04 => (WM.dec w).map .vldx
  | 0x1C, 0x05 => (WM.dec w).map .vstx
  | 0x1C, 0x06 => (WM.dec w).map .vldu
  | 0x1C, 0x07 => (WM.dec w).map .vstu
  | 0x1C, 0x08 => (WM.dec w).map .vldbp
  | 0x1C, 0x09 => (WM.dec w).map .vstbp
  | 0x1C, 0x0A => (WM.dec w).map .sldsc
  | 0x1C, 0x0B => (WM.dec w).map .sstsc
  | 0x1C, 0x0C => (WM.dec w).map .vspill
  | 0x1C, 0x0D => (WM.dec w).map .vfill
  | 0x1D, 0x00 => (LF.dec w).map .vldf
  | 0x1D, 0x01 => (LF.dec w).map .vstf
  | 0x1E, 0x00 => some (.folbind (W4.dec w))
  | 0x1E, 0x01 => some (.folrel (W4.dec w))
  | 0x1E, 0x02 => some (.folfill (W4.dec w))
  | 0x1E, 0x03 => some (.foldrain (W4.dec w))
  | 0x1F, 0x00 => (WM.dec w).map .vldView
  | 0x1F, 0x01 => some (.vregView (W4.dec w))
  | 0x1F, 0x02 => some (.vdropView (W4.dec w))
  | 0x1F, 0x03 => some (.vwaitView (W4.dec w))
  | 0x20, 0x00 => some (.vsetvl (W4.dec w))
  | 0x20, 0x01 => some (.vsettype (W4.dec w))
  | 0x21, 0x00 => (WV.dec w).map .vadd
  | 0x21, 0x01 => (WV.dec w).map .vsub
  | 0x21, 0x02 => (WV.dec w).map .vrsub
  | 0x21, 0x03 => (WV.dec w).map .vmul
  | 0x21, 0x04 => (WV.dec w).map .vmulh
  | 0x21, 0x05 => (WV.dec w).map .vmin
  | 0x21, 0x06 => (WV.dec w).map .vmax
  | 0x21, 0x07 => (WV.dec w).map .vand
  | 0x21, 0x08 => (WV.dec w).map .vor
  | 0x21, 0x09 => (WV.dec w).map .vxor
  | 0x21, 0x0A => (WV.dec w).map .vadds
  | 0x21, 0x0B => (WV.dec w).map .vsubs
  | 0x21, 0x0C => (WV.dec w).map .vabs
  | 0x21, 0x0D => (WV.dec w).map .vavg
  | 0x22, 0x00 => (WV.dec w).map .vsll
  | 0x22, 0x01 => (WV.dec w).map .vsrl
  | 0x22, 0x02 => (WV.dec w).map .vsra
  | 0x22, 0x03 => (WV.dec w).map .vsrar
  | 0x22, 0x04 => (WV.dec w).map .vsrlr
  | 0x22, 0x05 => (WV.dec w).map .vnsra
  | 0x22, 0x06 => (WV.dec w).map .vfunl
  | 0x22, 0x07 => (WV.dec w).map .vfunr
  | 0x23, 0x00 => (WV.dec w).map .vmac
  | 0x23, 0x01 => (WV.dec w).map .vmacs
  | 0x23, 0x02 => (WV.dec w).map .vdot2
  | 0x23, 0x03 => (WV.dec w).map .vdot2s
  | 0x23, 0x04 => (WV.dec w).map .vdot4
  | 0x23, 0x05 => (WV.dec w).map .vdot4s
  | 0x24, 0x00 => (WV.dec w).map .vceq
  | 0x24, 0x01 => (WV.dec w).map .vcne
  | 0x24, 0x02 => (WV.dec w).map .vclt
  | 0x24, 0x03 => (WV.dec w).map .vcle
  | 0x24, 0x04 => (WV.dec w).map .vcgt
  | 0x24, 0x05 => (WV.dec w).map .vcge
  | 0x24, 0x08 => (WV.dec w).map .mand
  | 0x24, 0x09 => (WV.dec w).map .mor
  | 0x24, 0x0A => (WV.dec w).map .mxor
  | 0x24, 0x0B => (WV.dec w).map .mnot
  | 0x24, 0x0C => (WV.dec w).map .mpopc
  | 0x25, 0x00 => (WV.dec w).map .vslup
  | 0x25, 0x01 => (WV.dec w).map .vsldn
  | 0x25, 0x02 => (WV.dec w).map .vcompress
  | 0x25, 0x03 => (WV.dec w).map .vexpand
  | 0x25, 0x04 => (WV.dec w).map .viota
  | 0x25, 0x05 => (WV.dec w).map .vgather
  | 0x25, 0x06 => (WV.dec w).map .vmerge
  | 0x25, 0x07 => (WV.dec w).map .vmv
  | 0x26, 0x00 => (WV.dec w).map .vredsum
  | 0x26, 0x01 => (WV.dec w).map .vredsums
  | 0x26, 0x02 => (WV.dec w).map .vredmax
  | 0x26, 0x03 => (WV.dec w).map .vredmin
  | 0x26, 0x04 => (WV.dec w).map .vredand
  | 0x26, 0x05 => (WV.dec w).map .vredor
  | 0x26, 0x06 => (WV.dec w).map .vredxor
  | 0x26, 0x07 => (WV.dec w).map .vscan
  | 0x27, 0x00 => (WV.dec w).map .vfadd
  | 0x27, 0x01 => (WV.dec w).map .vfsub
  | 0x27, 0x02 => (WV.dec w).map .vfmul
  | 0x27, 0x03 => (WV.dec w).map .vfdiv
  | 0x27, 0x04 => (WV.dec w).map .vfsqrt
  | 0x27, 0x05 => (WV.dec w).map .vfmin
  | 0x27, 0x06 => (WV.dec w).map .vfmax
  | 0x27, 0x07 => (WV.dec w).map .vfabs
  | 0x27, 0x08 => (WV.dec w).map .vfneg
  | 0x27, 0x09 => (WV.dec w).map .vfsgnj
  | 0x28, 0x00 => (WV.dec w).map .vfma
  | 0x28, 0x01 => (WV.dec w).map .vfms
  | 0x28, 0x02 => (WV.dec w).map .vfnma
  | 0x28, 0x03 => (WV.dec w).map .vfnms
  | 0x29, 0x00 => (WV.dec w).map .vcvt
  | 0x29, 0x01 => (WV.dec w).map .vcvtz
  | 0x2A, 0x00 => (WV.dec w).map .vquant
  | 0x2A, 0x01 => (WV.dec w).map .vdeq
  | 0x2B, 0x00 => (WV.dec w).map .vfredsum
  | 0x2B, 0x01 => (WV.dec w).map .vfredmax
  | 0x2B, 0x02 => (WV.dec w).map .vfredmin
  | 0x2B, 0x03 => (WV.dec w).map .vfscan
  | 0x2B, 0x04 => (WV.dec w).map .vfred2
  | 0x2C, 0x00 => some (.vblk (WJ.dec w))
  | 0x2C, 0x01 => (WL.dec w).map .lfetch
  | 0x30, 0x00 => (WX.dec w).map .mmode
  | 0x30, 0x01 => (WX.dec w).map .mexit
  | 0x31, 0x00 => (WX.dec w).map .tcfg
  | 0x31, 0x01 => (WX.dec w).map .trel
  | 0x31, 0x02 => (WX.dec w).map .tmvr
  | 0x31, 0x03 => (WX.dec w).map .tmvc
  | 0x31, 0x04 => (WX.dec w).map .tld
  | 0x31, 0x05 => (WX.dec w).map .tst
  | 0x32, 0x00 => (WX.dec w).map .mop
  | 0x32, 0x01 => (WX.dec w).map .mopsp
  | 0x32, 0x02 => (WX.dec w).map .mopneg
  | 0x33, 0x00 => (WX.dec w).map .accmv
  | 0x33, 0x01 => (WX.dec w).map .accPeek
  | 0x33, 0x02 => (WX.dec w).map .acczero
  | 0x33, 0x03 => (WX.dec w).map .accsp
  | 0x33, 0x04 => (WX.dec w).map .accfl
  | 0x38, 0x00 => (WV.dec w).map .gcvt
  | 0x38, 0x01 => (WV.dec w).map .gadd
  | 0x38, 0x02 => (WV.dec w).map .gsub
  | 0x38, 0x03 => (WV.dec w).map .gscale
  | 0x38, 0x04 => (WV.dec w).map .gsettag
  | 0x38, 0x05 => (WV.dec w).map .gtagof
  | 0x39, 0x00 => some (.fnew (W4.dec w))
  | 0x39, 0x01 => some (.fmove (W4.dec w))
  | 0x39, 0x02 => some (.fsplit (W4.dec w))
  | 0x39, 0x03 => some (.fdel (W4.dec w))
  | 0x39, 0x04 => some (.fdelAdopt (W4.dec w))
  | 0x39, 0x05 => some (.fdelFwd (W4.dec w))
  | 0x39, 0x06 => some (.freclaim (W4.dec w))
  | 0x39, 0x07 => some (.fread (W4.dec w))
  | 0x3C, 0x00 => (LE.dec w).map .xcopy
  | 0x3C, 0x01 => (LE.dec w).map .xput
  | 0x3C, 0x02 => (LE.dec w).map .xputW
  | 0x3C, 0x03 => (LE.dec w).map .xreduce
  | 0x3C, 0x04 => (LE.dec w).map .xcopyView
  | 0x3C, 0x05 => (LE.dec w).map .zenc
  | 0x3C, 0x06 => (LE.dec w).map .zdec
  | 0x3D, 0x00 => (LE.dec w).map .cbinit
  | 0x3D, 0x01 => (LE.dec w).map .cbarrive
  | 0x3D, 0x02 => (LE.dec w).map .cbwait
  | 0x3D, 0x03 => (LE.dec w).map .cbtest
  | 0x3E, 0x00 => (LE.dec w).map .pput
  | 0x3E, 0x01 => (LE.dec w).map .ptake
  | 0x3E, 0x02 => (LE.dec w).map .ptakeW
  | 0x3E, 0x03 => (LE.dec w).map .pbnd
  | 0x3E, 0x04 => (LE.dec w).map .pstat
  | 0x3E, 0x05 => (LE.dec w).map .pdrain
  | _, _ => none

/-- Checks TL against the instruction's tail (R125, R127) and splits SQF from the operand bits; none where R125 or a reserved
bit makes the head illegal. -/
def splitTail (k : TailKind) (tl : Nat) (w : BitVec 64) : Option (BitVec 4 × BitVec 64) :=
  match k with
  | .none =>
    if tl = 0 then some (0, 0)
    else if tl = 1 ∧ w.extractLsb' 0 12 = 0 ∧ w.extractLsb' 12 4 ≠ 0 then some (w.extractLsb' 12 4, 0)
    else none
  | .half =>
    if tl = 1 then some (0, w)
    else if tl = 2 ∧ w.extractLsb' 16 12 = 0 then some (w.extractLsb' 28 4, w)
    else none
  | .word => if tl = 2 then some (w.extractLsb' 28 4, w) else none
  | .vec => if tl = (if w.extractLsb' 21 2 = 2 then 3 else 2) then some (w.extractLsb' 28 4, w) else none
  | .long => if tl = 3 then some (w.extractLsb' 28 4, w) else none

/-- The instruction and the sequencer flag of a head with its tail (zero above the tail's length); none for every head that
R141 makes Illegal Instruction by its encoding alone. -/
noncomputable def decode (head : BitVec 16) (tail : BitVec 64) : Option (Instr × SeqFlag) :=
  let maj := (head.extractLsb' 8 6).toNat
  let mn := (head.extractLsb' 0 8).toNat
  match tailKind maj mn with
  | none => none
  | some k =>
    match splitTail k (head.extractLsb' 14 2).toNat tail with
    | none => none
    | some (f, w) =>
      match SeqFlag.dec f, build maj mn w with
      | some fl, some i => if wf i then some (i, fl) else none
      | _, _ => none

/-- A head of R117. -/
def headBits (tl maj mn : Nat) : BitVec 16 := BitVec.ofNat 2 tl ++ BitVec.ofNat 6 maj ++ BitVec.ofNat 8 mn

/-- Format N, or NF when flagged. -/
def encNone (maj mn : Nat) (fl : SeqFlag) : BitVec 16 × BitVec 64 :=
  if fl = .none then (headBits 0 maj mn, 0) else (headBits 1 maj mn, (0#48 ++ fl.enc ++ 0#12))

/-- A 16-bit format, or QF when flagged. -/
def encHalf (maj mn : Nat) (w : BitVec 16) (fl : SeqFlag) : BitVec 16 × BitVec 64 :=
  if fl = .none then (headBits 1 maj mn, 0#48 ++ w) else (headBits 2 maj mn, 0#32 ++ fl.enc ++ 0#12 ++ w)

/-- A 32-bit format. -/
def encWord (maj mn : Nat) (w : BitVec 28) (fl : SeqFlag) : BitVec 16 × BitVec 64 :=
  (headBits 2 maj mn, 0#32 ++ fl.enc ++ w)

/-- A 64-bit format. -/
def encLong (maj mn : Nat) (hi : BitVec 32) (w : BitVec 28) (fl : SeqFlag) : BitVec 16 × BitVec 64 :=
  (headBits 3 maj mn, hi ++ fl.enc ++ w)

/-- WV, or LV for the immediate form. -/
def encVec (maj mn : Nat) (o : WV) (fl : SeqFlag) : BitVec 16 × BitVec 64 :=
  (headBits (if isImmForm o.src then 3 else 2) maj mn, o.src.imm32 ++ fl.enc ++ o.enc)
where
  isImmForm : Src2 → Bool
    | .imm _ => true
    | .vec _ _ | .scal _ | .queue _ => false

/-- The head and the tail of an instruction with its sequencer flag (R117, R125 to R128, R139); none for a step that has no
encoding. -/
def encode (i : Instr) (fl : SeqFlag) : Option (BitVec 16 × BitVec 64) :=
  match i with
  | .svc o => some (encHalf 0x00 0x00 o.enc fl)
  | .mfc o => some (encHalf 0x00 0x01 o.enc fl)
  | .mtc o => some (encHalf 0x00 0x02 o.enc fl)
  | .mtcTpc o => some (encHalf 0x00 0x02 o.enc fl)
  | .mtcVtype o => some (encHalf 0x00 0x02 o.enc fl)
  | .mtcVl o => some (encHalf 0x00 0x02 o.enc fl)
  | .mtcFrm o => some (encHalf 0x00 0x02 o.enc fl)
  | .mtcPbnd o => some (encHalf 0x00 0x02 o.enc fl)
  | .dqput o => some (encHalf 0x00 0x03 o.enc fl)
  | .dqget o => some (encHalf 0x00 0x04 o.enc fl)
  | .xqput o => some (encHalf 0x00 0x05 o.enc fl)
  | .xqget o => some (encHalf 0x00 0x06 o.enc fl)
  | .bqput o => some (encHalf 0x00 0x07 o.enc fl)
  | .phase sc => some (encNone 0x01 (0x10 + sc.code) fl)
  | .fence sc => some (encNone 0x01 (0x18 + sc.code) fl)
  | .bar sc => some (encNone 0x01 (0x20 + sc.code) fl)
  | .add o => some (encHalf 0x02 0x00 o.enc fl)
  | .sub o => some (encHalf 0x02 0x01 o.enc fl)
  | .and o => some (encHalf 0x02 0x02 o.enc fl)
  | .or o => some (encHalf 0x02 0x03 o.enc fl)
  | .xor o => some (encHalf 0x02 0x04 o.enc fl)
  | .sll o => some (encHalf 0x02 0x05 o.enc fl)
  | .srl o => some (encHalf 0x02 0x06 o.enc fl)
  | .sra o => some (encHalf 0x02 0x07 o.enc fl)
  | .slt o => some (encHalf 0x02 0x08 o.enc fl)
  | .sltn o => some (encHalf 0x02 0x09 o.enc fl)
  | .mul o => some (encHalf 0x02 0x0A o.enc fl)
  | .mulh o => some (encHalf 0x02 0x0B o.enc fl)
  | .mulhn o => some (encHalf 0x02 0x0C o.enc fl)
  | .div o => some (encHalf 0x02 0x0D o.enc fl)
  | .divn o => some (encHalf 0x02 0x0E o.enc fl)
  | .rem o => some (encHalf 0x02 0x0F o.enc fl)
  | .remn o => some (encHalf 0x02 0x10 o.enc fl)
  | .min o => some (encHalf 0x02 0x11 o.enc fl)
  | .max o => some (encHalf 0x02 0x12 o.enc fl)
  | .minn o => some (encHalf 0x02 0x13 o.enc fl)
  | .maxn o => some (encHalf 0x02 0x14 o.enc fl)
  | .popc o => some (encHalf 0x02 0x15 o.enc fl)
  | .clz o => some (encHalf 0x02 0x16 o.enc fl)
  | .ctz o => some (encHalf 0x02 0x17 o.enc fl)
  | .fadd dbl o => some (encHalf 0x03 (0x00 + dbl.toNat) o.enc fl)
  | .fsub dbl o => some (encHalf 0x03 (0x02 + dbl.toNat) o.enc fl)
  | .fmul dbl o => some (encHalf 0x03 (0x04 + dbl.toNat) o.enc fl)
  | .fdiv dbl o => some (encHalf 0x03 (0x06 + dbl.toNat) o.enc fl)
  | .fsqrt dbl o => some (encHalf 0x03 (0x08 + dbl.toNat) o.enc fl)
  | .fmin dbl o => some (encHalf 0x03 (0x0A + dbl.toNat) o.enc fl)
  | .fmax dbl o => some (encHalf 0x03 (0x0C + dbl.toNat) o.enc fl)
  | .feq dbl o => some (encHalf 0x03 (0x0E + dbl.toNat) o.enc fl)
  | .flt dbl o => some (encHalf 0x03 (0x10 + dbl.toNat) o.enc fl)
  | .fle dbl o => some (encHalf 0x03 (0x12 + dbl.toNat) o.enc fl)
  | .fsgnj dbl o => some (encHalf 0x03 (0x14 + dbl.toNat) o.enc fl)
  | .fmadd o => some (encWord 0x04 0x00 o.enc fl)
  | .fmsub o => some (encWord 0x04 0x01 o.enc fl)
  | .fnmadd o => some (encWord 0x04 0x02 o.enc fl)
  | .fnmsub o => some (encWord 0x04 0x03 o.enc fl)
  | .fcvt o => some (encWord 0x04 0x04 o.enc fl)
  | .nspawn o => some (encWord 0x05 0x00 o.enc fl)
  | .nspawnW o => some (encWord 0x05 0x01 o.enc fl)
  | .addi o => some (encWord 0x08 0x00 o.enc fl)
  | .andi o => some (encWord 0x08 0x01 o.enc fl)
  | .ori o => some (encWord 0x08 0x02 o.enc fl)
  | .xori o => some (encWord 0x08 0x03 o.enc fl)
  | .slli o => some (encWord 0x08 0x04 o.enc fl)
  | .srli o => some (encWord 0x08 0x05 o.enc fl)
  | .srai o => some (encWord 0x08 0x06 o.enc fl)
  | .slti o => some (encWord 0x08 0x07 o.enc fl)
  | .sltni o => some (encWord 0x08 0x08 o.enc fl)
  | .limm o => some (encLong 0x09 0x00 o.encHigh o.enc fl)
  | .pcaddr o => some (encWord 0x0A 0x00 o.enc fl)
  | .beq o => some (encWord 0x10 0x00 o.enc fl)
  | .bne o => some (encWord 0x10 0x01 o.enc fl)
  | .blt o => some (encWord 0x10 0x02 o.enc fl)
  | .bge o => some (encWord 0x10 0x03 o.enc fl)
  | .bltn o => some (encWord 0x10 0x04 o.enc fl)
  | .bgen o => some (encWord 0x10 0x05 o.enc fl)
  | .jal o => some (encWord 0x11 0x00 o.enc fl)
  | .jalr o => some (encHalf 0x12 0x00 o.enc fl)
  | .bqx o => some (encHalf 0x13 0x00 o.enc fl)
  | .seqlev o => some (encWord 0x14 0x00 o.enc fl)
  | .seqbind o => some (encWord 0x14 0x01 o.enc fl)
  | .seqstride o => some (encWord 0x14 0x02 o.enc fl)
  | .seqrun o => some (encWord 0x14 0x03 o.enc fl)
  | .seqhalt o => some (encWord 0x14 0x04 o.enc fl)
  | .ldS8 o => some (encWord 0x18 0x00 o.enc fl)
  | .ldS16 o => some (encWord 0x18 0x01 o.enc fl)
  | .ldS32 o => some (encWord 0x18 0x02 o.enc fl)
  | .ldS64 o => some (encWord 0x18 0x03 o.enc fl)
  | .ldN8 o => some (encWord 0x18 0x04 o.enc fl)
  | .ldN16 o => some (encWord 0x18 0x05 o.enc fl)
  | .ldN32 o => some (encWord 0x18 0x06 o.enc fl)
  | .stN8 o => some (encWord 0x18 0x08 o.enc fl)
  | .stN16 o => some (encWord 0x18 0x09 o.enc fl)
  | .stN32 o => some (encWord 0x18 0x0A o.enc fl)
  | .stN64 o => some (encWord 0x18 0x0B o.enc fl)
  | .ldq o => some (encWord 0x19 0x00 o.enc fl)
  | .atswap o => some (encWord 0x1A 0x00 o.enc fl)
  | .atadd o => some (encWord 0x1A 0x01 o.enc fl)
  | .atand o => some (encWord 0x1A 0x02 o.enc fl)
  | .ator o => some (encWord 0x1A 0x03 o.enc fl)
  | .atxor o => some (encWord 0x1A 0x04 o.enc fl)
  | .atmin o => some (encWord 0x1A 0x05 o.enc fl)
  | .atmax o => some (encWord 0x1A 0x06 o.enc fl)
  | .atminn o => some (encWord 0x1A 0x07 o.enc fl)
  | .atmaxn o => some (encWord 0x1A 0x08 o.enc fl)
  | .atcas o => some (encWord 0x1A 0x09 o.enc fl)
  | .vstream o => some (encWord 0x1B 0x00 o.enc fl)
  | .vstreamSt o => some (encWord 0x1B 0x01 o.enc fl)
  | .vsunbind o => some (encWord 0x1B 0x02 o.enc fl)
  | .vld o => some (encWord 0x1C 0x00 o.enc fl)
  | .vst o => some (encWord 0x1C 0x01 o.enc fl)
  | .vlds o => some (encWord 0x1C 0x02 o.enc fl)
  | .vsts o => some (encWord 0x1C 0x03 o.enc fl)
  | .vldx o => some (encWord 0x1C 0x04 o.enc fl)
  | .vstx o => some (encWord 0x1C 0x05 o.enc fl)
  | .vldu o => some (encWord 0x1C 0x06 o.enc fl)
  | .vstu o => some (encWord 0x1C 0x07 o.enc fl)
  | .vldbp o => some (encWord 0x1C 0x08 o.enc fl)
  | .vstbp o => some (encWord 0x1C 0x09 o.enc fl)
  | .sldsc o => some (encWord 0x1C 0x0A o.enc fl)
  | .sstsc o => some (encWord 0x1C 0x0B o.enc fl)
  | .vspill o => some (encWord 0x1C 0x0C o.enc fl)
  | .vfill o => some (encWord 0x1C 0x0D o.enc fl)
  | .vldf o => some (encLong 0x1D 0x00 o.encHigh o.enc fl)
  | .vstf o => some (encLong 0x1D 0x01 o.encHigh o.enc fl)
  | .folbind o => some (encWord 0x1E 0x00 o.enc fl)
  | .folrel o => some (encWord 0x1E 0x01 o.enc fl)
  | .folfill o => some (encWord 0x1E 0x02 o.enc fl)
  | .foldrain o => some (encWord 0x1E 0x03 o.enc fl)
  | .vldView o => some (encWord 0x1F 0x00 o.enc fl)
  | .vregView o => some (encWord 0x1F 0x01 o.enc fl)
  | .vdropView o => some (encWord 0x1F 0x02 o.enc fl)
  | .vwaitView o => some (encWord 0x1F 0x03 o.enc fl)
  | .vsetvl o => some (encWord 0x20 0x00 o.enc fl)
  | .vsettype o => some (encWord 0x20 0x01 o.enc fl)
  | .vadd o => some (encVec 0x21 0x00 o fl)
  | .vsub o => some (encVec 0x21 0x01 o fl)
  | .vrsub o => some (encVec 0x21 0x02 o fl)
  | .vmul o => some (encVec 0x21 0x03 o fl)
  | .vmulh o => some (encVec 0x21 0x04 o fl)
  | .vmin o => some (encVec 0x21 0x05 o fl)
  | .vmax o => some (encVec 0x21 0x06 o fl)
  | .vand o => some (encVec 0x21 0x07 o fl)
  | .vor o => some (encVec 0x21 0x08 o fl)
  | .vxor o => some (encVec 0x21 0x09 o fl)
  | .vadds o => some (encVec 0x21 0x0A o fl)
  | .vsubs o => some (encVec 0x21 0x0B o fl)
  | .vabs o => some (encVec 0x21 0x0C o fl)
  | .vavg o => some (encVec 0x21 0x0D o fl)
  | .vsll o => some (encVec 0x22 0x00 o fl)
  | .vsrl o => some (encVec 0x22 0x01 o fl)
  | .vsra o => some (encVec 0x22 0x02 o fl)
  | .vsrar o => some (encVec 0x22 0x03 o fl)
  | .vsrlr o => some (encVec 0x22 0x04 o fl)
  | .vnsra o => some (encVec 0x22 0x05 o fl)
  | .vfunl o => some (encVec 0x22 0x06 o fl)
  | .vfunr o => some (encVec 0x22 0x07 o fl)
  | .vmac o => some (encVec 0x23 0x00 o fl)
  | .vmacs o => some (encVec 0x23 0x01 o fl)
  | .vdot2 o => some (encVec 0x23 0x02 o fl)
  | .vdot2s o => some (encVec 0x23 0x03 o fl)
  | .vdot4 o => some (encVec 0x23 0x04 o fl)
  | .vdot4s o => some (encVec 0x23 0x05 o fl)
  | .vceq o => some (encVec 0x24 0x00 o fl)
  | .vcne o => some (encVec 0x24 0x01 o fl)
  | .vclt o => some (encVec 0x24 0x02 o fl)
  | .vcle o => some (encVec 0x24 0x03 o fl)
  | .vcgt o => some (encVec 0x24 0x04 o fl)
  | .vcge o => some (encVec 0x24 0x05 o fl)
  | .mand o => some (encVec 0x24 0x08 o fl)
  | .mor o => some (encVec 0x24 0x09 o fl)
  | .mxor o => some (encVec 0x24 0x0A o fl)
  | .mnot o => some (encVec 0x24 0x0B o fl)
  | .mpopc o => some (encVec 0x24 0x0C o fl)
  | .vslup o => some (encVec 0x25 0x00 o fl)
  | .vsldn o => some (encVec 0x25 0x01 o fl)
  | .vcompress o => some (encVec 0x25 0x02 o fl)
  | .vexpand o => some (encVec 0x25 0x03 o fl)
  | .viota o => some (encVec 0x25 0x04 o fl)
  | .vgather o => some (encVec 0x25 0x05 o fl)
  | .vmerge o => some (encVec 0x25 0x06 o fl)
  | .vmv o => some (encVec 0x25 0x07 o fl)
  | .vredsum o => some (encVec 0x26 0x00 o fl)
  | .vredsums o => some (encVec 0x26 0x01 o fl)
  | .vredmax o => some (encVec 0x26 0x02 o fl)
  | .vredmin o => some (encVec 0x26 0x03 o fl)
  | .vredand o => some (encVec 0x26 0x04 o fl)
  | .vredor o => some (encVec 0x26 0x05 o fl)
  | .vredxor o => some (encVec 0x26 0x06 o fl)
  | .vscan o => some (encVec 0x26 0x07 o fl)
  | .vfadd o => some (encVec 0x27 0x00 o fl)
  | .vfsub o => some (encVec 0x27 0x01 o fl)
  | .vfmul o => some (encVec 0x27 0x02 o fl)
  | .vfdiv o => some (encVec 0x27 0x03 o fl)
  | .vfsqrt o => some (encVec 0x27 0x04 o fl)
  | .vfmin o => some (encVec 0x27 0x05 o fl)
  | .vfmax o => some (encVec 0x27 0x06 o fl)
  | .vfabs o => some (encVec 0x27 0x07 o fl)
  | .vfneg o => some (encVec 0x27 0x08 o fl)
  | .vfsgnj o => some (encVec 0x27 0x09 o fl)
  | .vfma o => some (encVec 0x28 0x00 o fl)
  | .vfms o => some (encVec 0x28 0x01 o fl)
  | .vfnma o => some (encVec 0x28 0x02 o fl)
  | .vfnms o => some (encVec 0x28 0x03 o fl)
  | .vcvt o => some (encVec 0x29 0x00 o fl)
  | .vcvtz o => some (encVec 0x29 0x01 o fl)
  | .vquant o => some (encVec 0x2A 0x00 o fl)
  | .vdeq o => some (encVec 0x2A 0x01 o fl)
  | .vfredsum o => some (encVec 0x2B 0x00 o fl)
  | .vfredmax o => some (encVec 0x2B 0x01 o fl)
  | .vfredmin o => some (encVec 0x2B 0x02 o fl)
  | .vfscan o => some (encVec 0x2B 0x03 o fl)
  | .vfred2 o => some (encVec 0x2B 0x04 o fl)
  | .vblk o => some (encWord 0x2C 0x00 o.enc fl)
  | .lfetch o => some (encWord 0x2C 0x01 o.enc fl)
  | .mmode o => some (encWord 0x30 0x00 o.enc fl)
  | .mexit o => some (encWord 0x30 0x01 o.enc fl)
  | .tcfg o => some (encWord 0x31 0x00 o.enc fl)
  | .trel o => some (encWord 0x31 0x01 o.enc fl)
  | .tmvr o => some (encWord 0x31 0x02 o.enc fl)
  | .tmvc o => some (encWord 0x31 0x03 o.enc fl)
  | .tld o => some (encWord 0x31 0x04 o.enc fl)
  | .tst o => some (encWord 0x31 0x05 o.enc fl)
  | .mop o => some (encWord 0x32 0x00 o.enc fl)
  | .mopsp o => some (encWord 0x32 0x01 o.enc fl)
  | .mopneg o => some (encWord 0x32 0x02 o.enc fl)
  | .accmv o => some (encWord 0x33 0x00 o.enc fl)
  | .accPeek o => some (encWord 0x33 0x01 o.enc fl)
  | .acczero o => some (encWord 0x33 0x02 o.enc fl)
  | .accsp o => some (encWord 0x33 0x03 o.enc fl)
  | .accfl o => some (encWord 0x33 0x04 o.enc fl)
  | .gcvt o => some (encVec 0x38 0x00 o fl)
  | .gadd o => some (encVec 0x38 0x01 o fl)
  | .gsub o => some (encVec 0x38 0x02 o fl)
  | .gscale o => some (encVec 0x38 0x03 o fl)
  | .gsettag o => some (encVec 0x38 0x04 o fl)
  | .gtagof o => some (encVec 0x38 0x05 o fl)
  | .fnew o => some (encWord 0x39 0x00 o.enc fl)
  | .fmove o => some (encWord 0x39 0x01 o.enc fl)
  | .fsplit o => some (encWord 0x39 0x02 o.enc fl)
  | .fdel o => some (encWord 0x39 0x03 o.enc fl)
  | .fdelAdopt o => some (encWord 0x39 0x04 o.enc fl)
  | .fdelFwd o => some (encWord 0x39 0x05 o.enc fl)
  | .freclaim o => some (encWord 0x39 0x06 o.enc fl)
  | .fread o => some (encWord 0x39 0x07 o.enc fl)
  | .xcopy o => some (encLong 0x3C 0x00 o.encHigh o.enc fl)
  | .xput o => some (encLong 0x3C 0x01 o.encHigh o.enc fl)
  | .xputW o => some (encLong 0x3C 0x02 o.encHigh o.enc fl)
  | .xreduce o => some (encLong 0x3C 0x03 o.encHigh o.enc fl)
  | .xcopyView o => some (encLong 0x3C 0x04 o.encHigh o.enc fl)
  | .zenc o => some (encLong 0x3C 0x05 o.encHigh o.enc fl)
  | .zdec o => some (encLong 0x3C 0x06 o.encHigh o.enc fl)
  | .cbinit o => some (encLong 0x3D 0x00 o.encHigh o.enc fl)
  | .cbarrive o => some (encLong 0x3D 0x01 o.encHigh o.enc fl)
  | .cbwait o => some (encLong 0x3D 0x02 o.encHigh o.enc fl)
  | .cbtest o => some (encLong 0x3D 0x03 o.encHigh o.enc fl)
  | .pput o => some (encLong 0x3E 0x00 o.encHigh o.enc fl)
  | .ptake o => some (encLong 0x3E 0x01 o.encHigh o.enc fl)
  | .ptakeW o => some (encLong 0x3E 0x02 o.encHigh o.enc fl)
  | .pbnd o => some (encLong 0x3E 0x03 o.encHigh o.enc fl)
  | .pstat o => some (encLong 0x3E 0x04 o.encHigh o.enc fl)
  | .pdrain o => some (encLong 0x3E 0x05 o.encHigh o.enc fl)
  | .nop => some (encNone 0x01 0x00 fl)
  | .nend => some (encNone 0x01 0x01 fl)
  | .tret => some (encNone 0x01 0x02 fl)
  | .brk => some (encNone 0x01 0x03 fl)
  | .vjoin => some (encNone 0x01 0x04 fl)
  | .lstop => some (encNone 0x01 0x05 fl)
  | .barrierComplete _ | .spawnQueueMade _ | .lineEntry | .streamChunkFill _ | .streamEgLanded _ _
  | .folioFillComplete _ _ | .folioFillFault _ _ | .folioDrainComplete _ _ | .laneFault _ _ | .sliceIssue _ _
  | .mmodeGrant _ | .matrixQueueComplete | .xcopyComplete _ | .putWaitAccept _ | .putSourceRead _
  | .putPacketLand _ _ | .putComplete _ | .collectiveForm _ _ | .zcodecComplete _ | .cbFlipObserved _
  | .roundBoundary _ | .poolSteal _ | .poolPutWake _ _ | .dispatch _ | .priorityAging _ | .resumeListPost _
  | .resumeListTake _ | .continuationReady _ | .crossDieEdge _ _ | .queueStallTimeout | .trapEntry _
  | .pageFaultService _ | .laneReexecute _ _ _ | .scrub _ | .dieCacheEvict _ _ | .tlbShootdown _ _
  | .pageMigration _ _ _ _ | .pageSwitch _ _ _ | .viewRefreshRead _ | .viewRefreshPublish _
  | .pathArbitration _ _ | .preempt _ _ | .preemptResume _ _ | .nodeEnded _ _ | .codePageHashFail _ _ _
  | .tetherPeerEnd _ | .version _ | .launch _ | .waitForLaunch _ | .poolCreate _ | .poolEnd _ | .tetherGrant _
  | .tetherRevoke _ | .mapMemory _ | .unmap _ | .log _ | .attestationQuote _ | .enrolSigningKey _
  | .clearBootRecordAlternatives _ | .unknownService _ _ | .codexLoad _ _ | .hostMailboxRequest _
  | .quoteRequest _ | .packageStart _ | .powerLoss | .xcopyViewComplete _ | .partitionCreate _
  | .partitionResize _ _ _ | .debugStep => none

/-! Lines (R116 to R119). -/

/-- An instruction line as its 32 half-words in ascending address order (R116). -/
abbrev Line := List (BitVec 16)

/-- Half-word `i` of a line (R116). -/
def halfWord (line : Line) (i : Nat) : BitVec 16 := line.getD i 0

/-- The helper tl of R118, in half-words. -/
def tailLen (tl : Nat) : Nat := if tl = 3 then 4 else tl

/-- The value of a list of half-words, the first in the lowest bits (R118). -/
def halvesValue : List (BitVec 16) → Nat
  | [] => 0
  | h :: r => h.toNat + 2 ^ 16 * halvesValue r

/-- The half-words of a value, lowest first. -/
def valueHalves : Nat → Nat → List (BitVec 16)
  | 0, _ => []
  | k + 1, v => BitVec.ofNat 16 v :: valueHalves k (v / 2 ^ 16)

/-- The tail of `len` half-words that ends below the `t` half-words of the earlier tails (R118). -/
def tailBits (line : Line) (t len : Nat) : BitVec 64 :=
  BitVec.ofNat 64 (halvesValue ((line.drop (32 - t - len)).take len))

/-- `decode_line` of R119 from head `i` on, with `t` half-words of tails taken: the heads with their tails, or the head index
of the Line Format fault. -/
def lineFrom (line : Line) : Nat → Nat → Nat → Except Nat (List (BitVec 16 × BitVec 64))
  | 0, _, _ => .ok []
  | fuel + 1, i, t =>
    if i + t = 32 then .ok []
    else
      let h := halfWord line i
      if h.extractLsb' 8 8 = 0 then
        if h.extractLsb' 0 8 = 0 then .ok [] else .error i
      else
        let l := tailLen (h.extractLsb' 14 2).toNat
        if i + 1 + t + l > 32 then .error i
        else
          match lineFrom line fuel (i + 1) (t + l) with
          | .ok r => .ok ((h, tailBits line t l) :: r)
          | .error k => .error k

/-- `decode_line` of R119: the executable heads of a line with their tails. -/
def lineHeads (line : Line) : Except Nat (List (BitVec 16 × BitVec 64)) := lineFrom line 32 0 0

/-- A line that holds one instruction: its head in half-word 0 and its tail at the top (R118), every other half-word zero. -/
def oneLine (head : BitVec 16) (tail : BitVec 64) : Line :=
  let l := tailLen (head.extractLsb' 14 2).toNat
  head :: (List.replicate (31 - l) 0 ++ valueHalves l tail.toNat)

/-- The instruction the decoder reads from `nbits` bits laid out as the part stores them: the first half-word is the head and
the following ones are its tail, lowest half-word first. -/
noncomputable def decodeTableWord (nbits w : Nat) : Option Instr :=
  let v := w % 2 ^ nbits
  match lineHeads (oneLine (BitVec.ofNat 16 v) (BitVec.ofNat 64 (v >>> 16))) with
  | .ok ((h, t) :: _) => (decode h t).map Prod.fst
  | .ok [] => none
  | .error _ => none

end Sys2Proof
end

