-- ==== Sys2Proof/Machine/State.lean ====
section
/-! DEFINITION. The state of the machine: everything the spec gives it, as plain data. One `State` is a pod of packages with
their threads, memories, engines, partitions and boot; `State.t` is the thread that is running its turn, `State.parked` the
other threads. Package, core and die numbers of the pod: core = package × 384 + core number of R12, die = package × 8 + die. -/

namespace Sys2Proof.Machine

/-- Why the machine stops. -/
inductive Fault where
  /-- Raised by `step` when a start has stopped at a required step (R464) and nothing from outside follows. Safe: the spec says
  that the part does not go on. -/
  | startStopped (step : Nat)
  deriving DecidableEq, Repr

/-- Why an instruction has no meaning. -/
inductive Refusal where
  /-- Raised only by `exec`'s arm of an instruction that has no meaning yet. Safe: nothing is claimed of it. -/
  | notModelled (mnemonic : String)
  deriving DecidableEq, Repr

/-! ## Memory -/

/-- Bytes by key, in one canonical form: keys strictly rising, no entry equal to what an unlisted key reads as (log 2). A key
below 2^52 is a physical address (R153); above it lie the folio bytes, by core, space and offset (R144). -/
abbrev Memory := List Host.Cell

/-- What an unlisted byte reads as (log 2: DESIGN CHOICE, the spec gives memory no reset contents). -/
def Memory.unlisted : Byte := 0

/-- Coherence places by key (R367), strictly rising, no entry 0; an unlisted byte has place 0. -/
abbrev SeqMap := List (Nat × Nat)

/-- A write of an agent that counts among its own (R349): byte key, value, first byte of its single-copy unit (R352), its
place in the coherence order (0 before its first publication), the widest scope it is published at (0 for none), and whether a
snapshot of the agent has followed its publication. -/
structure OwnWrite where
  key : Nat
  val : Byte
  unit : Nat
  seq : Nat
  scope : Nat
  seen : Bool
  deriving DecidableEq, Repr

/-- What made a write that stands at a point of coherence: a store, an atomic, or a frame event, which other agents see whenever they
take a snapshot at its scope or wider (R337). -/
inductive WriteKind where
  | store | atomic | event
  deriving DecidableEq, Repr

/-- A byte that stands at a point of coherence narrower than .pkg (R362, R366): scope code 1 to 3 and the core, quad or die, and what
has acted on it there, an atomic or a frame event if any has (R224). -/
structure Narrow where
  key : Nat
  val : Byte
  unit : Nat
  kind : WriteKind
  seq : Nat
  scope : Nat
  place : Nat
  part : Nat
  deriving DecidableEq, Repr

/-- A 4 KiB block of a Z page that lies compressed in memory (R285): block number, SECT and image. -/
structure ZBlock where
  block : Nat
  sect : Nat
  image : List Byte
  deriving DecidableEq, Repr

/-- A TLB entry (R158): partition, package of the tables, first virtual address, page size in bits, physical page, rights. -/
structure TlbEntry where
  part : Nat
  pkg : Nat
  va : Nat
  size : Nat
  pa : Nat
  r : Bool
  w : Bool
  x : Bool
  z : Bool
  dirty : Bool
  deriving DecidableEq, Repr

/-- The TLB of a core (place = core) or of a die (place = 2^20 + die), oldest entry first. -/
structure Tlb where
  place : Nat
  entries : List TlbEntry
  deriving DecidableEq, Repr

/-- The states of a folio-table entry (R148). -/
inductive FolioState where
  | empty | filling | ready | draining
  deriving DecidableEq, Repr

/-- What the last xcopy.view completed into a folio delivered (R412): the view's partition and handle, first image element, count,
destination and scale destination, and the lowest freshness. -/
structure ViewMark where
  part : Nat
  handle : Nat
  first : Nat
  count : Nat
  dst : Word
  sdst : Word
  fresh : Nat
  deriving DecidableEq, Repr

/-- An entry of a core's folio table (R146). `owners` holds the threads bound to it, none when retained; `data` what its fill
read at its start, or what its write-back has to write (R148); `bad` the class and address of the fault its fill met (R149);
`scope` the scope of the write-back in progress and
`pages` the key of each KiB of FROM when the releasing instruction has checked it (R469). -/
structure FolioEntry where
  core : Nat
  index : Nat
  space : Nat
  basek : Nat
  sizek : Nat
  src : Nat
  state : FolioState
  owners : List Nat
  launch : Nat
  keep : Bool
  drain : Bool
  clean : Bool
  view : Option ViewMark
  data : Option (List Byte)
  bad : Option (Nat × Nat)
  scope : Nat
  pages : List Nat
  part : Nat
  deriving DecidableEq, Repr

/-! ## Threads -/

/-- The control registers of a thread (R186), as the raw values their fields hold. -/
structure Ctl where
  vtype : Word
  vl : Nat
  vstart : Nat
  vdirty : BitVec 32
  vcommit : Nat
  frm : BitVec 5
  fflags : BitVec 6
  sat : BitVec 3
  tgeom0 : Word
  tgeom1 : Word
  tgeom2 : Word
  tgeom3 : Word
  pbnd : Vector Nat 4
  tcause : Nat
  tpc : Word
  tval : Word
  telem : Nat
  tvec : Word
  qimg : Bool
  seqt : Bool
  inh : Bool
  tscr : Word
  crec : Word
  clive : Word
  deriving DecidableEq, Repr

/-- The modes that an execute-stream instruction takes at its place in program order (R43, R187): vtype, vl and frm. -/
structure Env where
  vtype : Word
  vl : Nat
  frm : BitVec 5
  deriving DecidableEq, Repr

/-- The modes that the control registers hold. -/
def Ctl.env (c : Ctl) : Env := { vtype := c.vtype, vl := c.vl, frm := c.frm }

/-- The control registers with other modes. -/
def Ctl.withEnv (c : Ctl) (e : Env) : Ctl := { c with vtype := e.vtype, vl := e.vl, frm := e.frm }

/-- A running replay (R183): the body's PCs, the PC after it, the levels in use, the indices, the bases, the place in the
body, and whether the pass has begun, so that its bound registers are written. -/
structure Replay where
  body : List Word
  endPc : Word
  levels : Nat
  idx : Vector Nat 6
  bases : Vector Word 8
  pos : Nat
  begun : Bool
  deriving DecidableEq, Repr

/-- An execute-stream instruction on its way: its PC, head and tail, the s registers captured by the access stream (R133), the
value it popped on entering the vector queue, whether a younger access-stream write has overtaken its s register (R163), the replay it
was decoded in (R184), how many queue images it has been held in and replayed from (R440), its number among the instructions that the
access stream has passed (R438), and for the sequencer's choice when it entered its queue, since when it has been issuable and how many
of its EG-slices have issued (R81). -/
structure XEntry where
  pc : Word
  head : BitVec 16
  tail : BitVec 64
  sregs : Vector Word 32
  pop : Option Word
  dead : Bool
  pass : Option Replay
  image : Nat
  num : Nat
  age : Nat
  since : Nat
  slices : Nat
  deriving DecidableEq, Repr

/-- The context in which a queued instruction or a lane instruction runs: the entry, and the lane thread, if any. -/
structure XCtx where
  entry : XEntry
  lane : Option Nat
  deriving DecidableEq, Repr

/-- The configuration of the nested-loop sequencer (R181). -/
structure SeqConf where
  counts : Vector Nat 6
  binds : Vector (Option (BitVec 5)) 8
  strides : Vector (Vector Int 8) 6
  deriving DecidableEq, Repr

/-- A stream binding (R216 to R219): the register, store or load, the element type of vtype at the binding, the descriptor's
sixteen words, c, q, the live mask (0 for none), whether the current chunk has been read, its landed bits, the fault its fill met (element
and trap) with the tgeom1 of a retag fault, and the retags of each element read so far (R330). -/
structure Binding where
  vd : Nat
  store : Bool
  ety : Nat
  desc : List Word
  c : Nat
  q : Nat
  live : Nat
  filled : Bool
  landed : BitVec 32
  bad : Option (Nat × Trap)
  geom : Word
  retags : List Nat
  deriving DecidableEq, Repr

/-- The state of a lane thread (R270 to R275). -/
inductive LaneStatus where
  | running
  | ended
  | faulted (tr : Trap) (tpc : Word) (held : Bool)
  deriving DecidableEq, Repr

/-- A lane thread: its EG, PC, line and status, the tgeom1 of its fault (R275, R330), and for the sequencer's choice since when its
instruction stands and whether that has issued (R81). -/
structure Lane where
  g : Nat
  pc : Word
  line : Line
  status : LaneStatus
  geom : Word
  since : Nat
  issued : Bool
  deriving DecidableEq, Repr

/-- The lane threads that a vblk started, with what it captured (R270): the s registers, the modes and the stream bindings; and the
stream-bound registers they have read. -/
structure LaneRun where
  lanes : List Lane
  sregs : Vector Word 32
  env : Env
  binds : List Binding
  read : List Nat
  deriving DecidableEq, Repr

/-- A tile's type and shape (R303). -/
structure TileShape where
  ty : Nat
  nr : Nat
  nc : Nat
  deriving DecidableEq, Repr

/-- A configured tile: element (r, c) lies at bit (r × nc + c) × w. -/
structure Tile where
  shape : TileShape
  data : BitVec 65536
  deriving DecidableEq, Repr

/-- The matrix state that the checks use (R296). -/
structure MatCheck where
  mtype : Nat
  tiles : Vector (Option TileShape) 4
  deriving DecidableEq, Repr

/-- The matrix state as the unit holds it (R293, R298): cell (i, j) of an accumulator lies at bit (i × mvl + j) × cell width.
`steps` counts the steps of each accumulator since mmode (R314). -/
structure MatUnit where
  mtype : Nat
  steps : Vector Nat 2
  acc : Vector (BitVec 131072) 2
  tiles : Vector (Option Tile) 4
  deriving DecidableEq, Repr

/-- A posted matrix instruction with its captured operands (R297). -/
inductive MatOp where
  | mmode (ty : Nat)
  | mexit
  | tcfg (ta : Nat) (shape : TileShape)
  | trel (ta : Nat)
  | tmvr (ta ty r vl : Nat) (vs : VReg) (frm : Nat) (sat : Bool)
  | tmvc (vd ta ty c : Nat) (frm : Nat) (sat tp : Bool)
  | tld (ta : Nat) (base st : Int)
  | tst (ta : Nat) (rows : List (List (Nat × Nat)))
  | mop (ad ta tb : Nat) (neg : Bool) (mask : Option Nat) (ea eb : EReg) (frm : Nat)
  | accmv (vd ad ty r : Nat) (frm : Nat) (sat tp : Bool)
  | acczero (ad : Nat)
  | accsp (ad base entry : Nat)
  | accfl (ad base : Nat)
  deriving DecidableEq, Repr

/-- What a thread does when it waits outside its instruction stream. -/
inductive TStatus where
  /-- the slot is free -/
  | free
  | running
  /-- a page fault is with Horsil (R436): the trap, and whether it is a resume's (R470) -/
  | pageFault (tr : Trap) (resume : Bool)
  /-- the node has ended and completes by R74: STATUS, CLASS, UNIT and ADDR of its completion entry (R437) -/
  | ending (status cls unit addr : Nat)
  /-- halted by the debugger between steps (R87) -/
  | halted
  deriving DecidableEq, Repr

/-- A scalar control thread with everything that is its own. `uid` names it for good, across suspension and pre-emption; `arg` and `stack` are its node's ARG and the top of its private stack;
`flows` marks a PC that control reaches by sequential flow out of a replay or a queue image, without a line before it (R122). `replayHeld` (the
trapping instruction's replay, R184), `laneHeld`, `dropHeld` (the run that a bqx drops, R142), `rpc` with its replay `rpcReplay`, its flow
`rpcFlows` and what had been decoded before it, `rpcDecodes`, and `imageEnv` (the modes at the trapping instruction's place, then those behind each image that it interrupts) are what a trap holds
for tret (R189, R275, R440); while images replay, `shadow` holds the modes that stand again behind each of them, innermost first. `decodes` counts
the instructions that the access stream has passed (R438), `limit` is the element at which the running instruction stops short of its
vl, none between instructions. `seen` holds n_obs of each master, by `born` (R407); `image` and
`imageDec` are the queue image: what had entered the vector queue, and what had only been decoded (R438); `stepping` marks a thread
that the debugger lets run one instruction (R87). -/
structure Thread where
  uid : Nat
  core : Nat
  slot : Nat
  part : Nat
  launch : Nat
  node : Nat
  spawned : Bool
  team : Nat
  tci : Nat
  prio : Nat
  kind : Nat
  spawnCb : Word
  spawnDesc : Word
  arg : Word
  stack : Word
  status : TStatus
  s : Vector Word 32
  pc : Word
  line : Option (Word × Line)
  flows : Bool
  ctl : Ctl
  v : Vector VReg 32
  m : Vector VReg 8
  e : Vector EReg 16
  dq : Vector (List Word) 4
  bq : List Bool
  dropRun : Nat
  dropHeld : Nat
  vq : List XEntry
  xdec : List XEntry
  xctx : Option XCtx
  image : List XEntry
  imageDec : List XEntry
  imageEnv : List Env
  shadow : List Env
  decodes : Nat
  limit : Option Nat
  rpc : Word
  rpcReplay : Option Replay
  rpcFlows : Bool
  rpcDecodes : Nat
  seq : SeqConf
  replay : Option Replay
  replayHeld : Option Replay
  binds : List Binding
  lanes : Option LaneRun
  laneHeld : Option LaneRun
  mchk : Option MatCheck
  mexiting : Bool
  mwait : Nat
  mq : List MatOp
  munit : Option MatUnit
  floors : List (Nat × Nat)
  handles : List (Option Nat)
  snap : Memory
  snapSeq : SeqMap
  own : List OwnWrite
  seen : List (Nat × Nat)
  barCount : Vector Nat 6
  arrived : Option Scope
  stepping : Bool
  deriving DecidableEq, Repr

/-! ## Partitions, launches and the scheduler -/

/-- A range of a partition's virtual space on one package that only the view engine may touch (R402), with the partition that
registered the view and its handle. -/
structure Guard where
  pkg : Nat
  base : Nat
  size : Nat
  owner : Nat
  handle : Nat
  deriving DecidableEq, Repr

/-- A partition (R25): its number, whose low six bits are its slot on each package where it holds quads (log 28), quads (package × 96 +
quad), translation root per package (R155), memory shares as physical bases with numbers of 1 GiB units, reserved units (R26), catalogue
(R318), take count (R423), guarded ranges, private-area tops by core × 8 + slot with their size (R152), resume list (R78). -/
structure Partition where
  slot : Nat
  quads : List Nat
  roots : List (Nat × Nat)
  shares : List (Nat × Nat)
  units : List (Path × Nat)
  catPkg : Nat
  catBase : Nat
  catSize : Nat
  tc : Nat
  guards : List Guard
  stackTops : List (Nat × Word)
  stackSize : Nat
  resume : List Nat
  ended : Bool
  deriving DecidableEq, Repr

/-- A tether (R386): its number on either side, sender, receiver with the package and place of the window, and its state. -/
structure Tether where
  sender : Nat
  senderTid : Nat
  receiver : Nat
  receiverTid : Nat
  pkg : Nat
  base : Nat
  size : Nat
  revoked : Bool
  ended : Bool
  deriving DecidableEq, Repr

/-- The state of a node of a launch. -/
inductive NodeState where
  | waiting | ready | running | done
  deriving DecidableEq, Repr

/-- A node of a launch: its descriptor's eight words (R65), the global die that owns it (R67), its open predecessors on its own
die, whether it waits for its edge barrier (R68), its folio list. -/
structure Node where
  index : Nat
  desc : List Word
  die : Nat
  left : Nat
  crossLeft : Nat
  state : NodeState
  folios : List (Word × Word)
  succs : List Nat
  deriving DecidableEq, Repr

/-- A launch: number, partition, header fields (R64), nodes, spawned nodes not yet ended, completion-queue slots reserved by
commands (R378), class of the first failing node entry, final entry made or not, entries that wait for a free slot. -/
structure Launch where
  num : Nat
  part : Nat
  edge : Word
  cq : Word
  args : Word
  cqPkg : Nat
  nodes : List Node
  spawnedLeft : Nat
  reserved : Nat
  failed : Option Nat
  finished : Bool
  waiting : List (List Word)
  deriving DecidableEq, Repr

/-- A spawned node before its dispatch (R198, R199). -/
structure Spawn where
  part : Nat
  launch : Nat
  die : Nat
  pc : Word
  arg : Word
  cb : Word
  prio : Nat
  kind : Nat
  vtype : Word
  vl : Nat
  desc : Word
  deriving DecidableEq, Repr

/-- What waits in a ready pool (R69). -/
inductive Work where
  | node (launch index : Nat)
  | spawned (sp : Spawn)
  | resume (cont : Nat)
  deriving DecidableEq, Repr

/-- An entry of a die's ready pool: work, partition, priority, cycle of entry, aged or not (R70), in the resume list or not
(R78). Entries stand in arrival order. -/
structure Ready where
  die : Nat
  part : Nat
  work : Work
  prio : Nat
  since : Nat
  aged : Bool
  listed : Bool
  deriving DecidableEq, Repr

/-- The operation that a suspended thread waits for (R76). -/
inductive Waiting where
  | put (cmd : Nat)
  | take (pool : Nat)
  | barrier (addr : Word) (phase : Bool)
  | view (handlePol range : Word)
  | spawn (sp : Spawn)
  | done
  deriving DecidableEq, Repr

/-- A suspended continuation (R76 to R78): its number, the thread's identity and waiting state, the record's address, the
operation, and the destination registers with their results once it has finished. -/
structure Cont where
  id : Nat
  th : Thread
  record : Word
  waiting : Waiting
  dests : List (BitVec 5)
  results : List Word
  deriving DecidableEq, Repr

/-- A pre-empted thread, saved with its quad and its folio entries, and the area in its partition's space that holds it (R451). -/
structure Saved where
  th : Thread
  quad : Nat
  folios : List FolioEntry
  area : Word
  deriving DecidableEq, Repr

/-! ## Engines -/

/-- The engine commands of R375. -/
inductive CmdKind where
  | xcopy | xput | xreduce | xcopyView | zenc | zdec
  deriving DecidableEq, Repr

/-- An accepted engine command, or an xput.w's put that waits in its channel (R385): its issuer, descriptor and operands (for a
put the destination and the signalled barrier with their partition, for a codec command source and destination), the barrier of
FC, the folio entries it names, what a view policy needs, and how far it has come: the source bytes read, those landed with
their places in the coherence order, and the status and address met. -/
structure Cmd where
  id : Nat
  uid : Nat
  core : Nat
  slot : Nat
  part : Nat
  launch : Nat
  kind : CmdKind
  chan : Nat
  pc : Word
  desc : List Word
  cb : Option Word
  arg0 : Word
  arg1 : Word
  count : Nat
  peer : Nat
  folS : Option Nat
  folD : Option Nat
  needs : Nat
  waitingSlot : Bool
  srcRead : Bool
  bytes : List Byte
  carry : List (Nat × Nat × Byte)
  status : Nat
  addr : Nat
  deriving DecidableEq, Repr

/-- An open collective (R388): partition, key, word 0 without PIX, N, the arrivals by index and command. -/
structure Collective where
  part : Nat
  key : Word
  word0 : Nat
  n : Nat
  arrivals : List (Nat × Nat)
  deriving DecidableEq, Repr

/-- Bytes that decrements counted into a phase of a count barrier (R390, R395): the barrier's key, the phase number, and each
byte with the place and value of the command's write. -/
structure Carried where
  barrier : Nat
  phase : Nat
  bytes : List (Nat × Nat × Byte)
  deriving DecidableEq, Repr

/-- A barrier's phase number: how many phases have completed since the model first saw it. -/
abbrev PhaseCount := Nat × Nat

/-- A master tensor (R400, R403): `born` tells it from another master of the same id, `blockPa` holds where its blocks lie. The
last publications by scope serve n_obs (R407): at .pod, at .pkg or wider, and each one at .die with its die and its bytes' keys and places
in the coherence order. -/
structure Master where
  id : Nat
  part : Nat
  born : Nat
  pkg : Nat
  base : Word
  mtype : Nat
  ndim : Nat
  ext : Vector Nat 4
  rs : Nat
  pc : Nat
  blockPa : List Nat
  podP : Nat
  pkgP : Nat
  dieP : List (Nat × Nat × List (Nat × Nat))
  deriving DecidableEq, Repr

/-- The states of a view block (R404). -/
inductive BlockState where
  | fresh | stale | refreshing | faulted
  deriving DecidableEq, Repr

/-- A view block of one copy: the global die whose view engine keeps it, its state, F, mark, served elements and scales, and the
slot under refresh with its count. -/
structure Block where
  die : Nat
  state : BlockState
  f : Nat
  marked : Bool
  elems : List Nat
  scales : List Nat
  nextElems : List Nat
  nextScales : List Nat
  c : Nat
  deriving DecidableEq, Repr

/-- One copy of a view: the die whose readers read it, for a broadcast view, and its blocks (R401, R405). -/
structure Copy where
  die : Nat
  blocks : List Block
  deriving DecidableEq, Repr

/-- A registered view (R401, R408): partition, handle, descriptor, copies, sticky flag words (R405). -/
structure View where
  part : Nat
  handle : Nat
  desc : List Word
  copies : List Copy
  fflags : BitVec 6
  sat : BitVec 3
  deriving DecidableEq, Repr

/-- An element of a priority pool (R414, R416, R423). -/
structure Elem where
  key : Nat
  payload : Nat
  order : Nat × Nat × Nat
  stamp : Nat
  deriving DecidableEq, Repr

/-- A shelf's summary of a boundary (R417). -/
structure Summary where
  count : Nat
  pseq : Nat
  lowest : List Elem
  deriving DecidableEq, Repr

/-- A put accepted on a shelf and not yet linearised, with its thread (R416, R428). -/
structure Put where
  uid : Nat
  key : Nat
  payload : Nat
  seq : Nat
  deriving DecidableEq, Repr

/-- A shelf (R414): global die, elements, accepted puts, its puts since creation, its accepted puts counted for their order, the
summary of the latest boundary and of the one before, its takes since the boundary. -/
structure Shelf where
  die : Nat
  elems : List Elem
  puts : List Put
  pseq : Nat
  accepted : Nat
  now : Summary
  before : Summary
  takes : Nat
  deriving DecidableEq, Repr

/-- A ptake under way (R419, R422): number, thread and PC of its instruction, the die it runs on, bound, boundaries passed at
its issue, the boundary after which a steal was last tried (plus 1; 0 for none), and what a steal served. -/
structure PoolTake where
  id : Nat
  uid : Nat
  pc : Word
  frm : Nat
  bound : Nat
  since : Nat
  tried : Nat
  served : Option Elem
  deriving DecidableEq, Repr

/-- A pdrain that removes elements (R432): its thread and PC, and once the boundary has passed how many it removed. -/
structure PoolDrain where
  uid : Nat
  pc : Word
  removed : Option Nat
  deriving DecidableEq, Repr

/-- A priority pool (R414 to R432): moved elements in flight with their source and destination dies, takes under way, suspended
takes in arrival order, whether the latest boundary held puts back (R420), the pdrains under way, TC as of the latest
boundary, whether the two latest boundaries meet R422, how many boundaries it has seen. -/
structure Pool where
  part : Nat
  num : Nat
  cap : Nat
  limit : Nat
  pkg : Nat
  closed : Bool
  shelves : List Shelf
  moving : List (Nat × Nat × Elem)
  takes : List PoolTake
  waiters : List Nat
  held : Bool
  drainers : List PoolDrain
  tcAt : Nat
  emptyRun : Bool
  passed : Nat
  deriving DecidableEq, Repr

/-! ## Horsil, boot and errors -/

/-- An entry of a die's error log (R444). -/
structure ErrEntry where
  die : Nat
  word0 : Word
  word1 : Word
  deriving DecidableEq, Repr

/-- A loaded codex (R457, R458): partition, places of its images, code as relocated and as its file holds it, hashes by page of
the code, node records with the addresses of their folio lists, its launches. -/
structure Codex where
  part : Nat
  codeBase : Word
  dataBase : Word
  code : List Byte
  file : List Byte
  hashes : List Byte
  records : List (List Word)
  control : List Byte
  launches : List Nat
  deriving DecidableEq, Repr

/-- How a start left one unit of a step (R465): the rate or slot used, by its number among the step's choices, succeeded or not. -/
structure UnitResult where
  setting : Nat
  ok : Bool
  deriving DecidableEq, Repr

/-- The entry of one step in the boot record of a start (R465): the step and, in order, the results of its units (a link, a port, a codex). -/
structure BootEntry where
  step : Nat
  units : List UnitResult
  deriving DecidableEq, Repr

/-- A secret sealed to measurement registers M0 to M2, with the values they held (R462). -/
structure Sealed where
  secret : List Byte
  m : List (BitVec 256)
  deriving DecidableEq, Repr

/-- The start of a package, what it measured, its key store and its host port (R462, R464 to R467): whether the start runs or has stopped, the
step and unit it is at, the record of the last 8 starts (the present one last), the units skipped in this start, where a stopped
start reports its record (true: host port), the lowest NVMe port that trained, M0 to M7, the measurement log, the enrolled keys, the quotes
given, the sealed secrets and those released in this start, the bytes of BAR0, the windows that the host has. -/
structure Boot where
  running : Bool
  stopped : Bool
  step : Nat
  unit : Nat
  record : List (List BootEntry)
  skipped : List (Nat × Nat)
  report : Option Bool
  nvme : Nat
  m : Vector (BitVec 256) 8
  mlog : List (Nat × BitVec 256)
  keys : List (BitVec 512)
  quotes : List (List Byte)
  secrets : List Sealed
  released : List (List Byte)
  mailbox : Memory
  windows : List HostWindow
  deriving DecidableEq, Repr

/-- A core's sampling generator (R441): its value once it has stepped, and what it selected for the latest checked instruction: an
element, or the index of a tree node. -/
structure Sampling where
  core : Nat
  value : BitVec 32
  chosen : Nat
  deriving DecidableEq, Repr

/-- What moves next: a happening with what it brings, or the thread of a core and slot (log 3). -/
inductive Turn where
  | event (i : Instr)
  | thread (core slot : Nat)
  deriving DecidableEq, Repr

/-- A page migration under way (R397): partition, package of the tables, virtual address, new physical page. -/
structure Move where
  part : Nat
  pkg : Nat
  va : Word
  newPa : Nat
  deriving DecidableEq, Repr

/-- The machine. `t` is the thread whose turn it is. `flips` holds word 0 of a count barrier as its latest flip left it (R392), `zpages` pages
with their sizes and the Z bit of the latest leaf known (R159), `cxl` the pages of CXL memory that Horsil has given, with their partitions
(R25), `boundary` the round boundaries that each package has passed (R416), `samples` each core's sampling generator once it has stepped
(R441), `replies` the answers to control programs and the host, `granted` the matrix units by core and thread, `issued` what the vector
sequencer issued last (R81), `arbiter` what each shared path granted last, by partition (R27), `boots` the starts by package, one that is not
listed at its reset. `agenda` and `stalled` (log 3) and `fresh` (log 4) are the model's own. -/
structure State where
  t : Thread
  parked : List Thread
  home : Memory
  homeSeq : SeqMap
  narrow : List Narrow
  pubs : Nat
  poison : List Nat
  badPages : List (Nat × Nat × Nat)
  zblocks : List ZBlock
  zpages : List (Nat × Nat × Bool)
  tlbs : List Tlb
  folios : List FolioEntry
  parts : List Partition
  cxl : List (Nat × Nat × Nat)
  tethers : List Tether
  launches : List Launch
  nextLaunch : Nat
  nextUid : Nat
  ready : List Ready
  spawnUsed : List (Nat × Nat × Nat)
  spawnQueue : List Nat
  conts : List Cont
  nextCont : Nat
  saved : List Saved
  cmds : List Cmd
  nextCmd : Nat
  colls : List Collective
  carried : List Carried
  phases : List PhaseCount
  flips : List (Nat × Nat)
  masters : List Master
  views : List View
  pools : List Pool
  boundary : List (Nat × Nat)
  chains : List (Nat × List Nat)
  cycle : Nat
  samples : List Sampling
  errLog : List ErrEntry
  errLost : List (Nat × Nat)
  hlog : List Byte
  codices : List Codex
  replies : List (Word × Word)
  granted : List (Nat × Nat)
  issued : Option Slice
  arbiter : List (Path × List (Nat × Nat))
  moves : List Move
  agenda : List Turn
  stalled : Bool
  fresh : Nat
  boots : List (Nat × Boot)
  deriving DecidableEq, Repr

/-- The control registers at node start (R45, R186). -/
def Ctl.start : Ctl where
  vtype := 0
  vl := 0
  vstart := 0
  vdirty := 0
  vcommit := 0
  frm := 0
  fflags := 0
  sat := 0
  tgeom0 := 0
  tgeom1 := 0
  tgeom2 := 0
  tgeom3 := 0
  pbnd := Vector.replicate 4 64
  tcause := 0
  tpc := 0
  tval := 0
  telem := 0
  tvec := 0
  qimg := false
  seqt := false
  inh := false
  tscr := 0
  crec := 0
  clive := 0

/-- The sequencer's reset configuration (R181). -/
def SeqConf.start : SeqConf where
  counts := Vector.replicate 6 1
  binds := Vector.replicate 8 none
  strides := Vector.replicate 6 (Vector.replicate 8 0)

/-- A thread slot with every register at its value at node start (R72) and no node. At package reset this is the record of a
slot that no node has used (log 1: DESIGN CHOICE for the registers that only a node start gives a value). -/
def Thread.blank : Thread where
  uid := 0
  core := 0
  slot := 0
  part := 0
  launch := 0
  node := 0
  spawned := false
  team := 0
  tci := 0
  prio := 0
  kind := 0
  spawnCb := 0
  spawnDesc := 0
  arg := 0
  stack := 0
  status := .free
  s := Vector.replicate 32 0
  pc := 0
  line := none
  flows := false
  ctl := Ctl.start
  v := Vector.replicate 32 0
  m := Vector.replicate 8 0
  e := Vector.replicate 16 0
  dq := Vector.replicate 4 []
  bq := []
  dropRun := 0
  dropHeld := 0
  vq := []
  xdec := []
  xctx := none
  image := []
  imageDec := []
  imageEnv := []
  shadow := []
  decodes := 0
  limit := none
  rpc := 0
  rpcReplay := none
  rpcFlows := false
  rpcDecodes := 0
  seq := SeqConf.start
  replay := none
  replayHeld := none
  binds := []
  lanes := none
  laneHeld := none
  mchk := none
  mexiting := false
  mwait := 0
  mq := []
  munit := none
  floors := []
  handles := []
  snap := []
  snapSeq := []
  own := []
  seen := []
  barCount := Vector.replicate 6 0
  arrived := none
  stepping := false

/-- The boot state of a package at its reset: the start is about to run step 0, M0 to M7 read zero (R464). -/
def Boot.start : Boot where
  running := true
  stopped := false
  step := 0
  unit := 0
  record := [[]]
  skipped := []
  report := none
  nvme := 0
  m := Vector.replicate 8 0
  mlog := []
  keys := []
  quotes := []
  secrets := []
  released := []
  mailbox := []
  windows := []

/-- The machine right after package reset: no partition, no thread, memory with nothing listed, the start before its step 0
(R464). -/
def State.reset : State where
  t := Thread.blank
  parked := []
  home := []
  homeSeq := []
  narrow := []
  pubs := 0
  poison := []
  badPages := []
  zblocks := []
  zpages := []
  tlbs := []
  folios := []
  parts := []
  cxl := []
  tethers := []
  launches := []
  nextLaunch := 1
  nextUid := 1
  ready := []
  spawnUsed := []
  spawnQueue := []
  conts := []
  nextCont := 1
  saved := []
  cmds := []
  nextCmd := 1
  colls := []
  carried := []
  phases := []
  flips := []
  masters := []
  views := []
  pools := []
  boundary := []
  chains := []
  cycle := 0
  samples := []
  errLog := []
  errLost := []
  hlog := []
  codices := []
  replies := []
  granted := []
  issued := none
  arbiter := []
  moves := []
  agenda := []
  stalled := false
  fresh := 0
  boots := []

end Sys2Proof.Machine
end

