-- ==== Sys2Proof/Machine/Memory.lean ====
section
/-! DEFINITION. Memory as a canonical list of cells (R3), coherence places, byte strings in little-endian order, byte keys. -/

namespace Sys2Proof.Machine

/-- The byte at a key (R3; log 2 for a byte nothing has written). -/
def Memory.read : Memory → Nat → Byte
  | [], _ => Memory.unlisted
  | (k, b) :: r, a => if a = k then b else if a < k then Memory.unlisted else Memory.read r a

/-- Writes one byte and keeps the canonical form. -/
def Memory.write : Memory → Nat → Byte → Memory
  | [], a, v => if v = Memory.unlisted then [] else [(a, v)]
  | (k, b) :: r, a, v =>
    if a = k then (if v = Memory.unlisted then r else (a, v) :: r)
    else if a < k then (if v = Memory.unlisted then (k, b) :: r else (a, v) :: (k, b) :: r)
    else (k, b) :: Memory.write r a v

/-- Every key of the list lies above `a`. -/
def Memory.above (a : Nat) : Memory → Bool
  | [] => true
  | (k, _) :: _ => decide (a < k)

/-- The canonical form: keys strictly rising, no entry equal to what an unlisted byte reads as. -/
def Memory.wf : Memory → Bool
  | [] => true
  | (k, b) :: r => decide (b ≠ Memory.unlisted) && Memory.above k r && Memory.wf r

/-- The coherence place of a byte (R367), 0 when nothing has been published to it. -/
def SeqMap.get : SeqMap → Nat → Nat
  | [], _ => 0
  | (k, q) :: r, a => if a = k then q else if a < k then 0 else SeqMap.get r a

/-- Sets the coherence place of a byte. -/
def SeqMap.set : SeqMap → Nat → Nat → SeqMap
  | [], a, q => [(a, q)]
  | (k, p) :: r, a, q =>
    if a = k then (a, q) :: r else if a < k then (a, q) :: (k, p) :: r else (k, p) :: SeqMap.set r a q

/-- The value of bytes in ascending address order (R3). -/
def leNat : List Byte → Nat
  | [] => 0
  | b :: r => b.toNat + 256 * leNat r

/-- The `n` bytes of a value in ascending address order (R3). -/
def natLe : Nat → Nat → List Byte
  | 0, _ => []
  | n + 1, v => BitVec.ofNat 8 v :: natLe n (v / 256)

/-- `n` bytes from a key on. -/
def Memory.readN (m : Memory) : Nat → Nat → List Byte
  | 0, _ => []
  | n + 1, a => m.read a :: Memory.readN m n (a + 1)

/-- The first key above the physical addresses: folio bytes are keyed from here (R144, R153). -/
def folioKeys : Nat := 2 ^ 52

/-- The key of byte `off` of a core's folio space (R144). -/
def folioKey (core space off : Nat) : Nat := folioKeys + core * 2 ^ 24 + space * 2 ^ 22 + off

/-- The numbers of R12: quad, die and package of a core of the pod. -/
def quadOf (core : Nat) : Nat := core / 4
def dieOf (core : Nat) : Nat := core / 48
def pkgOf (core : Nat) : Nat := core / 384

/-- A V-core is position 3 of its quad (R12). -/
def isVCore (core : Nat) : Bool := core % 4 == 3

/-- The lanes of a core (R13). -/
def lanesOf (core : Nat) : Nat := if isVCore core then 32 else 16

/-- The thread slots of a core (R13, R61). -/
def slotsOf (core : Nat) : Nat := if isVCore core then 8 else 4

/-- The size in bytes of a folio space (R13, R144); 0 for a space the core does not carry. -/
def spaceSize (core space : Nat) : Nat :=
  if isVCore core then (if space = 1 then 3 * 2 ^ 20 else if space = 2 then 2 ^ 20 else 0)
  else if space = 0 then 3 * 2 ^ 20 else if space = 1 then 2 * 2 ^ 20 else if space = 2 then 2 ^ 20 else 0

/-- The home die (within its package) of a physical address (R153). -/
def homeDie (pa : Nat) : Nat :=
  let reg := field pa 43 42
  if reg = 0 then field pa 40 37 / 2
  else if reg = 1 then field pa 40 38
  else match field pa 41 40 with
    | 0 => 0
    | 1 => 3
    | 2 => 4
    | _ => 7

/-- Whether a physical address names memory that exists (R153; log 12 for the CXL expanders). -/
def populated (pa : Nat) : Bool :=
  let reg := field pa 43 42
  if reg = 0 then field pa 41 41 == 0 && decide (field pa 36 0 < 96 * 10 ^ 9)
  else if reg = 1 then field pa 41 41 == 0 && decide (field pa 37 0 < 256 * 10 ^ 9)
  else if reg = 2 then decide (field pa 39 0 < Config.cxlCapacity (field pa 51 44) (field pa 41 40))
  else false

/-- An association list's value at a key. -/
def assoc {α : Type} (l : List (Nat × α)) (k : Nat) : Option α := (l.find? fun p => p.1 == k).map Prod.snd

/-- Replaces the elements that meet `p`. -/
def updWhere {α : Type} (l : List α) (p : α → Bool) (f : α → α) : List α := l.map fun x => if p x then f x else x

end Sys2Proof.Machine
end

