-- ==== Sys2Proof/Machine/Coherence.lean ====
section
/-! DEFINITION. Compressed blocks (R159, R280 to R285), publications, points of coherence and snapshots (R349, R361 to R372), and what publications do to the masters
whose bytes they carry (R403, R404). -/

namespace Sys2Proof.Machine

/-! ## Compressed blocks (R280 to R285) -/

/-- The reader of R282: the rest of group g's tokens, the bytes of the block so far, the place in the image, the end of the
group's payload. -/
def decodeTokens (img : List Byte) (stop g : Nat) : Nat → Nat → List Byte → Option (List Byte)
  | 0, pos, out => if pos = stop ∧ out.length = 32 * g + 32 then some out else none
  | fuel + 1, pos, out =>
    let p := out.length
    if 32 * g + 32 ≤ p then (if pos = stop then some out else none)
    else
      let c := (img.getD pos 0).toNat
      let n := c % 32 + 1
      if 32 * g + 32 < p + n then none
      else if c / 64 = 0 then
        let pos' := pos + 1 + n
        if stop < pos' then none
        else decodeTokens img stop g fuel pos' (out ++ ((img.drop (pos + 1)).take n ++
          List.replicate (n - ((img.drop (pos + 1)).take n).length) 0))
      else if c / 64 = 1 then
        let pos' := pos + 2
        if stop < pos' then none
        else decodeTokens img stop g fuel pos' (out ++ List.replicate n (img.getD (pos + 1) 0))
      else
        let d := ((img.getD (pos + 1) 0).toNat + 256 * (img.getD (pos + 2) 0).toNat) % 2 ^ 12
        let pos' := pos + 3
        if n < 4 ∨ d = 0 ∨ p < d ∨ 32 * g < p - d + n ∨ stop < pos' then none
        else decodeTokens img stop g fuel pos' (out ++ (out.drop (p - d)).take n)

/-- Decodes the groups of a compressed image in turn (R282). -/
def decodeGroups (img : List Byte) : List Nat → Nat → Nat → List Byte → Option (List Byte)
  | [], _, _, out => some out
  | l :: ls, g, pos, out =>
    match decodeTokens img (pos + l) g 32 pos out with
    | none => none
    | some out' => decodeGroups img ls (g + 1) (pos + l) out'

/-- The 4096 bytes of a block image of SECT sectors (R280, R282), none when it is malformed (R283). -/
def decodeBlock (sect : Nat) (img : List Byte) : Option (List Byte) :=
  if sect = 8 then some (img.take 4096)
  else if sect = 0 ∨ 8 < sect then none
  else
    let ls := (img.take 128).map BitVec.toNat
    let total := 128 + ls.foldl (· + ·) 0
    if ls.length ≠ 128 ∨ (ls.any fun l => decide (l < 2 ∨ 64 < l)) ∨ 512 * sect < total then none
    else decodeGroups img ls 0 128 []

/-- Fills the compressed block that holds a byte (R159, R285): its 4096 bytes stand expanded at their home, or poisoned when
the image is malformed (R283). -/
def fillBlock (s : State) (key : Nat) : State :=
  match s.zblocks.find? fun z => z.block == key / 4096 with
  | none => s
  | some z =>
    let base := key / 4096 * 4096
    let s1 := { s with zblocks := s.zblocks.filter fun x => x.block != key / 4096 }
    match decodeBlock z.sect z.image with
    | some bs => { s1 with home := (bs.mapIdx fun i b => (base + i, b)).foldl (fun m p => m.write p.1 p.2) s1.home }
    | none => { s1 with poison := (List.range 4096).map (base + ·) ++ s1.poison.filter fun k => k / 4096 != key / 4096 }

/-! ## The encoder (R281, R284) -/

/-- The length of the common run of two byte strings, at most `n`. -/
def commonRun : Nat → List Byte → List Byte → Nat
  | 0, _, _ => 0
  | n + 1, a :: as, b :: bs => if a = b then 1 + commonRun n as bs else 0
  | _ + 1, _, _ => 0

/-- R284's search among the starts below `k`: the longest match of 4 or more, the largest start among equals. `lim` is 32 × g. -/
def bestMatch (blk : List Byte) (here : List Byte) (room lim lo : Nat) : Nat → Nat × Nat → Nat × Nat
  | 0, best => best
  | k + 1, best =>
    if k < lo then best
    else
      let n := commonRun (min room (lim - k)) (blk.drop k) here
      bestMatch blk here room lim lo k (if best.1 < n then (n, k) else best)

/-- A literal run (R281). -/
def literalRun (lit : List Byte) : List Byte :=
  if lit.isEmpty then [] else BitVec.ofNat 8 (lit.length - 1) :: lit

/-- R284's encoder of one group from block byte `p` on. -/
def encodeFrom (blk : List Byte) (g : Nat) : Nat → Nat → List Byte → List Byte
  | 0, _, lit => literalRun lit
  | fuel + 1, p, lit =>
    if 32 * g + 32 ≤ p then literalRun lit
    else
      let m := bestMatch blk (blk.drop p) (32 * g + 32 - p) (32 * g) (p - 4095) (32 * g) (0, 0)
      if 4 ≤ m.1 then
        literalRun lit ++ (BitVec.ofNat 8 (0x80 + (m.1 - 1)) :: natLe 2 (p - m.2)) ++ encodeFrom blk g fuel (p + m.1) []
      else encodeFrom blk g fuel (p + 1) (lit ++ [blk.getD p 0])

/-- One group's payload (R284). -/
def encodeGroup (blk : List Byte) (g : Nat) : List Byte :=
  let b := (blk.drop (32 * g)).take 32
  if b.all fun x => x == b.headD 0 then [0x5F, b.headD 0] else encodeFrom blk g 33 (32 * g) []

/-- R284: SECT and the image of 4096 bytes, padded to whole sectors. -/
def encodeBlock (blk : List Byte) : Nat × List Byte :=
  let gs := (List.range 128).map (encodeGroup blk)
  let body := gs.map (fun p => BitVec.ofNat 8 p.length) ++ gs.flatten
  if 3584 < body.length then (8, blk)
  else
    let sect := (body.length + 511) / 512
    (sect, body ++ List.replicate (512 * sect - body.length) 0)

/-- Whether a byte lies in a page whose leaf has Z = 1 (R159), by the latest leaf known for it. -/
def isZ (s : State) (pa : Nat) : Bool := (s.zpages.find? fun p => decide (p.1 ≤ pa ∧ pa < p.1 + p.2.1)).any fun p => p.2.2

/-- The compressed blocks that meet a range are filled: they stand expanded (R285). -/
def fillRange (s : State) (base size : Nat) : State :=
  (s.zblocks.filter fun z => decide (z.block * 4096 < base + size ∧ base < z.block * 4096 + 4096)).foldl
    (fun a z => fillBlock a (z.block * 4096)) s

/-- The leaf of a page is seen with its Z bit: Z = 0 keeps every block of the page raw (R159). -/
def notePage (s : State) (base size : Nat) (z : Bool) : State :=
  if !z && s.zpages.all fun p => decide (p.1 + p.2.1 ≤ base ∨ base + size ≤ p.1) then s
  else
    let others := s.zpages.filter fun p => !decide (base ≤ p.1 ∧ p.1 + p.2.1 ≤ base + size)
    let s1 := if z then s else fillRange s base size
    { s1 with zpages := (base, size, z) :: others }

/-- The bytes of a range become unlisted: nothing of what stood there is left. -/
def clearRange (s : State) (base size : Nat) : State :=
  let inside := fun (k : Nat) => decide (base ≤ k ∧ k < base + size)
  let s1 := fillRange s base size
  { s1 with
    home := s1.home.filter fun c => !inside c.1
    narrow := s1.narrow.filter fun n => !inside n.key
    poison := s1.poison.filter fun k => !inside k }

/-! ## Masters and publications -/

/-- The bytes of a master (R400): its elements, of 2, 4 or 8 bytes. -/
def Master.size (m : Master) : Nat :=
  m.ext.toList.foldl (· * ·) (if m.mtype = 0x0D then 8 else if m.mtype = 0x0C then 4 else 2)

/-- The master block that holds a byte, if any; the last block may be partial (R400). -/
def Master.blockAt (m : Master) (key : Nat) : Option Nat :=
  match m.blockPa.findIdx? fun p => p / 4096 == key / 4096 with
  | some i => if 4096 * i + key % 4096 < m.size then some i else none
  | none => none

/-- R404 for a publication numbered `p` that carries bytes of the block. -/
def Block.published (b : Block) (p : Nat) : Block :=
  match b.state with
  | .fresh => { b with state := .stale, f := p - 1 }
  | .stale => b
  | .refreshing => { b with marked := true }
  | .faulted => { b with state := .stale }

/-- R404 for bytes of the block that change at the home die cache by R366, with the master's count `c`. -/
def Block.changed (b : Block) (c : Nat) : Block :=
  match b.state with
  | .fresh => { b with state := .stale, f := c }
  | .stale | .faulted => b
  | .refreshing => { b with marked := true }

/-- Applies `f` to the named blocks of every copy of the master's views. -/
def touchBlocks (s : State) (m : Master) (blocks : List Nat) (f : Block → Block) : State :=
  let copy := fun (c : Copy) => { c with blocks := c.blocks.mapIdx fun i b => if blocks.contains i then f b else b }
  let view := fun (v : View) =>
    if v.part = m.part ∧ v.handle / 16 = m.id then { v with copies := v.copies.map copy } else v
  { s with views := s.views.map view }

/-- The blocks of a master that hold some of the keys. -/
def Master.blocksOf (m : Master) (keys : List Nat) : List Nat := (keys.filterMap m.blockAt).dedup

/-- The count of a master rises by a publication at a scope, by a writer of a die, of bytes with their places (R403, R407). -/
def Master.count (m : Master) (die scope : Nat) (cells : List (Nat × Nat)) : Master :=
  let p := (m.pc + 1) % 2 ^ 48
  { m with
    pc := p
    podP := if scope = 5 then p else m.podP
    pkgP := if 4 ≤ scope then p else m.pkgP
    dieP := if 4 ≤ scope then m.dieP else (die, p, cells) :: m.dieP }

/-- One master's share of a publication at a scope of bytes with their places (R403): its count rises when the scope is its RS or
wider. -/
def touchMaster (die scope : Nat) (cells : List (Nat × Nat)) (s : State) (m : Master) : State :=
  let mine := cells.filter fun c => (m.blockAt c.1).isSome
  let bs := m.blocksOf (mine.map Prod.fst)
  if bs.isEmpty then s
  else if m.rs ≤ scope then
    let s1 := touchBlocks s m bs fun b => b.published (m.pc + 1)
    { s1 with
      masters := updWhere s1.masters (fun x => x.part == m.part && x.id == m.id) fun x => x.count die scope mine }
  else if 4 ≤ scope then touchBlocks s m bs fun b => b.changed m.pc
  else s

/-- What a publication at a scope on a package, by a writer of a die, does to the masters of that package (R403, R404): `cells`
holds its bytes' keys with their places in the coherence order. -/
def publishMasters (s : State) (pkg die scope : Nat) (cells : List (Nat × Nat)) : State :=
  (s.masters.filter fun m => m.pkg == pkg).foldl (touchMaster die scope cells) s

/-- Bytes that reach their home by R366 make the blocks they touch stale without a count. -/
def homeChanged (s : State) (keys : List Nat) : State :=
  s.masters.foldl (fun a m =>
    let bs := m.blocksOf keys
    if bs.isEmpty then a else touchBlocks a m bs fun b => b.changed m.pc) s

/-! ## Points of coherence -/

/-- The instance of a scope (.core to .die) that holds a core. -/
def placeOf (core scope : Nat) : Nat := if scope = 1 then core else if scope = 2 then quadOf core else dieOf core

/-- The global die of a narrow point. -/
def Narrow.die (n : Narrow) : Nat :=
  if n.scope = 1 then dieOf n.place else if n.scope = 2 then n.place / 12 else n.place

/-- Writes a byte at its home point with its place in the coherence order, unless the home holds a later write (R367). A compressed
block is filled first (R159, R292). A byte that overtakes narrower copies retires them (R362); overwriting clears poison (R445). -/
def homeWrite (s : State) (key : Nat) (v : Byte) (seq : Nat) : State :=
  if s.homeSeq.get key ≤ seq then
    let s1 := fillBlock s key
    { s1 with
      home := s1.home.write key v
      homeSeq := s1.homeSeq.set key seq
      narrow := s1.narrow.filter fun n => !(n.key == key && decide (n.seq ≤ seq))
      poison := s1.poison.filter fun k => k != key }
  else s

/-- Whether a narrower copy stands at the same point as another of its byte. -/
def Narrow.same (n x : Narrow) : Bool := x.key == n.key && x.scope == n.scope && x.place == n.place && x.part == n.part

/-- Whether an older copy of the same byte stands at a narrower point inside the instance of `n` (R362). -/
def Narrow.overtakes (n x : Narrow) : Bool :=
  x.key == n.key && x.part == n.part && decide (x.scope < n.scope) && decide (x.seq < n.seq) &&
    (if x.scope = 1 then placeOf x.place n.scope else x.place / 12) == n.place

/-- Places a byte at a point narrower than .pkg, unless that point holds a later write. Narrower points inside its instance that hold an
older value of it serve the new one (R362). -/
def narrowWrite (s : State) (n : Narrow) : State :=
  if s.narrow.any fun x => n.same x && decide (n.seq < x.seq) then s
  else
    let kind := ((n :: s.narrow.filter n.same).map Narrow.kind).find? (· != .store)
    let others := (s.narrow.filter fun x => !n.same x).map fun x =>
      if n.overtakes x then { x with val := n.val, unit := n.unit, seq := n.seq } else x
    { s with narrow := { n with kind := kind.getD .store } :: others }

/-- Puts a byte at the point of coherence of a scope for a core (R362). Folio bytes have the core's folios as their one point. -/
def pointWrite (s : State) (core part scope key : Nat) (v : Byte) (unit seq : Nat) (kind : WriteKind) : State :=
  if folioKeys ≤ key ∨ 4 ≤ scope then homeWrite s key v seq
  else narrowWrite s
    { key := key, val := v, unit := unit, kind := kind, seq := seq, scope := scope, place := placeOf core scope, part := part }

/-- R366: the narrower-published bytes of a 128-byte line that lie on a die reach the home. -/
def promoteLine (s : State) (die line : Nat) : State :=
  let hit := fun (n : Narrow) => n.key / 128 == line && n.die == die
  let ns := s.narrow.filter hit
  let s1 := ns.foldl (fun a n => homeWrite a n.key n.val n.seq) { s with narrow := s.narrow.filter fun n => !hit n }
  homeChanged s1 (ns.map Narrow.key)

/-- The lines of a die cache: 64 MiB of 128 bytes (R16). -/
def cacheLines : Nat := 2 ^ 19

/-- Whether `n` bytes at home hold poisoned data. -/
def homeBad (s : State) (key n : Nat) : Bool := s.poison.any fun p => decide (key ≤ p ∧ p < key + n)

/-- A 4 KiB block of a Z page goes back to memory as it compresses (R159, R284, R285); poisoned bytes stay as they are. -/
def compressBlock (s : State) (block : Nat) : State :=
  let base := block * 4096
  if s.zblocks.any (fun z => z.block == block) ∨ homeBad s base 4096 then s
  else
    let r := encodeBlock (s.home.readN 4096 base)
    { s with zblocks := { block := block, sect := r.1, image := r.2 } :: s.zblocks }

/-- A die evicts a line of 128 bytes: its narrower-published bytes reach their home (R366). At the home die of a Z page the 32 lines of the
block go together, and the block is stored compressed (R159). -/
def evictLine (s : State) (die line : Nat) : State :=
  let pa := line * 128
  if field pa 51 44 * 8 + homeDie pa = die ∧ isZ s pa then
    let first := pa / 4096 * 32
    compressBlock ((List.range 32).foldl (fun a i => promoteLine a die (first + i)) s) (pa / 4096)
  else promoteLine s die line

/-- A die cache whose narrower-published lines are more than it holds evicts the oldest of them (R16, R366; log 10, DESIGN CHOICE: which). -/
def evictOver (s : State) : State :=
  if s.narrow.length ≤ cacheLines then s
  else
    let lines := ((s.narrow.map fun n => (n.die, n.key / 128)).reverse.dedup)
    ((lines.map Prod.fst).dedup).foldl (fun a d =>
      let mine := lines.filter fun l => l.1 == d
      (mine.take (mine.length - cacheLines)).foldl (fun b l => evictLine b d l.2) a) s

/-- The global die of a byte's home (R19). -/
def Narrow.homeCache (n : Narrow) : Nat := field n.key 51 44 * 8 + homeDie n.key

/-- Whether a narrower copy stands in a die's cache. -/
def Narrow.cachedAt (n : Narrow) (die : Nat) : Bool := n.scope == 3 && n.place == die

/-- Whether a narrower copy of a byte is seen by an atomic of a core at a scope: it stands at that scope's point or a wider one of
the core (R369), at the die cache that is the byte's home (R16, R19), or an atomic or frame event whose scope holds the core made it
(R224, R346). -/
def Narrow.reaches (n : Narrow) (core scope : Nat) : Bool :=
  (n.place == placeOf core n.scope && (decide (scope ≤ n.scope) || n.kind != .store)) ||
    (decide (4 ≤ scope) && n.cachedAt (n.homeCache))

/-- The latest value of a byte in the coherence order, among its home and the narrower copies that `sees` admits. -/
def latest (s : State) (part key : Nat) (sees : Narrow → Bool) : Byte :=
  (s.narrow.foldl (fun (b : Nat × Byte) n =>
    if n.key = key ∧ n.part = part ∧ sees n ∧ b.1 < n.seq then (n.seq, n.val) else b) (s.homeSeq.get key, s.home.read key)).2

/-- The value that has reached the point of a scope for a core, latest in the coherence order (R369). -/
def pointRead (s : State) (core part scope key : Nat) : Byte :=
  if folioKeys ≤ key then s.home.read key else latest s part key fun n => n.reaches core scope

/-- What an access of a die's own hardware or control cores reads (R16, R20): the die's cache, and behind it the home die cache. -/
def dieRead (s : State) (die part key : Nat) : Byte := latest s part key fun n => n.cachedAt die || n.cachedAt n.homeCache

/-! ## The agent's own writes and its snapshot -/

/-- The agent's youngest write to a byte, when no snapshot has followed its publication (R349). -/
def Thread.ownWrite (t : Thread) (key : Nat) : Option OwnWrite := t.own.find? fun o => o.key == key && !o.seen

/-- What a read of the agent returns for a byte (R349). -/
def Thread.readByte (t : Thread) (key : Nat) : Byte :=
  match t.ownWrite key with
  | some o => o.val
  | none => t.snap.read key

/-- `n` bytes as the agent reads them. -/
def Thread.readBytes (t : Thread) : Nat → Nat → List Byte
  | 0, _ => []
  | n + 1, k => t.readByte k :: t.readBytes n (k + 1)

/-- One byte becomes one of the agent's writes, unpublished (R204). -/
def Thread.storeByte (t : Thread) (key : Nat) (v : Byte) (unit : Nat) : Thread :=
  { t with own := { key := key, val := v, unit := unit, seq := 0, scope := 0, seen := false } ::
      t.own.filter fun o => o.key != key }

/-- Consecutive bytes of one single-copy unit become writes of the agent. -/
def Thread.storeBytes (t : Thread) (unit : Nat) : Nat → List Byte → Thread
  | _, [] => t
  | k, b :: r => (t.storeByte k b unit).storeBytes unit (k + 1) r

/-- Publishes the current thread's writes that meet `p` and are not yet published at the scope (R226 step 2, R361 to R367): a
write takes its place in the coherence order at its first publication and keeps it; one that stands at its home already only counts. -/
def publishIf (s : State) (scope : Nat) (p : OwnWrite → Bool) : State :=
  let hit : OwnWrite → Bool := fun o => decide (o.scope < scope) && p o
  let ws := s.t.own.filter hit
  if ws.isEmpty then s
  else
    let n := s.pubs + 1
    let core := s.t.core
    let seqOf := fun (o : OwnWrite) => if o.seq = 0 then n else o.seq
    let place := fun (a : State) (o : OwnWrite) =>
      if 4 ≤ o.scope then a else pointWrite a core s.t.part scope o.key o.val o.unit (seqOf o) .store
    let s1 := ws.reverse.foldl place { s with pubs := n }
    let s2 := if 4 ≤ scope then
        ((ws.map fun o => o.key / 128).dedup).foldl (fun a l => promoteLine a (dieOf core) l) s1
      else s1
    let s3 := publishMasters s2 (pkgOf core) (dieOf core) scope (ws.map fun o => (o.key, seqOf o))
    let own := s3.t.own.map fun o => if hit o then { o with seq := seqOf o, scope := scope } else o
    { s3 with t := { s3.t with own := own } }

/-- Publishes every write of the current thread at a scope. -/
def publish (s : State) (scope : Nat) : State := publishIf s scope fun _ => true

/-- What a snapshot takes or leaves whole (R352): 16 aligned bytes, which hold any unit. -/
def Narrow.whole (n : Narrow) : Nat := n.key / 16 * 16

/-- Whether the core's own store path holds some of the 16 bytes, which a snapshot of the core always takes (R356). -/
def coreHolds (s : State) (n : Narrow) : Bool :=
  s.narrow.any fun x => x.scope == 1 && x.place == s.t.core && x.part == s.t.part && x.whole == n.whole

/-- One narrower publication's place in a snapshot at scope `sc` by a core: always when at `sc` or wider (R365), at .core (R356), a frame
event's (R337), or beside bytes of its unit that are always taken (R352, R362); otherwise by free choice, unit by unit. -/
def snapTakes (s : State) (sc : Nat) (n : Narrow) : Bool :=
  n.part == s.t.part && n.place == placeOf s.t.core n.scope &&
    (decide (sc ≤ n.scope ∨ n.scope = 1) || n.kind == .event || coreHolds s n || Config.freeBit (s.fresh * 2 ^ 64 + n.whole))

/-- The highest publication of a master that a snapshot at a scope by the current thread includes (R365, R372, R407): one at .die when
each of its bytes has reached its home, itself or by a later write, or, on its die, is among the bytes that the snapshot takes. -/
def Master.included (m : Master) (s : State) (sc : Nat) : Nat :=
  if s.t.part ≠ m.part ∨ pkgOf s.t.core ≠ m.pkg then m.podP
  else
    m.dieP.foldl (fun a x =>
      let here := fun (c : Nat × Nat) =>
        x.1 == dieOf s.t.core && s.narrow.any fun n => n.key == c.1 && n.cachedAt x.1 && decide (c.2 ≤ n.seq) && snapTakes s sc n
      if x.2.2.all fun c => decide (c.2 ≤ s.homeSeq.get c.1) || here c then max a x.2.1 else a) m.pkgP

/-- Adds a byte to a snapshot unless it holds a later write (R367). -/
def snapPut (a : Memory × SeqMap) (key : Nat) (v : Byte) (seq : Nat) : Memory × SeqMap :=
  if a.2.get key < seq then (a.1.write key v, a.2.set key seq) else a

/-- Takes a snapshot at a scope for the current thread (R226 step 3, R349, R365, R367). It takes all that stands at its home, a frame event of a
wider scope among it (R365, R327; log 32, DEDUCED against R346's second row). A write of memory is kept until it is published
at .pod, and a spawned node keeps it for the signal of its end (R199). -/
def snapshot (s : State) (sc : Nat) : State :=
  let t := s.t
  let a0 : Memory × SeqMap := (s.home, s.homeSeq)
  let a1 := t.snapSeq.foldl (fun a p => snapPut a p.1 (t.snap.read p.1) p.2) a0
  let a2 := s.narrow.foldl (fun a n => if snapTakes s sc n then snapPut a n.key n.val n.seq else a) a1
  let a3 := t.own.foldl (fun a o => if o.seq = 0 then a else snapPut a o.key o.val o.seq) a2
  let own := (t.own.filter fun o => o.seq == 0 || ((decide (o.scope < 5) || t.spawned) && decide (o.key < folioKeys))).map
    fun o => if o.seq = 0 then o else { o with seen := true }
  let seen := s.masters.map fun m => (m.born, max (m.included s sc) ((assoc t.seen m.born).getD 0))
  { s with t := { t with snap := a3.1, snapSeq := a3.2, own := own, seen := seen }, fresh := s.fresh + 1 }

/-- The new bytes of an atomic or a frame event at the point of its scope (R223, R337, R369), counted among the thread's own writes at
once. -/
def atomicPut (kind : WriteKind) (s : State) (scope key : Nat) (bs : List Byte) : State :=
  let n := s.pubs + 1
  let put := fun (a : State) (p : Nat × Byte) =>
    let a1 := pointWrite a a.t.core a.t.part scope p.1 p.2 key n kind
    let o : OwnWrite := { key := p.1, val := p.2, unit := key, seq := n, scope := scope, seen := false }
    { a1 with t := { a1.t with own := o :: a1.t.own.filter fun o => o.key != p.1 } }
  let kvs := bs.mapIdx fun i b => (key + i, b)
  let s1 := kvs.foldl put { s with pubs := n }
  publishMasters s1 (pkgOf s.t.core) (dieOf s.t.core) scope (kvs.map fun p => (p.1, n))

/-- The bytes at the point of a scope, as an atomic of the current thread reads them (R369). -/
def atomicGet (s : State) (scope : Nat) : Nat → Nat → List Byte
  | 0, _ => []
  | n + 1, k => pointRead s s.t.core s.t.part scope k :: atomicGet s scope n (k + 1)

/-- An engine's write at the home, published at a scope (R393). Answers the place it took. -/
def engineWriteAt (s : State) (pkg scope : Nat) (kvs : List (Nat × Byte)) : State × Nat :=
  if kvs.isEmpty then (s, s.pubs)
  else
    let n := s.pubs + 1
    let s1 := kvs.foldl (fun a p => homeWrite a p.1 p.2 n) { s with pubs := n }
    (publishMasters s1 pkg (pkg * 8) scope (kvs.map fun p => (p.1, n)), n)

/-- An engine's write: bytes carried by a .pod publication of its command (R393). -/
def engineWrite (s : State) (pkg : Nat) (kvs : List (Nat × Byte)) : State × Nat := engineWriteAt s pkg 5 kvs

/-- A change of the home bytes by the hardware itself, as an atomic at .pkg (page-table bits, catalogue records, completion
entries). -/
def hardWrite (s : State) (key : Nat) (bs : List Byte) : State :=
  let n := s.pubs + 1
  let kvs := bs.mapIdx fun i b => (key + i, b)
  kvs.foldl (fun a p => homeWrite a p.1 p.2 n) { s with pubs := n }

/-- Bytes acquired through a count barrier (R395): each joins the snapshot unless it already holds a later value. -/
def acquireBytes (s : State) (bs : List (Nat × Nat × Byte)) : State :=
  let a := bs.foldl (fun a p => snapPut a p.1 p.2.2 p.2.1) (s.t.snap, s.t.snapSeq)
  { s with t := { s.t with snap := a.1, snapSeq := a.2 } }

end Sys2Proof.Machine
end

