-- ==== Sys2Proof/Machine/Translate.lean ====
section
/-! DEFINITION. Virtual to physical addresses (R155 to R158) and the guards of views (R402). -/

namespace Sys2Proof.Machine

/-- The accesses that translation tells apart (R157). -/
inductive Access where
  | load | store | fetch
  deriving DecidableEq, Repr

/-- Whose translation it is (R155): partition, the package whose tables are used, the core whose TLB holds it (none for an
engine), the die whose TLB holds it. -/
structure Who where
  part : Nat
  pkg : Nat
  core : Option Nat
  die : Nat
  deriving DecidableEq, Repr

/-- The outcome of a walk: a leaf with its entry's address and level, a page fault, or a table outside the package (R154). -/
inductive Walk where
  | leaf (at_ entry level : Nat)
  | pageFault
  | protection
  deriving DecidableEq, Repr

/-- The lowest virtual-address bit that a level of R156 indexes: also the page size in bits of its leaves. -/
def levelShift (l : Nat) : Nat :=
  match l with
  | 0 => 16
  | 1 => 21
  | 2 => 30
  | 3 => 39
  | _ => 48

/-- The index a level takes from a virtual address (R156). -/
def levelIndex (l va : Nat) : Nat := (va >>> levelShift l) % (if l = 0 then 32 else 512)

/-- R157's rules on a leaf entry at a level. -/
def leafOk (l e : Nat) : Bool :=
  decide (l ≤ 2) && field e 15 8 == 0 && !(field e 4 4 == 1 && field e 3 3 == 1) &&
    !(field e 3 3 == 1 && field e 2 2 == 0) && (field e 51 16 * 2 ^ 16) % 2 ^ levelShift l == 0

/-- R157's rules on a pointer entry at a level: NEXT is aligned to the next table (R156). Its reserved bits [7:2] are ignored (R5). -/
def pointerOk (l e : Nat) : Bool := decide (1 ≤ l) && (decide (l = 1) || field e 11 8 == 0)

/-- The walk of R156 and R157 over the levels still to go, reading entries at their home. -/
def walkFrom (m : Memory) (pkg : Nat) : List Nat → Nat → Nat → Walk
  | [], _, _ => .pageFault
  | l :: ls, table, va =>
    let a := table + 8 * levelIndex l va
    if field a 51 44 ≠ pkg ∨ populated a = false then .protection
    else
      let e := leNat (m.readN 8 a)
      if field e 0 0 = 0 ∨ field e 63 52 ≠ 0 then .pageFault
      else if field e 1 1 = 1 then (if leafOk l e then .leaf a e l else .pageFault)
      else if pointerOk l e then walkFrom m pkg ls (field e 51 8 * 256) va
      else .pageFault

/-- The walk from a partition's root on a package (R155). -/
def walk (s : State) (part pkg va : Nat) : Walk :=
  match s.parts.find? fun p => p.slot == part with
  | none => .pageFault
  | some p =>
    match assoc p.roots pkg with
    | none => .pageFault
    | some root => walkFrom s.home pkg [4, 3, 2, 1, 0] root va

/-- A canonical address (R155). -/
def canonical (va : Word) : Bool := va.extractLsb' 56 8 == 0 || va.extractLsb' 56 8 == 0xFF

/-- A guarded byte (R402). -/
def guarded (s : State) (part pkg : Nat) (va : Word) : Bool :=
  match s.parts.find? fun p => p.slot == part with
  | none => false
  | some p => p.guards.any fun g => g.pkg == pkg && decide (g.base ≤ va.toNat) && decide (va.toNat < g.base + g.size)

/-- The first byte of `n` from an address on that a view's guard holds (R402). -/
def guardedIn (s : State) (part pkg va n : Nat) : Option Nat :=
  let hits : List Guard := match s.parts.find? fun p => p.slot == part with
    | none => []
    | some p => p.guards.filter fun g => g.pkg == pkg && decide (g.base < va + n ∧ va < g.base + g.size)
  (hits.map fun (g : Guard) => max g.base va).min?

/-- Whether a TLB entry translates an address. -/
def TlbEntry.hits (e : TlbEntry) (part pkg va : Nat) : Bool :=
  e.part == part && e.pkg == pkg && e.va / 2 ^ e.size == va / 2 ^ e.size

/-- The number of a die's TLB among the TLBs. -/
def dieTlb (die : Nat) : Nat := 2 ^ 20 + die

def tlbEntries (s : State) (place : Nat) : List TlbEntry :=
  match s.tlbs.find? fun t => t.place == place with
  | some t => t.entries
  | none => []

/-- Adds an entry to a TLB in place of an older translation of the same page; a full TLB drops its oldest entry (R158; log 10). -/
def tlbAdd (s : State) (place cap : Nat) (e : TlbEntry) : State :=
  let es := (tlbEntries s place).filter (fun x => !(x.hits e.part e.pkg e.va)) ++ [e]
  let es := if cap < es.length then es.drop 1 else es
  { s with tlbs := { place := place, entries := es } :: s.tlbs.filter fun t => t.place != place }

/-- Whether the rights of a translation allow an access (R157). -/
def TlbEntry.allows (e : TlbEntry) : Access → Bool
  | .load => e.r
  | .store => e.w
  | .fetch => e.x

/-- The outcome of a translation: a byte key, or the class of the fault (R435). The state carries A and D bits and TLBs. -/
inductive Translated where
  | ok (key : Nat) (s : State)
  | fault (cls : Nat) (s : State)

/-- Sets A, and D for a write, in a leaf by an atomic OR at its home (R157). -/
def markLeaf (s : State) (at_ entry : Nat) (write : Bool) : State :=
  let b := if write then 0x60 else 0x20
  let e := entry ||| b
  if e = entry then s else hardWrite s at_ (natLe 8 e)

/-- The translation of an address by a walk, kept in the TLBs of who asks (R156 to R158). -/
def translateWalk (s : State) (w : Who) (acc : Access) (va : Word) : Translated :=
  let a := va.toNat % 2 ^ 57
  match walk s w.part w.pkg a with
  | .pageFault => .fault 0x05 s
  | .protection => .fault 0x04 s
  | .leaf at_ e l =>
    let t : TlbEntry :=
      { part := w.part, pkg := w.pkg, va := a / 2 ^ levelShift l * 2 ^ levelShift l, size := levelShift l,
        pa := field e 51 16 * 2 ^ 16, r := field e 2 2 == 1, w := field e 3 3 == 1, x := field e 4 4 == 1,
        z := field e 7 7 == 1, dirty := field e 6 6 == 1 || acc == .store }
    if t.allows acc = false then .fault 0x04 s
    else
      let pa := t.pa + a % 2 ^ t.size
      if field pa 51 44 ≠ w.pkg ∨ populated pa = false then .fault 0x04 s
      else
        let s1 := markLeaf s at_ e (acc == .store)
        let s2 := match w.core with
          | some c => tlbAdd s1 c 256 t
          | none => s1
        .ok pa (notePage (tlbAdd s2 (dieTlb w.die) 8192 t) t.pa (2 ^ t.size) t.z)

/-- Translates an address for an access (R155 to R158): the core's TLB, then the die's, then a walk. A first write through a
translation that has not set D walks again to set it. -/
def translate (s : State) (w : Who) (acc : Access) (va : Word) : Translated :=
  if canonical va = false then .fault 0x04 s
  else if guarded s w.part w.pkg va then .fault 0x04 s
  else
    let a := va.toNat % 2 ^ 57
    let find := fun (p : Nat) => (tlbEntries s p).find? fun e => e.hits w.part w.pkg a
    let hit := match w.core with
      | some c => (find c).orElse fun _ => find (dieTlb w.die)
      | none => find (dieTlb w.die)
    match hit with
    | some e =>
      if e.allows acc = false then .fault 0x04 s
      else if acc = .store ∧ e.dirty = false then translateWalk s w acc va
      else
        let pa := e.pa + a % 2 ^ e.size
        if field pa 51 44 ≠ w.pkg ∨ populated pa = false then .fault 0x04 s else .ok pa s
    | none => translateWalk s w acc va

/-- A thread as the one who translates (R155). -/
def asked (t : Thread) : Who := { part := t.part, pkg := pkgOf t.core, core := some t.core, die := dieOf t.core }

/-- The current thread as the one who translates. -/
def me (s : State) : Who := asked s.t

end Sys2Proof.Machine
end

