-- ==== Sys2Proof/Machine/Ops.lean ====
section
/-! DEFINITION. The operations every instruction shares: the outcome of an instruction's body, reading and writing registers,
moving past an instruction (R122), taking a trap (R189, R190, R435 to R440) and returning from one (R191), and the frames in
which access-stream, execute-stream and class B instructions run (R79, R82, R138, R163). -/

namespace Sys2Proof.Machine

/-! ## Outcomes of an instruction's body -/

/-- What an instruction's body does: it completes, it traps with the effects it has had so far, or it waits. -/
inductive Res where
  | ok (s : State)
  | trap (t : Trap) (s : State)
  | stall (s : State)

/-- Goes on from a body that completed. -/
def Res.bind (r : Res) (f : State → Res) : Res :=
  match r with
  | .ok s => f s
  | .trap t s => .trap t s
  | .stall s => .stall s

/-- Applies a change to the state of a body, whatever it came to. -/
def Res.each (r : Res) (f : State → State) : Res :=
  match r with
  | .ok s => .ok (f s)
  | .trap t s => .trap t (f s)
  | .stall s => .stall (f s)

/-- Applies a change to the state of a body that completed. -/
def Res.map (r : Res) (f : State → State) : Res :=
  match r with
  | .ok s => .ok (f s)
  | .trap t s => .trap t s
  | .stall s => .stall s

/-- Changes the current thread. -/
def State.updT (s : State) (f : Thread → Thread) : State := { s with t := f s.t }

/-- Changes the current thread's control registers. -/
def State.updC (s : State) (f : Ctl → Ctl) : State := { s with t := { s.t with ctl := f s.t.ctl } }

/-! ## The instruction at hand -/

/-- The head at a PC of an entered line, with its tail (R119, R122). -/
def lineHead (line : Line) (pc : Word) : Option (BitVec 16 × BitVec 64) :=
  match lineHeads line with
  | .ok hs => hs[(pc.extractLsb' 1 5).toNat]?
  | .error _ => none

/-- The head and tail of the instruction that is running. -/
def curHead (s : State) : BitVec 16 × BitVec 64 :=
  match s.t.xctx with
  | some c => (c.entry.head, c.entry.tail)
  | none =>
    match s.t.line with
    | some (_, l) => (lineHead l s.t.pc).getD (0, 0)
    | none => (0, 0)

/-- The PC of the instruction that is running. -/
def curPc (s : State) : Word :=
  match s.t.xctx with
  | some c => c.entry.pc
  | none => s.t.pc

/-- The next PC of R122. -/
def nextPc (pc : Word) (line : Line) : Word :=
  let n := match lineHeads line with
    | .ok hs => hs.length
    | .error _ => 0
  if (pc.extractLsb' 1 5).toNat + 1 < n then pc + 2 else (pc &&& ~~~(63 : Word)) + 64

/-- The next PC of the current thread's instruction (R122). -/
def pcAfter (s : State) : Word :=
  match s.t.line with
  | some (_, l) => nextPc s.t.pc l
  | none => (s.t.pc &&& ~~~(63 : Word)) + 64

/-- The relative target of R123 from a displacement of lines and a head index. -/
def relTarget (pc : Word) (ld : Int) (hd : Nat) : Word :=
  (pc &&& ~~~(63 : Word)) + BitVec.ofInt 64 (ld * 64) + BitVec.ofNat 64 (hd * 2)

/-- Sets the PC to a target that control flow has still to enter (R120). -/
def jumpTo (s : State) (target : Word) : State := s.updT fun t => { t with pc := target, line := none, flows := false }

/-- Sets the PC to one that control flow reaches from the line before it, after a replay (R122, R183). -/
def flowTo (s : State) (target : Word) : State := s.updT fun t => { t with pc := target, line := none, flows := true }

/-- Control flow comes from the line before (R122). -/
def sequential (s : State) : Bool :=
  match s.t.line with
  | some (a, _) => a + 64 == s.t.pc
  | none => s.t.flows

/-- Moves a lane thread past its instruction: to the next head of its line, or to its end (R273). -/
def laneNext (s : State) (g : Nat) : State :=
  let step := fun (l : Lane) =>
    let n := match lineHeads l.line with
      | .ok hs => hs.length
      | .error _ => 0
    if (l.pc.extractLsb' 1 5).toNat + 1 < n then { l with pc := l.pc + 2, since := s.cycle, issued := false } else { l with status := .ended }
  s.updT fun t => { t with lanes := t.lanes.map fun r => { r with lanes := updWhere r.lanes (fun l => l.g == g) step } }

/-- Moves past the running instruction. A queued instruction has been passed when the access stream queued it. -/
def advance (s : State) : State :=
  match s.t.xctx with
  | some c =>
    match c.lane with
    | some g => laneNext s g
    | none => s
  | none => s.updT fun t => { t with pc := pcAfter s }

/-! ## Registers -/

/-- The register of an entry's execute-stream write of an s register, if it is such an instruction (R163, R173, R337). -/
def XEntry.dest (e : XEntry) : Option (BitVec 5) :=
  let maj := (e.head.extractLsb' 8 6).toNat
  if e.dead then none
  else if maj = 0x03 then some (e.tail.extractLsb' 10 5)
  else if maj = 0x04 ∨ maj = 0x39 then some (e.tail.extractLsb' 23 5)
  else none

/-- The s registers that queued execute-stream instructions have still to write (R163). -/
def pendingDests (s : State) : List (BitVec 5) := (s.t.vq ++ s.t.xdec).filterMap XEntry.dest

/-- Reads an s register (R163): s0 reads zero; a queued or lane instruction reads the values captured for it (R133, R270). -/
def getS (s : State) (r : BitVec 5) : Word :=
  if r = 0 then 0
  else
    match s.t.xctx with
    | some c => c.entry.sregs[r.toNat]'r.isLt
    | none => s.t.s[r.toNat]'r.isLt

/-- Sets an s register of a thread; a write to s0 is lost (R132). -/
def Thread.putS (t : Thread) (r : BitVec 5) (v : Word) : Thread :=
  if r = 0 then t else { t with s := t.s.set r.toNat v r.isLt }

/-- Writes an s register (R163). A write of the access stream overtakes the older pending writes of queued instructions; the
write of a queued instruction that has been overtaken is lost. -/
def setS (s : State) (r : BitVec 5) (v : Word) : State :=
  match s.t.xctx with
  | some c => if c.entry.dead then s else s.updT fun t => t.putS r v
  | none =>
    let kill := fun (e : XEntry) => if e.dest = some r then { e with dead := true } else e
    s.updT fun t => { t.putS r v with vq := t.vq.map kill, xdec := t.xdec.map kill }

/-- A vector register's bits. -/
def getV (s : State) (r : Nat) : VReg := s.t.v.getD r 0

/-- Sets a vector register's bits. -/
def setV (s : State) (r : Nat) (x : VReg) : State := s.updT fun t => { t with v := t.v.setIfInBounds r x }

/-- A mask register: m0 reads as all ones (R232). -/
def getM (s : State) (r : Nat) : VReg := if r = 0 then BitVec.allOnes 8192 else s.t.m.getD r 0

/-- Sets a mask register; m0 is never written (R132). -/
def setM (s : State) (r : Nat) (x : VReg) : State :=
  if r = 0 then s else s.updT fun t => { t with m := t.m.setIfInBounds r x }

/-- A scale register's bits (R49). -/
def getE (s : State) (r : Nat) : EReg := s.t.e.getD r 0

/-- Changes the modes of the instruction's place (R43, R187): what an instruction of a queue image writes holds for the younger places
too (R440). -/
def setModes (s : State) (f : Env → Env) : State :=
  s.updT fun t => { t with ctl := t.ctl.withEnv (f t.ctl.env), shadow := t.shadow.map f }

/-- The modes that hold at the place of the oldest queued instruction, once a queue image has been replayed (R440). -/
def settleModes (t : Thread) : Thread :=
  let level := match t.vq ++ t.xdec with
    | e :: _ => e.image
    | [] => 0
  let rest := t.shadow.drop (t.shadow.length - level)
  match (t.shadow.drop (t.shadow.length - level - 1)).head? with
  | some e => if level < t.shadow.length then { t with ctl := t.ctl.withEnv e, shadow := rest } else t
  | none => t

/-- Sets the vdirty bits of `n` registers from `r` on (R235, R290). -/
def markDirty (s : State) (r n : Nat) : State :=
  s.updC fun c => { c with vdirty := c.vdirty ||| BitVec.ofNat 32 ((2 ^ n - 1) * 2 ^ r) }

/-- OR-s flags into fflags and sat (R46). -/
def orFlags (s : State) (ff : BitVec 6) (sat : BitVec 3) : State :=
  s.updC fun c => { c with fflags := c.fflags ||| ff, sat := c.sat ||| sat }

/-! ## The error log (R444) -/

/-- ERROR_LOG_APPEND: an entry in a die's ring of 4096; the oldest goes when it is full. -/
def logError (s : State) (die cls event unit part addr : Nat) : State :=
  let e : ErrEntry :=
    { die := die, word0 := BitVec.ofNat 64 (cls * 2 ^ 56 + event * 2 ^ 48 + unit % 2 ^ 16 * 2 ^ 32 + part % 2 ^ 6 * 2 ^ 26),
      word1 := BitVec.ofNat 64 (addr % 2 ^ 57) }
  if (s.errLog.filter fun x => x.die == die).length < 4096 then { s with errLog := s.errLog ++ [e] }
  else
    { s with
      errLog := s.errLog.eraseP (fun x => x.die == die) ++ [e]
      errLost := (die, (assoc s.errLost die).getD 0 + 1) :: s.errLost.filter fun x => x.1 != die }

/-- PART of what belongs to Horsil. -/
def horsilPart : Nat := 0x3F

/-- UNIT of a lane of a core (R379). -/
def laneUnit (core lane : Nat) : Nat := core % 384 * 2 ^ 5 + lane

/-! ## Traps -/

/-- A trap with no element whose tval is not an address. -/
def mkTrap (cls : Nat) (tval : Word) : Trap := { cls := cls, tval := tval, telem := 0, va := false }

/-- Illegal Instruction with the head half-word in tval (R141). -/
def illegal (s : State) : Res := .trap (mkTrap 0x01 ((curHead s).1.setWidth 64)) s

/-- Illegal Instruction with a value the entry gives. -/
def illegalWith (v : Word) (s : State) : Res := .trap (mkTrap 0x01 v) s

/-- A fault at a virtual address (R202, R435). -/
def addrTrap (cls : Nat) (va : Word) (elem : Nat) : Trap := { cls := cls, tval := va, telem := elem, va := true }

/-- The classes that go to the thread's handler (R435). -/
def handlerClass (c : Nat) : Bool := decide ((1 ≤ c ∧ c ≤ 4) ∨ (6 ≤ c ∧ c ≤ 0x0D) ∨ c = 0x0F)

/-- The container width of a type code in bits (R31). -/
def typeWidth (ty : Nat) : Nat :=
  if ty = 0x0E then 128
  else if ty = 0x0D ∨ ty = 0x03 ∨ ty = 0x07 then 64
  else if ty = 0x0C ∨ ty = 0x02 ∨ ty = 0x06 then 32
  else if ty = 0x0A ∨ ty = 0x0B ∨ ty = 0x01 ∨ ty = 0x05 then 16
  else 8

/-- UNIT of a node ended by a trap (R379, R437): the lane that holds EG floor(telem / epg), lane 0 without a TY or an element. -/
def trapUnit (s : State) (tr : Trap) : Nat :=
  let h := curHead s
  let maj := (h.1.extractLsb' 8 6).toNat
  let mn := (h.1.extractLsb' 0 8).toNat
  let hasTy : Bool := decide (maj ∈ [0x1D, 0x21, 0x22, 0x23, 0x25, 0x26, 0x27, 0x28, 0x29, 0x2A, 0x2B, 0x32, 0x38] ∨ (maj = 0x1C ∧ mn < 0x0A) ∨
    (maj = 0x1F ∧ mn = 0) ∨ (maj = 0x24 ∧ mn ≤ 5) ∨ (maj = 0x30 ∧ mn = 0) ∨ (maj = 0x31 ∧ mn ≠ 1) ∨ (maj = 0x33 ∧ mn ≤ 1))
  let eg := if hasTy then tr.telem / (256 / typeWidth (h.2.extractLsb' 23 5).toNat) else 0
  (s.t.core % 384) * 2 ^ 5 + eg % lanesOf s.t.core

/-- The classes whose tval goes into ADDR of the completion entry when it is an address (R437). -/
def addrClass (c : Nat) : Bool := decide (c ∈ [0x03, 0x04, 0x05, 0x0E, 0x0B, 0x0C, 0x13])

/-- The node ends by a trap (R190, R436): what the trap wrote stands, no handler is reached, nothing younger takes effect. -/
def endByTrap (tr : Trap) (s : State) : State :=
  let addr := if tr.va && addrClass tr.cls then tr.tval.toNat % 2 ^ 57 else 0
  let u := trapUnit s tr
  let s1 := s.updC fun c => { c with tcause := tr.cls, tval := tr.tval, telem := tr.telem }
  s1.updT fun t =>
    { t with status := .ending 1 tr.cls u addr, vq := [], xdec := [], xctx := none, dropRun := 0, lanes := none }

/-- Whether some instruction younger than a queued one has been decoded (R438). -/
def decodedPast (s : State) (e : XEntry) : Bool := !s.t.vq.isEmpty || !s.t.xdec.isEmpty || s.t.decodes != e.num

/-- The replay of the running instruction's place (R184). -/
def passHere (s : State) : Option Replay :=
  match s.t.xctx with
  | some c => c.entry.pass
  | none => s.t.replay

/-- The queue image of a trap of the running instruction (R438): it and what has entered the vector queue behind it; empty when nothing
younger has been decoded. -/
def trapImage (s : State) (image : Bool) : List XEntry :=
  match s.t.xctx with
  | some c => if image && decodedPast s c.entry then c.entry :: s.t.vq else []
  | none => []

/-- Enters the thread's handler (R189), or ends the node (R190). `tpc` is the PC to save; with `image` the younger
execute-stream instructions are held for tret, behind the instruction that trapped (R438, R440). A run that a bqx drops is held too
(R142). The handler starts with the modes that the control registers held before any image replayed. -/
def enterTrap (tr : Trap) (tpc : Word) (image : Bool) (s : State) : State :=
  if s.t.ctl.tvec = 0 ∨ s.t.ctl.inh then endByTrap tr s
  else
    let held := trapImage s image
    let pass := passHere s
    let s1 := s.updC fun c =>
      { c with tcause := tr.cls, tval := tr.tval, telem := tr.telem, tpc := tpc, qimg := !held.isEmpty,
               seqt := pass.isSome, inh := true }
    s1.updT fun t =>
      { t with
        pc := t.ctl.tvec, line := none, flows := false, rpc := t.pc, rpcReplay := t.replay, rpcFlows := sequential s && !held.isEmpty
        rpcDecodes := t.decodes
        image := held, imageDec := if held.isEmpty then [] else t.xdec, imageEnv := if held.isEmpty then [] else t.ctl.env :: t.shadow
        ctl := t.ctl.withEnv (t.shadow.getLast?.getD t.ctl.env), shadow := []
        vq := [], xdec := [], xctx := none, dropHeld := t.dropRun, dropRun := 0
        replayHeld := pass, replay := none, laneHeld := t.lanes, lanes := none }

/-- A page fault goes to Horsil while the thread waits in its slot (R436). A queued instruction stands again at the head of
the queue and issues afresh when the page is mapped (R440). -/
def awaitPage (tr : Trap) (s : State) : State :=
  let s1 := if s.t.ctl.inh then s else s.updC fun c => { c with tcause := tr.cls, tval := tr.tval, telem := tr.telem }
  s1.updT fun t =>
    { t with status := .pageFault tr false, xctx := none, vq := match t.xctx with
        | some c => c.entry :: t.vq
        | none => t.vq }

/-- A lane thread stops at its faulting instruction, whose tgeom1 is kept with it (R275, R330); `tpc` matters for Line Format, which
holds no lane thread. -/
def laneStop (s : State) (g : Nat) (tr : Trap) (tpc : Word) (held : Bool) : State :=
  s.updT fun t =>
    { t with xctx := none, lanes := t.lanes.map fun r =>
        { r with
          lanes := updWhere r.lanes (fun l => l.g == g) fun l => { l with status := .faulted tr tpc held, geom := t.ctl.tgeom1 } } }

/-- Uncorrectable data that an instruction has consumed is logged (R444, R445); a code page that failed its hash, which is INTEGRITY too
(R449), has been logged when it failed. -/
def logConsumed (tr : Trap) (s : State) : State :=
  let page := tr.tval.toNat / 2 ^ 16 * 2 ^ 16
  if tr.cls ≠ 0x0E ∨ s.badPages.contains (s.t.part, pkgOf s.t.core, page) then s
  else logError s (dieOf s.t.core) 0x0E 0x04 (trapUnit s tr) s.t.part (if tr.va then tr.tval.toNat else 0)

/-- Takes a trap of the running instruction, by the class's destination (R435, R436). -/
def takeTrapAt (tr : Trap) (tpc : Word) (image : Bool) (s : State) : State :=
  match s.t.xctx.bind XCtx.lane with
  | some g => laneStop s g tr tpc (decide (tr.cls ≠ 0x02))
  | none =>
    if tr.cls = 0x05 then awaitPage tr s
    else if handlerClass tr.cls then enterTrap tr tpc image s
    else endByTrap tr (logConsumed tr s)

/-- Takes a trap at the PC of the running instruction. -/
def takeTrap (tr : Trap) (s : State) : State := takeTrapAt tr (curPc s) true s

/-- The return from a trap (R191, R440). With a queue image the instruction at tpc stands first in it; the image replays with the
operands and modes of its places, and both streams go on from RPC. Without one both enter the line of tpc (R121), in the replay that was
suspended there. Held lane threads resume (R275); INH, SEQ and QIMG become 0. -/
def trapReturn (s : State) : State :=
  let c := s.t.ctl
  let lift := fun (e : XEntry) => { e with image := e.image + 1 }
  let s1 := s.updT fun t =>
    if c.qimg then
      { t with
        vq := t.image.map lift, xdec := t.imageDec.map lift, pc := t.rpc, line := none, flows := t.rpcFlows, replay := t.rpcReplay
        decodes := t.rpcDecodes
        ctl := t.ctl.withEnv (t.imageEnv.head?.getD t.ctl.env), shadow := t.imageEnv.tail ++ [t.ctl.env] }
    else { t with pc := c.tpc, line := none, flows := false, replay := if c.seqt then t.replayHeld else none }
  let s2 := s1.updT fun t =>
    { t with
      image := [], imageDec := [], imageEnv := [], rpcReplay := none, rpcFlows := false, rpcDecodes := 0, replayHeld := none
      dropRun := t.dropHeld, dropHeld := 0, lanes := t.laneHeld.orElse fun _ => t.lanes, laneHeld := none }
  s2.updC fun c => { c with qimg := false, seqt := false, inh := false }

/-! ## The frames in which instructions run -/

/-- Whether older instructions of the thread have not completed: execute-stream instructions that stand uncommitted, or the
write-back of a folio that it released (R150, R226; log 20). -/
def xBusy (s : State) : Bool :=
  !s.t.vq.isEmpty || !s.t.xdec.isEmpty || s.folios.any fun e => e.state == .draining && e.core == s.t.core && e.owners.contains s.t.uid

/-- The next state of a body's outcome. A fault of an access-stream or class B head is taken once every older instruction of
both streams has completed (R141); until then, and when the body waits, the thread waits. -/
def finish (r : Res) (s0 : State) : State :=
  match r with
  | .ok s => { s with stalled := false }
  | .trap t s => if s0.t.xctx.isNone && xBusy s0 then { s0 with stalled := true } else { takeTrap t s with stalled := false }
  | .stall s => { s with stalled := true }

/-- The outcome of a step whose next state is known. -/
def goto (s : State) : Host.Outcome State Fault Refusal := .next s

/-- An access-stream instruction (R82): it waits for pending execute-stream writes of the registers it reads (R163), then runs
and moves on. -/
def accessOp (rd : List (BitVec 5)) (f : State → Res) (s : State) : Host.Outcome State Fault Refusal :=
  if rd.any fun r => (pendingDests s).contains r then goto { s with stalled := true }
  else goto (finish ((f s).map advance) s)

/-- An access-stream instruction that sets the PC itself. -/
def jumpOp (rd : List (BitVec 5)) (f : State → Res) (s : State) : Host.Outcome State Fault Refusal :=
  if rd.any fun r => (pendingDests s).contains r then goto { s with stalled := true }
  else goto (finish (f s) s)

/-- A class B instruction (R138): it issues when every older execute-stream instruction has committed. -/
def bothOp (f : State → Res) (s : State) : Host.Outcome State Fault Refusal :=
  if xBusy s then goto { s with stalled := true } else goto (finish ((f s).map advance) s)

/-- A class B instruction that sets the PC or ends the node itself. -/
def bothJump (f : State → Res) (s : State) : Host.Outcome State Fault Refusal :=
  if xBusy s then goto { s with stalled := true } else goto (finish (f s) s)

/-- How an execute-stream instruction treats vstart (R439): element-wise ones start at it, those that restart whole refuse it,
the others ignore it; `join` is vjoin, which ignores it and alone may follow a vblk (R270). -/
inductive StartRule where
  | elements | whole | ignore | join
  deriving DecidableEq, Repr

/-- The first element to act on (R439): vstart, or 0 in a trap handler and in a lane thread. -/
def startElem (s : State) : Nat :=
  if s.t.ctl.inh ∨ (s.t.xctx.bind XCtx.lane).isSome then 0 else s.t.ctl.vstart

/-- Puts the running execute-stream instruction into the thread's queue of instructions not yet executed, with the s registers
as they stand (R133), and lets the access stream run ahead (R82). -/
def enqueue (s : State) : State :=
  let h := curHead s
  let e : XEntry :=
    { pc := s.t.pc, head := h.1, tail := h.2, sregs := s.t.s, pop := none, dead := false, pass := s.t.replay, image := 0
      num := s.t.decodes + 1, age := s.cycle, since := s.cycle, slices := 0 }
  advance { s.updT fun t => { t with xdec := t.xdec ++ [e] } with stalled := false }

/-- Commits an execute-stream instruction (R79, R434, R439). A lane instruction is not one of the thread's own. -/
def commitX (k : StartRule) (s : State) : State :=
  if (s.t.xctx.bind XCtx.lane).isSome then advance s
  else
    let v := if k = .elements ∧ s.t.ctl.inh = false then 0 else s.t.ctl.vstart
    advance (s.updC fun c => { c with vcommit := (c.vcommit + 1) % 2 ^ 48, vstart := v })

/-- The running instruction stops short at an element, or no longer does. -/
def stopAt (lim : Option Nat) (s : State) : State := s.updT fun t => { t with limit := lim }

/-- vstart after a fault of an execute-stream instruction (R439): the element where it has stopped. -/
def faultX (k : StartRule) (tr : Trap) (s : State) : State :=
  stopAt none (if s.t.ctl.inh ∨ tr.cls = 0x01 ∨ (s.t.xctx.bind XCtx.lane).isSome then s
    else
      match k with
      | .elements => s.updC fun c => { c with vstart := s.t.limit.getD tr.telem }
      | .whole => s.updC fun c => { c with vstart := 0 }
      | .ignore | .join => s)

/-- The body of an execute-stream instruction with R439's rules around it. After a vblk only vjoin may follow (R270). A vstart that an
instruction refuses comes before its other checks at issue (log 19, DESIGN CHOICE: where both make it illegal no rule says which tval it gives). -/
def executeBody (k : StartRule) (f : State → Res) (s : State) : Res :=
  if k ≠ .join ∧ s.t.lanes.isSome ∧ (s.t.xctx.bind XCtx.lane).isNone then illegal s
  else if k = .whole ∧ startElem s ≠ 0 then illegalWith (BitVec.ofNat 64 s.t.ctl.vstart) s
  else
    match f s with
    | .ok s1 => .ok (commitX k s1)
    | .trap t s1 => .trap t (faultX k t s1)
    | .stall s1 => .stall s1

/-- Pops a data queue for the execute stream (R133, R178): none when it has to wait (R83). -/
def popQueue (k : Option Nat) (s : State) : Option (Word × State) :=
  match k with
  | none => some (0, s)
  | some k =>
    match s.t.dq.getD k [] with
    | [] => none
    | v :: r => some (v, s.updT fun t => { t with dq := t.dq.setIfInBounds k r })

/-- The value that the running queued instruction popped on entering the vector queue (R133). -/
def poppedValue (s : State) : Word := ((s.t.xctx.bind fun c => c.entry.pop).getD 0)

/-- An execute-stream instruction that pops a data queue or none (R79, R82, R133, R138). It runs at once when nothing older of its stream
stands before it; behind older ones, or when it has to wait, it is queued and the access stream runs ahead. In the run that a bqx
drops it has no effect (R142). A page fault leaves it to issue again with the value still to be popped (R436). -/
def executeWith (pop : Option Nat) (rd : List (BitVec 5)) (k : StartRule) (f : Word → State → Res) (s : State) :
    Host.Outcome State Fault Refusal :=
  if s.t.xctx.isSome then goto (finish (executeBody k (f (poppedValue s)) s) s)
  else if rd.any fun r => (pendingDests s).contains r then goto { s with stalled := true }
  else if xBusy s then goto (enqueue s)
  else if 0 < s.t.dropRun then goto (advance { s.updT fun t => { t with dropRun := t.dropRun - 1 } with stalled := false })
  else
    match popQueue pop s with
    | none => goto (enqueue s)
    | some (v, s1) =>
      match executeBody k (f v) s1 with
      | .stall _ => goto (enqueue s)
      | .trap t s2 => goto (finish (.trap t (if t.cls = 0x05 then s2.updT fun t => { t with dq := s.t.dq } else s2)) s)
      | .ok s2 => goto (finish (.ok s2) s)

/-- An execute-stream instruction that pops no data queue. -/
def executeOp (rd : List (BitVec 5)) (k : StartRule) (f : State → Res) (s : State) : Host.Outcome State Fault Refusal :=
  executeWith none rd k (fun _ => f) s

/-- A happening that is no instruction of a stream. -/
def happening (s : State) : Host.Outcome State Fault Refusal := goto { s with stalled := false }

/-! ## The packages' starts -/

/-- The start of a package, at its begin where nothing has happened yet (R464). -/
def bootOf (s : State) (pkg : Nat) : Boot := (assoc s.boots pkg).getD Boot.start

/-- Changes the start, the stores or the host port of one package. -/
def updBoot (s : State) (pkg : Nat) (f : Boot → Boot) : State :=
  { s with boots := (pkg, f (bootOf s pkg)) :: s.boots.filter fun x => x.1 != pkg }

/-- A loaded image's digest is extended into a register and appended to the measurement log (R464). -/
def Boot.measure (b : Boot) (reg : Nat) (image : List Byte) : Boot :=
  let d := Config.sm3 image
  let old := b.m.toList.getD reg 0
  { b with m := b.m.setIfInBounds reg (Config.sm3 (natLe 32 old.toNat ++ natLe 32 d.toNat)), mlog := b.mlog ++ [(reg, d)] }

/-! ## Threads -/

/-- All resident threads, the current one first. -/
def allThreads (s : State) : List Thread := s.t :: s.parked

/-- The threads of nodes wherever they are: resident, suspended or pre-empted. -/
def everyThread (s : State) : List Thread := allThreads s ++ s.conts.map Cont.th ++ s.saved.map Saved.th

/-- The thread of a number, resident. -/
def findThread (s : State) (uid : Nat) : Option Thread := (allThreads s).find? fun t => t.uid == uid && t.status != .free

/-- Applies a change to the resident thread of a number. -/
def updThread (s : State) (uid : Nat) (f : Thread → Thread) : State :=
  if s.t.uid = uid then s.updT f else { s with parked := updWhere s.parked (fun t => t.uid == uid) f }

/-- Applies a change to the thread of a number wherever it is: resident, suspended or pre-empted. -/
def updAnyThread (s : State) (uid : Nat) (f : Thread → Thread) : State :=
  let s1 := updThread s uid f
  { s1 with
    conts := updWhere s1.conts (fun c => c.th.uid == uid) (fun c => { c with th := f c.th })
    saved := updWhere s1.saved (fun v => v.th.uid == uid) (fun v => { v with th := f v.th }) }

/-- Makes a parked thread the current one. -/
def switchTo (s : State) (p : Thread → Bool) : State :=
  match s.parked.find? p with
  | none => s
  | some t =>
    let rest := s.parked.filter fun x => !(x.uid == t.uid)
    { s with t := t, parked := if s.t.status = .free then rest else rest ++ [s.t], stalled := false }

/-- Runs a change with a thread as the current one, and puts the current thread back. -/
def asThread (s : State) (uid : Nat) (f : State → State) : State :=
  let mine := s.t.uid
  if mine = uid then f s
  else
    match s.parked.find? fun t => t.uid == uid with
    | none => s
    | some t =>
      let s1 := f { s with t := t, parked := updWhere s.parked (fun x => x.uid == uid) fun _ => s.t }
      match s1.parked.find? fun x => x.uid == mine with
      | none => s1
      | some m => { s1 with t := m, parked := updWhere s1.parked (fun x => x.uid == mine) fun _ => s1.t }

end Sys2Proof.Machine
end

