-- ==== Sys2Proof/Machine/Flags.lean ====
section
/-! DEFINITION. The flags of R45 and how instructions raise them: the bits of fflags and sat, and their merge (R46). Which
operation raises which flag stands with the arithmetic of Numbers.lean (R33 to R35) and Float.lean (R37 to R44). -/

namespace Sys2Proof.Machine

/-- Flags an operation raises: fflags (R45) in the low six bits, sat above them. -/
abbrev Fl := BitVec 9

def flNX : Fl := 0x001
def flUF : Fl := 0x002
def flOF : Fl := 0x004
def flDZ : Fl := 0x008
def flNV : Fl := 0x010
def flPZ : Fl := 0x020
def flISAT : Fl := 0x040
def flQSAT : Fl := 0x080
def flCVSAT : Fl := 0x100

/-- OR-s raised flags into the registers (R46). -/
def raise (s : State) (f : Fl) : State := orFlags s (f.extractLsb' 0 6) (f.extractLsb' 6 3)

end Sys2Proof.Machine
end

