-- ==== Sys2Proof/Machine/Numbers.lean ====
section
/-! DEFINITION. Integer arithmetic with its deliveries and flags (R33 to R35, R237), and the reduce-and-scan tree (R52, R53). -/

namespace Sys2Proof.Machine

/-- `sat_s` of R34, with ISAT when the result differs. -/
def satS (x : Int) (w : Nat) : Int × Fl :=
  let hi : Int := 2 ^ (w - 1) - 1
  let lo : Int := -(2 ^ (w - 1))
  if x < lo then (lo, flISAT) else if hi < x then (hi, flISAT) else (x, 0)

/-- `sat_u` of R34, with ISAT when the result differs. -/
def satU (x : Int) (w : Nat) : Int × Fl :=
  let hi : Int := 2 ^ w - 1
  if x < 0 then (0, flISAT) else if hi < x then (hi, flISAT) else (x, 0)

/-- `rshift_round` of R35. -/
def rshiftRound (x : Int) (n k : Nat) : Int :=
  if n = 0 then x
  else
    let q := x / (2 ^ n : Nat)
    let rem := x % (2 ^ n : Nat)
    let half : Int := (2 ^ (n - 1) : Nat)
    if k = 0 then (if half ≤ rem then q + 1 else q)
    else if k = 1 then (if half < rem ∨ (rem = half ∧ q % 2 = 1) then q + 1 else q)
    else if k = 3 then (if rem ≠ 0 ∧ q % 2 = 0 then q + 1 else q)
    else q

/-- A signed integer type (R33). -/
def isSigned (ty : Nat) : Bool := decide (ty ≤ 0x03)

/-- A pattern read by an integer type (R33). -/
def readInt (ty x : Nat) : Int :=
  if isSigned ty then sextNat x (typeWidth ty) else (zextNat x (typeWidth ty) : Int)

/-- `deliver` of R237 to a width, by the signedness of the type. -/
def deliver (ty : Nat) (x : Int) (w : Nat) (s : Bool) : Nat × Fl :=
  if s then
    let r := if isSigned ty then satS x w else satU x w
    (truncInt r.1 w, r.2)
  else (truncInt x w, 0)

/-! ## The tree -/

/-- One node of R52: absent inputs pass the other through. -/
def treeNode {α : Type} (op : α → α → α × Fl) : Option α → Option α → Option α × Fl
  | some a, some b =>
    let r := op a b
    (some r.1, r.2)
  | some a, none => (some a, 0)
  | none, some b => (some b, 0)
  | none, none => (none, 0)

/-- One level of R52. -/
def treeLevel {α : Type} (op : α → α → α × Fl) : List (Option α) → List (Option α) × Fl
  | a :: b :: r =>
    let n := treeNode op a b
    let l := treeLevel op r
    (n.1 :: l.1, n.2 ||| l.2)
  | l => (l, 0)

/-- The levels of R52 down to one value. -/
def treeFold {α : Type} (op : α → α → α × Fl) : Nat → List (Option α) × Fl → Option α × Fl
  | 0, (l, f) => (l.head?.join, f)
  | n + 1, (l, f) =>
    match l with
    | [] => (none, f)
    | [x] => (x, f)
    | _ =>
      let r := treeLevel op l
      treeFold op n (r.1, f ||| r.2)

/-- The tree of R52 over leaves, absent ones included. A missing right neighbour is absent, as the padding of R52 is. -/
def tree {α : Type} (op : α → α → α × Fl) (leaves : List (Option α)) : Option α × Fl := treeFold op 24 (leaves, 0)

/-- R52 with the start value: `op(s, t)`, or s when t is absent. -/
def reduce {α : Type} (op : α → α → α × Fl) (start : α) (leaves : List (Option α)) : α × Fl :=
  let t := tree op leaves
  match t.1 with
  | none => (start, t.2)
  | some x =>
    let r := op start x
    (r.1, t.2 ||| r.2)

/-- The aligned blocks of R53 that split the first `n` leaves, largest first: sizes 2^k, 2^(k−1), … -/
def prefixBlocks {α : Type} : Nat → Nat → List (Option α) → List (List (Option α))
  | 0, n, l => if n = 1 then [l.take 1] else []
  | k + 1, n, l =>
    if 2 ^ (k + 1) ≤ n then l.take (2 ^ (k + 1)) :: prefixBlocks k (n - 2 ^ (k + 1)) (l.drop (2 ^ (k + 1)))
    else prefixBlocks k n l

/-- p_i of R53, for the first `n` leaves and start value `start`. -/
def scanAt {α : Type} (op : α → α → α × Fl) (start : α) (leaves : List (Option α)) (n : Nat) : α × Fl :=
  (prefixBlocks 13 n leaves).foldl (fun a b =>
    let t := tree op b
    match t.1 with
    | none => (a.1, a.2 ||| t.2)
    | some x =>
      let r := op a.1 x
      (r.1, a.2 ||| t.2 ||| r.2)) (start, 0)

end Sys2Proof.Machine
end

