-- ==== Sys2Proof/Machine/Float.lean ====
section
/-! DEFINITION. Floating point and block floating point, exactly and to the bit (R36 to R51, R54). A finite value is held as
sign × mantissa × 2^exponent with a natural mantissa, so that sums and products are exact and each result is rounded once. -/

namespace Sys2Proof.Machine

/-- The parameters of a format (R37). -/
structure FloatFmt where
  ebits : Nat
  fbits : Nat
  bias : Int
  emin : Int
  emax : Int
  maxMant : Nat
  e4 : Bool
  deriving DecidableEq, Repr

def fmt64 : FloatFmt := { ebits := 11, fbits := 52, bias := 1023, emin := -1022, emax := 1023, maxMant := 2 ^ 53 - 1, e4 := false }
def fmt32 : FloatFmt := { ebits := 8, fbits := 23, bias := 127, emin := -126, emax := 127, maxMant := 2 ^ 24 - 1, e4 := false }
def fmt16 : FloatFmt := { ebits := 5, fbits := 10, bias := 15, emin := -14, emax := 15, maxMant := 2 ^ 11 - 1, e4 := false }
def fmtB16 : FloatFmt := { ebits := 8, fbits := 7, bias := 127, emin := -126, emax := 127, maxMant := 2 ^ 8 - 1, e4 := false }
def fmtE5 : FloatFmt := { ebits := 5, fbits := 2, bias := 15, emin := -14, emax := 15, maxMant := 2 ^ 3 - 1, e4 := false }
def fmtE4 : FloatFmt := { ebits := 4, fbits := 3, bias := 7, emin := -6, emax := 8, maxMant := 14, e4 := true }

/-- The format of a floating-point type code (R31). -/
def fmtOf (ty : Nat) : FloatFmt :=
  if ty = 0x08 then fmtE4 else if ty = 0x09 then fmtE5 else if ty = 0x0A then fmt16 else if ty = 0x0B then fmtB16
  else if ty = 0x0C then fmt32 else fmt64

/-- The value of a pattern: NaN (signalling or not), infinity, or sign × mant × 2^exp. -/
inductive FVal where
  | nan (sig : Bool)
  | inf (neg : Bool)
  | fin (neg : Bool) (mant : Nat) (exp : Int)
  deriving DecidableEq, Repr

/-- The all-ones exponent of a format. -/
def FloatFmt.xmax (f : FloatFmt) : Nat := 2 ^ f.ebits - 1

/-- Reads a pattern (R36 to R38). -/
def FloatFmt.value (f : FloatFmt) (p : Nat) : FVal :=
  let t := p % 2 ^ f.fbits
  let x := p / 2 ^ f.fbits % 2 ^ f.ebits
  let neg := p / 2 ^ (f.fbits + f.ebits) % 2 == 1
  if x = f.xmax ∧ f.e4 = false then
    (if t = 0 then .inf neg else .nan (decide (t < 2 ^ (f.fbits - 1))))
  else if x = f.xmax ∧ t = 2 ^ f.fbits - 1 then .nan false
  else if x = 0 then .fin neg t (f.emin - f.fbits)
  else .fin neg (2 ^ f.fbits + t) ((x : Int) - f.bias - f.fbits)

/-- The sign bit of a pattern's format. -/
def FloatFmt.signBit (f : FloatFmt) : Nat := 2 ^ (f.fbits + f.ebits)

def FloatFmt.sign (f : FloatFmt) (neg : Bool) : Nat := if neg then f.signBit else 0

/-- The canonical NaN (R37, R38). -/
def FloatFmt.qnan (f : FloatFmt) : Nat :=
  if f.e4 then 0x7F else f.xmax * 2 ^ f.fbits + 2 ^ (f.fbits - 1)

/-- Infinity; fp8e4 has none, and its largest finite value stands in (R42). -/
def FloatFmt.infinity (f : FloatFmt) (neg : Bool) : Nat := f.sign neg + f.xmax * 2 ^ f.fbits

/-- The largest finite pattern (R37). -/
def FloatFmt.maxf (f : FloatFmt) (neg : Bool) : Nat :=
  f.sign neg + if f.e4 then 0x7E else f.xmax * 2 ^ f.fbits - 1

/-- Rounds mant / 2^d to an integer in direction `md` (R41: 0 RNE, 1 RTZ, 2 RUP, 3 RDN) for a value of the given sign. -/
def rintShift (neg : Bool) (mant d md : Nat) : Nat × Bool :=
  let q := mant / 2 ^ d
  let rem := mant % 2 ^ d
  if rem = 0 then (q, false)
  else
    let up : Bool :=
      if md = 0 then decide (2 ^ d < 2 * rem) || (decide (2 ^ d = 2 * rem) && q % 2 == 1)
      else if md = 1 then false
      else if md = 2 then !neg
      else neg
    (if up then q + 1 else q, true)

/-- mant × 2^exp as an integer multiple of 2^q, rounded in direction `md`; whether it was inexact. -/
def rintAt (neg : Bool) (mant : Nat) (exp q : Int) (md : Nat) : Nat × Bool :=
  if q ≤ exp then (mant * 2 ^ (exp - q).toNat, false) else rintShift neg mant (q - exp).toNat md

/-- `overflow` of R42. `sat` is vtype's saturation where it applies. -/
def FloatFmt.overflow (f : FloatFmt) (neg sat : Bool) (md : Nat) : Nat :=
  if f.e4 then f.maxf neg
  else if sat && decide (f.fbits ≤ 10) then f.maxf neg
  else if md = 0 then f.infinity neg
  else if md = 1 then f.maxf neg
  else if md = 2 then (if neg then f.maxf neg else f.infinity neg)
  else if neg then f.infinity neg else f.maxf neg

/-- The pattern of a non-zero magnitude n × 2^(e − fbits), where e is its exponent (at least emin) before a carry of rounding. -/
def FloatFmt.pack (f : FloatFmt) (neg : Bool) (n : Nat) (e : Int) : Nat :=
  f.sign neg +
    if n < 2 ^ f.fbits then n else (e + f.bias).toNat * 2 ^ f.fbits + (n - 2 ^ f.fbits)

/-- `round_f` of R41 on sign × mant × 2^exp; a zero keeps its sign. -/
def FloatFmt.round (f : FloatFmt) (md : Nat) (sat neg : Bool) (mant : Nat) (exp : Int) : Nat × Fl :=
  if mant = 0 then (f.sign neg, 0)
  else
    let l : Int := (Nat.log2 mant : Int) + exp
    let e := max l f.emin
    let q := e - f.fbits
    let r := rintAt neg mant exp q md
    let nx : Fl := if r.2 then flNX else 0
    let mx := rintAt false f.maxMant (f.emax - f.fbits) q 1
    if mx.1 < r.1 then (f.overflow neg sat md, flOF ||| flNX)
    else
      let u := rintAt neg mant exp (l - f.fbits) md
      let tiny : Bool := decide (l < f.emin) && !(decide (l = f.emin - 1) && decide (u.1 = 2 ^ (f.fbits + 1)))
      let uf : Fl := if tiny && r.2 then flUF else 0
      (f.pack neg r.1 e, nx ||| uf)

/-- A canonical NaN, with NV when an operand signals or the operation is invalid (R38, R40). -/
def FloatFmt.nanResult (f : FloatFmt) (nv : Bool) : Nat × Fl := (f.qnan, if nv then flNV else 0)

def FVal.isNan : FVal → Bool
  | .nan _ => true
  | .inf _ | .fin _ _ _ => false

def FVal.isSnan : FVal → Bool
  | .nan s => s
  | .inf _ | .fin _ _ _ => false

def FVal.neg : FVal → FVal
  | .nan s => .nan s
  | .inf n => .inf (!n)
  | .fin n m e => .fin (!n) m e

/-- The exact sum of two finite values: sign, mantissa, exponent. An exact zero takes its sign from R40. -/
def exactAdd (md : Nat) (n1 : Bool) (m1 : Nat) (e1 : Int) (n2 : Bool) (m2 : Nat) (e2 : Int) : Bool × Nat × Int :=
  if m1 = 0 ∧ m2 = 0 then ((if n1 = n2 then n1 else decide (md = 3)), 0, 0)
  else if m1 = 0 then (n2, m2, e2)
  else if m2 = 0 then (n1, m1, e1)
  else
    let e := min e1 e2
    let a : Int := (m1 * 2 ^ (e1 - e).toNat : Nat)
    let b : Int := (m2 * 2 ^ (e2 - e).toNat : Nat)
    let x := (if n1 then -a else a) + (if n2 then -b else b)
    if x = 0 then (decide (md = 3), 0, 0) else (decide (x < 0), x.natAbs, e)

/-- a + b rounded once (R40, R41). -/
def fAdd (f : FloatFmt) (md : Nat) (sat : Bool) (a b : FVal) : Nat × Fl :=
  match a, b with
  | .nan x, .nan y => f.nanResult (x || y)
  | .nan x, .inf _ | .nan x, .fin _ _ _ => f.nanResult x
  | .inf _, .nan y | .fin _ _ _, .nan y => f.nanResult y
  | .inf n1, .inf n2 => if n1 = n2 then (f.infinity n1, 0) else f.nanResult true
  | .inf n, .fin _ _ _ => (f.infinity n, 0)
  | .fin _ _ _, .inf n => (f.infinity n, 0)
  | .fin n1 m1 e1, .fin n2 m2 e2 =>
    let r := exactAdd md n1 m1 e1 n2 m2 e2
    f.round md sat r.1 r.2.1 r.2.2

/-- a × b rounded once. -/
def fMul (f : FloatFmt) (md : Nat) (sat : Bool) (a b : FVal) : Nat × Fl :=
  match a, b with
  | .nan x, .nan y => f.nanResult (x || y)
  | .nan x, .inf _ | .nan x, .fin _ _ _ => f.nanResult x
  | .inf _, .nan y | .fin _ _ _, .nan y => f.nanResult y
  | .inf n1, .inf n2 => (f.infinity (n1 != n2), 0)
  | .inf n1, .fin n2 m _ => if m = 0 then f.nanResult true else (f.infinity (n1 != n2), 0)
  | .fin n1 m _, .inf n2 => if m = 0 then f.nanResult true else (f.infinity (n1 != n2), 0)
  | .fin n1 m1 e1, .fin n2 m2 e2 => f.round md sat (n1 != n2) (m1 * m2) (e1 + e2)

/-- a / b rounded once: the quotient to well beyond the format's precision, jammed with whether a remainder is left. -/
def fDiv (f : FloatFmt) (md : Nat) (sat : Bool) (a b : FVal) : Nat × Fl :=
  match a, b with
  | .nan x, .nan y => f.nanResult (x || y)
  | .nan x, .inf _ | .nan x, .fin _ _ _ => f.nanResult x
  | .inf _, .nan y | .fin _ _ _, .nan y => f.nanResult y
  | .inf _, .inf _ => f.nanResult true
  | .inf n1, .fin n2 _ _ => (f.infinity (n1 != n2), 0)
  | .fin n1 _ _, .inf n2 => (f.sign (n1 != n2), 0)
  | .fin n1 m1 e1, .fin n2 m2 e2 =>
    if m2 = 0 then (if m1 = 0 then f.nanResult true else (f.infinity (n1 != n2), flDZ))
    else if m1 = 0 then (f.sign (n1 != n2), 0)
    else
      let q := m1 * 2 ^ 130 / m2
      let st := if m1 * 2 ^ 130 % m2 = 0 then 0 else 1
      f.round md sat (n1 != n2) (2 * q + st) (e1 - e2 - 131)

/-- The integer square root of `n` by trial of the bits below `k`. -/
def isqrt : Nat → Nat → Nat → Nat
  | 0, _, r => r
  | k + 1, n, r =>
    let t := r + 2 ^ k
    if t * t ≤ n then isqrt k n t else isqrt k n r

/-- √a rounded once; −0 for −0, invalid below zero. -/
def fSqrt (f : FloatFmt) (md : Nat) (sat : Bool) (a : FVal) : Nat × Fl :=
  match a with
  | .nan x => f.nanResult x
  | .inf n => if n then f.nanResult true else (f.infinity false, 0)
  | .fin n m e =>
    if m = 0 then (f.sign n, 0)
    else if n then f.nanResult true
    else
      let me := if e % 2 = 0 then (m, e) else (2 * m, e - 1)
      let x := me.1 * 2 ^ 130
      let r := isqrt 100 x 0
      let st := if r * r = x then 0 else 1
      f.round md sat false (2 * r + st) (me.2 / 2 - 65 - 1)

/-- a × b + c rounded once (R43); ∞ × 0 is invalid even with a quiet NaN for c (R175, R260). -/
def fFma (f : FloatFmt) (md : Nat) (sat : Bool) (a b c : FVal) : Nat × Fl :=
  let infZero : Bool := match a, b with
    | .inf _, .fin _ m _ => m == 0
    | .fin _ m _, .inf _ => m == 0
    | _, _ => false
  if infZero then (f.qnan, flNV)
  else if a.isNan || b.isNan || c.isNan then f.nanResult (a.isSnan || b.isSnan || c.isSnan)
  else
    let sgn : Bool := match a, b with
      | .inf x, .inf y | .inf x, .fin y _ _ | .fin x _ _, .inf y | .fin x _ _, .fin y _ _ => x != y
      | _, _ => false
    match a, b, c with
    | .fin _ m1 e1, .fin _ m2 e2, .fin n3 m3 e3 =>
      let r := exactAdd md sgn (m1 * m2) (e1 + e2) n3 m3 e3
      f.round md sat r.1 r.2.1 r.2.2
    | .fin _ _ _, .fin _ _ _, .inf n => (f.infinity n, 0)
    | _, _, .inf n => if n = sgn then (f.infinity n, 0) else f.nanResult true
    | _, _, _ => (f.infinity sgn, 0)

/-- The order of two numbers that are not NaN: −1, 0 or 1 with −0 = +0 (R40). -/
def fCmp (a b : FVal) : Int :=
  match a, b with
  | .inf n1, .inf n2 => if n1 = n2 then 0 else if n1 then -1 else 1
  | .inf n, _ => if n then -1 else 1
  | _, .inf n => if n then 1 else -1
  | .fin n1 m1 e1, .fin n2 m2 e2 =>
    let e := min e1 e2
    let k1 : Int := (m1 * 2 ^ (e1 - e).toNat : Nat)
    let k2 : Int := (m2 * 2 ^ (e2 - e).toNat : Nat)
    let x : Int := (if n1 then -k1 else k1) - (if n2 then -k2 else k2)
    if x < 0 then -1 else if x = 0 then 0 else 1
  | _, _ => 0

/-- A zero or a negative sign of a number, for the order −0 < +0. -/
def FVal.isNeg : FVal → Bool
  | .nan _ => false
  | .inf n | .fin n _ _ => n

/-- minimumNumber and maximumNumber of two patterns (R40). -/
def fMinMax (f : FloatFmt) (wantMax : Bool) (p q : Nat) : Nat × Fl :=
  let a := f.value p
  let b := f.value q
  let fl : Fl := if a.isSnan || b.isSnan then flNV else 0
  if a.isNan && b.isNan then (f.qnan, fl)
  else if a.isNan then (q, fl)
  else if b.isNan then (p, fl)
  else
    let c := fCmp a b
    let aLess : Bool := decide (c < 0) || (decide (c = 0) && a.isNeg)
    (if aLess = wantMax then q else p, fl)

/-- The comparisons of R247 and R174 by number: 0 eq, 1 ne, 2 lt, 3 le, 4 gt, 5 ge; NV on any NaN for all but eq and ne. -/
def fCompare (k : Nat) (a b : FVal) : Bool × Fl :=
  if a.isNan || b.isNan then
    (decide (k = 1), if decide (2 ≤ k) || a.isSnan || b.isSnan then flNV else 0)
  else
    let c := fCmp a b
    let r : Bool := match k with
      | 0 => decide (c = 0)
      | 1 => decide (c ≠ 0)
      | 2 => decide (c < 0)
      | 3 => decide (c ≤ 0)
      | 4 => decide (0 < c)
      | _ => decide (0 ≤ c)
    (r, 0)

/-- A value rounded into a format, infinities and NaN by R44. -/
def fConvert (f : FloatFmt) (md : Nat) (sat : Bool) (v : FVal) : Nat × Fl :=
  match v with
  | .nan s => f.nanResult s
  | .inf n => if f.e4 then (f.maxf n, flOF ||| flNX) else (f.infinity n, 0)
  | .fin n m e => f.round md sat n m e

/-- A value rounded to an integer of a signedness and width (R44): rint, then the clamp. -/
def fToInt (signed : Bool) (w md : Nat) (v : FVal) : Int × Fl :=
  let lo : Int := if signed then -(2 ^ (w - 1)) else 0
  let hi : Int := if signed then 2 ^ (w - 1) - 1 else 2 ^ w - 1
  match v with
  | .nan _ => (0, flNV ||| flCVSAT)
  | .inf n => (if n then lo else hi, flNV ||| flCVSAT)
  | .fin n m e =>
    let r := rintAt n m e 0 md
    let x : Int := if n then -(r.1 : Int) else r.1
    let nx : Fl := if r.2 then flNX else 0
    if x < lo then (lo, nx ||| flNV ||| flCVSAT) else if hi < x then (hi, nx ||| flNV ||| flCVSAT) else (x, nx)

/-- An integer rounded into a format (R44). -/
def fOfInt (f : FloatFmt) (md : Nat) (sat : Bool) (x : Int) : Nat × Fl := f.round md sat (decide (x < 0)) x.natAbs 0

/-- A conversion between two types of codes 0x00 to 0x0D (R44, R176, R261): integers to integers saturate. -/
def convertElem (td ts md : Nat) (sat : Bool) (x : Nat) : Nat × Fl :=
  let wd := typeWidth td
  if isInt ts then
    let v := readInt ts x
    if isInt td then
      let r := if isSigned td then satS v wd else satU v wd
      (truncInt r.1 wd, r.2)
    else fOfInt (fmtOf td) md sat v
  else
    let v := (fmtOf ts).value (x % 2 ^ typeWidth ts)
    if isInt td then
      let r := fToInt (isSigned td) wd md v
      (truncInt r.1 wd, r.2)
    else if td = ts ∧ v.isNan = false then (x % 2 ^ wd, 0)
    else fConvert (fmtOf td) md sat v

/-- `pair_add` of R54 in a format, on patterns. -/
def pairAdd (f : FloatFmt) (a b : Nat × Nat) : (Nat × Nat) × Fl :=
  let va := f.value a.1
  let vb := f.value b.1
  let sm := fAdd f 0 false va vb
  match f.value sm.1, va, vb with
  | .fin ns ms es, .fin n1 m1 e1, .fin n2 m2 e2 =>
    let x := exactAdd 0 n1 m1 e1 n2 m2 e2
    let ex := exactAdd 0 x.1 x.2.1 x.2.2 (!ns) ms es
    let ll := fAdd f 0 false (f.value a.2) (f.value b.2)
    let lo := fAdd f 0 false (f.value ll.1) (.fin ex.1 ex.2.1 ex.2.2)
    let h := fAdd f 0 false (.fin ns ms es) (f.value lo.1)
    let d := fAdd f 0 false (f.value h.1) ((FVal.fin ns ms es).neg)
    let l := fAdd f 0 false (f.value lo.1) ((f.value d.1).neg)
    ((h.1, l.1), sm.2 ||| ll.2 ||| lo.2 ||| h.2 ||| d.2 ||| l.2)
  | _, _, _ => ((sm.1, 0), sm.2)

/-! ## Block floating point -/

/-- The mantissa of a bfpm byte (R48). -/
def bfpMant (m x : Nat) : Int := sextNat x m

/-- A mantissa as a byte, sign-extended (R48). -/
def bfpByte (x : Int) : Nat := truncInt x 8

/-- The value of a bfpm element (R47): NaN marks a poisoned block. -/
def bfpValue (m e : Nat) (x : Int) : FVal :=
  if e = 255 then .nan false
  else if e = 0 then .fin false 0 0
  else .fin (decide (x < 0)) x.natAbs ((e : Int) - 127 - m + 2)

/-- The error of R50's candidate g, as a multiple of 2^(2 b): sum of (x_i − M_i s)^2. -/
def quantError (m : Nat) (g b : Int) (xs : List (Int × Int)) : Nat :=
  let sh := (g - 127 - m + 2 - b).toNat
  xs.foldl (fun (a : Nat) (p : Int × Int) => a + (p.1 - p.2 * ((2 ^ sh : Nat) : Int)).natAbs ^ 2) 0

/-- The mantissas of R50's candidate g and whether some was limited; the values come as multiples of 2^b. -/
def quantMants (m : Nat) (g b : Int) (xs : List Int) : List Int × Bool :=
  let lim : Int := 2 ^ (m - 1) - 1
  let r := xs.map fun x =>
    let y := rintAt (decide (x < 0)) x.natAbs b (g - 127 - m + 2) 0
    let v : Int := if x < 0 then -(y.1 : Int) else y.1
    (max (-lim) (min v lim), decide (v < -lim ∨ lim < v))
  (r.map Prod.fst, r.any Prod.snd)

/-- The values of a block as integer multiples of 2^b, for an exponent b below all of theirs. -/
def scaleInts (b : Int) (xs : List FVal) : List Int :=
  xs.map fun v => match v with
    | .fin n m e => let k : Int := (m * 2 ^ (e - b).toNat : Nat); if n then -k else k
    | _ => 0

/-- The quantiser (R50) on the active elements of a block: E, the mantissas, the winner's flags. -/
def quantise (m : Nat) (xs : List FVal) : Nat × List Int × Fl :=
  let zeros := xs.map fun _ => (0 : Int)
  if xs.any fun v => match v with
      | .fin _ _ _ => false
      | _ => true then (255, zeros, flNV ||| flPZ)
  else
    let lo := xs.foldl (fun a v => match v with
      | .fin _ mm e => if mm = 0 then a else min a e
      | _ => a) (0 : Int)
    let ints := scaleInts (min lo (-200)) xs
    let b0 := min lo (-200)
    let a := ints.foldl (fun a x => max a x.natAbs) 0
    if a = 0 then (0, zeros, 0)
    else
      let c : Int := (Nat.log2 a : Int) + b0 + 127
      let clamp := fun (g : Int) => max 1 (min g 254)
      let cands := [clamp (c - 1), clamp c, clamp (c + 1)].dedup
      let eval := fun (g : Int) =>
        let q := quantMants m g b0 ints
        (quantError m g b0 (ints.zip q.1), g, q)
      let all := cands.map eval
      match all with
      | [] => (0, zeros, 0)
      | x :: r =>
        let best := r.foldl (fun w y => if y.1 < w.1 ∨ (y.1 = w.1 ∧ w.2.1 < y.2.1) then y else w) x
        if best.2.2.1.all fun v => v == 0 then (0, zeros, 0)
        else
          let f1 : Fl := if best.2.2.2 then flQSAT else 0
          let f2 : Fl := if best.1 = 0 then 0 else flNX
          (best.2.1.toNat, best.2.2.1, f1 ||| f2)

end Sys2Proof.Machine
end

