-- ==== Sys2Proof/Machine/Access.lean ====
section
/-! DEFINITION. Accesses of a thread to memory and folios, one single-copy unit at a time (R145, R202 to R204, R349, R352), and
the waits between its access stream and queued execute-stream accesses (R350). -/

namespace Sys2Proof.Machine

/-- The outcome of an access: a value, or the trap at the element. -/
inductive Got (α : Type) where
  | ok (a : α) (s : State)
  | bad (t : Trap) (s : State)

def Got.bind {α : Type} (g : Got α) (f : α → State → Res) : Res :=
  match g with
  | .ok a s => f a s
  | .bad t s => .trap t s

/-- The key of an address for an access of the current thread to `align` aligned bytes, or the trap that R202, R155 to R158 and a view's guard
(R402) give. -/
def keyOf (s : State) (acc : Access) (va : Word) (align elem : Nat) : Got Nat :=
  if canonical va = false then .bad (addrTrap 0x04 va elem) s
  else if va.toNat % align ≠ 0 then .bad (addrTrap 0x03 va elem) s
  else if (guardedIn s s.t.part (pkgOf s.t.core) va.toNat align).isSome then .bad (addrTrap 0x04 va elem) s
  else
    match translate s (me s) acc va with
    | .ok k s1 => .ok k (fillBlock s1 k)
    | .fault c s1 => .bad (addrTrap c va elem) s1

/-- Whether a read of the thread consumes poisoned data in `n` bytes from a key on (R445): bytes that it reads from their home, not a
later write to them. -/
def poisoned (s : State) (key n : Nat) : Bool :=
  !s.poison.isEmpty && (List.range n).any fun i =>
    s.poison.contains (key + i) && (s.t.ownWrite (key + i)).isNone && decide (s.t.snapSeq.get (key + i) ≤ s.homeSeq.get (key + i))

/-- Whether a read of the latest value of a byte (R369) finds it at its home, poisoned. -/
def latestBad (s : State) (part key : Nat) (sees : Narrow → Bool) : Bool :=
  s.poison.contains key && !(s.narrow.any fun x =>
    x.key == key && x.part == part && sees x && decide (s.homeSeq.get key < x.seq))

/-- Whether an atomic of the current thread at a scope consumes poisoned data in `n` bytes from a key on (R369, R445): bytes whose home has the
latest value that has reached the point of the scope. -/
def pointPoisoned (s : State) (scope key n : Nat) : Bool :=
  !s.poison.isEmpty && (List.range n).any fun i => latestBad s s.t.part (key + i) fun x => x.reaches s.t.core scope

/-- Loads a unit of `n` bytes at an aligned address. -/
def loadAt (s : State) (va : Word) (n align elem : Nat) : Got Nat :=
  match keyOf s .load va align elem with
  | .bad t s1 => .bad t s1
  | .ok k s1 => if poisoned s1 k n then .bad (addrTrap 0x0E va elem) s1 else .ok (leNat (s1.t.readBytes n k)) s1

/-- Stores a unit of `n` bytes at an aligned address: it becomes one of the thread's own writes (R204). -/
def storeAt (s : State) (va : Word) (n align elem v : Nat) : Got Unit :=
  match keyOf s .store va align elem with
  | .bad t s1 => .bad t s1
  | .ok k s1 => .ok () (s1.updT fun t => t.storeBytes k k (natLe n v))

/-- Loads `n` bytes from an address on, byte by byte (R212): each byte is its own unit, `elem j` the element named in a fault. -/
def loadBytesAt (elem : Nat → Nat) (va : Word) : Nat → Nat → State → Got (List Byte)
  | 0, _, s => .ok [] s
  | n + 1, j, s =>
    match loadAt s (va + BitVec.ofNat 64 j) 1 1 (elem j) with
    | .bad t s1 => .bad t s1
    | .ok b s1 =>
      match loadBytesAt elem va n (j + 1) s1 with
      | .bad t s2 => .bad t s2
      | .ok r s2 => .ok (BitVec.ofNat 8 b :: r) s2

/-- Loads a structure of whole 64-bit words at an aligned address (descriptors, records, blocks). -/
def loadWords (va : Word) : Nat → Nat → State → Got (List Word)
  | 0, _, s => .ok [] s
  | n + 1, j, s =>
    match loadAt s (va + BitVec.ofNat 64 (8 * j)) 8 8 0 with
    | .bad t s1 => .bad t s1
    | .ok w s1 =>
      match loadWords va n (j + 1) s1 with
      | .bad t s2 => .bad t s2
      | .ok r s2 => .ok (BitVec.ofNat 64 w :: r) s2

/-- Checks every byte of a range as stores, 8 bytes at a time, without storing (R195, R277, R308): the keys of its bytes. -/
def checkStores (elem : Nat) : List Word → State → Got (List Nat)
  | [], s => .ok [] s
  | va :: r, s =>
    match keyOf s .store va 1 elem with
    | .bad t s1 => .bad t s1
    | .ok k s1 =>
      match checkStores elem r s1 with
      | .bad t s2 => .bad t s2
      | .ok ks s2 => .ok (k :: ks) s2

/-- The addresses of `n` consecutive bytes. -/
def byteAddrs (va : Word) (n : Nat) : List Word := (List.range n).map fun j => va + BitVec.ofNat 64 j

/-- Stores bytes at keys already checked, each byte its own unit. -/
def storeKeys (s : State) (ks : List Nat) (bs : List Byte) : State :=
  s.updT fun t => (ks.zip bs).foldl (fun t p => t.storeByte p.1 p.2 p.1) t

/-! ## Folios -/

/-- The folio-table entry of an index on a core. -/
def folioAt (s : State) (core index : Nat) : Option FolioEntry :=
  s.folios.find? fun f => f.core == core && f.index == index

/-- The entry bound to a handle of the current thread (R145). -/
def handleEntry (s : State) (h : Nat) : Option FolioEntry :=
  match s.t.handles.getD h none with
  | some i => folioAt s s.t.core i
  | none => none

/-- Replaces the entry of an index on a core. -/
def updFolio (s : State) (core index : Nat) (f : FolioEntry → FolioEntry) : State :=
  { s with folios := updWhere s.folios (fun e => e.core == core && e.index == index) f }

/-- The key of a byte offset within a folio entry (R145). -/
def FolioEntry.key (f : FolioEntry) (d : Nat) : Nat := folioKey f.core f.space (f.basek * 1024 + d)

/-- The size of a folio in bytes. -/
def FolioEntry.size (f : FolioEntry) : Nat := f.sizek * 1024

/-- What naming a handle gives (R145, R150): a ready entry, a wait while it fills, or the folio unbound fault. -/
inductive Named where
  | ready (f : FolioEntry)
  | filling
  | unbound

def nameFolio (s : State) (h : Nat) : Named :=
  match handleEntry s h with
  | none => .unbound
  | some f =>
    match f.state with
    | .ready => .ready f
    | .filling => .filling
    | .empty | .draining => .unbound

/-- The folio unbound fault (R145). -/
def unboundTrap (h elem : Nat) : Trap := { cls := 0x06, tval := BitVec.ofNat 64 h, telem := elem, va := false }

/-- A write into a folio: it is no longer clean, and no longer what a view delivered (R148, R412). -/
def soilFolio (s : State) (f : FolioEntry) : State := updFolio s f.core f.index fun e => { e with clean := false, view := none }

/-! ## Waits between the streams (R350) -/

/-- The fields of vtype (R231). -/
def vtType (s : State) : Nat := (s.t.ctl.vtype.extractLsb' 0 5).toNat
def vtBl (s : State) : Nat := (s.t.ctl.vtype.extractLsb' 8 2).toNat
def vtGrp (s : State) : Nat := 2 ^ (s.t.ctl.vtype.extractLsb' 10 2).toNat
def vtGconv (s : State) : Bool := s.t.ctl.vtype.getLsbD 12
def vtTp (s : State) : Bool := s.t.ctl.vtype.getLsbD 13
def vtMp (s : State) : Bool := s.t.ctl.vtype.getLsbD 14
def vtSat (s : State) : Bool := s.t.ctl.vtype.getLsbD 15

/-- vlmax of R232 for a vtype value. -/
def vlMaxOf (vt : Word) : Nat :=
  let ty := (vt.extractLsb' 0 5).toNat
  if typeValid ty then 2 ^ (vt.extractLsb' 10 2).toNat * 8192 / typeWidth ty else 0

/-- FRM and IRM of frm (R45). -/
def frmMode (s : State) : Nat := (s.t.ctl.frm.extractLsb' 0 3).toNat
def irm (s : State) : Nat := (s.t.ctl.frm.extractLsb' 3 2).toNat

/-! ### Stream patterns (R161, R216) -/

def Binding.word (b : Binding) (k : Nat) : Word := b.desc.getD k 0
def Binding.ty (b : Binding) : Nat := ((b.word 0).extractLsb' 0 5).toNat
def Binding.ndim (b : Binding) : Nat := ((b.word 0).extractLsb' 8 3).toNat
def Binding.count (b : Binding) (k : Nat) : Nat := ((b.word (5 + k)).extractLsb' 0 32).toNat

/-- N of R216: the elements of the pattern. -/
def Binding.total (b : Binding) : Nat := (List.range b.ndim).foldl (fun a k => a * b.count k) 1

/-- The address of pattern element `p` (R216). -/
def Binding.addr (b : Binding) (p : Nat) : Word :=
  ((List.range b.ndim).foldl (fun (a : Word × Nat) k =>
    (a.1 + BitVec.ofNat 64 (a.2 % b.count k) * b.word (10 + k), a.2 / b.count k)) (b.word 1, p)).1

/-- In bounds by R161. -/
def Binding.inBounds (b : Binding) (a : Word) (z : Nat) : Bool :=
  decide ((b.word 2).toNat ≤ a.toNat ∧ a.toNat + z ≤ (b.word 3).toNat)

/-- The bytes of the pattern that chunk `q` names. -/
def Binding.chunkSpans (b : Binding) (q : Nat) : List (Nat × Nat) :=
  let z := typeWidth b.ty / 8
  ((List.range b.c).filter fun i => decide (q * b.c + i < b.total) && b.inBounds (b.addr (q * b.c + i)) z).map fun i =>
    ((b.addr (q * b.c + i)).toNat, z)

/-! ### Queued instructions -/

def XEntry.maj (e : XEntry) : Nat := (e.head.extractLsb' 8 6).toNat
def XEntry.mn (e : XEntry) : Nat := (e.head.extractLsb' 0 8).toNat

/-- A register field of a queued instruction's tail. -/
def XEntry.reg (e : XEntry) (lo : Nat) : Nat := (e.tail.extractLsb' lo 5).toNat

/-- The value captured for the register that a field names. -/
def XEntry.val (e : XEntry) (lo : Nat) : Word := if e.reg lo = 0 then 0 else e.sregs.getD (e.reg lo) 0

/-- Whether a queued instruction writes vtype or vl, so that younger queued lengths are not known yet. -/
def XEntry.setsLength (e : XEntry) : Bool :=
  e.maj == 0x20 || (e.maj == 0x00 && e.mn == 2 && decide ((e.tail.extractLsb' 0 11).toNat ≤ 1))

/-- The vector register that a queued instruction names as its destination. -/
def XEntry.vecDest (e : XEntry) : Option Nat :=
  match e.maj with
  | 0x00 => if e.mn = 0x06 then some (e.reg 10) else none
  | 0x1C => if e.mn = 0x0D ∨ (e.mn < 0x0A ∧ e.mn % 2 = 0) then some (e.reg 10) else none
  | 0x1D | 0x1F => if e.mn = 0 then some (e.reg 10) else none
  | 0x24 => if e.mn = 0x0C then some (e.reg 10) else none
  | 0x31 => if e.mn = 3 then some (e.reg 13) else none
  | 0x33 => if e.mn ≤ 1 then some (e.reg 13) else none
  | m => if (0x21 ≤ m ∧ m ≤ 0x2B) ∨ m = 0x38 then some (e.reg 10) else none

/-- The vector registers that a queued instruction names as sources. -/
def XEntry.vecSrcs (e : XEntry) : List Nat :=
  match e.maj with
  | 0x00 => if e.mn = 0x05 then [e.reg 5] else []
  | 0x1C =>
    (if e.mn = 0x0C ∨ (e.mn < 0x0A ∧ e.mn % 2 = 1) then [e.reg 10] else []) ++ (if e.mn = 4 ∨ e.mn = 5 then [e.reg 0] else [])
  | 0x1D => if e.mn = 1 then [e.reg 10] else []
  | 0x24 => if e.mn ≤ 5 then e.reg 5 :: (if e.tail.extractLsb' 21 2 = 0 then [e.reg 0] else []) else []
  | 0x31 => if e.mn = 2 then [e.reg 13] else []
  | m =>
    if (0x21 ≤ m ∧ m ≤ 0x2B) ∨ m = 0x38 then e.reg 5 :: (if e.tail.extractLsb' 21 2 = 0 then [e.reg 0] else []) else []

/-- Whether register `v` lies in the group of a register, of the size of vtype, or of any size that fits it where modes or widths are
still open. -/
def inGroup (s : State) (known : Bool) (e : XEntry) (r v : Nat) : Bool :=
  let g := if known && e.maj != 0x23 && e.maj != 0x29 && e.maj != 0x2A then vtGrp s else 8
  decide (r ≤ v ∧ v < r + g) && decide (v / g = r / g)

/-- What a queued execute-stream instruction touches in memory (R350). -/
inductive Footprint where
  /-- addresses not known yet: it counts as touching everything -/
  | unknown (store : Bool)
  /-- spans of virtual addresses -/
  | spans (store : Bool) (l : List (Nat × Nat))
  /-- records of the catalogue, which a frame event reads and writes (R337): those of the node indices, or any where a parent or a list,
  which the event reads only when it performs, is among them -/
  | records (only : Option (List Nat))
  deriving DecidableEq, Repr

/-- Whether a footprint holds stores. -/
def Footprint.stores : Footprint → Bool
  | .unknown st | .spans st _ => st
  | .records _ => true

/-- The mask register that a queued instruction writes (R247, R248). -/
def XEntry.maskDest (e : XEntry) : Option Nat :=
  if e.maj = 0x24 ∧ (e.mn ≤ 5 ∨ (8 ≤ e.mn ∧ e.mn ≤ 11)) then some (e.reg 10) else none

/-- The bytes a queued instruction's own accesses touch: of its active elements (R137, R203), with every element below vl taken as active
where an older queued instruction is still to write the mask; `known` says that vl and vtype are those of its place, `shaped` that the
tiles are. -/
def XEntry.accesses (s : State) (e : XEntry) (known shaped masked : Bool) : List Footprint :=
  let mn := e.mn
  let sa := e.val 5
  let sb := e.val 0
  let z := typeWidth (e.reg 23) / 8
  let vl := s.t.ctl.vl
  let mk := (e.tail.extractLsb' 20 3).toNat
  let act := fun (i : Nat) => mk == 0 || !masked || (s.t.m.getD mk 0).getLsbD i
  let strided := fun (w : Nat) =>
    ((List.range vl).filter act).map fun i => ((sa + BitVec.ofInt 64 ((i : Int) * sb.toInt)).toNat, w)
  match e.maj with
  | 0x1C =>
    let store := (mn % 2 == 1 && decide (mn ≤ 11)) || mn == 12
    if 12 ≤ mn then [.spans store [(sa.toNat, 1032)]]
    else if mn = 4 ∨ mn = 5 ∨ known = false then [.unknown store]
    else if mn ≤ 1 ∨ mn = 6 ∨ mn = 7 then
      [.spans store (if mk = 0 ∨ masked = false then [(sa.toNat, vl * z)]
        else ((List.range vl).filter act).map fun i => ((sa + BitVec.ofNat 64 (i * z)).toNat, z))]
    else if mn ≤ 3 then [.spans store (strided z)]
    else if mn = 8 ∨ mn = 9 then [.spans store [(sa.toNat, (vl + 255) / 256 * 32 * (e.reg 23 - 0x10 + 2))]]
    else
      let n := 2 ^ (vtBl s + 3)
      [.spans store ((List.range ((vl + n - 1) / n)).map fun i => ((sa + BitVec.ofInt 64 ((i : Int) * sb.toInt)).toNat, 1))]
  | 0x31 =>
    if mn = 5 then
      match shaped, s.t.mchk.bind fun c => c.tiles.getD ((e.tail.extractLsb' 20 2).toNat) none with
      | true, some sh =>
        let n := if isBfp sh.ty then 32 * (sh.ty - 0x10 + 2) else sh.nc * typeWidth sh.ty / 8
        let st : Int := if e.reg 13 = 0 then n else (e.val 13).toInt
        [.spans true ((List.range sh.nr).map fun r => ((e.val 8 + BitVec.ofInt 64 ((r : Int) * st)).toNat, n))]
      | _, _ => [.unknown true]
    else []
  | 0x39 =>
    let b := (e.val 13).toNat
    let node := fun (w : Word) => (w.extractLsb' 0 24).toNat
    let na := node (e.val 18)
    if mn = 7 then [.spans true [(b, 128)]]
    else if mn = 0 then [.records (some [na, node (e.val 8)]), .spans false [(b, 56)]]
    else if mn = 1 then [.records (some [na]), .spans false [(b, 56)]]
    else if mn = 4 then [.records none, .spans false [(b, 4 * min (e.val 8).toNat 4096)]]
    else if mn = 6 then [.records (some [na])]
    else [.records none]
  | _ => []

/-- The chunks of stream bindings that a queued instruction produces or consumes, behind the older ones of the queue (R218, R219). -/
def XEntry.chunks (s : State) (e : XEntry) (older : List XEntry) (known : Bool) : List Footprint :=
  s.t.binds.filterMap fun b =>
    let names := fun (x : XEntry) =>
      if b.store then x.vecDest.any fun r => inGroup s known x r b.vd else x.vecSrcs.any fun r => inGroup s known x r b.vd
    if names e then
      let k := (older.filter names).length
      if b.store = false ∧ k = 0 ∧ b.filled ∧ b.bad.isNone then none else some (.spans b.store (b.chunkSpans (b.q + k)))
    else none

/-- The footprints of the queued instructions, oldest first. -/
def queueFootprints (s : State) : List XEntry → List XEntry → List Footprint
  | _, [] => []
  | older, e :: r =>
    let known := s.t.shadow.isEmpty && !(older.any XEntry.setsLength)
    let shaped := !(older.any fun x => x.maj == 0x30 || (x.maj == 0x31 && decide (x.mn ≤ 1)))
    let masked := older.all fun x => x.maskDest != some (e.tail.extractLsb' 20 3).toNat
    e.accesses s known shaped masked ++ e.chunks s older known ++ queueFootprints s (older ++ [e]) r

/-- The footprints of everything that the current thread's vector queue holds. -/
def footprints (s : State) : List Footprint := queueFootprints s [] (s.t.vq ++ s.t.xdec)

/-- Two byte ranges share a 32-byte group. -/
def sameGroup (a n b m : Nat) : Bool := decide (a / 32 ≤ (b + m - 1) / 32 ∧ b / 32 ≤ (a + n - 1) / 32 ∧ 0 < n ∧ 0 < m)

/-- The physical address that an address of the current thread names, if any. -/
def frameOf (s : State) (va : Nat) : Option Nat :=
  match translate s (me s) .load (BitVec.ofNat 64 va) with
  | .ok k _ => some k
  | .fault _ _ => none

/-- The addresses of a span whose 32-byte groups lie as `g` does in their 64 KiB. -/
def groupTwins (g b m : Nat) : List Nat :=
  let b0 := b / 32 * 32
  let first := b0 + (g + (2 ^ 64 - b0 % 2 ^ 16)) % 2 ^ 16
  ((List.range (m / 2 ^ 16 + 2)).map fun j => first + j * 2 ^ 16).filter fun h => decide (h < b + m ∧ 0 < m)

/-- Two byte ranges of the current thread touch one 32-byte group of memory (R350), by one address or by two that name one frame. -/
def groupMeets (s : State) (a n b m : Nat) : Bool :=
  sameGroup a n b m ||
    (decide (0 < n) && (List.range ((a + n - 1) / 32 - a / 32 + 1)).any fun j =>
      let g := (a / 32 + j) * 32
      (groupTwins g b m).any fun h => match frameOf s g, frameOf s h with
        | some x, some y => x == y
        | _, _ => false)

/-- Whether `n` bytes at an address of the current thread touch records of its partition's catalogue (R318): those named, or any. -/
def touchesRecords (s : State) (only : Option (List Nat)) (va n : Nat) : Bool :=
  match s.parts.find? fun p => p.slot == s.t.part with
  | none => false
  | some p =>
    (List.range ((va + n - 1) / 32 - va / 32 + 1)).any fun j => match frameOf s ((va / 32 + j) * 32) with
      | none => false
      | some k => decide (0 < n ∧ p.catBase ≤ k ∧ k < p.catBase + 128 * p.catSize) && match only with
        | none => true
        | some l => l.contains ((k - p.catBase) / 128)

/-- Whether an access-stream access has to wait for a queued execute-stream access (R350). -/
def conflicts (s : State) (va : Word) (n : Nat) (store : Bool) : Bool :=
  (footprints s).any fun f =>
    match f with
    | .unknown st => st || store
    | .spans st l => (st || store) && l.any fun p => groupMeets s va.toNat n p.1 p.2
    | .records only => touchesRecords s only va.toNat n

/-- The folio handle that a queued execute-stream instruction names (R215, R307, R315), with whether it stores to it. -/
def XEntry.folio (e : XEntry) : Option (Nat × Bool) :=
  if e.maj = 0x1D then some ((e.tail.extractLsb' 54 4).toNat, e.mn == 1)
  else if (e.maj = 0x31 ∧ e.mn = 4) ∨ (e.maj = 0x33 ∧ 3 ≤ e.mn) then some (((e.val 8).extractLsb' 22 4).toNat, e.maj == 0x33 && e.mn == 3)
  else none

/-- Whether a queued execute-stream instruction names a folio handle (R221, R350). -/
def folioQueued (s : State) (h : Nat) : Bool := (s.t.vq ++ s.t.xdec).any fun e => e.folio.any fun f => f.1 == h

end Sys2Proof.Machine
end

