-- ==== Sys2Proof/Machine/Geometry.lean ====
section
/-! DEFINITION. Frame-tagged values, the catalogue, transform arithmetic, resolving and converting (R59, R318 to R331). -/

namespace Sys2Proof.Machine

/-- An fpos value (R59). -/
structure GVal where
  kind : Nat
  gen : Nat
  frame : Nat
  x : Int
  y : Int
  z : Int
  deriving DecidableEq, Repr

def GVal.dec (p : Nat) : GVal where
  kind := field p 127 127
  gen := field p 126 120
  frame := field p 119 96
  x := sextNat (field p 31 0) 32
  y := sextNat (field p 63 32) 32
  z := sextNat (field p 95 64) 32

/-- The tag word (R59). -/
def GVal.tag (v : GVal) : Nat := v.kind * 2 ^ 31 + v.gen * 2 ^ 24 + v.frame

def GVal.enc (v : GVal) : Nat :=
  v.tag * 2 ^ 96 + truncInt v.z 32 * 2 ^ 64 + truncInt v.y 32 * 2 ^ 32 + truncInt v.x 32

/-- A node record (R319): quaternion as fp64 patterns, translation, split ring. -/
structure NodeRec where
  nchild : Nat
  rev : Nat
  state : Nat
  gen : Nat
  parent : Nat
  q : List Nat
  t : List Int
  split : List Nat
  deriving DecidableEq, Repr

/-- Reads a node record from its sixteen words. -/
def NodeRec.dec (w : List Nat) : NodeRec where
  nchild := field (w.getD 0 0) 63 48
  rev := field (w.getD 0 0) 47 33
  state := field (w.getD 0 0) 32 31
  gen := field (w.getD 0 0) 30 24
  parent := field (w.getD 0 0) 23 0
  q := (w.drop 1).take 4
  t := ((w.drop 5).take 3).map fun x => sextNat x 64
  split := (w.drop 8).take 8

def NodeRec.enc (n : NodeRec) : List Nat :=
  (n.nchild * 2 ^ 48 + n.rev * 2 ^ 33 + n.state * 2 ^ 31 + n.gen * 2 ^ 24 + n.parent) ::
    (n.q ++ n.t.map (fun x => truncInt x 64) ++ n.split)

/-- The empty split record (R320). -/
def splitEmpty : Nat := 3 * 2 ^ 24

/-! ## Exact dyadic arithmetic -/

/-- An exact dyadic number n × 2^e. -/
structure Dy where
  n : Int
  e : Int
  deriving DecidableEq, Repr

def Dy.add (a b : Dy) : Dy :=
  let e := min a.e b.e
  ⟨a.n * ((2 ^ (a.e - e).toNat : Nat) : Int) + b.n * ((2 ^ (b.e - e).toNat : Nat) : Int), e⟩

def Dy.neg (a : Dy) : Dy := ⟨-a.n, a.e⟩

def Dy.mul (a b : Dy) : Dy := ⟨a.n * b.n, a.e + b.e⟩

def Dy.sub (a b : Dy) : Dy := a.add b.neg

def Dy.twice (a : Dy) : Dy := ⟨2 * a.n, a.e⟩

def Dy.ofInt (x : Int) : Dy := ⟨x, 0⟩

/-- The value of an fp64 pattern that is finite; 0 for others, which BADROT keeps out of records (R321). -/
def Dy.of64 (p : Nat) : Dy :=
  match fmt64.value p with
  | .fin n m e => ⟨if n then -(m : Int) else m, e⟩
  | .nan _ | .inf _ => ⟨0, 0⟩

/-- One rounding to fp64, ties to even (R322, R342). -/
def Dy.to64 (a : Dy) : Nat := (fmt64.round 0 false (decide (a.n < 0)) a.n.natAbs a.e).1

/-- The nearest integer, ties to even (R323). -/
def Dy.rint (a : Dy) : Int :=
  let r := (rintAt (decide (a.n < 0)) a.n.natAbs a.e 0 0).1
  if a.n < 0 then -(r : Int) else r

/-- `mat` of R322 as rounded entries, row by row. -/
def matOf (q : List Nat) : List (List Dy) :=
  let w := Dy.of64 (q.getD 0 0)
  let x := Dy.of64 (q.getD 1 0)
  let y := Dy.of64 (q.getD 2 0)
  let z := Dy.of64 (q.getD 3 0)
  let r := fun (d : Dy) => Dy.of64 d.to64
  [[r ((((w.mul w).add (x.mul x)).sub (y.mul y)).sub (z.mul z)), r ((x.mul y).sub (w.mul z)).twice,
      r ((x.mul z).add (w.mul y)).twice],
   [r ((x.mul y).add (w.mul z)).twice, r ((((w.mul w).sub (x.mul x)).add (y.mul y)).sub (z.mul z)),
      r ((y.mul z).sub (w.mul x)).twice],
   [r ((x.mul z).sub (w.mul y)).twice, r ((y.mul z).add (w.mul x)).twice,
      r ((((w.mul w).sub (x.mul x)).sub (y.mul y)).add (z.mul z))]]

def transpose3 (m : List (List Dy)) : List (List Dy) :=
  (List.range 3).map fun c => m.map fun row => row.getD c ⟨0, 0⟩

/-- `rint3` of R323. -/
def rint3 (m : List (List Dy)) (o : List Int) : List Int :=
  m.map fun row => ((row.zip o).foldl (fun a p => a.add (p.1.mul (Dy.ofInt p.2))) (⟨0, 0⟩ : Dy)).rint

def inS64 (x : Int) : Bool := decide (-(2 ^ 63) ≤ x ∧ x < 2 ^ 63)

def inS32 (x : Int) : Bool := decide (-(2 ^ 31) ≤ x ∧ x < 2 ^ 31)

/-- One step from a node to its parent (R323); none when an intermediate leaves s64. -/
def stepUp (n : NodeRec) (kind : Nat) (o : List Int) : Option (List Int) :=
  let a := rint3 (matOf n.q) o
  let b := if kind = 0 then (a.zip n.t).map fun p => p.1 + p.2 else a
  if a.all inS64 && b.all inS64 then some b else none

/-- One step from a node's parent down to it (R323). -/
def stepDown (n : NodeRec) (kind : Nat) (o : List Int) : Option (List Int) :=
  let a := if kind = 0 then (o.zip n.t).map fun p => p.1 - p.2 else o
  let b := rint3 (transpose3 (matOf n.q)) a
  if a.all inS64 && b.all inS64 then some b else none

/-- R321's check of a quaternion: |w² + x² + y² + z² − 1| ≤ 2^−40, formed exactly, every component finite. -/
def quatOk (q : List Nat) : Bool :=
  let fin := q.all fun p => match fmt64.value p with
    | .fin _ _ _ => true
    | .nan _ | .inf _ => false
  let s := q.foldl (fun a p => a.add ((Dy.of64 p).mul (Dy.of64 p))) (⟨-1, 0⟩ : Dy)
  let d := Dy.sub ⟨s.n.natAbs, s.e⟩ ⟨1, -40⟩
  fin && decide (d.n ≤ 0)

/-! ## Resolving and converting -/

/-- A geometry fault (R329): class, cause, and the tag word of the value it is found in (R331). -/
structure GFault where
  cls : Nat
  cause : Nat
  tag : Nat
  deriving DecidableEq, Repr

/-- The side of a point against a plane record (R325). -/
def planeSide (v : GVal) (s : Nat) : Int :=
  let p := sextNat (field s 22 0) 23 * 512
  let o := match field s 25 24 with
    | 0 => v.x
    | 1 => v.y
    | _ => v.z
  if field s 23 23 = 1 then p - o else o - p

/-- `resolve` of R324 with `r` rounds left; the count of retags made. `rec` reads the catalogue, none at or beyond C. -/
def resolveLoop (rec : Nat → Option NodeRec) : Nat → GVal → List Int → Nat → Except GFault (GVal × List Int × Nat)
  | 0, v, _, _ => .error ⟨0x09, 7, v.tag⟩
  | r + 1, v, o, k =>
    match rec v.frame with
    | none => .error ⟨0x07, 3, v.tag⟩
    | some n =>
      if n.state = 0 then .error ⟨0x07, 2, v.tag⟩
      else
        let dg := (n.gen + 128 - v.gen) % 128
        if dg = 0 then (if n.state = 2 then .error ⟨0x07, 1, v.tag⟩ else .ok (v, o, k))
        else if 8 < dg then .error ⟨0x08, 5, v.tag⟩
        else
          let s := n.split.getD (v.gen % 8) splitEmpty
          let axis := field s 25 24
          let neg := field s 23 23
          if (axis = 3 ∧ neg = 0) ∨ field s 63 57 ≠ v.gen then .error ⟨0x07, 4, v.tag⟩
          else if r = 0 then .error ⟨0x09, 7, v.tag⟩
          else
            let moved := fun (o' : List Int) =>
              ({ v with frame := field s 49 26, gen := field s 56 50, x := o'.getD 0 0, y := o'.getD 1 0, z := o'.getD 2 0 }, o')
            if axis = 3 then
              match stepUp n v.kind o with
              | none => .error ⟨0x0A, 10, v.tag⟩
              | some o' => let m := moved o'; resolveLoop rec r m.1 m.2 (k + 1)
            else if v.kind = 1 ∨ 0 ≤ planeSide v s then
              match stepUp n v.kind o, rec (field s 49 26) with
              | some o1, some n2 =>
                match stepDown n2 v.kind o1 with
                | none => .error ⟨0x0A, 10, v.tag⟩
                | some o' => let m := moved o'; resolveLoop rec r m.1 m.2 (k + 1)
              | none, _ => .error ⟨0x0A, 10, v.tag⟩
              | some _, none => .error ⟨0x07, 3, v.tag⟩
            else resolveLoop rec r { v with gen := (v.gen + 1) % 128 } o (k + 1)

/-- `resolve` of R324: the resolved value and the retags made. Offsets that leave s32 while resolving are FRAME_RANGE. -/
def resolve (rec : Nat → Option NodeRec) (v : GVal) : Except GFault (GVal × Nat) :=
  match resolveLoop rec 9 v [v.x, v.y, v.z] 0 with
  | .error f => .error f
  | .ok (v', o, k) => if o.all inS32 then .ok (v', k) else .error ⟨0x0A, 9, v'.tag⟩

/-- A node and its ancestors, at most `n` nodes, up to the root. -/
def ancestors (rec : Nat → Option NodeRec) : Nat → Nat → List Nat
  | 0, _ => []
  | n + 1, f =>
    if f = 0 then [0]
    else
      match rec f with
      | none => [f]
      | some r => f :: ancestors rec n r.parent

/-- The path of R326 from a frame to another: the nodes on the way up, lowest first, and on the way down, highest first; none
when it exceeds 16 steps. -/
def framePath (rec : Nat → Option NodeRec) (a t : Nat) : Option (List Nat × List Nat) :=
  let ua := ancestors rec 18 a
  let ut := ancestors rec 18 t
  match ua.findIdx? fun f => ut.contains f with
  | none => none
  | some p =>
    let q := ut.findIdx fun f => f == ua.getD p 0
    if 16 < p + q then none else some (ua.take p, (ut.take q).reverse)

/-- Applies steps along nodes. -/
def walkSteps (step : NodeRec → Nat → List Int → Option (List Int)) (rec : Nat → Option NodeRec) (kind : Nat) :
    List Nat → List Int → Option (List Int)
  | [], o => some o
  | f :: r, o =>
    match rec f with
    | none => none
    | some n => (step n kind o).bind fun o' => walkSteps step rec kind r o'

/-- The conversion of a resolved value into a resolved frame (R326). -/
def convertFrame (rec : Nat → Option NodeRec) (v : GVal) (t : Nat) : Except GFault GVal :=
  match framePath rec v.frame t with
  | none => .error ⟨0x09, 6, v.tag⟩
  | some (up, down) =>
    match (walkSteps stepUp rec v.kind up [v.x, v.y, v.z]).bind (walkSteps stepDown rec v.kind down) with
    | none => .error ⟨0x0A, 10, v.tag⟩
    | some o =>
      if o.all inS32 then
        .ok { kind := v.kind, gen := ((rec t).map NodeRec.gen).getD 0, frame := t, x := o.getD 0 0, y := o.getD 1 0, z := o.getD 2 0 }
      else .error ⟨0x0A, 9, v.tag⟩

/-! ## The thread's view of the catalogue -/

/-- The partition of the current thread. -/
def partOf (s : State) (slot : Nat) : Option Partition := s.parts.find? fun p => p.slot == slot

/-- The physical address of a node record. -/
def nodeKey (p : Partition) (f : Nat) : Nat := p.catBase + 128 * f

/-- A node record as the thread's snapshot and own events show it (R327). -/
def nodeSeen (s : State) (p : Partition) (f : Nat) : Option NodeRec :=
  if p.catSize ≤ f then none
  else some (NodeRec.dec ((List.range 16).map fun j => leNat (s.t.readBytes 8 (nodeKey p f + 8 * j))))

/-- The number of a die's chain cache among the caches. -/
def dieChain (die : Nat) : Nat := 2 ^ 20 + die

/-- What an entry holds of a node: its record. -/
def nodeMark (n : NodeRec) : List Nat := n.enc

/-- A path as an entry holds it: partition, ends, how many nodes, the nodes, and what the entry holds of each; an entry serves only a
thread whose snapshot holds the same records (R328). -/
def pathMark (rec : Nat → Option NodeRec) (part a t : Nat) (nodes : List Nat) : List Nat :=
  part :: a :: t :: nodes.length :: (nodes ++ (nodes.map fun f => ((rec f).map nodeMark).getD []).flatten)

/-- Whether an entry's path includes a node of a partition (R328). -/
def markIncludes (m : List Nat) (part f : Nat) : Bool := m.getD 0 0 == part && ((m.drop 4).take (m.getD 3 0)).contains f

/-- Adds a path to a cache of `cap` entries, in place of the oldest when full (log 11). -/
def chainAdd (c : List (Nat × List Nat)) (place cap : Nat) (mark : List Nat) : List (Nat × List Nat) :=
  let mine := c.filter fun e => e.1 == place
  let c' := if cap ≤ mine.length then
      match mine.head? with
      | some e => c.erase e
      | none => c
    else c
  c' ++ [(place, mark)]

/-- A saturating count in the low 32 bits of a geometry register (R330). -/
def satCount (w : Word) (n : Nat) : Word := BitVec.ofNat 64 (min ((w.extractLsb' 0 32).toNat + n) (2 ^ 32 - 1))

/-- Counts retags of completed elements (R330). -/
def countRetags (s : State) (n : Nat) : State := s.updC fun c => { c with tgeom0 := satCount c.tgeom0 n }

/-- Counts retags and a chain-cache look-up of a completed element (R328, R330). -/
def countGeom (s : State) (p : Partition) (retags : Nat) (conv : Option (Nat × Nat)) : State :=
  let s1 := countRetags s retags
  match conv with
  | none => s1
  | some (a, t) =>
    if a = t then s1
    else
      let rec_ := nodeSeen s p
      match framePath rec_ a t with
      | none => s1
      | some (u, d) =>
        let mark := pathMark rec_ p.slot a t (u ++ d)
        if s1.chains.any fun e => (e.1 == s.t.core || e.1 == dieChain (dieOf s.t.core)) && e.2 == mark then s1
        else
          let c1 := chainAdd s1.chains s.t.core 64 mark
          let c2 := chainAdd c1 (dieChain (dieOf s.t.core)) 4096 mark
          { s1 with chains := c2 }.updC fun c => { c with tgeom2 := satCount c.tgeom2 1 }

/-- tgeom1 of a geometry fault: its cause and the node where it was found (R330). -/
def GFault.word (f : GFault) : Word := BitVec.ofNat 64 (f.cause * 2 ^ 32 + f.tag % 2 ^ 31)

/-- The trap of a geometry fault at an element (R331). -/
def GFault.trap (f : GFault) (elem : Nat) : Trap := { cls := f.cls, tval := BitVec.ofNat 64 f.tag, telem := elem, va := false }

/-- A geometry fault at an element with tgeom1 written (R331). -/
def geomTrap (s : State) (f : GFault) (elem : Nat) : Trap × State := (f.trap elem, s.updC fun c => { c with tgeom1 := f.word })

/-- The catalogue, for a thread on its home package; elsewhere a protection fault with tval 0 (R318). -/
def catalogue (s : State) : Option Partition :=
  match partOf s s.t.part with
  | none => none
  | some p => if p.catPkg = pkgOf s.t.core then some p else none

/-- The protection fault of R318. -/
def catTrap (elem : Nat) : Trap := { cls := 0x04, tval := 0, telem := elem, va := false }

/-- Whether the thread's read of a record consumes poisoned data (R445). -/
def recBad (s : State) (p : Partition) (f : Nat) : Bool := poisoned s (nodeKey p f) 128

/-- The poisoned record, if any, that an outcome rests on: without it the outcome is another. `eval` evaluates from the catalogue. -/
def badRecord {α : Type} [DecidableEq α] (s : State) (p : Partition) (eval : (Nat → Option NodeRec) → α) : Option Nat :=
  if s.poison.isEmpty then none
  else
    let near := (s.poison.filterMap fun k =>
      if p.catBase ≤ k ∧ k < p.catBase + 128 * p.catSize then some ((k - p.catBase) / 128) else none).dedup
    near.find? fun f => recBad s p f && decide (eval (fun i => if i = f then none else nodeSeen s p i) ≠ eval (nodeSeen s p))

/-- INTEGRITY at an element that consumes a poisoned record (R445). -/
def recTrap (p : Partition) (f elem : Nat) : Trap :=
  { cls := 0x0E, tval := BitVec.ofNat 64 (nodeKey p f), telem := elem, va := false }

/-- A value retagged by a geometry load (R211, R218): the value with the retags made, or the trap with the tgeom1 of a geometry
fault. -/
inductive Retag where
  | ok (x retags : Nat)
  | bad (t : Trap) (geom : Option Word)

/-- The outcome of resolving a value, as data. -/
def resolved (x : Nat) (nodes : Nat → Option NodeRec) : Nat × Nat × Option GFault :=
  match resolve nodes (GVal.dec x) with
  | .ok (v, k) => (v.enc, k, none)
  | .error f => (0, 0, some f)

/-- Retags a value that a geometry load has read. -/
def retagValue (s : State) (elem x : Nat) : Retag :=
  match catalogue s with
  | none => .bad (catTrap elem) none
  | some p =>
    match badRecord s p (resolved x) with
    | some f => .bad (recTrap p f elem) none
    | none =>
      match resolved x (nodeSeen s p) with
      | (y, k, none) => .ok y k
      | (_, _, some f) => .bad (f.trap elem) (some f.word)

/-- Retags the value of a load's element: its retags count with it (R330), a geometry fault writes tgeom1. -/
def retag (s : State) (elem x : Nat) : Got Nat :=
  match retagValue s elem x with
  | .ok y k => .ok y (countRetags s k)
  | .bad t (some w) => .bad t (s.updC fun c => { c with tgeom1 := w })
  | .bad t none => .bad t s

end Sys2Proof.Machine
end

