-- ==== Sys2Proof/Machine/MatrixUnit.lean ====
section
/-! DEFINITION. The matrix unit: what each posted matrix instruction does when the matrix queue reaches it (R55, R298 to R315). -/

namespace Sys2Proof.Machine

/-- Element `i` of width `w` of a bit string. -/
def elemAt (x w i : Nat) : Nat := (x >>> (w * i)) % 2 ^ w

/-- The bit string of elements of width `w`, the first lowest. -/
def packElems (w : Nat) : List Nat → Nat
  | [] => 0
  | e :: r => e % 2 ^ w + 2 ^ w * packElems w r

/-- mvl of a mode (R293). -/
def mvlOf (ty : Nat) : Nat := if ty = 0x0C ∨ ty = 0x0D then 32 else 64

/-- The cell format of a mode (R293). -/
def cellTy (ty : Nat) : Nat := if ty = 0x0D then 0x0D else 0x0C

/-- The element width of a tile type (R303): 8 for bfpm. -/
def tileWidth (ty : Nat) : Nat := typeWidth ty

def Tile.get (t : Tile) (r c : Nat) : Nat := elemAt t.data.toNat (tileWidth t.shape.ty) (r * t.shape.nc + c)

/-- A tile with every element zero (R303, R304). -/
def Tile.zero (sh : TileShape) : Tile := { shape := sh, data := 0 }

/-- Replaces row `r` of a tile by `f` of each column's old element. -/
def Tile.setRow (t : Tile) (r : Nat) (f : Nat → Nat → Nat) : Tile :=
  let w := tileWidth t.shape.ty
  let sh := w * (r * t.shape.nc)
  let row := packElems w ((List.range t.shape.nc).map fun c => f c (t.get r c))
  let old := packElems w ((List.range t.shape.nc).map fun c => t.get r c)
  { t with data := BitVec.ofNat 65536 (t.data.toNat - old * 2 ^ sh + row * 2 ^ sh) }

/-- The unit as it is after mmode (R301). -/
def MatUnit.start (ty : Nat) : MatUnit :=
  { mtype := ty, steps := Vector.replicate 2 0, acc := Vector.replicate 2 0, tiles := Vector.replicate 4 none }

/-- Cell (i, j) of an accumulator. -/
def MatUnit.cell (u : MatUnit) (ad i j : Nat) : Nat :=
  elemAt (u.acc.getD ad 0).toNat (typeWidth (cellTy u.mtype)) (i * mvlOf u.mtype + j)

/-- Sets every cell of an accumulator, and counts steps. -/
def MatUnit.setAcc (u : MatUnit) (ad n : Nat) (cells : List Nat) : MatUnit :=
  { u with acc := u.acc.setIfInBounds ad (BitVec.ofNat 131072 (packElems (typeWidth (cellTy u.mtype)) cells)),
           steps := u.steps.setIfInBounds ad (u.steps.getD ad 0 + n) }

/-- The kept positions of an outer product (R312): k with its column of ta. Without a mask every k < K is kept. -/
def keptPositions (mask : Option Nat) (k : Nat) : List (Nat × Nat) :=
  match mask with
  | none => (List.range k).map fun i => (i, i)
  | some m =>
    let ks := (List.range k).filter fun i => m.testBit i
    ks.mapIdx fun p i => (i, p)

/-- One outer-product step of a cell in the FP modes (R310). -/
def stepCell (ty : Nat) (neg : Bool) (frm a b cell : Nat) : Nat × Fl :=
  let f := fmtOf ty
  let g := fmtOf (cellTy ty)
  let va := f.value a
  fFma g frm false (if neg then va.neg else va) (f.value b) (g.value cell)

/-- The rank-16 update of a cell in BFPm mode (R311); an exact zero product has the sign of s (R40). -/
def bfpCell (ty : Nat) (neg : Bool) (frm ea eb : Nat) (s : Int) (cell : Nat) : Nat × Fl :=
  let m := ty - 0x10 + 2
  if ea = 255 ∨ eb = 255 then (fmt32.qnan, flNV ||| flPZ)
  else
    let x : Int := if ea = 0 ∨ eb = 0 then 0 else if neg then -s else s
    let sign : Bool := if x = 0 then neg else decide (x < 0)
    fAdd fmt32 frm false (fmt32.value cell) (.fin sign x.natAbs ((ea : Int) + eb - 254 - 2 * m + 4))

/-- The values a cell passes through in one mop, one per step, with their flags (R310, R311). -/
def mopCell (u : MatUnit) (ta tb : Tile) (neg : Bool) (mask : Option Nat) (ea eb : EReg) (frm i j cell : Nat) : List (Nat × Fl) :=
  let kept := keptPositions mask tb.shape.nr
  if ta.shape.nr ≤ i ∨ tb.shape.nc ≤ j then
    (if isBfp u.mtype then kept.take 1 else kept).map fun _ => (cell, 0)
  else if isBfp u.mtype then
    if kept.isEmpty then []
    else
      let m := u.mtype - 0x10 + 2
      let s := kept.foldl (fun a p => a + bfpMant m (ta.get i p.2) * bfpMant m (tb.get p.1 j)) (0 : Int)
      [bfpCell u.mtype neg frm (elemAt ea.toNat 8 i) (elemAt eb.toNat 8 j) s cell]
  else
    (kept.foldl (fun (a : List (Nat × Fl) × Nat) p =>
      let r := stepCell u.mtype neg frm (ta.get i p.2) (tb.get p.1 j) a.2
      (a.1 ++ [r], r.1)) ([], cell)).1

/-- The number of steps a mop counts as (R314). -/
def mopSteps (u : MatUnit) (tb : Tile) (mask : Option Nat) : Nat :=
  let n := (keptPositions mask tb.shape.nr).length
  if isBfp u.mtype then min n 1 else n

/-- A mop on the unit: every updated cell through its steps (R309 to R312). -/
def MatUnit.mop (u : MatUnit) (ad : Nat) (ta tb : Tile) (neg : Bool) (mask : Option Nat) (ea eb : EReg) (frm : Nat) : MatUnit × Fl :=
  let n := mvlOf u.mtype
  let cells := (List.range (n * n)).map fun x =>
    let c := u.cell ad (x / n) (x % n)
    if ta.shape.nr ≤ x / n ∨ tb.shape.nc ≤ x % n then (c, (0 : Fl))
    else
      let l := mopCell u ta tb neg mask ea eb frm (x / n) (x % n) c
      ((l.getLast?.map Prod.fst).getD c, l.foldl (fun a p => a ||| p.2) 0)
  (u.setAcc ad (mopSteps u tb mask) (cells.map Prod.fst), cells.foldl (fun a p => a ||| p.2) 0)

/-- Writes a whole vector register's elements of type `ty` (R235 with one register): elements below `n` from `f`, the tail by TP. -/
def writeRow (s : State) (vd ty n : Nat) (tp : Bool) (f : Nat → Nat) : State :=
  let w := typeWidth ty
  let old := (getV s vd).toNat
  let es := (List.range (8192 / w)).map fun i => if i < n then f i else if tp then 0 else elemAt old w i
  markDirty (setV s vd (BitVec.ofNat 8192 (packElems w es))) vd 1

/-- The bytes of a bfpm row in its plane block (R160, R213): mantissas below `n`, zero above. -/
def planeBytes (m n : Nat) (f : Nat → Nat) : List Byte :=
  (List.range (32 * m)).map fun b =>
    BitVec.ofNat 8 ((List.range 8).foldl (fun a k =>
      let pos := b % 32 * 8 + k
      if pos < n ∧ (f pos).testBit (b / 32) then a + 2 ^ k else a) 0)

/-- The mantissa bits of position `k` of a plane block (R160). -/
def planeElem (m k : Nat) (byte : Nat → Byte) : Nat :=
  (List.range m).foldl (fun a j => if (byte (32 * j + k / 8)).getLsbD (k % 8) then a + 2 ^ j else a) 0

/-- The bytes of tile row `r` as tld and tst lay it out (R307, R308). -/
def rowBytes (t : Tile) (r : Nat) : List Byte :=
  if isBfp t.shape.ty then planeBytes (t.shape.ty - 0x10 + 2) t.shape.nc (t.get r)
  else
    let z := tileWidth t.shape.ty / 8
    ((List.range t.shape.nc).map fun c => natLe z (t.get r c)).flatten

/-- A tile loaded from folio bytes: row r from key base + r × st (R307). -/
def loadTile (th : Thread) (t : Tile) (base st : Int) : Tile :=
  let z := tileWidth t.shape.ty / 8
  (List.range t.shape.nr).foldl (fun (a : Tile) (r : Nat) =>
    let k := (base + (r : Int) * st).toNat
    a.setRow r fun c _ =>
      if isBfp t.shape.ty then
        let m := t.shape.ty - 0x10 + 2
        bfpByte (bfpMant m (planeElem m c fun b => th.readByte (k + b)))
      else leNat (th.readBytes z (k + c * z))) t

/-- Conversions between vector elements and tile elements (R305, R306). -/
def tileCvt (td ts frm : Nat) (sat : Bool) (x : Nat) : Nat × Fl :=
  if isBfp td then (bfpByte (bfpMant (td - 0x10 + 2) x), 0) else convertElem td ts frm sat x

/-- What the unit does when the queue reaches a posted instruction (R298 to R315). -/
def completeOp (op : MatOp) (s : State) : State :=
  match op with
  | .mmode ty => s.updT fun t => { t with munit := some (MatUnit.start ty), floors := [] }
  | .mexit =>
    { s.updT fun t => { t with munit := none, mexiting := false, floors := [] } with
      granted := s.granted.filter fun g => g.2 != s.t.uid }
  | .tcfg _ _ | .trel _ | .tmvr .. | .tmvc .. | .tld .. | .tst .. | .mop .. | .accmv .. | .acczero _ | .accsp .. | .accfl .. =>
    match s.t.munit with
    | none => s
    | some u =>
      let put := fun (u' : MatUnit) => s.updT fun t => { t with munit := some u' }
      let tile := fun (i : Nat) => (u.tiles.getD i none).getD (Tile.zero { ty := 0x0B, nr := 1, nc := 1 })
      match op with
      | .mmode _ | .mexit => s
      | .tcfg ta sh => put { u with tiles := u.tiles.setIfInBounds ta (some (Tile.zero sh)) }
      | .trel ta => put { u with tiles := u.tiles.setIfInBounds ta none }
      | .tmvr ta ty r vl vs frm sat =>
        let t := tile ta
        let cv := fun (c : Nat) => tileCvt t.shape.ty ty frm sat (elemAt vs.toNat (typeWidth ty) c)
        let n := min vl t.shape.nc
        let fl := (List.range n).foldl (fun a c => a ||| (cv c).2) (0 : Fl)
        let t' := t.setRow r fun c old => if c < n then (cv c).1 else old
        raise (put { u with tiles := u.tiles.setIfInBounds ta (some t') }) fl
      | .tmvc vd ta ty c frm sat tp =>
        let t := tile ta
        let cv := fun (r : Nat) => tileCvt ty t.shape.ty frm sat (t.get r c)
        let fl := (List.range t.shape.nr).foldl (fun a r => a ||| (cv r).2) (0 : Fl)
        raise (writeRow s vd ty t.shape.nr tp fun r => (cv r).1) fl
      | .tld ta base st => put { u with tiles := u.tiles.setIfInBounds ta (some (loadTile s.t (tile ta) base st)) }
      | .tst ta rows =>
        let t := tile ta
        let write := fun (a : State) (p : Nat × List (Nat × Nat)) =>
          storeKeys a ((p.2.map fun q => (List.range q.2).map (q.1 + ·)).flatten) (rowBytes t p.1)
        ((rows.mapIdx fun r l => (r, l))).foldl write s
      | .mop ad ta tb neg mask ea eb frm =>
        let r := u.mop ad (tile ta) (tile tb) neg mask ea eb frm
        raise (put r.1) r.2
      | .accmv vd ad ty r frm sat tp =>
        let n := mvlOf u.mtype
        let cv := fun (j : Nat) => convertElem ty (cellTy u.mtype) frm sat (u.cell ad r j)
        let fl := (List.range n).foldl (fun a j => a ||| (cv j).2) (0 : Fl)
        raise (writeRow s vd ty n tp fun j => (cv j).1) fl
      | .acczero ad => put (u.setAcc ad 1 [])
      | .accsp ad base entry =>
        let n := mvlOf u.mtype
        let cb := typeWidth (cellTy u.mtype) / 8
        let bs := natLe (n * n * cb) (u.acc.getD ad 0).toNat
        let s1 := s.updT fun t => (bs.mapIdx fun i b => (base + i, b)).foldl (fun t p => t.storeByte p.1 p.2 (p.1 / cb * cb)) t
        updFolio s1 s1.t.core entry fun e => { e with clean := false, view := none }
      | .accfl ad base =>
        let n := mvlOf u.mtype
        let cb := typeWidth (cellTy u.mtype) / 8
        put (u.setAcc ad 1 ((List.range (n * n)).map fun x => leNat (s.t.readBytes cb (base + x * cb))))

/-- Completes the oldest posted matrix instruction (R80). -/
def matrixStep (s : State) : State :=
  match s.t.mq with
  | [] => s
  | op :: r => completeOp op (s.updT fun t => { t with mq := r })

/-- Completes every posted matrix instruction: the wait for them to complete (R226, R299, R300). -/
def drainMatrix (s : State) : State := s.t.mq.foldl (fun a _ => matrixStep a) s

/-- Whether a posted instruction touches memory or folios (R300). -/
def MatOp.touches : MatOp → Bool
  | .tld .. | .tst .. | .accsp .. | .accfl .. => true
  | .mmode _ | .mexit | .tcfg .. | .trel _ | .tmvr .. | .tmvc .. | .mop .. | .accmv .. | .acczero _ => false

/-- Accesses of the thread wait for posted instructions that touch memory or folios (R300). -/
def settleMatrix (s : State) : State := if s.t.mq.any MatOp.touches then drainMatrix s else s

/-- A vector register that a posted instruction will write (R299). -/
def MatOp.writes : MatOp → Option Nat
  | .tmvc vd .. | .accmv vd .. => some vd
  | .mmode _ | .mexit | .tcfg .. | .trel _ | .tmvr .. | .tld .. | .tst .. | .mop .. | .acczero _ | .accsp .. | .accfl .. => none

/-- A reader or writer of a vector register waits for the posted instruction that writes it (R299). -/
def settleRegs (s : State) (rs : List Nat) : State :=
  if s.t.mq.any fun op => match op.writes with
      | some v => rs.contains v
      | none => false then drainMatrix s else s

end Sys2Proof.Machine
end

