-- ==== Sys2Proof/Machine/ScalarMem.lean ====
section
/-! DEFINITION. Scalar loads and stores and ldq (R202, R206 to R208): single-copy atomic, to memory only. -/

namespace Sys2Proof.Machine

/-- The address of a WI memory operand: a + sext(IMM18, 18), mod 2^64 (R202, R206). -/
def wiAddr (s : State) (o : WI) : Word := getS s o.fa + o.imm.signExtend 64

/-- A load of the access stream: it waits by R300 and R350, then reads its unit. -/
def scalarLoad (n : Nat) (va : Word) (k : Nat → State → Res) (s : State) : Res :=
  let s1 := settleMatrix s
  if conflicts s1 va n false then .stall s1
  else
    match loadAt s1 va n n 0 with
    | .ok x s2 => k x s2
    | .bad t s2 => .trap t s2

/-- A store of the access stream: it waits by R300 and R350, then writes its unit. -/
def scalarStore (n : Nat) (va : Word) (v : Nat) (s : State) : Res :=
  let s1 := settleMatrix s
  if conflicts s1 va n true then .stall s1
  else
    match storeAt s1 va n n 0 v with
    | .ok _ s2 => .ok s2
    | .bad t s2 => .trap t s2

/-- A scalar load of `n` bytes, sign- or zero-extended (R206). -/
def loadOp (n : Nat) (signed : Bool) (o : WI) (s : State) : Host.Outcome State Fault Refusal :=
  accessOp [o.fa] (fun s =>
    scalarLoad n (wiAddr s o) (fun x s1 =>
      .ok (setS s1 o.fd (if signed then BitVec.ofInt 64 (sextNat x (8 * n)) else BitVec.ofNat 64 x))) s) s

/-- A scalar store of `n` bytes of the register FD names (R206). -/
def storeOp (n : Nat) (o : WI) (s : State) : Host.Outcome State Fault Refusal :=
  accessOp [o.fa, o.fd] (fun s => scalarStore n (wiAddr s o) (getS s o.fd).toNat s) s

def execLdS8 (o : WI) (s : State) := loadOp 1 true o s
def execLdS16 (o : WI) (s : State) := loadOp 2 true o s
def execLdS32 (o : WI) (s : State) := loadOp 4 true o s
def execLdS64 (o : WI) (s : State) := loadOp 8 true o s
def execLdN8 (o : WI) (s : State) := loadOp 1 false o s
def execLdN16 (o : WI) (s : State) := loadOp 2 false o s
def execLdN32 (o : WI) (s : State) := loadOp 4 false o s
def execStN8 (o : WI) (s : State) := storeOp 1 o s
def execStN16 (o : WI) (s : State) := storeOp 2 o s
def execStN32 (o : WI) (s : State) := storeOp 4 o s
def execStN64 (o : WI) (s : State) := storeOp 8 o s

/-- `ldq dqk, d(sa)` (R208): a full queue stalls the access stream before the load. -/
def execLdq (o : WI) (s : State) : Host.Outcome State Fault Refusal :=
  accessOp [o.fa] (fun s =>
    let k := o.fd.toNat
    if 8 ≤ (s.t.dq.getD k []).length then .stall s
    else
      scalarLoad 8 (wiAddr s o) (fun x s1 =>
        .ok (s1.updT fun t => { t with dq := t.dq.setIfInBounds k (t.dq.getD k [] ++ [BitVec.ofNat 64 x]) })) s) s

end Sys2Proof.Machine
end

