-- ==== Sys2Proof/Machine/Atomics.lean ====
section
/-! DEFINITION. Atomics (R222 to R224, R369). -/

namespace Sys2Proof.Machine

/-- The old value as sd receives it (R222). -/
def atomicOld (ty v : Nat) : Word :=
  if isSigned ty then BitVec.ofInt 64 (sextNat v (typeWidth ty)) else BitVec.ofNat 64 v

/-- The units of the thread's own writes that have a byte in a range. -/
def Thread.unitsIn (t : Thread) (key n : Nat) : List Nat :=
  (t.own.filter fun o => decide (key ≤ o.key ∧ o.key < key + n)).map OwnWrite.unit

/-- Performs an atomic on the `n` bytes at a key, at the point of its scope: older unpublished stores of the thread to those
bytes are published at the scope first (R223), each of them whole (R352). -/
def performAtomic (s : State) (scope key n : Nat) (f : Nat → Nat) : Nat × State :=
  let units := s.t.unitsIn key n
  let s1 := publishIf s scope fun o => units.contains o.unit
  let v := leNat (atomicGet s1 scope n key)
  (v, atomicPut .atomic s1 scope key (natLe n (f v)))

/-- The folio byte that an atomic of scope .core names (R223), or what else the reference gives. The protection fault of a W folio, to
which R223 gives no tval, holds a (log 19, DESIGN CHOICE). -/
def folioRef (s : State) (a : Word) (n : Nat) : Except Trap (Option FolioEntry) :=
  let d := (a.extractLsb' 0 22).toNat
  let h := (a.extractLsb' 22 4).toNat
  if a.extractLsb' 26 38 ≠ 0 then .error { cls := 0x04, tval := a, telem := 0, va := false }
  else
    match nameFolio s h with
    | .unbound => .error (unboundTrap h 0)
    | .filling => .ok none
    | .ready f =>
      if f.space = 0 then .error { cls := 0x04, tval := a, telem := 0, va := false }
      else if f.size < d + n then .error { cls := 0x04, tval := BitVec.ofNat 64 d, telem := 0, va := false }
      else if d % n ≠ 0 then .error { cls := 0x03, tval := a, telem := 0, va := false }
      else .ok (some f)

/-- An atomic of R222: `f` gives the new value from the old one, the operand and the compare value, as patterns of the type. -/
def atomicOp (f : Nat → Nat → Nat → Nat → Nat) (o : W4) (s : State) : Host.Outcome State Fault Refusal :=
  accessOp [o.fa, o.fb, o.fc] (fun s =>
    let ty := o.ty.toNat
    let w := typeWidth ty
    let n := w / 8
    let a := getS s o.fa
    let b := (getS s o.fb).toNat % 2 ^ w
    let c := (getS s o.fc).toNat % 2 ^ w
    let g := fun v => f ty v b c % 2 ^ w
    let s1 := settleMatrix s
    if o.sc.toNat = 1 then
      match folioRef s1 a n with
      | .error t => .trap t s1
      | .ok none => .stall s1
      | .ok (some fo) =>
        let d := (a.extractLsb' 0 22).toNat
        if folioQueued s1 (a.extractLsb' 22 4).toNat then .stall s1
        else if pointPoisoned s1 1 (fo.key d) n then .trap { cls := 0x0E, tval := BitVec.ofNat 64 d, telem := 0, va := false } s1
        else
          let r := performAtomic (soilFolio s1 fo) 1 (fo.key d) n g
          .ok (setS r.2 o.fd (atomicOld ty r.1))
    else if conflicts s1 a n true then .stall s1
    else
      match keyOf s1 .store a n 0 with
      | .bad t s2 => .trap t s2
      | .ok k s2 =>
        if pointPoisoned s2 o.sc.toNat k n then .trap (addrTrap 0x0E a 0) s2
        else
          let r := performAtomic s2 o.sc.toNat k n g
          .ok (setS r.2 o.fd (atomicOld ty r.1))) s

def execAtswap (o : W4) (s : State) := atomicOp (fun _ _ b _ => b) o s
def execAtadd (o : W4) (s : State) := atomicOp (fun _ v b _ => v + b) o s
def execAtand (o : W4) (s : State) := atomicOp (fun _ v b _ => v &&& b) o s
def execAtor (o : W4) (s : State) := atomicOp (fun _ v b _ => v ||| b) o s
def execAtxor (o : W4) (s : State) := atomicOp (fun _ v b _ => v ^^^ b) o s
def execAtmin (o : W4) (s : State) := atomicOp (fun ty v b _ => if readInt ty v ≤ readInt ty b then v else b) o s
def execAtmax (o : W4) (s : State) := atomicOp (fun ty v b _ => if readInt ty v ≤ readInt ty b then b else v) o s
def execAtminn (o : W4) (s : State) := atomicOp (fun _ v b _ => min v b) o s
def execAtmaxn (o : W4) (s : State) := atomicOp (fun _ v b _ => max v b) o s
def execAtcas (o : W4) (s : State) := atomicOp (fun _ v b c => if v = c then b else v) o s

end Sys2Proof.Machine
end

