-- ==== Sys2Proof/Machine/Operands.lean ====
section
/-! DEFINITION. The operands of vector instructions: every form of second source (R133, R134), register groups (R232), masks and
tails (R235), stream-bound registers (R216 to R219), lane threads' element groups (R271), and the frame that reads and writes
them. -/

namespace Sys2Proof.Machine

/-! ## Streams -/

/-- The fill value as an element (R162). -/
def fillElem (fill ty : Nat) : Nat :=
  if ty = 0x0E then fill % 2 ^ 32 * 2 ^ 96 else fill % 2 ^ typeWidth ty

/-- The registers a binding's chunk occupies (log 19, DESIGN CHOICE: the spec gives one register and 32 landed bits; where c elements need
more, the following registers hold them, none of them may be written, and the 32 bits stand for the EGs of vd). -/
def Binding.regs (b : Binding) : Nat := max 1 ((b.c * typeWidth b.ety + 8191) / 8192)

/-- The elements of an EG of a binding's register (R4). -/
def Binding.epg (b : Binding) : Nat := 256 / typeWidth b.ety

/-- The live mask of a chunk (R218). -/
def Binding.liveBits (b : Binding) : VReg :=
  let n := min b.c (b.total - b.q * b.c)
  BitVec.ofNat 8192 (2 ^ n - 1)

/-- Loads an element at any alignment: whole when aligned, byte by byte otherwise. -/
def loadElem (s : State) (va : Word) (z elem : Nat) : Got Nat :=
  if va.toNat % z = 0 then loadAt s va z 1 elem
  else
    match loadBytesAt (fun _ => elem) va z 0 s with
    | .ok bs s1 => .ok (leNat bs) s1
    | .bad t s1 => .bad t s1

/-- Stores an element at any alignment. -/
def storeElem (s : State) (va : Word) (z elem v : Nat) : Got Unit :=
  if va.toNat % z = 0 then storeAt s va z 1 elem v
  else
    match checkStores elem (byteAddrs va z) s with
    | .ok ks s1 => .ok () (storeKeys s1 ks (natLe z v))
    | .bad t s1 => .bad t s1

/-- What reading elements of a chunk gives: their values and retags, the fault that ends them with its tgeom1, and the state. -/
structure Chunk where
  vals : List Nat
  retags : List Nat
  bad : Option (Nat × Trap)
  geom : Word
  s : State

/-- `n` elements of a load binding's chunk from element `i` on (R161, R162, R218). -/
def chunkElems (b : Binding) : Nat → Nat → State → Chunk
  | 0, _, s => { vals := [], retags := [], bad := none, geom := 0, s := s }
  | n + 1, i, s =>
    let z := typeWidth b.ty / 8
    let p := b.q * b.c + i
    let a := b.addr p
    let go := fun (x k : Nat) (s1 : State) =>
      let r := chunkElems b n (i + 1) s1
      { r with vals := x :: r.vals, retags := k :: r.retags }
    let stop := fun (t : Trap) (w : Word) (s1 : State) =>
      ({ vals := [], retags := [], bad := some (i, t), geom := w, s := s1 } : Chunk)
    if b.total ≤ p ∨ b.inBounds a z = false then go (fillElem (b.word 4).toNat b.ty) 0 s
    else
      match loadElem s a z i with
      | .bad t s1 => stop t 0 s1
      | .ok x s1 =>
        if b.ty = 0x0E then
          match retagValue s1 i x with
          | .bad t w => stop t (w.getD 0) s1
          | .ok y k => go y k s1
        else go x 0 s1

/-- Replaces a binding of the current thread. -/
def updBinding (s : State) (vd : Nat) (f : Binding → Binding) : State :=
  s.updT fun t => { t with binds := updWhere t.binds (fun b => b.vd == vd) f }

/-- Writes consecutive registers from a bit string. -/
def setGroup (s : State) (r n x : Nat) : State :=
  (List.range n).foldl (fun a j => setV a (r + j) (BitVec.ofNat 8192 (x >>> (8192 * j)))) s

/-- The bits of `n` consecutive registers (R232). -/
def getGroup (s : State) (r n : Nat) : Nat := (List.range n).foldl (fun a j => a + (getV s (r + j)).toNat * 2 ^ (8192 * j)) 0

/-- Puts elements read from `first` on into a binding's register; with `tail` the elements behind them get the fill value. -/
def placeChunk (b : Binding) (first : Nat) (tail : Bool) (r : Chunk) : State :=
  let w := typeWidth b.ety
  let old := getGroup r.s b.vd b.regs
  let es := (List.range (b.regs * 8192 / w)).map fun i =>
    if i < first then elemAt old w i
    else match r.vals[i - first]? with
      | some x => x
      | none => if tail then fillElem (b.word 4).toNat b.ty else elemAt old w i
  let s1 := setGroup r.s b.vd b.regs (packElems w es)
  updBinding s1 b.vd fun x =>
    { x with retags := (List.range b.c).map fun i => (if first ≤ i then r.retags[i - first]? else none).getD (x.retags.getD i 0) }

/-- Reads the current chunk of a load binding into its register, unless that has been done (R218). After a fault the chunk is
read again from the failing element on, from the elements that had landed. -/
def fillChunk (s : State) (b : Binding) : State :=
  if b.filled ∧ b.bad.isNone then s
  else
    let first := match b.bad with
      | some p => p.1
      | none => 0
    let r := chunkElems b (b.c - first) first s
    updBinding (placeChunk b first true r) b.vd fun x => { x with filled := true, bad := r.bad, geom := r.geom }

/-- A chunk begins: its live mask is written, nothing has landed (R218, R219). -/
def beginChunk (s : State) (b : Binding) : State :=
  let s1 := updBinding s b.vd fun x =>
    { b with filled := false, landed := 0, bad := none, geom := 0, retags := [], vd := x.vd }
  if b.live = 0 then s1 else setM s1 b.live b.liveBits

/-- The lane thread whose instruction runs, if any. -/
def laneOf (s : State) : Option Nat := s.t.xctx.bind XCtx.lane

/-- The load bindings of an instruction's sources, in the order it names them. -/
def boundSources (s : State) (srcs : List Nat) : List Binding :=
  srcs.dedup.filterMap fun r => s.t.binds.find? fun b => !b.store && b.vd == r

/-- Sources made available, or the first fill fault among them: its element, the trap, its tgeom1. -/
structure Prepared where
  bad : Option (Nat × Trap × Word)
  s : State

/-- The earlier of two faults; of equal elements the one met first (R331). -/
def earlier (a b : Option (Nat × Trap × Word)) : Option (Nat × Trap × Word) :=
  match a, b with
  | some x, some y => if y.1 < x.1 then some y else some x
  | some x, none => some x
  | none, y => y

/-- Makes a bound source available to a lane thread (R276): only its own EG has to have landed. -/
def prepareEg (g : Nat) (p : Prepared) (b : Binding) : Prepared :=
  let s1 := fillChunk p.s { b with bad := if b.filled then none else b.bad }
  match (s1.t.binds.find? fun x => x.vd == b.vd).bind Binding.bad with
  | some (i, _) =>
    if i / b.epg ≤ g then
      let first := g * b.epg
      let r := chunkElems b (min b.epg (b.c - first)) first s1
      { bad := earlier p.bad (r.bad.map fun x => (x.1, x.2, r.geom)), s := placeChunk b first false r }
    else { p with s := s1 }
  | none => { p with s := s1 }

/-- Makes a bound source available: its whole chunk lands, or a fill fault in it is the consumer's, whichever elements that reads (R218; log
19, DESIGN CHOICE). -/
def prepareChunk (p : Prepared) (b : Binding) : Prepared :=
  let s1 := fillChunk p.s b
  match s1.t.binds.find? fun x => x.vd == b.vd with
  | none => { p with s := s1 }
  | some x =>
    match x.bad with
    | some (i, t) => { bad := earlier p.bad (some (i, t, x.geom)), s := s1 }
    | none => { p with s := updBinding s1 b.vd fun x => { x with landed := BitVec.allOnes 32 } }

/-- Makes the bound sources available (R136, R218, R276). -/
def prepareSources (srcs : List Nat) (s : State) : Prepared :=
  (boundSources s srcs).foldl (match laneOf s with
    | some g => prepareEg g
    | none => prepareChunk) { bad := none, s := s }

/-- The retags of a chunk's elements from `lo` up to `hi` (R330). -/
def Binding.retagged (b : Binding) (lo hi : Nat) : Nat := ((b.retags.take hi).drop lo).foldl (· + ·) 0

/-- The retags of bound sources count with the elements of the consumer that complete (R330). -/
def countSources (srcs : List Nat) (lo hi : Nat) (s : State) : State :=
  let n := ((boundSources s srcs).map fun b => b.retagged lo hi).foldl (· + ·) 0
  if n = 0 then s else countRetags s n

/-- An instruction that has read a load-bound register moves it to its next chunk (R218); in a lane thread the chunk advances
at the vjoin (R276). The chunk's retags count whole then, those of elements that the instruction has inactive or above its vl among them (log
19, DESIGN CHOICE: R330 counts the elements that complete, and they were made as the chunk was filled). -/
def consumeSources (srcs : List Nat) (s : State) : State :=
  let bs := boundSources s srcs
  if (laneOf s).isSome then
    s.updT fun t =>
      { t with lanes := t.lanes.map fun r => { r with read := (r.read ++ bs.map Binding.vd).dedup } }
  else bs.foldl (fun a b => beginChunk a { b with q := b.q + 1 }) (countSources srcs (startElem s) 8192 s)

/-- Whether an instruction writes a load-bound register or a live mask (R218, R219), or in a lane thread any bound register
(R276). -/
def writesBound (s : State) (dsts : List Nat) (dm : Option Nat) : Bool :=
  s.t.binds.any fun b =>
    ((!b.store || (laneOf s).isSome) && ((List.range b.regs).any fun j => dsts.contains (b.vd + j))) || (b.live != 0 && dm == some b.live)

/-- A stored element of a store binding, narrowed to TYPE (R219, R34, R41, R42); a TYPE equal to the element type narrows
nothing (log 19, DEDUCED). -/
def narrowElem (s : State) (b : Binding) (x : Nat) : Nat × Fl :=
  if b.ty = b.ety then (x, 0)
  else if isInt b.ty then deliver b.ty (readInt b.ety x) (typeWidth b.ty) (vtSat s)
  else convertElem b.ty b.ety (frmMode s) (vtSat s) x

/-- Stores `n` elements of a produced chunk from element `i` on, in ascending order (R219). -/
def produceElems (b : Binding) (act : Nat → Bool) (g : Nat) : Nat → Nat → State → Res
  | 0, _, s => .ok s
  | n + 1, i, s =>
    let p := b.q * b.c + i
    let z := typeWidth b.ty / 8
    let a := b.addr p
    if act i = false ∨ b.total ≤ p ∨ b.inBounds a z = false then produceElems b act g n (i + 1) s
    else
      let x := narrowElem s b (elemAt g (typeWidth b.ety) i)
      match storeElem (raise s x.2) a z i x.1 with
      | .bad t s1 => .trap t s1
      | .ok _ s1 => produceElems b act g n (i + 1) s1

/-- An instruction that has written store-bound registers produces their chunks (R219), from vstart on (R439) and below the element
where it stops short. One that writes nothing because vl = 0 produces none. -/
def produceDests (dsts : List Nat) (act : Nat → Bool) (s : State) : Res :=
  (s.t.binds.filter fun b => b.store && dsts.contains b.vd).foldl (fun r b => r.bind fun a =>
    if a.t.ctl.vl = 0 ∧ (List.range b.c).all (fun i => !act i) then .ok a
    else
      let st := startElem a
      let hi := min b.c (a.t.limit.getD b.c)
      (produceElems b act (getGroup a b.vd b.regs) (hi - st) st a).map fun a1 =>
        if a1.t.limit.isSome then a1 else beginChunk a1 { b with q := b.q + 1 }) (.ok s)

/-- Posted matrix work that an instruction has to follow completes: what writes its registers (R299), and before a stream reads or writes
memory what touches that (R300, R353). -/
def settleFrame (srcs dsts : List Nat) (s : State) : State :=
  let s1 := settleRegs s (srcs ++ dsts)
  if s1.t.binds.any fun b => if b.store then dsts.contains b.vd else srcs.contains b.vd then settleMatrix s1 else s1

/-- What an instruction over vector registers has performed when it stops at a fault (R438, R439): the elements below, `per` of a source
for one of its own; as `gather` the same, but nothing at a fill fault, since any element may need any of the source's; or, where it restarts
whole, nothing (log 19). -/
inductive StopRule where
  | below (per : Nat)
  | gather
  | whole
  deriving DecidableEq, Repr

/-- Whether a trap stands before a fault at element `k` of the same instruction: it is an Illegal Instruction, taken at issue, or it is at a
lower element (R331, R455). -/
def standsBefore (t : Trap) (k : Nat) : Bool := t.cls == 0x01 || decide (t.telem < k)

/-- What an instruction that performs nothing keeps of its elements below a fault: their flags (R46) and the sampling check (R455). -/
def heldBack (r : Res) (s : State) : State :=
  match r with
  | .ok x | .trap _ x | .stall x =>
    { s with samples := x.samples }.updC fun c => { c with fflags := x.t.ctl.fflags, sat := x.t.ctl.sat }

/-- An instruction's body up to an element, with the chunks it produces. A fault of its own at element k, or a store fault of a chunk there,
leaves the elements below k performed and stored, the others not (R438): after a store fault the body is run again up to k. -/
def frameTo (rule : StopRule) (dsts : List Nat) (act : Nat → Bool) (f : State → Res) (lim : Option Nat) (s : State) : Res :=
  let upTo := fun (k : Nat) => (f (stopAt (some k) s)).bind (produceDests dsts act)
  let again := fun (t : Trap) =>
    if rule = .whole then .trap t (stopAt (some 0) (heldBack (upTo t.telem) s)) else (upTo t.telem).bind fun x => .trap t x
  match f (stopAt lim s) with
  | .stall s1 => .stall (stopAt none s1)
  | .ok s1 =>
    match produceDests dsts act s1 with
    | .trap t _ => again t
    | r => r
  | .trap t s1 =>
    if rule = .whole ∨ t.cls = 0x01 then .trap t (stopAt none s1)
    else
      match produceDests dsts act (stopAt (some t.telem) s1) with
      | .trap u _ => again u
      | .ok x | .stall x => .trap t (stopAt none x)

/-- The body's own fault: the retags of the source elements below it count (R330). A lane instruction (R275), one that restarts whole and
one refused at issue complete no element. -/
def countBelow (rule : StopRule) (srcs : List Nat) (r : Res) : Res :=
  match r with
  | .trap t x => .trap t (if t.cls = 0x01 ∨ rule = .whole ∨ (laneOf x).isSome then x else countSources srcs (startElem x) t.telem x)
  | .ok _ | .stall _ => r

/-- The frame of an instruction over vector registers: sources made available, illegal destinations refused, chunks consumed
and produced. `act` tells the active elements for a store binding. A fill fault at element k is taken when the elements below k are
performed as `rule` says, unless one of them faults (R218, R438); a lane instruction performs nothing then (R275). -/
def vecFrame (rule : StopRule) (srcs dsts : List Nat) (dm : Option Nat) (act : State → Nat → Bool) (f : State → Res) (s : State) : Res :=
  if writesBound s dsts dm then illegal s
  else
    let p := prepareSources srcs (settleFrame srcs dsts s)
    match p.bad with
    | none =>
      match frameTo rule dsts (act p.s) f none p.s with
      | .ok s1 => .ok (consumeSources srcs s1)
      | r => countBelow rule srcs r
    | some (k, t, w) =>
      let geom := fun (x : State) => if 0x07 ≤ t.cls ∧ t.cls ≤ 0x0A then x.updC fun c => { c with tgeom1 := w } else x
      let hold := fun (r : Res) (v : Nat) => match r with
        | .trap u x => if standsBefore u k then .trap u x else .trap t (stopAt (some v) (geom (heldBack r p.s)))
        | .ok _ | .stall _ => .trap t (stopAt (some v) (geom (heldBack r p.s)))
      match rule with
      | .whole => hold (f (stopAt (some k) p.s)) 0
      | .gather => hold (frameTo rule dsts (act p.s) f (some (startElem p.s)) p.s) (startElem p.s)
      | .below per =>
        if (laneOf s).isSome then
          match f (stopAt (some k) p.s) with
          | .trap u x => .trap u (stopAt none x)
          | .ok _ | .stall _ => .trap t (stopAt none (geom p.s))
        else
          match frameTo rule dsts (act p.s) f (some (k / per)) p.s with
          | .ok s1 => .trap t (geom (countSources srcs (startElem s1) k s1))
          | r => countBelow rule srcs r

/-! ## Groups, masks, tails -/

/-- Elements of width `w` that the running instruction acts on: all of them, or those of a lane thread's EG (R271). -/
def selected (s : State) (w i : Nat) : Bool :=
  match laneOf s with
  | none => true
  | some g => i / (256 / w) == g

/-- Element `i` is enabled by mask `mk` (R137). -/
def maskOn (s : State) (mk i : Nat) : Bool := mk == 0 || (getM s mk).getLsbD i

/-- The registers of a group. -/
def regsOf (r g : Nat) : List Nat := (List.range g).map (r + ·)

/-- A register number that fits its group (R232). -/
def groupOk (r g : Nat) : Bool := r % g == 0

/-- R233, R257, R271: vtype holds a valid TYPE, vl fits a source group of size `g` at width `w`, and a lane thread's source
width is that of vtype.TYPE. -/
def lengthOk (s : State) (g w : Nat) : Bool :=
  typeValid (vtType s) && decide (s.t.ctl.vl ≤ g * 8192 / w) && ((laneOf s).isNone || w == typeWidth (vtType s))

/-- Element `i` lies below the one where the running instruction stops short, if it does. -/
def belowLimit (s : State) (i : Nat) : Bool :=
  match s.t.limit with
  | none => true
  | some k => decide (i < k)

/-- Whether the running instruction writes element `i` at all: it lies in its EG (`sw` is the width its EGs are counted at),
at or above `start`, in a lane thread below the count, and below the element where it stops short (R271, R438, R439). -/
def touched (s : State) (sw vld start i : Nat) : Bool :=
  selected s sw i && decide (start ≤ i) && ((laneOf s).isNone || decide (i < vld)) && belowLimit s i

/-- What R235 leaves in element `i` of a destination: `o` is its old value, `x` the result. One that stops short has performed its active
elements and nothing else (R438). -/
def placed (s : State) (sw vld start mk i o x : Nat) : Nat :=
  if touched s sw vld start i = false then o
  else if i < vld ∧ maskOn s mk i then x
  else if s.t.limit.isNone && (if i < vld then vtMp s else vtTp s) then 0
  else o

/-- The element below which the running instruction works: vl, or where it stops short. -/
def topElem (s : State) : Nat := min s.t.ctl.vl (s.t.limit.getD s.t.ctl.vl)

/-- Writes only the active elements from `lo` up to `hi`: what an instruction that stops at `hi` has performed (R438). The registers that
hold some of them have been written (R290). -/
def placePart (s : State) (vd g w lo hi : Nat) (act : Nat → Bool) (x : Nat → Nat) : State :=
  let old := getGroup s vd g
  let done := fun (i : Nat) => decide (lo ≤ i ∧ i < hi) && act i
  let es := (List.range (g * 8192 / w)).map fun i => if done i then x i else elemAt old w i
  let s1 := setGroup s vd g (packElems w es)
  (List.range g).foldl (fun a j =>
    if (List.range (8192 / w)).any fun i => done (j * (8192 / w) + i) then markDirty a (vd + j) 1 else a) s1

/-- Writes the destination group by R235: `n` elements of width `w` count below vl_d, `res` gives the active ones, and those
below `start` keep their value (R439). Where it stops short only the active elements below are written (R438). -/
def writeGroup (s : State) (vd g w sw vld start mk : Nat) (res : Nat → Nat) : State :=
  match s.t.limit with
  | some k => placePart s vd g w start (min k vld) (fun i => selected s sw i && maskOn s mk i) res
  | none =>
    let old := getGroup s vd g
    let es := (List.range (g * 8192 / w)).map fun i => placed s sw vld start mk i (elemAt old w i) (res i)
    markDirty (setGroup s vd g (packElems w es)) vd g

/-- Writes a mask register by R235: 8192 elements of one bit. -/
def writeMask (s : State) (md sw vld start mk : Nat) (res : Nat → Bool) : State :=
  let old := (getM s md).toNat
  let bs := (List.range 8192).map fun i => placed s sw vld start mk i (elemAt old 1 i) (res i).toNat
  setM s md (BitVec.ofNat 8192 (packElems 1 bs))

/-- The flags that the active elements raise (R46). -/
def activeFlags (s : State) (w vld start mk : Nat) (fl : Nat → Fl) : Fl :=
  (List.range vld).foldl (fun a i => if selected s w i && decide (start ≤ i) && belowLimit s i && maskOn s mk i then a ||| fl i else a) 0

/-- The sampling check of an instruction (R441): with some active element the core's generator steps, and its value selects an active
element by rank, or with `tree` the tree node of that index. -/
def sampleStep (tree : Bool) (s : State) (active : List Nat) : State :=
  match active with
  | [] => s
  | a :: r =>
    let core := s.t.core
    let old := ((s.samples.find? fun x => x.core == core).map Sampling.value).getD (Config.samplingSeed core)
    let v := Config.samplingNext old
    let k := v.toNat % (a :: r).length
    { s with
      samples := { core := core, value := v, chosen := if tree then k else (a :: r).getD k a } :: s.samples.filter fun x => x.core != core }

/-- The elements of an instruction that are active for the sampling check. -/
def activeElems (s : State) (sw n start mk : Nat) : List Nat :=
  (List.range n).filter fun i => touched s sw n start i && maskOn s mk i

/-- The sampling check of an element-wise instruction that ran from state `o`, whose masks tell its active elements (R236). One that stops
at a fault is checked among the elements below it, before the fault is taken (R455; log 9, DESIGN CHOICE: among those). -/
def sampled (o s : State) (sw n start mk : Nat) : State := sampleStep false s (activeElems o sw n start mk)

/-- The sampling check of a reduction, a scan or vfred2. -/
def sampledTree (s : State) (sw n mk : Nat) : State := sampleStep true s (activeElems s sw n 0 mk)

/-! ## Second sources -/

/-- IMM32 as an element (R134). -/
def immElem (ty : Nat) (v : BitVec 32) : Nat :=
  if isInt ty then truncInt v.toInt (typeWidth ty)
  else if ty = 0x0D then
    match fmt32.value v.toNat with
    | .nan _ => fmt64.qnan
    | .inf n => fmt64.infinity n
    | .fin n m e => (fmt64.round 0 false n m e).1
  else v.toNat % 2 ^ typeWidth ty

/-- The data queue that a second source pops. -/
def popOf (src : Src2) : Option Nat :=
  match src with
  | .queue k => some k.toNat
  | .vec _ _ | .scal _ | .imm _ => none

/-- The registers a second source reads, as a group of size `g`. -/
def srcRegs (src : Src2) (g : Nat) : List Nat :=
  match src with
  | .vec vb _ => regsOf vb.toNat g
  | .scal _ | .imm _ | .queue _ => []

/-- A second source whose registers fit its group (R232). -/
def srcOk (src : Src2) (g : Nat) : Bool :=
  match src with
  | .vec vb _ => groupOk vb.toNat g
  | .scal _ | .imm _ | .queue _ => true

/-- Gives a body the second source as a function of the element (R133, R237): `srcb`; `popped` is the value of a queue form, and the
registers of a vector form fit their group (`srcOk`). -/
def withSrc (src : Src2) (popped : Word) (ty g : Nat) (f : (Nat → Nat) → State → Res) (s : State) : Res :=
  let w := typeWidth ty
  match src with
  | .vec vb _ => let x := getGroup s vb.toNat g; f (elemAt x w) s
  | .scal sb => f (fun _ => (getS s sb).toNat % 2 ^ w) s
  | .imm v => f (fun _ => immElem ty v) s
  | .queue _ => f (fun _ => popped.toNat % 2 ^ w) s

/-- An execute-stream instruction with a second source: a queue form pops its value before anything of the instruction is checked
(R133), and so does one with vl = 0 (R235). -/
def executeSrc (src : Src2) (k : StartRule) (f : Word → State → Res) (s : State) : Host.Outcome State Fault Refusal :=
  executeWith (popOf src) (scalReg src) k f s

/-- An instruction without second source (VB and CB zero): no register stands there. -/
def aloneSrc (o : WV) : WV := { o with src := .imm 0 }

/-- The element-wise frame of formats WV and LV: type TY for both sources and, of width `wd` in a group of size `gd`, for the
destination; `res i a b d` gives element i from va's, the second source's and the old destination's (R235, R236). -/
def elementwise (o : WV) (popped : Word) (gd wd : Nat) (usesVa : Bool) (res : State → Nat → Nat → Nat → Nat → Nat × Fl)
    (s : State) : Res :=
  let g := vtGrp s
  let w := typeWidth o.ty.toNat
  let va := o.va.toNat
  let vd := o.vd.toNat
  if lengthOk s g w = false ∨ groupOk va g = false ∨ srcOk o.src g = false ∨ groupOk vd gd = false ∨ gd * 8192 / wd < s.t.ctl.vl then
    illegal s
  else
    let srcs := (if usesVa then regsOf va g else []) ++ srcRegs o.src g
    vecFrame (.below 1) srcs (regsOf vd gd) none (fun s1 i => decide (i < s1.t.ctl.vl) && maskOn s1 o.msk.toNat i)
      (withSrc o.src popped o.ty.toNat g fun b s1 =>
        let vl := s1.t.ctl.vl
        if vl = 0 then .ok s1
        else
          let st := startElem s1
          let a := getGroup s1 va g
          let d := getGroup s1 vd gd
          let r := fun i => res s1 i (elemAt a w i) (b i) (elemAt d wd i)
          let s2 := writeGroup s1 vd gd wd w vl st o.msk.toNat fun i => (r i).1
          .ok (sampled s1 (raise s2 (activeFlags s1 w vl st o.msk.toNat fun i => (r i).2)) w vl st o.msk.toNat)) s

end Sys2Proof.Machine
end

