-- ==== Sys2Proof/Machine/VectorInt.lean ====
section
/-! DEFINITION. Vector type and length, integer arithmetic, shifts, packed multiply-accumulate, compares and mask logic (R231 to
R249). -/

namespace Sys2Proof.Machine

/-- Writes vtype and clamps vl (R231, R234): the reserved bits are dropped (R5). -/
def setVtype (s : State) (v : Word) : State :=
  let v' := v &&& 0xFF1F
  setModes s fun e => { e with vtype := v', vl := min e.vl (vlMaxOf v') }

/-- `vsetvl sa` (R239). -/
def execVsetvl (o : W4) (s : State) : Host.Outcome State Fault Refusal :=
  executeOp [o.fa] .ignore (fun s =>
    if typeValid (vtType s) then .ok (setModes s fun e => { e with vl := min (getS s o.fa).toNat (vlMaxOf e.vtype) })
    else illegal s) s

/-- `vsettype.ty #g, #b, #p` (R240). -/
def execVsettype (o : W4) (s : State) : Host.Outcome State Fault Refusal :=
  executeOp [] .ignore (fun s =>
    .ok (setVtype s (BitVec.ofNat 64 (o.fd.toNat * 2 ^ 12 + o.fa.toNat * 2 ^ 10 + o.fb.toNat * 2 ^ 8 + o.ty.toNat)))) s

/-! ## Forms -/

/-- An element-wise instruction on equal widths: `f` gives the result's pattern and flags from the state, TY, the patterns of
va, the second source and the old destination. -/
def vecOp (usesVa : Bool) (f : State → Nat → Nat → Nat → Nat → Nat × Fl) (o : WV) (s : State) : Host.Outcome State Fault Refusal :=
  executeSrc o.src .elements (fun p s =>
    elementwise o p (vtGrp s) (typeWidth o.ty.toNat) usesVa (fun s1 _ a b d => f s1 o.ty.toNat a b d) s) s

/-- Integer arithmetic of R241: an exact result of the values, then `deliver`; `sat` decides saturation from vtype.SAT. -/
def intVec (f : Nat → Int → Int → Int) (sat : Bool → Bool) (o : WV) (s : State) : Host.Outcome State Fault Refusal :=
  vecOp true (fun s1 ty a b _ => deliver ty (f (typeWidth ty) (readInt ty a) (readInt ty b)) (typeWidth ty) (sat (vtSat s1))) o s

/-- An operation on the patterns, with no flag. -/
def patVec (f : Nat → Nat → Nat → Nat → Nat) (o : WV) (s : State) : Host.Outcome State Fault Refusal :=
  vecOp true (fun _ ty a b d => (f (typeWidth ty) a b d % 2 ^ typeWidth ty, 0)) o s

/-! ## Integer arithmetic (R241) -/

def execVadd (o : WV) (s : State) := intVec (fun _ a b => a + b) id o s
def execVsub (o : WV) (s : State) := intVec (fun _ a b => a - b) id o s
def execVrsub (o : WV) (s : State) := intVec (fun _ a b => b - a) id o s
def execVmul (o : WV) (s : State) := intVec (fun _ a b => a * b) id o s
def execVmulh (o : WV) (s : State) := intVec (fun w a b => a * b / (2 ^ w : Nat)) (fun _ => false) o s
def execVmin (o : WV) (s : State) := intVec (fun _ a b => min a b) (fun _ => false) o s
def execVmax (o : WV) (s : State) := intVec (fun _ a b => max a b) (fun _ => false) o s
def execVand (o : WV) (s : State) := patVec (fun _ a b _ => a &&& b) o s
def execVor (o : WV) (s : State) := patVec (fun _ a b _ => a ||| b) o s
def execVxor (o : WV) (s : State) := patVec (fun _ a b _ => a ^^^ b) o s
def execVadds (o : WV) (s : State) := intVec (fun _ a b => a + b) (fun _ => true) o s
def execVsubs (o : WV) (s : State) := intVec (fun _ a b => a - b) (fun _ => true) o s
def execVabs (o : WV) (s : State) := intVec (fun _ a _ => max a (-a)) id (aloneSrc o) s

/-- vavg (R241): one rounding by frm.IRM (R35). -/
def execVavg (o : WV) (s : State) : Host.Outcome State Fault Refusal :=
  vecOp true (fun s1 ty a b _ =>
    (truncInt (rshiftRound (readInt ty a + readInt ty b) 1 (irm s1)) (typeWidth ty), 0)) o s

/-! ## Shifts (R242 to R244): the count is the pattern mod w -/

/-- vsll (R242): delivered with SAT. -/
def execVsll (o : WV) (s : State) : Host.Outcome State Fault Refusal :=
  vecOp true (fun s1 ty a b _ =>
    let w := typeWidth ty
    deliver ty (readInt ty a * (2 ^ (b % w) : Nat)) w (vtSat s1)) o s

def execVsrl (o : WV) (s : State) := patVec (fun w a b _ => a >>> (b % w)) o s

/-- vsra (R242): the pattern read signed, whatever TY says. -/
def execVsra (o : WV) (s : State) := patVec (fun w a b _ => truncInt (sextNat a w / (2 ^ (b % w) : Nat)) w) o s

/-- vsrar and vsrlr (R242): the shifted value rounded by frm.IRM. -/
def roundShift (signed : Bool) (o : WV) (s : State) : Host.Outcome State Fault Refusal :=
  vecOp true (fun s1 ty a b _ =>
    let w := typeWidth ty
    (truncInt (rshiftRound (if signed then sextNat a w else (a : Int)) (b % w) (irm s1)) w, 0)) o s

def execVsrar (o : WV) (s : State) := roundShift true o s
def execVsrlr (o : WV) (s : State) := roundShift false o s

/-- vnsra (R243): narrows to half the width, always saturating. -/
def execVnsra (o : WV) (s : State) : Host.Outcome State Fault Refusal :=
  executeSrc o.src .elements (fun p s =>
    let ty := o.ty.toNat
    let w := typeWidth ty
    elementwise o p (max 1 (vtGrp s / 2)) (w / 2) true (fun s1 _ a b _ =>
      deliver ty (rshiftRound (readInt ty a) (b % w) (irm s1)) (w / 2) true) s) s

def execVfunl (o : WV) (s : State) := patVec (fun w a b d => (a * 2 ^ w + d) * 2 ^ (b % w) / 2 ^ w) o s
def execVfunr (o : WV) (s : State) := patVec (fun w a b d => (a * 2 ^ w + d) / 2 ^ (b % w)) o s

/-! ## Packed multiply-accumulate (R245, R246) -/

/-- vmac and vmacs (R245): the destination has twice the width and twice the group, and n_d counts that group's elements (R235; log 19,
DESIGN CHOICE where vtype.TYPE's width is not TY's, so that R245's vlmax is another number). -/
def macVec (always : Bool) (o : WV) (s : State) : Host.Outcome State Fault Refusal :=
  executeSrc o.src .elements (fun p s =>
    let ty := o.ty.toNat
    let w := typeWidth ty
    if vtGrp s = 8 then illegal s
    else
      elementwise o p (2 * vtGrp s) (2 * w) true (fun s1 _ a b d =>
        let old : Int := if isSigned ty then sextNat d (2 * w) else (d : Int)
        deliver ty (old + readInt ty a * readInt ty b) (2 * w) (always || vtSat s1)) s) s

def execVmac (o : WV) (s : State) := macVec false o s
def execVmacs (o : WV) (s : State) := macVec true o s

/-- vdot2, vdot2s, vdot4 and vdot4s (R246): `n` source elements into one of n times the width. vstart counts destination elements; a fill
fault at a source element k stops it before the destination element that holds k (log 19). -/
def dotVec (n : Nat) (always : Bool) (o : WV) (s : State) : Host.Outcome State Fault Refusal :=
  executeSrc o.src .elements (fun p s =>
    let ty := o.ty.toNat
    let w := typeWidth ty
    let g := vtGrp s
    let va := o.va.toNat
    let vd := o.vd.toNat
    let mk := o.msk.toNat
    let cnt := fun (x : State) => (x.t.ctl.vl + n - 1) / n
    if lengthOk s g w = false ∨ groupOk va g = false ∨ srcOk o.src g = false ∨ groupOk vd g = false then illegal s
    else
      vecFrame (.below n) (regsOf va g ++ srcRegs o.src g) (regsOf vd g) none (fun x i => decide (i < cnt x) && maskOn x mk i)
        (withSrc o.src p ty g fun b s1 =>
          let vl := s1.t.ctl.vl
          if vl = 0 then .ok s1
          else
            let st := startElem s1
            let a := getGroup s1 va g
            let d := getGroup s1 vd g
            let r := fun (i : Nat) =>
              let old := elemAt d (n * w) i
              let sum := (List.range n).foldl (fun (acc : Int) j =>
                let e := n * i + j
                if e < vl then acc + readInt ty (elemAt a w e) * readInt ty (b e) else acc)
                (if isSigned ty then sextNat old (n * w) else (old : Int))
              deliver ty sum (n * w) (always || vtSat s1)
            let s2 := writeGroup s1 vd g (n * w) (n * w) (cnt s1) st mk fun i => (r i).1
            .ok (sampled s1 (raise s2 (activeFlags s1 (n * w) (cnt s1) st mk fun i => (r i).2)) (n * w) (cnt s1) st mk)) s) s

def execVdot2 (o : WV) (s : State) := dotVec 2 false o s
def execVdot2s (o : WV) (s : State) := dotVec 2 true o s
def execVdot4 (o : WV) (s : State) := dotVec 4 false o s
def execVdot4s (o : WV) (s : State) := dotVec 4 true o s

/-! ## Compares and masks (R247 to R249) -/

/-- The comparison numbers of `fCompare` on integers. -/
def intCompare (k : Nat) (a b : Int) : Bool :=
  match k with
  | 0 => decide (a = b)
  | 1 => decide (a ≠ b)
  | 2 => decide (a < b)
  | 3 => decide (a ≤ b)
  | 4 => decide (b < a)
  | _ => decide (b ≤ a)

/-- A compare of R247 into mask register VD. -/
def cmpVec (k : Nat) (o : WV) (s : State) : Host.Outcome State Fault Refusal :=
  executeSrc o.src .elements (fun p s =>
    let ty := o.ty.toNat
    let w := typeWidth ty
    let g := vtGrp s
    let va := o.va.toNat
    let mk := o.msk.toNat
    if lengthOk s g w = false ∨ groupOk va g = false ∨ srcOk o.src g = false then illegal s
    else
      vecFrame (.below 1) (regsOf va g ++ srcRegs o.src g) [] (some o.vd.toNat) (fun _ _ => false)
        (withSrc o.src p ty g fun b s1 =>
          let vl := s1.t.ctl.vl
          if vl = 0 then .ok s1
          else
            let st := startElem s1
            let a := getGroup s1 va g
            let r := fun (i : Nat) =>
              if isInt ty then (intCompare k (readInt ty (elemAt a w i)) (readInt ty (b i)), (0 : Fl))
              else fCompare k ((fmtOf ty).value (elemAt a w i)) ((fmtOf ty).value (b i))
            let s2 := writeMask s1 o.vd.toNat w vl st mk fun i => (r i).1
            .ok (sampled s1 (raise s2 (activeFlags s1 w vl st mk fun i => (r i).2)) w vl st mk)) s) s

def execVceq (o : WV) (s : State) := cmpVec 0 o s
def execVcne (o : WV) (s : State) := cmpVec 1 o s
def execVclt (o : WV) (s : State) := cmpVec 2 o s
def execVcle (o : WV) (s : State) := cmpVec 3 o s
def execVcgt (o : WV) (s : State) := cmpVec 4 o s
def execVcge (o : WV) (s : State) := cmpVec 5 o s

/-- The register number of a second source of form 0b00. -/
def srcNum (src : Src2) : Nat :=
  match src with
  | .vec vb _ => vb.toNat
  | .scal _ | .imm _ | .queue _ => 0

/-- Mask logic of R248: bits below vl from `f`, the others by TP; MK is 0, and a lane thread acts on its own bits. -/
def maskVec (f : Bool → Bool → Bool) (o : WV) (s : State) : Host.Outcome State Fault Refusal :=
  executeOp [] .elements (fun s =>
    vecFrame (.below 1) [] [] (some o.vd.toNat) (fun _ _ => false) (fun s1 =>
      let vl := s1.t.ctl.vl
      if vl = 0 then .ok s1
      else
        let a := getM s1 o.va.toNat
        let b := getM s1 (srcNum o.src)
        let w := typeWidth (vtType s1)
        let st := startElem s1
        .ok (sampled s1 (writeMask s1 o.vd.toNat w vl st 0 fun i => f (a.getLsbD i) (b.getLsbD i)) w vl st 0)) s) s

def execMand (o : WV) (s : State) := maskVec (fun a b => a && b) o s
def execMor (o : WV) (s : State) := maskVec (fun a b => a || b) o s
def execMxor (o : WV) (s : State) := maskVec (fun a b => a ^^ b) o s
def execMnot (o : WV) (s : State) := maskVec (fun a _ => !a) o s

/-- `mpopc vd, ma` (R249): the count into bits [63:0] of vd, which is one register (log 19, DESIGN CHOICE: R249 names no group size). -/
def execMpopc (o : WV) (s : State) : Host.Outcome State Fault Refusal :=
  executeOp [] .whole (fun s =>
    let vd := o.vd.toNat
    vecFrame .whole [] [vd] none (fun _ i => decide (i < 64 / typeWidth (vtType s))) (fun s1 =>
      let vl := s1.t.ctl.vl
      let n := (List.range vl).countP fun i => (getM s1 o.va.toNat).getLsbD i && maskOn s1 o.msk.toNat i
      let old := (getV s1 vd).toNat
      let x := BitVec.ofNat 8192 (old / 2 ^ 64 * 2 ^ 64 + n)
      .ok (sampled s1 (markDirty (setV s1 vd x) vd 1) 8 vl 0 o.msk.toNat)) s) s

end Sys2Proof.Machine
end

