-- ==== Sys2Proof/Machine/Control.lean ====
section
/-! DEFINITION. Control registers, queues between the streams, branches and jumps, trap return and breakpoint (R169 to R171,
R177 to R180, R185 to R188, R191, R192, R194). -/

namespace Sys2Proof.Machine

/-! ## Control registers (R185 to R188) -/

/-- tstat (R188). -/
def tstatWord (c : Ctl) : Word := BitVec.ofNat 64 (c.qimg.toNat * 4 + c.seqt.toNat * 2 + c.inh.toNat)

/-- mvl (R295), from the matrix unit. -/
def mvlWord (t : Thread) : Word :=
  match t.munit with
  | none => 0
  | some u => BitVec.ofNat 64 (2 ^ 13 + u.mtype * 2 ^ 8 + mvlOf u.mtype)

/-- thrid (R73). -/
def thridWord (t : Thread) : Word :=
  BitVec.ofNat 64 ((if t.spawned then 0xFFFFF else t.node % 2 ^ 20) * 2 ^ 32 + t.spawned.toNat * 2 ^ 12 + t.tci * 2 ^ 10 + t.slot)

/-- seqidx of a level: the running pass's index, 0 outside a replay (R184). In a trap handler it is that of the trapping instruction's
pass. -/
def seqidxWord (t : Thread) (k : Nat) : Word :=
  match t.replay.orElse fun _ => t.replayHeld with
  | some r => BitVec.ofNat 64 (r.idx.getD k 0)
  | none => 0

/-- The value of a control register (R186). -/
def readCr (t : Thread) (crn : Nat) : Word :=
  let c := t.ctl
  match crn with
  | 0x000 => c.vtype
  | 0x001 => BitVec.ofNat 64 c.vl
  | 0x002 => mvlWord t
  | 0x003 => BitVec.ofNat 64 c.vstart
  | 0x004 => c.vdirty.setWidth 64
  | 0x005 => BitVec.ofNat 64 c.vcommit
  | 0x010 => c.frm.setWidth 64
  | 0x011 => c.fflags.setWidth 64
  | 0x012 => c.sat.setWidth 64
  | 0x020 => c.tgeom0
  | 0x021 => c.tgeom1
  | 0x022 => c.tgeom2
  | 0x023 => c.tgeom3
  | 0x030 => BitVec.ofNat 64 (c.pbnd.getD 0 0)
  | 0x031 => BitVec.ofNat 64 (c.pbnd.getD 1 0)
  | 0x032 => BitVec.ofNat 64 (c.pbnd.getD 2 0)
  | 0x033 => BitVec.ofNat 64 (c.pbnd.getD 3 0)
  | 0x040 => BitVec.ofNat 64 c.tcause
  | 0x041 => c.tpc
  | 0x042 => c.tval
  | 0x043 => BitVec.ofNat 64 c.telem
  | 0x044 => c.tvec
  | 0x045 => tstatWord c
  | 0x046 => c.tscr
  | 0x050 => c.crec
  | 0x051 => c.clive
  | 0x060 => BitVec.ofNat 64 (t.core % 384)
  | 0x061 => BitVec.ofNat 64 (t.core % 384 / 4)
  | 0x062 => BitVec.ofNat 64 (t.core % 384 / 48)
  | 0x063 => BitVec.ofNat 64 (t.core / 384)
  | 0x064 => thridWord t
  | 0x065 => BitVec.ofNat 64 (t.part % 64)
  | 0x070 => seqidxWord t 0
  | 0x071 => seqidxWord t 1
  | 0x072 => seqidxWord t 2
  | 0x073 => seqidxWord t 3
  | 0x074 => seqidxWord t 4
  | 0x075 => seqidxWord t 5
  | _ => 0

/-- `mfc sd, creg` (R185, R187): a move from an execute-side register waits for the older execute-stream instructions, and for
fflags, sat and mvl also for the posted matrix instructions. -/
def execMfc (o : QC) (s : State) : Host.Outcome State Fault Refusal :=
  accessOp [] (fun s =>
    let c := o.crn.toNat
    if executeSide c ∧ xBusy s then .stall s
    else
      let s1 := if c = 0x011 ∨ c = 0x012 ∨ c = 0x002 then drainMatrix s else s
      .ok (setS s1 o.fd (readCr s1.t c))) s

/-- A plain write of a control register: reserved fields are ignored (R5, R186). -/
def writeCr (c : Ctl) (crn : Nat) (v : Word) : Ctl :=
  match crn with
  | 0x003 => { c with vstart := v.toNat % 2 ^ 13 }
  | 0x004 => { c with vdirty := v.setWidth 32 }
  | 0x011 => { c with fflags := v.setWidth 6 }
  | 0x012 => { c with sat := v.setWidth 3 }
  | 0x020 => { c with tgeom0 := v &&& 0xFFFFFFFF }
  | 0x021 => { c with tgeom1 := v &&& 0xF7FFFFFFF }
  | 0x022 => { c with tgeom2 := v &&& 0xFFFFFFFF }
  | 0x023 => { c with tgeom3 := 0 }
  | 0x040 => { c with tcause := v.toNat % 2 ^ 8 }
  | 0x042 => { c with tval := v }
  | 0x043 => { c with telem := v.toNat % 2 ^ 13 }
  | 0x044 => { c with tvec := v }
  | 0x046 => { c with tscr := v }
  | 0x050 => { c with crec := v }
  | 0x051 => { c with clive := v &&& 0x7FFFFFFFFFFFFFFF }
  | _ => c

/-- `mtc creg, sa` (R185 to R187): of the execute stream for an execute-side register, else of the access stream. -/
def execMtc (o : QC) (s : State) : Host.Outcome State Fault Refusal :=
  if executeSide o.crn.toNat then
    executeOp [o.fd] .ignore (fun s =>
      let s1 := if o.crn.toNat = 0x011 ∨ o.crn.toNat = 0x012 then drainMatrix s else s
      .ok (s1.updC fun c => writeCr c o.crn.toNat (getS s1 o.fd))) s
  else accessOp [o.fd] (fun s => .ok (s.updC fun c => writeCr c o.crn.toNat (getS s o.fd))) s

/-- `mtc tpc` (R186): stored; it clears SEQ and QIMG, so the held replay and queue image are discarded (R191), and a held lane
thread with them (R275). So is the run of a bqx that stood behind the image; that of an older bqx goes on after tret (R142). -/
def execMtcTpc (o : QC) (s : State) : Host.Outcome State Fault Refusal :=
  accessOp [o.fd] (fun s =>
    let behind := s.t.ctl.qimg
    let s1 := s.updC fun c => { c with tpc := getS s o.fd, seqt := false, qimg := false }
    .ok (s1.updT fun t =>
      { t with
        image := [], imageDec := [], imageEnv := [], replayHeld := none, rpcReplay := none, rpcFlows := false, rpcDecodes := 0
        dropHeld := if behind then 0 else t.dropHeld, laneHeld := none })) s

/-- `mtc vtype` (R186, R234). -/
def execMtcVtype (o : QC) (s : State) : Host.Outcome State Fault Refusal :=
  executeOp [o.fd] .ignore (fun s => .ok (setVtype s (getS s o.fd))) s

/-- `mtc vl` (R186): a value above the largest vl stores that largest vl. -/
def execMtcVl (o : QC) (s : State) : Host.Outcome State Fault Refusal :=
  executeOp [o.fd] .ignore (fun s => .ok (setModes s fun e => { e with vl := min (getS s o.fd).toNat (vlMaxOf e.vtype) })) s

/-- frm as R45 stores it: a reserved FRM stores 0. -/
def frmStored (v : Word) : BitVec 5 :=
  let f := v.extractLsb' 0 3
  v.extractLsb' 3 2 ++ (if f.toNat < 4 then f else 0)

/-- `mtc frm` (R45, R186). -/
def execMtcFrm (o : QC) (s : State) : Host.Outcome State Fault Refusal :=
  executeOp [o.fd] .ignore (fun s => .ok (setModes s fun e => { e with frm := frmStored (getS s o.fd) })) s

/-- `mtc pbndk` (R186): 0 stores 1, a value above 4096 stores 4096. -/
def execMtcPbnd (o : QC) (s : State) : Host.Outcome State Fault Refusal :=
  accessOp [o.fd] (fun s =>
    let v := max 1 (min (getS s o.fd).toNat 4096)
    .ok (s.updC fun c => { c with pbnd := c.pbnd.setIfInBounds (o.crn.toNat - 0x030) v })) s

/-! ## Queues between the streams (R83, R177 to R180) -/

/-- Pushes a value onto a data queue; it waits while the queue is full (R83). -/
def pushData (k : Nat) (v : Word) (s : State) : Res :=
  let q := s.t.dq.getD k []
  if 8 ≤ q.length then .stall s else .ok (s.updT fun t => { t with dq := t.dq.setIfInBounds k (q ++ [v]) })

/-- `dqput dqk, sa` (R177). -/
def execDqput (o : Q3) (s : State) : Host.Outcome State Fault Refusal :=
  accessOp [o.fa] (fun s => pushData o.fd.toNat (getS s o.fa) s) s

/-- `dqget sd, dqk` (R177). -/
def execDqget (o : Q3) (s : State) : Host.Outcome State Fault Refusal :=
  accessOp [] (fun s =>
    match s.t.dq.getD o.fa.toNat [] with
    | [] => .stall s
    | v :: r => .ok (setS (s.updT fun t => { t with dq := t.dq.setIfInBounds o.fa.toNat r }) o.fd v)) s

/-- `xqput dqk, va, #w` (R178). -/
def execXqput (o : Q3) (s : State) : Host.Outcome State Fault Refusal :=
  executeOp [] .ignore (fun s =>
    if 8 ≤ (s.t.dq.getD o.fd.toNat []).length then .stall s
    else
      vecFrame .whole [o.fa.toNat] [] none (fun _ _ => false) (fun s1 =>
        pushData o.fd.toNat (BitVec.ofNat 64 (elemAt (getV s1 o.fa.toNat).toNat 64 (o.fb.toNat % 128))) s1) s) s

/-- `xqget vd, dqk, #w` (R178). -/
def execXqget (o : Q3) (s : State) : Host.Outcome State Fault Refusal :=
  executeWith (some o.fa.toNat) [] .ignore (fun v s =>
    vecFrame .whole [] [o.fd.toNat] none (fun s1 i => i / (64 / min 64 (typeWidth (vtType s1))) == o.fb.toNat) (fun s1 =>
      let old := (getV s1 o.fd.toNat).toNat
      let w := o.fb.toNat
      let x := old - elemAt old 64 w * 2 ^ (64 * w) + v.toNat * 2 ^ (64 * w)
      .ok (markDirty (setV s1 o.fd.toNat (BitVec.ofNat 8192 x)) o.fd.toNat 1)) s) s

/-- `bqput sa` (R179). -/
def execBqput (o : Q3) (s : State) : Host.Outcome State Fault Refusal :=
  accessOp [o.fa] (fun s =>
    if 16 ≤ s.t.bq.length then .stall s
    else .ok (s.updT fun t => { t with bq := t.bq ++ [decide (getS s o.fa ≠ 0)] })) s

/-- `bqx #n` (R180): pops its bit at execute-stream decode; with a 1 the next n execute-stream instructions are dropped. It
takes no place in the vector queue and counts as no commit. -/
def bqxBody (n : Nat) (s : State) : Res :=
  match s.t.bq with
  | [] => .stall s
  | b :: r => .ok (s.updT fun t => { t with bq := r, dropRun := if b then n else t.dropRun })

/-- `bqx #n` (R180, R142). One that follows a vblk stands in the vector queue and is illegal there (R270). -/
def execBqx (o : QN) (s : State) : Host.Outcome State Fault Refusal :=
  if s.t.xctx.isSome ∨ (xBusy s = false ∧ s.t.dropRun = 0 ∧ s.t.lanes.isSome) then executeOp [] .ignore illegal s
  else if xBusy s then goto (enqueue s)
  else if 0 < s.t.dropRun then goto (advance { s.updT fun t => { t with dropRun := t.dropRun - 1 } with stalled := false })
  else
    match bqxBody o.cnt.toNat s with
    | .ok s1 => goto { advance s1 with stalled := false }
    | .trap _ _ | .stall _ => goto (enqueue s)

/-! ## Branches and jumps (R169 to R171) -/

/-- A branch of R169. -/
def branchOp (taken : Word → Word → Bool) (o : WB) (s : State) : Host.Outcome State Fault Refusal :=
  jumpOp [o.fa, o.fb] (fun s =>
    if taken (getS s o.fa) (getS s o.fb) then .ok (jumpTo s (relTarget s.t.pc o.ld.toInt o.hd.toNat))
    else .ok (advance s)) s

def execBeq (o : WB) (s : State) := branchOp (fun a b => a == b) o s
def execBne (o : WB) (s : State) := branchOp (fun a b => a != b) o s
def execBlt (o : WB) (s : State) := branchOp (fun a b => decide (a.toInt < b.toInt)) o s
def execBge (o : WB) (s : State) := branchOp (fun a b => decide (b.toInt ≤ a.toInt)) o s
def execBltn (o : WB) (s : State) := branchOp (fun a b => decide (a.toNat < b.toNat)) o s
def execBgen (o : WB) (s : State) := branchOp (fun a b => decide (b.toNat ≤ a.toNat)) o s

/-- `jal sd, target` (R170). -/
def execJal (o : WJ) (s : State) : Host.Outcome State Fault Refusal :=
  jumpOp [] (fun s =>
    .ok (jumpTo (setS s o.fd (pcAfter s)) (relTarget s.t.pc o.ld.toInt o.hd.toNat))) s

/-- `jalr sd, sa` (R171): the old value of sa is the target. -/
def execJalr (o : Q3) (s : State) : Host.Outcome State Fault Refusal :=
  jumpOp [o.fa] (fun s => .ok (jumpTo (setS s o.fd (pcAfter s)) (getS s o.fa))) s

/-! ## Traps and nop (R191, R192, R194) -/

/-- `tret` (R191): waits for older work of both streams and the matrix queue, then returns. -/
def execTret (s : State) : Host.Outcome State Fault Refusal :=
  bothJump (fun s => if s.t.ctl.inh then .ok (trapReturn (drainMatrix s)) else illegal s) s

/-- `brk` (R192): the breakpoint class, with tpc the next PC. -/
def execBrk (s : State) : Host.Outcome State Fault Refusal :=
  if xBusy s then goto { s with stalled := true }
  else
    let s1 := advance (drainMatrix s)
    goto { takeTrapAt (mkTrap 0x0F 0) s1.t.pc false s1 with stalled := false }

/-- `nop` (R194). A lane line may hold it (R269). -/
def execNop (s : State) : Host.Outcome State Fault Refusal := accessOp [] (fun s => .ok s) s

end Sys2Proof.Machine
end

