-- ==== Sys2Proof/Machine/VectorPerm.lean ====
section
/-! DEFINITION. Permutations: slides, compress, expand, iota, gather, merge and move (R250 to R253). They move bit patterns and
set no flag. -/

namespace Sys2Proof.Machine

/-- The frame of a permutation or scan on groups of size G: `f` gets the elements of va, of the second source and of the old destination,
and vl, and gives the state with the destination written. `rule` is vecFrame's, `tree` says that the sampling check selects a tree node. -/
def groupVec (k : StartRule) (rule : StopRule) (tree usesVa : Bool) (act : State → Nat → Bool)
    (f : State → (Nat → Nat) → (Nat → Nat) → (Nat → Nat) → Nat → State) (o : WV) (s : State) : Host.Outcome State Fault Refusal :=
  executeSrc o.src k (fun p s =>
    let g := vtGrp s
    let w := typeWidth o.ty.toNat
    let va := o.va.toNat
    let vd := o.vd.toNat
    if lengthOk s g w = false ∨ groupOk va g = false ∨ srcOk o.src g = false ∨ groupOk vd g = false then illegal s
    else
      vecFrame rule ((if usesVa then regsOf va g else []) ++ srcRegs o.src g) (regsOf vd g) none act
        (withSrc o.src p o.ty.toNat g fun b s1 =>
          let vl := s1.t.ctl.vl
          if vl = 0 then .ok s1
          else
            let a := getGroup s1 va g
            let d := getGroup s1 vd g
            let s2 := f s1 (elemAt a w) b (elemAt d w) vl
            .ok (if tree then sampledTree s2 w vl o.msk.toNat else sampled s1 s2 w vl (startElem s1) o.msk.toNat)) s) s

/-- A permutation. One that restarts whole performs nothing at a fault. -/
def permVec (k : StartRule) (usesVa : Bool) (act : State → Nat → Bool)
    (f : State → (Nat → Nat) → (Nat → Nat) → (Nat → Nat) → Nat → State) (o : WV) (s : State) : Host.Outcome State Fault Refusal :=
  groupVec k (if k = .elements then .below 1 else .whole) false usesVa act f o s

/-- The plain activity of R235. -/
def plainAct (o : WV) (s : State) (i : Nat) : Bool := decide (i < s.t.ctl.vl) && maskOn s o.msk.toNat i

/-- Writes the group of a permutation by R235. -/
def permWrite (o : WV) (s : State) (start mk : Nat) (res : Nat → Nat) : State :=
  let w := typeWidth o.ty.toNat
  writeGroup s o.vd.toNat (vtGrp s) w w s.t.ctl.vl start mk res

/-- The unsigned offset of a slide (R250). A vb is still a group of vtype's size (R232; log 19, DESIGN CHOICE: R250 reads bits [63:0] only). -/
def slideOffset (o : WV) (s : State) (b : Nat → Nat) : Nat :=
  match o.src with
  | .vec vb _ => (getV s vb.toNat).toNat % 2 ^ 64
  | .scal _ | .imm _ | .queue _ => b 0

/-- `vslup.ty vd, va, src2` (R250). -/
def execVslup (o : WV) (s : State) : Host.Outcome State Fault Refusal :=
  permVec .whole true (plainAct o) (fun s1 a b d vl =>
    let k := min (slideOffset o s1 b) vl
    permWrite o s1 0 o.msk.toNat fun i => if k ≤ i then a (i - k) else d (vl - k + i)) o s

/-- `vsldn.ty vd, va, src2` (R250). -/
def execVsldn (o : WV) (s : State) : Host.Outcome State Fault Refusal :=
  permVec .whole true (plainAct o) (fun s1 a b d vl =>
    let k := min (slideOffset o s1 b) vl
    permWrite o s1 0 o.msk.toNat fun i => if i + k < vl then a (i + k) else d (i + k - vl)) o s

/-- The indices below `n` that a mask enables, ascending. -/
def enabled (s : State) (mk n : Nat) : List Nat := (List.range n).filter (maskOn s mk)

/-- How many indices below `i` a mask enables. -/
def enabledBelow (s : State) (mk i : Nat) : Nat := (List.range i).countP (maskOn s mk)

/-- `vcompress.ty vd, va ?mk` (R251): the packed elements, then the tail by TP. -/
def execVcompress (o : WV) (s : State) : Host.Outcome State Fault Refusal :=
  permVec .whole true (fun s1 i => decide (i < enabledBelow s1 o.msk.toNat s1.t.ctl.vl)) (fun s1 a _ _ vl =>
    let es := enabled s1 o.msk.toNat vl
    let w := typeWidth o.ty.toNat
    writeGroup s1 o.vd.toNat (vtGrp s1) w w es.length 0 0 fun j => a (es.getD j 0)) (aloneSrc o) s

/-- `vexpand.ty vd, va ?mk` (R251). -/
def execVexpand (o : WV) (s : State) : Host.Outcome State Fault Refusal :=
  permVec .whole true (plainAct o) (fun s1 a _ _ _ =>
    permWrite o s1 0 o.msk.toNat fun i => a (enabledBelow s1 o.msk.toNat i)) (aloneSrc o) s

/-- `viota.ty vd ?mk` (R251): every element below vl. -/
def execViota (o : WV) (s : State) : Host.Outcome State Fault Refusal :=
  permVec .whole false (fun s1 i => decide (i < s1.t.ctl.vl)) (fun s1 _ _ _ _ =>
    permWrite o s1 0 0 fun i => enabledBelow s1 o.msk.toNat i % 2 ^ typeWidth o.ty.toNat) (aloneSrc o) s

/-- `vgather.ty vd, va, src2` (R252). An element may need any element of va, so a fill fault in a stream-bound va leaves nothing of it
performed (log 19, DESIGN CHOICE). -/
def execVgather (o : WV) (s : State) : Host.Outcome State Fault Refusal :=
  let rule : StopRule := if s.t.binds.any fun b => !b.store && (regsOf o.va.toNat (vtGrp s)).contains b.vd then .gather else .below 1
  groupVec .elements rule false true (plainAct o) (fun s1 a b _ vl =>
    permWrite o s1 (startElem s1) o.msk.toNat fun i =>
      let x := b i % 2 ^ 64
      if x < vl then a x else 0) o s

/-- `vmerge.ty vd, va, src2` (R253): every element below vl, whatever MP. -/
def execVmerge (o : WV) (s : State) : Host.Outcome State Fault Refusal :=
  permVec .elements true (fun s1 i => decide (i < s1.t.ctl.vl)) (fun s1 a b _ _ =>
    permWrite o s1 (startElem s1) 0 fun i => if maskOn s1 o.msk.toNat i then b i else a i) o s

/-- `vmv.ty vd, src2` (R253). -/
def execVmv (o : WV) (s : State) : Host.Outcome State Fault Refusal :=
  permVec .elements false (plainAct o) (fun s1 _ b _ _ => permWrite o s1 (startElem s1) o.msk.toNat b) o s

end Sys2Proof.Machine
end

