-- ==== Sys2Proof/Machine/VectorRed.lean ====
section
/-! DEFINITION. Reductions and scans on the reduce-and-scan tree (R52 to R54, R254, R255, R266 to R268). -/

namespace Sys2Proof.Machine

/-- The active elements of a source as leaves of the tree; inactive ones are absent (R52). -/
def leavesOf (s : State) (mk vl : Nat) (f : Nat → Nat) : List (Option Nat) :=
  (List.range vl).map fun i => if maskOn s mk i then some (f i) else none

/-- Element `i` of the old destination replaced, the others kept; vdirty for the register that holds it. -/
def setElem (s : State) (vd w i x : Nat) : State :=
  let old := (getV s vd).toNat
  let y := old - elemAt old w i * 2 ^ (w * i) + x % 2 ^ w * 2 ^ (w * i)
  markDirty (setV s vd (BitVec.ofNat 8192 y)) vd 1

/-- What a reduction gives: the start value with the tree's. One that stops short keeps only the flags of the nodes that the elements below
form (R46; log 19, DESIGN CHOICE: those nodes). -/
def treeResult {α : Type} (s : State) (op : α → α → α × Fl) (start : α) (leaves : List (Option α)) : α × Fl :=
  match s.t.limit with
  | none => reduce op start leaves
  | some k => (start, (tree op (leaves.take k)).2)

/-- A reduction on patterns of type TY (R254, R266): element 0 of vd is written whatever vl and the mask hold. With G > 1 it counts as
writing every register of its group for R218 and R219 (log 19, DESIGN CHOICE: the spec speaks of element 0 alone). -/
def redVec (op : State → Nat → Nat → Nat → Nat × Fl) (o : WV) (s : State) : Host.Outcome State Fault Refusal :=
  executeSrc o.src .whole (fun p s =>
    let ty := o.ty.toNat
    let w := typeWidth ty
    let g := vtGrp s
    let va := o.va.toNat
    let vd := o.vd.toNat
    if lengthOk s g w = false ∨ groupOk va g = false ∨ srcOk o.src g = false ∨ groupOk vd g = false then illegal s
    else
      vecFrame .whole (regsOf va g ++ srcRegs o.src g) (regsOf vd g) none (fun _ i => i == 0)
        (withSrc o.src p ty g fun b s1 =>
          let vl := s1.t.ctl.vl
          let a := getGroup s1 va g
          let r := treeResult s1 (op s1 ty) (b 0) (leavesOf s1 o.msk.toNat vl (elemAt a w))
          .ok (sampledTree (raise (setElem s1 vd w 0 r.1) r.2) w vl o.msk.toNat)) s) s

/-- An inclusive scan on patterns of type TY (R255, R267). -/
def scanVec (op : State → Nat → Nat → Nat → Nat × Fl) (o : WV) (s : State) : Host.Outcome State Fault Refusal :=
  groupVec .whole .whole true true (plainAct o) (fun s1 a b _ vl =>
    let mk := o.msk.toNat
    let ls := leavesOf s1 mk vl a
    let p := fun (i : Nat) => scanAt (op s1 o.ty.toNat) (b 0) ls (i + 1)
    let fl := (List.range (topElem s1)).foldl (fun (x : Fl) i => if maskOn s1 mk i then x ||| (p i).2 else x) 0
    raise (permWrite o s1 0 mk fun i => if i < vl ∧ maskOn s1 mk i then (p i).1 else 0) fl) o s

/-- An integer node: an exact result of the values, delivered to the element width (R254). -/
def intNode (f : Int → Int → Int) (sat : Bool → Bool) (s : State) (ty x y : Nat) : Nat × Fl :=
  deliver ty (f (readInt ty x) (readInt ty y)) (typeWidth ty) (sat (vtSat s))

def execVredsum (o : WV) (s : State) := redVec (intNode (fun x y => x + y) id) o s
def execVredsums (o : WV) (s : State) := redVec (intNode (fun x y => x + y) fun _ => true) o s
def execVredmax (o : WV) (s : State) := redVec (intNode max fun _ => false) o s
def execVredmin (o : WV) (s : State) := redVec (intNode min fun _ => false) o s
def execVredand (o : WV) (s : State) := redVec (fun _ _ x y => (x &&& y, 0)) o s
def execVredor (o : WV) (s : State) := redVec (fun _ _ x y => (x ||| y, 0)) o s
def execVredxor (o : WV) (s : State) := redVec (fun _ _ x y => (x ^^^ y, 0)) o s
def execVscan (o : WV) (s : State) := scanVec (intNode (fun x y => x + y) id) o s

/-- The floating-point sum node: one rounding with frm.FRM, overflow by R42. -/
def fpSumNode (s : State) (ty x y : Nat) : Nat × Fl :=
  fAdd (fmtOf ty) (frmMode s) (vtSat s) ((fmtOf ty).value x) ((fmtOf ty).value y)

def execVfredsum (o : WV) (s : State) := redVec fpSumNode o s
def execVfredmax (o : WV) (s : State) := redVec (fun _ ty x y => fMinMax (fmtOf ty) true x y) o s
def execVfredmin (o : WV) (s : State) := redVec (fun _ ty x y => fMinMax (fmtOf ty) false x y) o s
def execVfscan (o : WV) (s : State) := scanVec fpSumNode o s

/-- `vfred2.ty vd, va, vb` (R268): pairs through pair_add, from the start pair in vd. -/
def execVfred2 (o : WV) (s : State) : Host.Outcome State Fault Refusal :=
  executeOp [] .whole (fun s =>
    let ty := o.ty.toNat
    let w := typeWidth ty
    let g := vtGrp s
    let va := o.va.toNat
    let vb := srcNum o.src
    let vd := o.vd.toNat
    if lengthOk s g w = false ∨ groupOk va g = false ∨ groupOk vb g = false ∨ groupOk vd g = false then illegal s
    else
      vecFrame .whole (regsOf va g ++ regsOf vb g) (regsOf vd g) none (fun _ i => decide (i < 2)) (fun s1 =>
        let vl := s1.t.ctl.vl
        let a := getGroup s1 va g
        let b := getGroup s1 vb g
        let d := (getV s1 vd).toNat
        let ls := (List.range vl).map fun i =>
          if maskOn s1 o.msk.toNat i then some (elemAt a w i, elemAt b w i) else none
        let r := treeResult s1 (pairAdd (fmtOf ty)) (elemAt d w 0, elemAt d w 1) ls
        .ok (sampledTree (raise (setElem (setElem s1 vd w 0 r.1.1) vd w 1 r.1.2) r.2) w vl o.msk.toNat)) s) s

end Sys2Proof.Machine
end

