-- ==== Sys2Proof/Machine/Convert.lean ====
section
/-! DEFINITION. Vector conversions and the quantiser (R261 to R265, R47 to R51). -/

namespace Sys2Proof.Machine

/-- An element-wise instruction with one source group of size `g` and width `w` and a destination of its own size and width. -/
def unaryVec (rule : StopRule) (o : WV) (g w gd wd : Nat) (f : State → Nat → Nat → Nat × Fl) (s : State) : Res :=
  let va := o.va.toNat
  let vd := o.vd.toNat
  let mk := o.msk.toNat
  if lengthOk s g w = false ∨ groupOk va g = false ∨ groupOk vd gd = false ∨ gd * 8192 / wd < s.t.ctl.vl then illegal s
  else
    vecFrame rule (regsOf va g) (regsOf vd gd) none (plainAct o) (fun s1 =>
      let vl := s1.t.ctl.vl
      if vl = 0 then .ok s1
      else
        let st := startElem s1
        let a := getGroup s1 va g
        let r := fun i => f s1 i (elemAt a w i)
        let s2 := writeGroup s1 vd gd wd w vl st mk fun i => (r i).1
        .ok (sampled s1 (raise s2 (activeFlags s1 w vl st mk fun i => (r i).2)) w vl st mk)) s

/-- vcvt and vcvtz (R261, R262): `md` gives the rounding mode. -/
def cvtVec (md : State → Nat) (o : WV) (s : State) : Host.Outcome State Fault Refusal :=
  executeOp [] .elements (fun s =>
    let td := o.ty.toNat
    let ts := srcNum o.src
    let ws := typeWidth ts
    let wd := typeWidth td
    let g := vtGrp s
    if 8 < g * wd / ws then illegal s
    else unaryVec (.below 1) o g ws (max 1 (g * wd / ws)) wd (fun s1 _ x => convertElem td ts (md s1) (vtSat s1) x) s) s

def execVcvt (o : WV) (s : State) := cvtVec frmMode o s
def execVcvtz (o : WV) (s : State) := cvtVec (fun _ => 1) o s

/-! ## Scale registers (R49) -/

/-- Block of element `e` for the block length of vtype. -/
def blockOf (s : State) (e : Nat) : Nat := e / 2 ^ (vtBl s + 3)

/-- The limit of R49 on the scale registers an instruction would use. -/
def scaleFits (s : State) (k : Nat) : Bool := s.t.ctl.vl == 0 || decide (k + blockOf s (s.t.ctl.vl - 1) / 64 ≤ 15)

/-- `scale_of` of R49. -/
def scaleOf (s : State) (k e : Nat) : Nat :=
  let j := blockOf s e
  elemAt (getE s (k + j / 64)).toNat 8 (j % 64)

/-- Sets the exponent of a block (R49). -/
def setScale (s : State) (k j x : Nat) : State :=
  let r := k + j / 64
  let old := (getE s r).toNat
  let i := j % 64
  let new := old - elemAt old 8 i * 2 ^ (8 * i) + x % 256 * 2 ^ (8 * i)
  s.updT fun t => { t with e := t.e.setIfInBounds r (BitVec.ofNat 512 new) }

/-- What the quantiser gives for block `j`: none when it has no active element (R51), else its exponent, the mantissa of each
active element, and the flags. -/
def quantBlock (s : State) (m ts mk : Nat) (a : Nat → Nat) (j : Nat) : Option (Nat × List (Nat × Int) × Fl) :=
  let n := 2 ^ (vtBl s + 3)
  let es := ((List.range n).map (j * n + ·)).filter fun e => decide (e < s.t.ctl.vl) && maskOn s mk e
  if es.isEmpty then none
  else
    let q := quantise m (es.map fun e => (fmtOf ts).value (a e))
    some (q.1, es.zip q.2.1, q.2.2)

/-- `vquant.bfpm vd, va, ek` (R264). One that stops short merges the flags of the blocks wholly below (R46; log 19, DESIGN CHOICE). -/
def execVquant (o : WV) (s : State) : Host.Outcome State Fault Refusal :=
  executeOp [] .whole (fun s =>
    let ts := vtType s
    let w := typeWidth ts
    let m := o.ty.toNat - 0x10 + 2
    let g := vtGrp s
    let gb := max 1 (g * 8 / w)
    let va := o.va.toNat
    let vd := o.vd.toNat
    let k := srcNum o.src
    let mk := o.msk.toNat
    if isFp ts = false ∨ lengthOk s g w = false ∨ groupOk va g = false ∨ groupOk vd gb = false ∨ scaleFits s k = false then
      illegal s
    else
      vecFrame .whole (regsOf va g) (regsOf vd gb) none (plainAct o) (fun s1 =>
        let vl := s1.t.ctl.vl
        if vl = 0 then .ok s1
        else
          let a := getGroup s1 va g
          let n := 2 ^ (vtBl s1 + 3)
          let blocks := (List.range (blockOf s1 (vl - 1) + 1)).filterMap fun j =>
            (quantBlock s1 m ts mk (elemAt a w) j).map fun q => (j, q)
          let s2 := blocks.foldl (fun x b => setScale x k b.1 b.2.1) s1
          let d := getGroup s1 vd gb
          let es := (List.range (gb * 1024)).map fun i =>
            match blocks.find? fun b => b.1 == i / n with
            | none => elemAt d 8 i
            | some b => bfpByte ((b.2.2.1.find? fun p => p.1 == i).elim 0 Prod.snd)
          let done := blocks.filter fun b => decide ((b.1 + 1) * n ≤ s1.t.limit.getD 8192)
          let s3 := markDirty (setGroup s2 vd gb (packElems 8 es)) vd gb
          .ok (sampled s1 (raise s3 (done.foldl (fun f b => f ||| b.2.2.2) 0)) w vl 0 mk)) s) s

/-- The value of a bfpm element in a format (R265). -/
def dequant (m ts md : Nat) (sat : Bool) (e x : Nat) : Nat × Fl :=
  let f := fmtOf ts
  match bfpValue m e (bfpMant m x) with
  | .nan _ => (f.qnan, flNV ||| flPZ)
  | .inf n => (f.infinity n, 0)
  | .fin n mant ex => if e = 0 then (0, 0) else f.round md sat n mant ex

/-- `vdeq.bfpm vd, va, ek` (R265). -/
def execVdeq (o : WV) (s : State) : Host.Outcome State Fault Refusal :=
  executeOp [] .whole (fun s =>
    let ts := vtType s
    let w := typeWidth ts
    let m := o.ty.toNat - 0x10 + 2
    let g := vtGrp s
    let k := srcNum o.src
    if isFp ts = false ∨ scaleFits s k = false then illegal s
    else unaryVec .whole o (max 1 (g * 8 / w)) 8 g w (fun s1 i x => dequant m ts (frmMode s1) (vtSat s1) (scaleOf s1 k i) x) s) s

end Sys2Proof.Machine
end

