-- ==== Sys2Proof/Machine/Spill.lean ====
section
/-! DEFINITION. Register spill slots: the form in which vspill, vfill and continuation records hold a vector register (R287 to
R289). -/

namespace Sys2Proof.Machine

/-- The `32 / b` words of `b` bytes of one EG. -/
def egWords (b : Nat) (eg : List Byte) : List Nat := (List.range (32 / b)).map fun k => leNat ((eg.drop (b * k)).take b)

/-- One EG in base-delta form with words of `b` bytes and deltas of `d` bytes (R288, R289); none when a delta does not fit. -/
def egDeltas (b d : Nat) (eg : List Byte) : Option (List Byte) :=
  let ws := egWords b eg
  let w0 := ws.getD 0 0
  let ds := ws.map fun w => sextNat (truncInt ((w : Int) - w0) (8 * b)) (8 * b)
  if ds.all fun x => decide (-(2 ^ (8 * d - 1)) ≤ x ∧ x < 2 ^ (8 * d - 1)) then
    some (natLe b w0 ++ (ds.map fun x => natLe d (truncInt x (8 * d))).flatten)
  else none

/-- The EGs of a register, 32 bytes each (R4). -/
def egsOf (bs : List Byte) : List (List Byte) := (List.range 32).map fun e => (bs.drop (32 * e)).take 32

/-- A register in one base-delta format; none when some EG does not fit. -/
def baseDelta (b d : Nat) (bs : List Byte) : Option (List Byte) := ((egsOf bs).mapM (egDeltas b d)).map List.flatten

/-- The base-delta formats: code, word width, delta width (R288). -/
def deltaFormats : List (Nat × Nat × Nat) := [(0x10, 8, 1), (0x11, 4, 1), (0x12, 8, 2), (0x13, 4, 2)]

/-- The slot's bytes from its format byte and payload. -/
def slotBytes (fmt : Nat) (payload : List Byte) : List Byte :=
  BitVec.ofNat 8 fmt :: (List.replicate 7 0 ++ payload ++ List.replicate (1024 - payload.length) 0)

/-- The 1032 bytes of a register's spill slot: the first format of R289's order that represents it. -/
def spillSlot (r : VReg) : List Byte :=
  let bs := natLe 1024 r.toNat
  if r = 0 then slotBytes 0x01 []
  else
    match deltaFormats.findSome? fun f => (baseDelta f.2.1 f.2.2 bs).map fun p => slotBytes f.1 p with
    | some s => s
    | none => slotBytes 0x00 bs

/-- A register from base-delta payload (R288). -/
def fromDeltas (b d : Nat) (payload : List Byte) : List Byte :=
  let n := 32 / b
  let size := b + n * d
  ((List.range 32).map fun e =>
    let eg := payload.drop (size * e)
    let base := leNat (eg.take b)
    ((List.range n).map fun k =>
      natLe b (truncInt ((base : Int) + sextNat (leNat ((eg.drop (b + d * k)).take d)) (8 * d)) (8 * b))).flatten).flatten

/-- The register a spill slot holds; none when its format byte is undefined (R287, R288). -/
def fillSlot (slot : List Byte) : Option VReg :=
  let fmt := (slot.headD 0).toNat
  let payload := slot.drop 8
  if fmt = 0x00 then some (BitVec.ofNat 8192 (leNat (payload.take 1024)))
  else if fmt = 0x01 then some 0
  else
    match deltaFormats.find? fun f => f.1 == fmt with
    | some f => some (BitVec.ofNat 8192 (leNat (fromDeltas f.2.1 f.2.2 payload)))
    | none => none

end Sys2Proof.Machine
end

