-- ==== Sys2Proof/Machine/VectorMem.lean ====
section
/-! DEFINITION. Vector loads and stores, to memory and to folios, scale registers, spill and fill (R203 to R205, R209 to R215,
R277, R278). -/

namespace Sys2Proof.Machine

/-- vl fits a group of size G at the instruction's own width (R203, R233). -/
def memFits (s : State) (w : Nat) : Bool := decide (s.t.ctl.vl ≤ vtGrp s * 8192 / w)

/-- What a loop over elements gives: the elements read, packed at their width, the trap that ended it with its element, and the
state. -/
structure Loaded where
  packed : Nat
  bad : Option (Nat × Trap)
  s : State

/-- Loads the active elements from element `i` on, `n` of them, in ascending order (R203). -/
def loadLoop (w : Nat) (act : Nat → Bool) (load : State → Nat → Got Nat) : Nat → Nat → State → Loaded
  | 0, _, s => { packed := 0, bad := none, s := s }
  | n + 1, i, s =>
    if act i then
      match load s i with
      | .bad t s1 => { packed := 0, bad := some (i, t), s := s1 }
      | .ok x s1 =>
        let r := loadLoop w act load n (i + 1) s1
        { r with packed := x % 2 ^ w + 2 ^ w * r.packed }
    else
      let r := loadLoop w act load n (i + 1) s
      { r with packed := 2 ^ w * r.packed }

/-- Stores the active elements from element `i` on, `n` of them (R203, R204). -/
def storeLoop (act : Nat → Bool) (store : State → Nat → Got Unit) : Nat → Nat → State → Res
  | 0, _, s => .ok s
  | n + 1, i, s =>
    if act i then
      match store s i with
      | .bad t s1 => .trap t s1
      | .ok _ s1 => storeLoop act store n (i + 1) s1
    else storeLoop act store n (i + 1) s

/-- A vector load of elements of type width `w` into VD (R203): `load` reads element i. A geometry load (`geo`) runs only on its catalogue's
home package (R318). -/
def loadVec (geo : Bool) (vd mk w : Nat) (srcs : List Nat) (load : State → Nat → Got Nat) (s : State) : Res :=
  let g := vtGrp s
  if memFits s w = false ∨ groupOk vd g = false then illegal s
  else
    vecFrame (.below 1) srcs (regsOf vd g) none (fun x i => decide (i < x.t.ctl.vl) && maskOn x mk i) (fun s1 =>
      let vl := s1.t.ctl.vl
      let st := startElem s1
      if geo && (catalogue s1).isNone then .trap (catTrap st) s1
      else
        let r := loadLoop w (maskOn s1 mk) load (topElem s1 - st) st s1
        let x := fun i => elemAt r.packed w (i - st)
        match r.bad with
        | some (k, t) => .trap t (placePart r.s vd g w st k (maskOn s1 mk) x)
        | none => if vl = 0 then .ok r.s else .ok (writeGroup r.s vd g w w vl st mk x)) s

/-- A vector store of VD's elements of width `w` (R203, R204): `store` writes element i. -/
def storeVec (vd mk w : Nat) (srcs : List Nat) (store : State → Nat → Nat → Got Unit) (s : State) : Res :=
  let g := vtGrp s
  if memFits s w = false ∨ groupOk vd g = false then illegal s
  else
    vecFrame (.below 1) (regsOf vd g ++ srcs) [] none (fun _ _ => false) (fun s1 =>
      let st := startElem s1
      let x := getGroup s1 vd g
      storeLoop (maskOn s1 mk) (fun a i => store a i (elemAt x w i)) (topElem s1 - st) st s1) s

/-- One element read at its address, aligned to its size; an fpos value is retagged (R211). -/
def loadOne (ty : Nat) (va : Word) (s : State) (i : Nat) : Got Nat :=
  let z := typeWidth ty / 8
  match loadAt s va z z i with
  | .bad t s1 => .bad t s1
  | .ok x s1 => if ty = 0x0E then retag s1 i x else .ok x s1

/-- One element written at its address, aligned to its size. -/
def storeOne (ty : Nat) (va : Word) (s : State) (i x : Nat) : Got Unit :=
  let z := typeWidth ty / 8
  storeAt s va z z i x

/-- An access of the execute stream waits for posted matrix instructions that touch memory (R300). -/
def memOp (rd : List (BitVec 5)) (k : StartRule) (f : State → Res) (s : State) : Host.Outcome State Fault Refusal :=
  executeOp rd k (fun s => f (settleMatrix s)) s

/-- A load whose element i lies at `addr s i` (R209). -/
def loadForm (addr : State → Nat → Word) (o : WM) (s : State) : Host.Outcome State Fault Refusal :=
  memOp [o.sa, o.xb] .elements (fun s =>
    loadVec (o.ty == 0x0E) o.vd.toNat o.msk.toNat (typeWidth o.ty.toNat) [] (fun a i => loadOne o.ty.toNat (addr s i) a i) s) s

/-- A store whose element i lies at `addr s i` (R209). -/
def storeForm (addr : State → Nat → Word) (o : WM) (s : State) : Host.Outcome State Fault Refusal :=
  memOp [o.sa, o.xb] .elements (fun s =>
    storeVec o.vd.toNat o.msk.toNat (typeWidth o.ty.toNat) [] (fun a i x => storeOne o.ty.toNat (addr s i) a i x) s) s

/-- a + i × z. -/
def unitAddr (o : WM) (s : State) (i : Nat) : Word := getS s o.sa + BitVec.ofNat 64 (i * (typeWidth o.ty.toNat / 8))

/-- a + i × sx(b). -/
def strideAddr (o : WM) (s : State) (i : Nat) : Word := getS s o.sa + BitVec.ofNat 64 i * getS s o.xb

/-- a + idx(i): the low min(z, 8) bytes of element i of vb (R209). -/
def indexAddr (o : WM) (s : State) (i : Nat) : Word :=
  let w := typeWidth o.ty.toNat
  getS s o.sa + BitVec.ofNat 64 (elemAt (getGroup s o.xb.toNat (vtGrp s)) w i % 2 ^ 64)

def execVld (o : WM) (s : State) := loadForm (unitAddr o) o s
def execVst (o : WM) (s : State) := storeForm (unitAddr o) o s
def execVlds (o : WM) (s : State) := loadForm (strideAddr o) o s
def execVsts (o : WM) (s : State) := storeForm (strideAddr o) o s

/-- The group of index registers of vldx and vstx (R210, R232). -/
def indexed (o : WM) (f : State → Res) (s : State) : Res :=
  if groupOk o.xb.toNat (vtGrp s) = false then illegal s else f s

/-- `vldx.ty vd, (sa), vb` (R209, R210). -/
def execVldx (o : WM) (s : State) : Host.Outcome State Fault Refusal :=
  memOp [o.sa] .elements (indexed o fun s =>
    loadVec (o.ty == 0x0E) o.vd.toNat o.msk.toNat (typeWidth o.ty.toNat) (regsOf o.xb.toNat (vtGrp s))
      (fun a i => loadOne o.ty.toNat (indexAddr o a i) a i) s) s

/-- `vstx.ty vs, (sa), vb` (R209, R210). -/
def execVstx (o : WM) (s : State) : Host.Outcome State Fault Refusal :=
  memOp [o.sa] .elements (indexed o fun s =>
    storeVec o.vd.toNat o.msk.toNat (typeWidth o.ty.toNat) (regsOf o.xb.toNat (vtGrp s))
      (fun a i x => storeOne o.ty.toNat (indexAddr o a i) a i x) s) s

/-! ## Byte strings (R212) -/

/-- The index of a trap's byte as its element: bytes are performed only for elements below the failing one (R203, R212). -/
def execVldu (o : WM) (s : State) : Host.Outcome State Fault Refusal :=
  memOp [o.sa] .elements (fun s =>
    let z := typeWidth o.ty.toNat / 8
    let g := vtGrp s
    let vd := o.vd.toNat
    let mk := o.msk.toNat
    let a := getS s o.sa
    if memFits s (8 * z) = false ∨ groupOk vd g = false then illegal s
    else
      vecFrame (.below 1) [] (regsOf vd g) none (fun x i => decide (i < x.t.ctl.vl)) (fun s1 =>
        let nb := topElem s1 * z
        let st := startElem s1 * z
        let r := loadLoop 8 (maskOn s1 mk) (fun b j => loadAt b (a + BitVec.ofNat 64 j) 1 1 (j / z)) (nb - st) st s1
        let x := fun j => elemAt r.packed 8 (j - st)
        match r.bad with
        | some (j, t) => .trap t (placePart r.s vd g 8 st (j / z * z) (maskOn s1 mk) x)
        | none =>
          if s1.t.limit.isSome then .ok (placePart r.s vd g 8 st nb (maskOn s1 mk) x)
          else if nb = 0 then .ok r.s
          else
            let old := getGroup r.s vd g
            let es := (List.range (g * 1024)).map fun j =>
              if j < st then elemAt old 8 j
              else if j < nb then (if maskOn s1 mk j then x j else elemAt old 8 j)
              else if vtTp s1 then 0 else elemAt old 8 j
            .ok (markDirty (setGroup r.s vd g (packElems 8 es)) vd g)) s) s

/-- The keys of the active bytes of a vstu from byte `j` on, and the byte whose check failed, if any. -/
def checkBytes (a : Word) (z : Nat) (act : Nat → Bool) : Nat → Nat → State → List (Nat × Nat) × Option (Nat × Trap) × State
  | 0, _, s => ([], none, s)
  | n + 1, j, s =>
    if act j then
      match keyOf s .store (a + BitVec.ofNat 64 j) 1 (j / z) with
      | .bad t s1 => ([], some (j, t), s1)
      | .ok k s1 =>
        let r := checkBytes a z act n (j + 1) s1
        ((j, k) :: r.1, r.2)
    else checkBytes a z act n (j + 1) s

/-- `vstu.ty vs, (sa)` (R212): a byte that fails its check leaves its whole element unwritten (R203). -/
def execVstu (o : WM) (s : State) : Host.Outcome State Fault Refusal :=
  memOp [o.sa] .elements (fun s =>
    let z := typeWidth o.ty.toNat / 8
    let g := vtGrp s
    let vd := o.vd.toNat
    let mk := o.msk.toNat
    if memFits s (8 * z) = false ∨ groupOk vd g = false then illegal s
    else
      vecFrame (.below 1) (regsOf vd g) [] none (fun _ _ => false) (fun s1 =>
        let nb := topElem s1 * z
        let st := startElem s1 * z
        let x := getGroup s1 vd g
        let r := checkBytes (getS s o.sa) z (maskOn s1 mk) (nb - st) st s1
        let lim := match r.2.1 with
          | some (j, _) => j / z * z
          | none => nb
        let bs := r.1.filter fun p => decide (p.1 < lim)
        let s2 := storeKeys r.2.2 (bs.map Prod.snd) (bs.map fun p => BitVec.ofNat 8 (elemAt x 8 p.1))
        match r.2.1 with
        | some (_, t) => .trap t s2
        | none => .ok s2) s) s

/-! ## Bit planes (R160, R213) -/

/-- The address of the plane byte that holds bit `j` of the mantissa of element `i`. -/
def planeAddr (a : Word) (m i j : Nat) : Word := a + BitVec.ofNat 64 (i / 256 * (32 * m) + 32 * j + i % 256 / 8)

/-- The mantissa bits of element `i`, plane by plane. -/
def loadPlanes (a : Word) (m i : Nat) : Nat → State → Got Nat
  | 0, s => .ok 0 s
  | j + 1, s =>
    match loadPlanes a m i j s with
    | .bad t s1 => .bad t s1
    | .ok x s1 =>
      match loadAt s1 (planeAddr a m i j) 1 1 i with
      | .bad t s2 => .bad t s2
      | .ok b s2 => .ok (if b.testBit (i % 8) then x + 2 ^ j else x) s2

/-- A block base that is not 32-byte aligned (R209): the misaligned fault at element `i`, behind the canonical check of R202. -/
def planeCheck (a : Word) (i : Nat) (s : State) (f : State → Got α) : Got α :=
  if canonical a = false then .bad (addrTrap 0x04 a i) s
  else if a.toNat % 32 ≠ 0 then .bad (addrTrap 0x03 a i) s else f s

/-- `vldbp.bfpm vd, (sa)` (R213): each active element as a sign-extended byte. -/
def execVldbp (o : WM) (s : State) : Host.Outcome State Fault Refusal :=
  memOp [o.sa] .elements (fun s =>
    let m := o.ty.toNat - 0x10 + 2
    let a := getS s o.sa
    loadVec false o.vd.toNat o.msk.toNat 8 [] (fun x i =>
      planeCheck a i x fun x1 =>
        match loadPlanes a m i m x1 with
        | .bad t x2 => .bad t x2
        | .ok v x2 => .ok (bfpByte (bfpMant m v)) x2) s) s

/-- Rewrites plane bytes at checked keys: bit `b` of the byte at each key becomes the mantissa's bit (R213). -/
def setPlaneBits (s : State) (b v : Nat) (keys : List Nat) : State :=
  (keys.mapIdx fun j k => (j, k)).foldl (fun (x : State) (p : Nat × Nat) =>
    let old := (x.t.readByte p.2).toNat
    let cleared := if old.testBit b then old - 2 ^ b else old
    let new := if v.testBit p.1 then cleared + 2 ^ b else cleared
    x.updT fun t => t.storeByte p.2 (BitVec.ofNat 8 new) p.2) s

/-- Writes the low m bits of element `i`'s mantissa into its planes, every plane byte checked first; the other bits of a byte are
those the thread reads. -/
def storePlanes (a : Word) (m : Nat) (s : State) (i v : Nat) : Got Unit :=
  planeCheck a i s fun s =>
    match checkStores i ((List.range m).map (planeAddr a m i)) s with
    | .bad t s1 => .bad t s1
    | .ok ks s1 =>
      match ks.findIdx? fun k => poisoned s1 k 1 with
      | some j => .bad (addrTrap 0x0E (planeAddr a m i j) i) s1
      | none => .ok () (setPlaneBits s1 (i % 8) v ks)

/-- `vstbp.bfpm vs, (sa)` (R213): the active elements, then mantissa 0 at every position from vl to the end of the plane block
that holds element vl − 1. -/
def execVstbp (o : WM) (s : State) : Host.Outcome State Fault Refusal :=
  memOp [o.sa] .elements (fun s =>
    let m := o.ty.toNat - 0x10 + 2
    let g := vtGrp s
    let vd := o.vd.toNat
    let a := getS s o.sa
    if memFits s 8 = false ∨ groupOk vd g = false then illegal s
    else
      vecFrame (.below 1) (regsOf vd g) [] none (fun _ _ => false) (fun s1 =>
        let vl := s1.t.ctl.vl
        let st := startElem s1
        let x := getGroup s1 vd g
        let top := if vl = 0 then 0 else ((vl - 1) / 256 + 1) * 256
        (storeLoop (maskOn s1 o.msk.toNat) (fun b i => storePlanes a m b i (elemAt x 8 i)) (topElem s1 - st) st s1).bind
          fun s2 =>
            if s1.t.limit.isSome then .ok s2 else storeLoop (fun _ => true) (fun b i => storePlanes a m b i 0) (top - vl) vl s2) s) s

/-! ## Scale registers (R214) -/

/-- The number of blocks below vl. -/
def scaleBlocks (s : State) : Nat := if s.t.ctl.vl = 0 then 0 else blockOf s (s.t.ctl.vl - 1) + 1

/-- The first scale entry that a restart at element vstart acts on. -/
def firstScale (s : State) : Nat := (startElem s + 2 ^ (vtBl s + 3) - 1) / 2 ^ (vtBl s + 3)

/-- `sldsc ek, (sa), sb` (R214). -/
def execSldsc (o : WM) (s : State) : Host.Outcome State Fault Refusal :=
  memOp [o.sa, o.xb] .elements (fun s =>
    let k := o.vd.toNat
    let n := 2 ^ (vtBl s + 3)
    if scaleFits s k = false then illegal s
    else
      storeLoop (fun _ => true) (fun b j =>
        match loadAt b (getS s o.sa + BitVec.ofNat 64 j * getS s o.xb) 1 1 (j * n) with
        | .bad t b1 => .bad t b1
        | .ok x b1 => .ok () (setScale b1 k j x)) (scaleBlocks s - firstScale s) (firstScale s) s) s

/-- `sstsc ek, (sa), sb` (R214). -/
def execSstsc (o : WM) (s : State) : Host.Outcome State Fault Refusal :=
  memOp [o.sa, o.xb] .elements (fun s =>
    let k := o.vd.toNat
    let n := 2 ^ (vtBl s + 3)
    if scaleFits s k = false then illegal s
    else
      storeLoop (fun _ => true) (fun b j =>
        storeAt b (getS s o.sa + BitVec.ofNat 64 j * getS s o.xb) 1 1 (j * n) (elemAt (getE s (k + j / 64)).toNat 8 (j % 64)))
        (scaleBlocks s - firstScale s) (firstScale s) s) s

/-! ## Spill and fill (R277, R278) -/

/-- A slot address that is not 8-byte aligned takes the misaligned fault. -/
def slotAligned (a : Word) (f : State → Res) (s : State) : Res :=
  if canonical a ∧ a.toNat % 8 ≠ 0 then .trap (addrTrap 0x03 a 0) s else f s

/-- `vspill vs, (sa)` (R277): every byte checked before any is written. -/
def execVspill (o : WM) (s : State) : Host.Outcome State Fault Refusal :=
  memOp [o.sa] .whole (fun s =>
    let a := getS s o.sa
    vecFrame .whole [o.vd.toNat] [] none (fun _ _ => false) (slotAligned a fun s1 =>
      match checkStores 0 (byteAddrs a 1032) s1 with
      | .bad t s2 => .trap t s2
      | .ok ks s2 => .ok (storeKeys s2 ks (spillSlot (getV s2 o.vd.toNat)))) s) s

/-- `vfill vd, (sa)` (R278): no binding of either kind may hold vd. -/
def execVfill (o : WM) (s : State) : Host.Outcome State Fault Refusal :=
  memOp [o.sa] .whole (fun s =>
    let a := getS s o.sa
    let vd := o.vd.toNat
    if s.t.binds.any fun b => decide (b.vd ≤ vd ∧ vd < b.vd + b.regs) then illegal s
    else
      vecFrame .whole [] [vd] none (fun _ _ => true) (slotAligned a fun s1 =>
        match loadBytesAt (fun _ => 0) a 1032 0 s1 with
        | .bad t s2 => .trap t s2
        | .ok bs s2 =>
          match fillSlot bs with
          | none => illegalWith ((bs.headD 0).setWidth 64) s2
          | some x => .ok (markDirty (setV s2 vd x) vd 1)) s) s

/-! ## Folio loads and stores (R144, R145, R215) -/

/-- off(i) of R215, an exact integer. -/
def folioOff (o : LF) (s : State) (i : Nat) : Int :=
  let z : Int := ((typeWidth o.wm.ty.toNat / 8 : Nat) : Int)
  let st : Int := if o.wm.xb = 0 then z else (getS s o.wm.xb).toInt
  (o.foff.toNat : Int) + (getS s o.wm.sa).toInt + (i : Int) * st

/-- R215's checks of one element: bounds, then alignment; the byte offset within the folio. -/
def folioCheck (f : FolioEntry) (off : Int) (z i : Nat) : Except Trap Nat :=
  if off < 0 ∨ (f.size : Int) < off + z then
    .error { cls := 0x04, tval := BitVec.ofInt 64 off, telem := i, va := false }
  else if off % z ≠ 0 then .error { cls := 0x03, tval := BitVec.ofInt 64 off, telem := i, va := false }
  else .ok off.toNat

/-- The first active element from vstart on, 0 where there is none (R203). -/
def firstActive (s : State) (mk : Nat) : Nat :=
  ((List.range s.t.ctl.vl).find? fun i => decide (startElem s ≤ i) && maskOn s mk i).getD 0

/-- Names the folio of a vldf or vstf: a wait while it fills, the folio unbound fault at the first active element, Illegal
Instruction for a space the instruction may not name (R144, R150, R203, R215; log 19). -/
def withFolio (m : WM) (h : Nat) (ok : Nat → Bool) (f : FolioEntry → State → Res) (s : State) : Res :=
  if memFits s (typeWidth m.ty.toNat) = false ∨ groupOk m.vd.toNat (vtGrp s) = false then illegal s
  else
    match nameFolio s h with
    | .unbound => .trap (unboundTrap h (firstActive s m.msk.toNat)) s
    | .filling => .stall s
    | .ready e => if ok e.space then f e s else illegal s

/-- `vldf.ty vd, fref, sa [, sb]` (R215). -/
def execVldf (o : LF) (s : State) : Host.Outcome State Fault Refusal :=
  memOp [o.wm.sa, o.wm.xb] .elements (withFolio o.wm o.fh.toNat (fun sp => sp != 0) fun f s =>
    let ty := o.wm.ty.toNat
    let z := typeWidth ty / 8
    loadVec (o.wm.ty == 0x0E) o.wm.vd.toNat o.wm.msk.toNat (8 * z) [] (fun x i =>
      match folioCheck f (folioOff o s i) z i with
      | .error t => .bad t x
      | .ok d =>
        if poisoned x (f.key d) z then .bad { cls := 0x0E, tval := BitVec.ofNat 64 d, telem := i, va := false } x
        else
          let v := leNat (x.t.readBytes z (f.key d))
          if ty = 0x0E then retag x i v else .ok v x) s) s

/-- `vstf.ty vs, fref, sa [, sb]` (R215): the entry is no longer clean (R148). -/
def execVstf (o : LF) (s : State) : Host.Outcome State Fault Refusal :=
  memOp [o.wm.sa, o.wm.xb] .elements (withFolio o.wm o.fh.toNat (fun sp => sp == 1) fun f s =>
    let z := typeWidth o.wm.ty.toNat / 8
    storeVec o.wm.vd.toNat o.wm.msk.toNat (8 * z) [] (fun x i v =>
      match folioCheck f (folioOff o s i) z i with
      | .error t => .bad t x
      | .ok d =>
        let k := f.key d
        .ok () ((soilFolio x f).updT fun t => t.storeBytes k k (natLe z v))) s) s

end Sys2Proof.Machine
end

