-- ==== Sys2Proof/Machine/Streams.lean ====
section
/-! DEFINITION. Stream bindings (R216 to R220, R353). -/

namespace Sys2Proof.Machine

/-- R216's checks of a descriptor: none when it is good, else the trap's value (none inside for the head half-word). -/
def descBad (d : List Word) : Option (Option Word) :=
  let w0 := d.getD 0 0
  let nd := (w0.extractLsb' 8 3).toNat
  if w0.extractLsb' 11 53 ≠ 0 ∨ w0.extractLsb' 5 3 ≠ 0 ∨ nd = 0 ∨ 5 < nd ∨ 0x0E < (w0.extractLsb' 0 5).toNat then some (some w0)
  else if (List.range nd).any fun k =>
      let w := d.getD (5 + k) 0
      w.extractLsb' 32 32 != 0 || w.extractLsb' 0 32 == 0 then some none
  else if d.getD 15 0 ≠ 0 then some none
  else none

/-- The kind of a type for R217: signed, unsigned, floating-point, fpos. -/
def typeKind (ty : Nat) : Nat :=
  if ty ≤ 0x03 then 0 else if ty ≤ 0x07 then 1 else if ty ≤ 0x0D then 2 else if ty = 0x0E then 3 else 4

/-- R217's third check: the stream's TYPE against vtype's element type. -/
def streamTypeOk (store : Bool) (ty ety : Nat) : Bool :=
  ty == ety || (store && typeKind ty == typeKind ety && decide (typeKind ty ≤ 2) && decide (typeWidth ty ≤ typeWidth ety))

/-- Ends the binding of a register (R220): every chunk it produced has been stored with its producer. -/
def unbind (s : State) (vd : Nat) : State := s.updT fun t => { t with binds := t.binds.filter fun b => b.vd != vd }

/-- Binds a register after R217's checks in their order. Posted matrix instructions that write it are older, and complete first (R299). -/
def bindStream (store : Bool) (vd mk : Nat) (d : List Word) (s : State) : Res :=
  let s1 := unbind s vd
  let ty := ((d.getD 0 0).extractLsb' 0 5).toNat
  match descBad d with
  | some (some v) => illegalWith v s1
  | some none => illegal s1
  | none =>
    if s1.t.ctl.vl = 0 ∨ 8 ≤ s1.t.binds.length ∨ groupOk vd (vtGrp s1) = false ∨
        (mk ≠ 0 ∧ s1.t.binds.any fun b => b.live == mk) then illegal s1
    else if streamTypeOk store ty (vtType s1) = false then illegalWith (BitVec.ofNat 64 ty) s1
    else
      let b : Binding :=
        { vd := vd, store := store, ety := vtType s1, desc := d, c := s1.t.ctl.vl, q := 0, live := mk, filled := false,
          landed := 0, bad := none, geom := 0, retags := [] }
      .ok (beginChunk ((settleRegs s1 (regsOf vd b.regs)).updT fun t => { t with binds := b :: t.binds }) b)

/-- vstream and vstream.st (R217): they wait as mfc does, and read the descriptor as an ordinary load. -/
def streamOp (store : Bool) (o : WM) (s : State) : Host.Outcome State Fault Refusal :=
  accessOp [o.sa] (fun s =>
    if xBusy s then .stall s
    else
      let s1 := settleMatrix s
      let a := getS s o.sa
      if canonical a ∧ a.toNat % 64 ≠ 0 then .trap (addrTrap 0x03 a 0) s1
      else
        match loadWords a 16 0 s1 with
        | .bad t s2 => .trap t s2
        | .ok d s2 => bindStream store o.vd.toNat o.xb.toNat d s2) s

/-- `vstream vd, (sa), mk` (R217, R218). -/
def execVstream (o : WM) (s : State) := streamOp false o s

/-- `vstream.st vd, (sa), mk` (R217, R219). -/
def execVstreamSt (o : WM) (s : State) := streamOp true o s

/-- `vsunbind vd` (R220): at its place in program order, so after the older execute-stream instructions. -/
def execVsunbind (o : WM) (s : State) : Host.Outcome State Fault Refusal :=
  accessOp [] (fun s => if xBusy s then .stall s else .ok (unbind s o.vd.toNat)) s

/-- STREAM_CHUNK_FILL (R218): the current chunk of a load binding is read into its register, before a consumer asks for it; its
elements wait for older execute-side accesses (R350). -/
def execStreamChunkFill (vd : BitVec 5) (s : State) : Host.Outcome State Fault Refusal :=
  match s.t.binds.find? fun b => b.vd == vd.toNat && !b.store && !b.filled with
  | none => happening s
  | some b => if xBusy s then happening s else happening (fillChunk (settleMatrix (settleRegs s (regsOf b.vd b.regs))) b)

/-- STREAM_EG_LANDED (R218): the landed bit of an EG whose elements have all arrived. -/
def execStreamEgLanded (vd : BitVec 5) (eg : Nat) (s : State) : Host.Outcome State Fault Refusal :=
  happening (updBinding s vd.toNat fun b =>
    let whole : Bool := match b.bad with
      | some (i, _) => decide (eg < i / b.epg)
      | none => true
    if b.filled ∧ eg < 32 ∧ whole then { b with landed := b.landed ||| BitVec.ofNat 32 (2 ^ eg) } else b)

end Sys2Proof.Machine
end

