-- ==== Sys2Proof/Machine/Folios.lean ====
section
/-! DEFINITION. Folio-table entries: filling, release, write-back, and the folio instructions (R146 to R151, R221, R357, R469). -/

namespace Sys2Proof.Machine

/-! ## Entries -/

/-- An entry's fields from a folio list entry (R147). -/
structure FolioSpec where
  src : Nat
  sizek : Nat
  basek : Nat
  drain : Bool
  keep : Bool
  space : Nat
  deriving DecidableEq, Repr

/-- Reads a folio list entry (R147). -/
def FolioSpec.dec (w0 w1 : Word) : FolioSpec where
  src := w0.toNat
  sizek := (w1.extractLsb' 32 12).toNat
  basek := (w1.extractLsb' 8 12).toNat
  drain := w1.getLsbD 3
  keep := w1.getLsbD 2
  space := (w1.extractLsb' 0 2).toNat

/-- R147's checks of a list entry that do not look at the core. -/
def specOk (w0 w1 : Word) : Bool :=
  let f := FolioSpec.dec w0 w1
  w1.extractLsb' 44 20 == 0 && w1.extractLsb' 20 12 == 0 && w1.extractLsb' 4 4 == 0 && w0.extractLsb' 0 10 == 0 &&
    f.sizek != 0 && !(f.drain && f.src == 0) && f.space != 3

/-- The entry fits its space on a core (R144, R147). -/
def specFits (core : Nat) (f : FolioSpec) : Bool := decide ((f.basek + f.sizek) * 1024 ≤ spaceSize core f.space)

/-- Two ranges of one space overlap. -/
def rangesMeet (sp b n sp' b' n' : Nat) : Bool := sp == sp' && decide (b < b' + n' ∧ b' < b + n)

def FolioEntry.meets (e : FolioEntry) (f : FolioSpec) : Bool := rangesMeet e.space e.basek e.sizek f.space f.basek f.sizek

/-- Equal SPACE, BASEK, SIZEK and FROM (R151, R357). -/
def FolioEntry.same (e : FolioEntry) (f : FolioSpec) : Bool :=
  e.space == f.space && e.basek == f.basek && e.sizek == f.sizek && e.src == f.src

/-- An entry retained without owner (R148). -/
def FolioEntry.retained (e : FolioEntry) : Bool := e.state == .ready && e.owners.isEmpty

/-- The entries of a core. -/
def coreFolios (s : State) (core : Nat) : List FolioEntry := s.folios.filter fun e => e.core == core

/-- Removes an entry: it becomes empty (R148). -/
def dropFolio (s : State) (core index : Nat) : State :=
  { s with folios := s.folios.filter fun e => !(e.core == core && e.index == index) }

/-- A free index of a core's folio table of 64 entries (R146). -/
def freeIndex (s : State) (core : Nat) : Option Nat :=
  (List.range 64).find? fun i => (coreFolios s core).all fun e => e.index != i

/-! ## Filling (R149) -/

/-- What a fill reads from FROM on, KiB by KiB, with the current thread's snapshot and own writes: the bytes, or the class and
the first failing address. -/
def fillBytes (va : Nat) : Nat → State → Except (Nat × Nat) (List Byte) × State
  | 0, s => (.ok [], s)
  | n + 1, s =>
    match translate s { me s with core := none } .load (BitVec.ofNat 64 va) with
    | .fault c s1 => (.error (c, va), s1)
    | .ok k s1 =>
      match guardedIn s1 s1.t.part (pkgOf s1.t.core) va 1024 with
      | some a => (.error (0x04, a), s1)
      | none =>
        let s2 := fillBlock s1 k
        match (List.range 1024).find? fun i => poisoned s2 (k + i) 1 with
        | some i => (.error (0x0E, va + i), s2)
        | none =>
          let r := fillBytes (va + 1024) n s2
          match r.1 with
          | .ok bs => (.ok (s2.t.readBytes 1024 k ++ bs), r.2)
          | .error e => (.error e, r.2)

/-- Starts the fill of an entry that is about to be in state filling: it is no longer what a view delivered (R412). -/
def startFill (s : State) (e : FolioEntry) : State :=
  let r := if e.src = 0 then (Except.ok (List.replicate e.size 0), s) else fillBytes e.src e.sizek s
  let e' := match r.1 with
    | .ok bs => { e with state := FolioState.filling, view := none, data := some bs, bad := none }
    | .error x => { e with state := FolioState.filling, view := none, data := none, bad := some x }
  let s1 := dropFolio r.2 e.core e.index
  { s1 with folios := e' :: s1.folios }

/-- The bytes of a folio by key. -/
def FolioEntry.cells (e : FolioEntry) (bs : List Byte) : List (Nat × Byte) := bs.mapIdx fun i b => (e.key 0 + i, b)

/-- A thread without its writes to an entry's range: what it stored there is older than the fill. -/
def Thread.forget (t : Thread) (e : FolioEntry) : Thread :=
  if t.core = e.core then { t with own := t.own.filter fun o => !(decide (e.key 0 ≤ o.key ∧ o.key < e.key 0 + e.size)) } else t

/-- The fill has landed (R148): the bytes stand in the core's folios and belong to the owners' snapshots. Stores to the range that are
older than the fill are gone. -/
def landFill (s : State) (e : FolioEntry) (bs : List Byte) : State :=
  let n := s.pubs + 1
  let cells := e.cells bs
  let s1 := cells.foldl (fun a p => homeWrite a p.1 p.2 n) { s with pubs := n }
  let see := fun (t : Thread) =>
    if e.owners.contains t.uid ∧ t.core = e.core then
      let r := cells.foldl (fun a p => snapPut a p.1 p.2 n) (t.snap, t.snapSeq)
      { t with snap := r.1, snapSeq := r.2 }
    else t
  let s2 := updFolio s1 e.core e.index fun x => { x with state := .ready, clean := true, data := none }
  { s2 with t := see (s2.t.forget e), parked := s2.parked.map fun t => see (t.forget e) }

/-! ## Write-back (R150, R469) -/

/-- The key of each KiB of an entry's FROM range, checked as stores of whoever `w` is (R469): the keys, with the first fault. -/
def drainKeys (w : Who) (va : Nat) : Nat → State → List (Option Nat) × Option (Nat × Nat) × State
  | 0, s => ([], none, s)
  | n + 1, s =>
    match translate s w .store (BitVec.ofNat 64 va) with
    | .fault c s1 =>
      let r := drainKeys w (va + 1024) n s1
      (none :: r.1, some (c, va), r.2.2)
    | .ok k s1 =>
      let r := drainKeys w (va + 1024) n (fillBlock s1 k)
      (some k :: r.1, ((guardedIn s1 w.part w.pkg va 1024).map fun a => (0x04, a)).orElse fun _ => r.2.1, r.2.2)

/-- A write-back's bytes stand among its writer's writes, so that a wider publication of the writer carries them on (R366), beside a
write of the agent itself that its reads still return (R349). -/
def Thread.addWrites (t : Thread) (ws : List OwnWrite) : Thread :=
  { t with own := ws ++ t.own.filter fun o => !(o.seen && ws.any fun w => w.key == o.key) }

/-- Bytes that a write-back publishes at a scope (R150, R361), for a thread and its core and partition. -/
def publishBytes (s : State) (uid core part scope : Nat) (kvs : List (Nat × Byte)) : State :=
  if kvs.isEmpty then s
  else
    let n := s.pubs + 1
    let s1 := kvs.foldl (fun a p => pointWrite a core part scope p.1 p.2 (p.1 / 8 * 8) n .store) { s with pubs := n }
    let s2 := if 4 ≤ scope then
        ((kvs.map fun p => p.1 / 128).dedup).foldl (fun a l => promoteLine a (dieOf core) l) s1
      else s1
    let s3 := if 4 ≤ scope then s2
      else updAnyThread s2 uid fun t => t.addWrites (kvs.map fun p =>
        { key := p.1, val := p.2, unit := p.1 / 8 * 8, seq := n, scope := scope, seen := true })
    publishMasters s3 (pkgOf core) (dieOf core) scope (kvs.map fun p => (p.1, n))

/-- The bytes that a folio holds for its release or drain by the current thread (R221, R230): its unpublished stores to it, and those of team
members that have released it before, are in it; those of members that are still bound reach it by their phases alone (R358). -/
def folioBytes (s : State) (e : FolioEntry) : List Byte :=
  let here := s.t :: s.parked.filter fun t => t.core == e.core && !e.owners.contains t.uid
  let ws := (here.map fun t => t.own.filter fun o => o.seq == 0 && decide (e.key 0 ≤ o.key ∧ o.key < e.key 0 + e.size)).flatten
  (List.range e.size).map fun i =>
    match ws.find? fun o => o.key == e.key i with
    | some o => o.val
    | none => s.home.read (e.key i)

/-- Writes a folio's bytes to the KiB whose keys are given, for a thread (R150); bytes that a guard holds are left. -/
def writeBack (s : State) (uid : Nat) (e : FolioEntry) (bs : List Byte) (keys : List (Option Nat)) (scope : Nat) : State :=
  let pkg := pkgOf e.core
  let free := fun (j i : Nat) => (guardedIn s e.part pkg (e.src + 1024 * j + i) 1).isNone
  let kvs := (keys.mapIdx fun j k => match k with
    | none => []
    | some k =>
      let all := (guardedIn s e.part pkg (e.src + 1024 * j) 1024).isNone
      ((List.range 1024).filter fun i => all || free j i).map fun i => (k + i, bs.getD (1024 * j + i) 0)).flatten
  publishBytes s uid e.core e.part scope kvs

/-- Releasing an entry drains it: its last binding, ready, DRAIN = 1 (R148, R357). -/
def FolioEntry.drains (e : FolioEntry) (uid : Nat) : Bool := e.state == .ready && e.drain && e.owners.all fun u => u == uid

/-- Release of an entry by the current thread (R148, R357): only the last binding's release changes the entry. `keys` are those
of FROM when the instruction has checked them. What a drain has to write is fixed here. -/
def releaseFolio (s : State) (e : FolioEntry) (scope : Nat) (keys : List Nat) : State :=
  let rest := e.owners.filter fun u => u != s.t.uid
  if !rest.isEmpty then updFolio s e.core e.index fun x => { x with owners := rest }
  else
    match e.state with
    | .filling => dropFolio s e.core e.index
    | .ready =>
      if e.drain then
        updFolio s e.core e.index fun x =>
          { x with state := .draining, view := none, scope := scope, pages := keys, data := some (folioBytes s e) }
      else if e.clean then updFolio s e.core e.index fun x => { x with owners := [], view := none }
      else dropFolio s e.core e.index
    | .empty | .draining => s

/-- Sets a handle of the current thread. -/
def setHandle (s : State) (h : Nat) (i : Option Nat) : State := s.updT fun t => { t with handles := t.handles.set h i }

/-- A drain's write-back completes (R148): the entry becomes empty. Pages that fault are left unwritten (R469); the first failing
class and address are answered. -/
def finishDrain (s : State) (e : FolioEntry) : Option (Nat × Nat) × State :=
  let w : Who := { part := e.part, pkg := pkgOf e.core, core := none, die := dieOf e.core }
  let r := if e.pages.isEmpty then drainKeys w e.src e.sizek s else (e.pages.map some, none, s)
  (r.2.1, dropFolio (writeBack r.2.2 (e.owners.headD 0) e (e.data.getD []) r.1 e.scope) e.core e.index)

/-! ## Nodes that end from outside -/

/-- A thread whose node ends without a trap of its own: it completes by R74 with the class given. The trap registers are written as if a
trap were entered (R436). -/
def Thread.endedBy (t : Thread) (cls unit addr : Nat) : Thread :=
  { t with
    status := .ending 1 cls unit addr, vq := [], xdec := [], xctx := none, dropRun := 0, lanes := none
    ctl := { t.ctl with tcause := cls, tval := BitVec.ofNat 64 addr, telem := 0 } }

/-- A resident thread's node ends without a trap of its own (R149, R447, R449, R469). -/
def endThread (s : State) (uid cls unit addr : Nat) : State :=
  updThread s uid fun t =>
    match t.status with
    | .ending _ _ _ _ | .free => t
    | .running | .pageFault _ _ | .halted => t.endedBy cls unit addr

/-! ## The folio instructions (R221) -/

/-- R221's waits: older execute-side accesses to the folio of handle `h`, and posted matrix work, come first. -/
def folioOp (h : Nat) (rd : List (BitVec 5)) (f : State → Res) (s : State) : Host.Outcome State Fault Refusal :=
  accessOp rd (fun s =>
    let s1 := settleMatrix s
    if folioQueued s1 h then .stall s1 else f s1) s

/-- The check of R469 on an entry that an instruction is about to drain: its keys, or the trap. -/
def checkDrain (s : State) (e : FolioEntry) : Got (List Nat) :=
  let r := drainKeys (me s) e.src e.sizek s
  match r.2.1 with
  | some (c, a) => .bad (addrTrap c (BitVec.ofNat 64 a) 0) r.2.2
  | none => .ok (r.1.filterMap id) r.2.2

/-- The release that an instruction makes of handle `h` (R221, R469). -/
def releaseHandle (s : State) (h : Nat) (e : FolioEntry) (scope : Nat) (k : State → Res) : Res :=
  if e.drains s.t.uid then
    (checkDrain s e).bind fun keys s1 => k (setHandle (releaseFolio s1 e scope keys) h none)
  else k (setHandle (releaseFolio s e scope []) h none)

/-- `folrel.sc #h` (R221). -/
def execFolrel (o : W4) (s : State) : Host.Outcome State Fault Refusal :=
  folioOp o.fc.toNat [] (fun s =>
    let h := o.fc.toNat
    match handleEntry s h with
    | none => .trap (unboundTrap h 0) s
    | some e =>
      if e.state = .draining ∨ e.state = .empty then .trap (unboundTrap h 0) s
      else releaseHandle s h e o.sc.toNat .ok) s

/-- The current thread's write-back of an entry in place, published at a scope, once FROM has been checked (R221, R469). -/
def drainNow (s : State) (e : FolioEntry) (scope : Nat) (k : State → Res) : Res :=
  (checkDrain s e).bind fun keys s1 => k (writeBack s1 s1.t.uid e (folioBytes s1 e) (keys.map some) scope)

/-- A fill that an instruction starts reads FROM behind the thread's older execute-side stores (R350, R355). -/
def fillWaits (s : State) (src sizek : Nat) : Bool := src != 0 && conflicts s (BitVec.ofNat 64 src) (1024 * sizek) false

/-- `folfill #h` (R221): for a shared entry it acts for every member. -/
def execFolfill (o : W4) (s : State) : Host.Outcome State Fault Refusal :=
  folioOp o.fc.toNat [] (fun s =>
    let h := o.fc.toNat
    match handleEntry s h with
    | none => .trap (unboundTrap h 0) s
    | some e =>
      if e.state = .draining ∨ e.state = .empty then .trap (unboundTrap h 0) s
      else if fillWaits s e.src e.sizek then .stall s
      else if e.state = .ready ∧ e.drain then drainNow s e 5 fun s1 => .ok (startFill s1 e)
      else .ok (startFill s e)) s

/-- `foldrain.sc #h` (R221): the entry stays ready and CLEAN is unchanged. -/
def execFoldrain (o : W4) (s : State) : Host.Outcome State Fault Refusal :=
  folioOp o.fc.toNat [] (fun s =>
    let h := o.fc.toNat
    match nameFolio s h with
    | .unbound => .trap (unboundTrap h 0) s
    | .filling => .stall s
    | .ready e => if e.src = 0 then illegal s else drainNow s e o.sc.toNat .ok) s

/-- The entries that refuse a new range (R221): those another node owns, in any state but retained. -/
def refusesRange (uid : Nat) (e : FolioEntry) : Bool := e.owners.any fun u => u != uid

/-- The team members of the current thread on its core, suspended ones among them. -/
def teamHere (s : State) (uid : Nat) : Bool :=
  (everyThread s).any fun t =>
    t.uid == uid && t.core == s.t.core && t.launch == s.t.launch && s.t.team != 0 && t.team == s.t.team && !t.spawned

/-- Room for an entry in a core's folio table (R221): a free index, or that of a retained entry, which becomes empty. Of several the one
retained longest gives way (log 20, DESIGN CHOICE: R148 and R221 name none). -/
def makeRoom (s : State) (core : Nat) : State :=
  if (freeIndex s core).isSome then s
  else match (coreFolios s core).reverse.find? FolioEntry.retained with
    | some e => dropFolio s core e.index
    | none => s

/-- A thread that joins a ready entry reads the bytes that stand in it (log 20, DESIGN CHOICE: R357 has the entry filled once, and does not
say what a later joiner reads before its next snapshot). -/
def seeFolio (s : State) (e : FolioEntry) : State :=
  if e.state = .ready then
    let keys := (List.range e.size).map e.key
    s.updT fun t =>
      let r := keys.foldl (fun a k => snapPut a k (s.home.read k) (s.homeSeq.get k)) (t.snap, t.snapSeq)
      { t with snap := r.1, snapSeq := r.2 }
  else s

/-- Binds handle `h` to a range: a shared entry of team members, or a new entry that starts filling (R148, R151, R357). `k` is
applied to the bound state; a full table waits. -/
def bindRange (s : State) (h : Nat) (f : FolioSpec) : Res :=
  let core := s.t.core
  match (coreFolios s core).find? fun e =>
    e.same f && (e.state == .filling || e.state == .ready) && e.owners.any fun u => u != s.t.uid && teamHere s u with
  | some e =>
    .ok (setHandle (seeFolio (updFolio s core e.index fun x => { x with owners := s.t.uid :: x.owners }) e) h (some e.index))
  | none =>
    let s1 := { s with folios := s.folios.filter fun e => !(e.core == core && e.retained && e.meets f) }
    let s2 := makeRoom s1 core
    match freeIndex s2 core with
    | none => .stall s
    | some i =>
      let e : FolioEntry :=
        { core := core, index := i, space := f.space, basek := f.basek, sizek := f.sizek, src := f.src, state := .filling,
          owners := [s2.t.uid], launch := s2.t.launch, keep := f.keep, drain := f.drain, clean := false, view := none,
          data := none, bad := none, scope := 5, pages := [], part := s2.t.part }
      .ok (setHandle (startFill s2 e) h (some i))

/-- `folbind #h, sa` (R221). While it waits for a free entry its old binding stands (log 20, DESIGN CHOICE: R221 does not say whether the
release comes before that wait). A range that the thread's own earlier release is still writing back waits for that (log 20, DESIGN CHOICE: R221
names only another node's entry as illegal). -/
def execFolbind (o : W4) (s : State) : Host.Outcome State Fault Refusal :=
  folioOp o.fc.toNat [o.fa] (fun s =>
    let h := o.fc.toNat
    let a := getS s o.fa
    if s.t.handles.length ≤ h then .trap (unboundTrap h 0) s
    else if canonical a ∧ a.toNat % 16 ≠ 0 then .trap (addrTrap 0x03 a 0) s
    else if conflicts s a 16 false then .stall s
    else
      match loadWords a 2 0 s with
      | .bad t s1 => .trap t s1
      | .ok ws s1 =>
        let w0 := ws.getD 0 0
        let w1 := ws.getD 1 0
        let f := FolioSpec.dec w0 w1
        let uid := s1.t.uid
        let mine := s1.t.handles.getD h none
        let here := coreFolios s1 s1.t.core
        let others := here.filter fun e => e.meets f && refusesRange uid e &&
          !(e.same f && (e.state == .filling || e.state == .ready) && e.owners.any fun u => u != uid && teamHere s1 u)
        let own := here.any fun e => e.meets f && e.owners.contains uid && some e.index != mine && (e.state == .filling || e.state == .ready)
        let leaving := here.any fun e => e.meets f && e.state == .draining
        if specOk w0 w1 = false ∨ specFits s1.t.core f = false ∨ own ∨ !others.isEmpty then illegalWith a s1
        else if leaving ∨ fillWaits s1 f.src f.sizek then .stall s1
        else
          let bind := fun (x : State) => match bindRange (setHandle x h none) h f with
            | .stall _ => Res.stall s
            | r => r
          match handleEntry s1 h with
          | none => bindRange s1 h f
          | some e =>
            if e.drains uid then drainNow s1 e 5 fun s2 => bind (dropFolio s2 e.core e.index)
            else bind (releaseFolio s1 e 5 [])) s

/-! ## Happenings -/

/-- FOLIO_FILL_COMPLETE (R148). -/
def execFolioFillComplete (core entry : Nat) (s : State) : Host.Outcome State Fault Refusal :=
  match folioAt s core entry with
  | none => happening s
  | some e =>
    match e.state, e.data with
    | .filling, some bs => happening (landFill s e bs)
    | _, _ => happening s

/-- FOLIO_DRAIN_COMPLETE (R148, R469): at node end a fault of the write-back gives the node its class. -/
def execFolioDrainComplete (core entry : Nat) (s : State) : Host.Outcome State Fault Refusal :=
  match folioAt s core entry with
  | none => happening s
  | some e =>
    if e.state ≠ .draining then happening s
    else
      let r := finishDrain s e
      match r.1 with
      | none => happening r.2
      | some (c, a) =>
        happening (e.owners.foldl (fun x u => updThread x u fun t =>
          match t.status with
          | .ending 0 _ _ _ => { t with status := .ending 1 c 0 a }
          | _ => t) r.2)

end Sys2Proof.Machine
end

