-- ==== Sys2Proof/Machine/Completion.lean ====
section
/-! DEFINITION. Completion queues and their entries (R378, R379), count barriers and what observing one acquires (R389, R390,
R395). -/

namespace Sys2Proof.Machine

/-! ## Completion queues -/

/-- The launch of a number. -/
def launchOf (s : State) (num : Nat) : Option Launch := s.launches.find? fun l => l.num == num

def updLaunch (s : State) (num : Nat) (f : Launch → Launch) : State :=
  { s with launches := updWhere s.launches (fun l => l.num == num) f }

/-- Who writes a completion queue: the hardware of the package whose tables map it. -/
def cqWho (l : Launch) : Who := { part := l.part, pkg := l.cqPkg, core := none, die := l.cqPkg * 8 }

/-- The key of byte `off` of a launch's completion queue; no write of it meets a fault (R378). -/
def cqKey (s : State) (l : Launch) (off : Nat) : Option (Nat × State) :=
  match translate s (cqWho l) .store (l.cq + BitVec.ofNat 64 off) with
  | .ok k s1 => some (k, fillBlock s1 k)
  | .fault _ _ => none

/-- A 64-bit word at its home. -/
def homeWord (s : State) (key : Nat) : Nat := leNat (s.home.readN 8 key)

/-- The header's NSLOT, WRI and RDI as published (R378). -/
structure CqHead where
  nslot : Nat
  wri : Nat
  rdi : Nat
  deriving DecidableEq, Repr

def cqHead (s : State) (l : Launch) : Option (CqHead × State) :=
  (cqKey s l 0).map fun r =>
    ({ nslot := homeWord r.2 r.1 % 2 ^ 32, wri := homeWord r.2 (r.1 + 8), rdi := homeWord r.2 (r.1 + 16) }, r.2)

/-- The free slots: neither written and unconsumed nor reserved (R378). -/
def CqHead.free (h : CqHead) (reserved : Nat) : Nat := h.nslot - (h.wri + 2 ^ 64 - h.rdi) % 2 ^ 64 - reserved

/-- Whether the launch's queue has a free slot that no command has reserved. -/
def cqHasSlot (s : State) (num : Nat) : Bool :=
  match launchOf s num with
  | none => false
  | some l =>
    match cqHead s l with
    | none => false
    | some (h, _) => decide (0 < h.free l.reserved)

/-- A completion entry's words (R379). -/
def entryWords (kind cls unit status addr : Nat) (ident : Word) (slot flags : Nat) : List Word :=
  [BitVec.ofNat 64 (kind * 2 ^ 56 + cls * 2 ^ 48 + unit * 2 ^ 32 + status), BitVec.ofNat 64 (addr % 2 ^ 57), ident,
    BitVec.ofNat 64 (slot * 2 ^ 13 + flags)]

/-- The bytes of words, from a key on. -/
def wordCells (key : Nat) (ws : List Word) : List (Nat × Byte) :=
  (ws.mapIdx fun j w => (natLe 8 w.toNat).mapIdx fun i b => (key + 8 * j + i, b)).flatten

/-- Writes an entry at the ring's next place and publishes it, then increments WRI (R378). -/
def writeEntry (s : State) (l : Launch) (ws : List Word) : State :=
  match cqHead s l with
  | none => s
  | some (h, s1) =>
    match cqKey s1 l (64 + 32 * (h.wri % max 1 h.nslot)) with
    | none => s1
    | some (k, s2) =>
      let s3 := (engineWrite s2 l.cqPkg (wordCells k ws)).1
      match cqKey s3 l 8 with
      | none => s3
      | some (w, s4) => hardWrite s4 w (natLe 8 (h.wri + 1))

/-- Writes the waiting entries of a launch while slots are free that no command has reserved (R378). -/
def flushEntries (num : Nat) : Nat → State → State
  | 0, s => s
  | n + 1, s =>
    match launchOf s num with
    | none => s
    | some l =>
      match l.waiting with
      | [] => s
      | ws :: r =>
        if cqHasSlot s num then
          flushEntries num n (updLaunch (writeEntry s l ws) num fun x => { x with waiting := r })
        else s

/-- Flushes every launch of the machine. -/
def flushAll (s : State) : State :=
  s.launches.foldl (fun a l => if l.waiting.isEmpty then a else flushEntries l.num l.waiting.length a) s

/-- A launch whose nodes and spawned nodes have all completed gets its final entry, once (R74, R437). -/
def finishLaunch (s : State) (num : Nat) : State :=
  match launchOf s num with
  | none => s
  | some l =>
    if l.finished = false ∧ l.spawnedLeft = 0 ∧ l.nodes.all (fun n => n.state == .done) then
      let c := l.failed.getD 0
      let ws := entryWords 0x02 c 0 (if l.failed.isSome then 1 else 0) 0 0 0 0
      updLaunch s num fun x => { x with finished := true, waiting := x.waiting ++ [ws] }
    else s

/-- A launch is over once its final entry stands in the queue (R74, R378). -/
def launchOver (l : Launch) : Bool := l.finished && l.waiting.isEmpty

/-- An entry of a node, which waits for a free slot (R378, R437); the first failing class is kept for the final entry. -/
def postNodeEntry (s : State) (num : Nat) (failed : Option Nat) (ws : List Word) : State :=
  let s1 := updLaunch s num fun x =>
    { x with waiting := x.waiting ++ [ws], failed := x.failed.orElse fun _ => failed }
  let s2 := finishLaunch s1 num
  flushEntries num (((launchOf s2 num).map fun l => l.waiting.length).getD 0) s2

/-- An entry of an engine command goes into the slot that the command reserved (R375, R378). -/
def postCommandEntry (s : State) (num : Nat) (ws : List Word) : State :=
  match launchOf s num with
  | none => s
  | some l => updLaunch (writeEntry s l ws) num fun x => { x with reserved := x.reserved - 1 }

/-! ## Count barriers -/

/-- PH of word 0 (R389). -/
def phOf (w0 : Nat) : Bool := w0.testBit 63

/-- The barrier's words after a decrement, whether it counted, and whether the phase flipped (R390). Reserved bits are written zero (R5). -/
def cbStep (w0 w1 d : Nat) : Nat × Bool × Bool :=
  let rem := field w0 47 0
  let top := field w0 63 62 * 2 ^ 62
  if rem = 0 then (w0, false, false)
  else if d < rem then (top + (rem - d), true, false)
  else
    let ovr := if rem < d ∧ w0.testBit 62 = false then top + 2 ^ 62 else top
    ((if phOf w0 then ovr - 2 ^ 63 else ovr + 2 ^ 63) + field w1 47 0, true, true)

/-- The number of phases of a barrier that have completed. -/
def phasesDone (s : State) (key : Nat) : Nat := (assoc s.phases key).getD 0

/-- The narrower copies of a barrier's byte that an atomic of who asks sees at .pod (R369). -/
def cbSees (w : Who) (n : Narrow) : Bool :=
  match w.core with
  | some c => n.reaches c 5
  | none => n.cachedAt n.homeCache

/-- A word of a count barrier, which who asks reads by an atomic at .pod (R389, R369): for a thread, of its core as well; for the hardware of
a die, at the barrier's home die cache. -/
def cbWord (s : State) (w : Who) (key : Nat) : Nat := leNat ((List.range 8).map fun i => latest s w.part (key + i) (cbSees w))

/-- Whether who reads a barrier finds poisoned data in it (R445). -/
def cbBad (s : State) (w : Who) (key : Nat) : Bool :=
  !s.poison.isEmpty && (List.range 16).any fun i => latestBad s w.part (key + i) (cbSees w)

/-- A decrement at a barrier's home, carrying bytes (R390, R393). Answers whether it counted. -/
def decrement (s : State) (w : Who) (key d : Nat) (bytes : List (Nat × Nat × Byte)) : Bool × State :=
  let r := cbStep (cbWord s w key) (cbWord s w (key + 8)) d
  if r.2.1 = false then (false, s)
  else
    let p := phasesDone s key
    let s1 := (engineWrite s (field key 51 44) (wordCells key [BitVec.ofNat 64 r.1])).1
    let s2 := if bytes.isEmpty then s1
      else { s1 with carried := { barrier := key, phase := p, bytes := bytes } :: s1.carried }
    (true, if r.2.2 then
        { s2 with
          phases := (key, p + 1) :: s2.phases.filter fun x => x.1 != key
          flips := (key, r.1) :: s2.flips.filter fun x => x.1 != key }
      else s2)

/-- Word 0 of a barrier as its latest flip left it (R392); as it stands, where no decrement gave it its PH. -/
def flipWord (s : State) (w : Who) (key : Nat) : Nat :=
  let v := cbWord s w key
  match assoc s.flips key with
  | some f => if phOf f = phOf v then f else v
  | none => v

/-- The current thread acquires what the completed phases of a barrier carried (R395). -/
def acquireBarrier (s : State) (key : Nat) : State :=
  let n := phasesDone s key
  (s.carried.filter fun c => c.barrier == key && decide (c.phase < n)).reverse.foldl (fun a c => acquireBytes a c.bytes) s

/-- The hardware of a die, on behalf of a partition. -/
def dieWho (part die : Nat) : Who := { part := part, pkg := die / 8, core := none, die := die }

/-- The key of a barrier for the hardware of a die (R389), or the class of the fault. -/
def barrierKey (s : State) (w : Who) (va : Word) : Except Nat Nat × State :=
  match translate s w .store va with
  | .ok k s1 => (.ok k, fillBlock s1 k)
  | .fault c s1 => (.error c, s1)

end Sys2Proof.Machine
end

