-- ==== Sys2Proof/Machine/Nodes.lean ====
section
/-! DEFINITION. The end of a node: its completion, the edges it counts, the entry it posts (R68, R69, R74, R197, R199, R437). -/

namespace Sys2Proof.Machine

/-! ## Ready pools -/

/-- An entry enters a die's ready pool (R69). -/
def postReady (s : State) (die part : Nat) (w : Work) (prio : Nat) : State :=
  { s with ready := s.ready ++
      [{ die := die, part := part, work := w, prio := prio, since := s.cycle, aged := false, listed := false }] }

/-- Fields of a node descriptor (R65). -/
def Node.word (n : Node) (k : Nat) : Word := n.desc.getD k 0
def Node.place (n : Node) : Nat := ((n.word 2).extractLsb' 48 16).toNat
def Node.team (n : Node) : Nat := ((n.word 2).extractLsb' 32 16).toNat
def Node.prio (n : Node) : Nat := ((n.word 2).extractLsb' 28 4).toNat
def Node.kind (n : Node) : Nat := ((n.word 2).extractLsb' 26 2).toNat

/-- A node whose predecessors have all been counted complete. -/
def Node.isReady (n : Node) : Bool := n.state == .waiting && n.left == 0 && n.crossLeft == 0

/-- Applies a change to a node of a launch. -/
def updNode (s : State) (num idx : Nat) (f : Node → Node) : State :=
  updLaunch s num fun l => { l with nodes := updWhere l.nodes (fun n => n.index == idx) f }

def nodeOf (s : State) (num idx : Nat) : Option Node :=
  (launchOf s num).bind fun l => l.nodes.find? fun n => n.index == idx

/-- The nodes of a launch that have become ready enter their dies' pools, in node index order (R69). -/
def makeReady (s : State) (num : Nat) : State :=
  match launchOf s num with
  | none => s
  | some l =>
    (l.nodes.filter Node.isReady).foldl (fun a n =>
      postReady (updNode a num n.index fun x => { x with state := .ready }) n.die l.part (.node num n.index) n.prio) s

/-! ## Edges (R68) -/

/-- The address of a node's edge barrier. -/
def edgeAddr (l : Launch) (idx : Nat) : Word := l.edge + BitVec.ofNat 64 (16 * idx)

/-- Counts one completed predecessor, on die `die`, to a successor: in the scheduler when one die owns both, else by a
decrement of the successor's edge barrier. -/
def countEdge (num die : Nat) (s : State) (succ : Nat) : State :=
  match launchOf s num with
  | none => s
  | some l =>
    match l.nodes.find? fun n => n.index == succ with
    | none => s
    | some n =>
      if n.die = die then updNode s num succ fun x => { x with left := x.left - 1 }
      else
        match barrierKey s (dieWho l.part n.die) (edgeAddr l succ) with
        | (.ok k, s1) => (decrement s1 (dieWho l.part n.die) k 1 []).2
        | (.error _, s1) => s1

/-- A node of the node table is done: its edges are counted (R74 step 5). -/
def countDone (s : State) (num idx : Nat) : State :=
  match nodeOf s num idx with
  | none => s
  | some n =>
    let s1 := updNode s num idx fun x => { x with state := .done }
    makeReady (n.succs.foldl (countEdge num n.die) s1) num

/-! ## Completion (R74) -/

/-- Whether accepted engine commands of a thread have not completed. -/
def hasCommands (s : State) (uid : Nat) : Bool := s.cmds.any fun c => c.uid == uid

/-- Whether accepted pputs of a thread have not linearised (R425). -/
def hasPuts (s : State) (uid : Nat) : Bool := s.pools.any fun p => p.shelves.any fun x => x.puts.any fun q => q.uid == uid

/-- The current thread releases at .pod the folios that meet `p` (R74, R150). -/
def releaseWhere (p : FolioEntry → Bool) (s : State) : State :=
  (List.range s.t.handles.length).foldl (fun a h =>
    match handleEntry a h with
    | some e => if p e then setHandle (releaseFolio a e 5 []) h none else a
    | none => a) s

/-- The folios whose release writes them back are released (R74 step 2). -/
def releaseDrains (s : State) : State := releaseWhere (fun e => e.drains s.t.uid) s

/-- All folios of the current thread are released (R74 step 4). -/
def releaseAll (s : State) : State := (releaseWhere (fun _ => true) s).updT fun t => { t with handles := t.handles.map fun _ => none }

/-- Whether a write-back of the current thread is still in progress. -/
def draining (s : State) : Bool :=
  s.folios.any fun e => e.core == s.t.core && e.state == .draining && e.owners.contains s.t.uid

/-- Releases matrix mode (R197, R302). -/
def releaseMatrix (s : State) (uid : Nat) : State := { s with granted := s.granted.filter fun g => g.2 != uid }

/-- Steps 3 to 6 of R74 for the current thread, with the outcome it ends with; a spawned node decrements its barrier, the decrement
carrying the node's stores (R199, R395; log 24, DEDUCED), and posts an entry of KIND 0x04. -/
def closeNode (s : State) (status cls unit addr : Nat) : State :=
  let t := s.t
  let s1 := releaseMatrix (releaseAll (publish s 5)) t.uid
  let s2 := { s1 with
    t := Thread.blank
    pools := s1.pools.map fun p =>
      { p with
        takes := p.takes.filter (fun q => q.uid != t.uid), drainers := p.drainers.filter (fun q => q.uid != t.uid)
        waiters := p.waiters.filter fun id => s1.conts.any fun c => c.id == id && c.th.uid != t.uid } }
  let bad := if status = 0 then none else some cls
  let stores := (s1.t.own.filter fun o => decide (o.key < folioKeys)).map fun o => (o.key, o.seq, o.val)
  if t.spawned then
    let s3 := match barrierKey s2 (dieWho t.part (dieOf t.core)) t.spawnCb with
      | (.ok k, a) => (decrement a (me s1) k 1 stores).2
      | (.error _, a) => a
    let s4 := updLaunch s3 t.launch fun l => { l with spawnedLeft := l.spawnedLeft - 1 }
    postNodeEntry s4 t.launch bad (entryWords 0x04 cls unit status addr t.spawnDesc (t.slot % 8) 0)
  else
    postNodeEntry (countDone s2 t.launch t.node) t.launch bad
      (entryWords 0x01 cls unit status addr (BitVec.ofNat 64 t.node) (t.slot % 8) 0)

/-- The current thread's node, which is ending, goes on with its completion (R74): it waits for its engine commands and pputs, then for
its write-backs, then closes. -/
def completeNode (s : State) : State :=
  match s.t.status with
  | .ending _ _ _ _ =>
    let s1 := drainMatrix s
    if hasCommands s1 s1.t.uid || hasPuts s1 s1.t.uid then { s1 with stalled := true }
    else
      let s2 := releaseDrains s1
      if draining s2 then { s2 with stalled := true }
      else
        match s2.t.status with
        | .ending status cls unit addr => { closeNode s2 status cls unit addr with stalled := false }
        | .free | .running | .pageFault _ _ | .halted => s2
  | .free | .running | .pageFault _ _ | .halted => s

/-- `nend` (R197, R74): it waits for every older instruction of both streams, then completes the node. -/
def execNend (s : State) : Host.Outcome State Fault Refusal :=
  if xBusy s then goto { s with stalled := true }
  else goto (completeNode { s.updT fun t => { t with status := .ending 0 0 0 0 } with stalled := false })

end Sys2Proof.Machine
end

