-- ==== Sys2Proof/Machine/Suspend.lean ====
section
/-! DEFINITION. Suspension into a continuation record and resumption from it (R76, R77, R78, R195, R196, R470). -/

namespace Sys2Proof.Machine

/-- The s registers and the v registers that a live mask names (R77). -/
def liveS (m : Word) : List Nat := (List.range 31).filterMap fun i => if m.getLsbD i then some (i + 1) else none
def liveV (m : Word) : List Nat := (List.range 32).filter fun i => m.getLsbD (31 + i)

/-- The size of the record of a live mask (R77, R195). -/
def recordSize (m : Word) : Nat := 64 + 8 * (liveS m).length + 1032 * (liveV m).length

/-- The checks of R195 in their order: the keys of the record's bytes, or the fault. -/
def suspendCheck (s : State) : Got (List Nat) :=
  let c := s.t.ctl
  if 16 < (liveS c.clive).length + (liveV c.clive).length then .bad (mkTrap 0x01 c.clive) s
  else if s.t.mchk.isSome ∨ c.inh then .bad (mkTrap 0x01 ((curHead s).1.setWidth 64)) s
  else if c.crec.toNat % 64 ≠ 0 then .bad (addrTrap 0x03 c.crec 0) s
  else checkStores 0 (byteAddrs c.crec (recordSize c.clive)) s

/-- The kept folio entries of the current thread, by handle (R78). -/
def keptHandles (s : State) : List (Option Nat) :=
  s.t.handles.mapIdx fun h i => match handleEntry s h with
    | some e => if e.keep then i else none
    | none => none

/-- The record's bytes as the thread stands (R77). -/
def recordBytes (s : State) : List Byte :=
  let c := s.t.ctl
  let pin := (keptHandles s).any Option.isSome
  let core := s.t.core % 384
  let place := (if pin then core * 2 ^ 32 + 4 else 0) + (if isVCore core then 2 else 1)
  let head := [pcAfter s, c.clive, BitVec.ofNat 64 place, c.vtype, BitVec.ofNat 64 c.vl, c.frm.setWidth 64,
    c.fflags.setWidth 64, c.sat.setWidth 64]
  (head.map fun w => natLe 8 w.toNat).flatten ++
    ((liveS c.clive).map fun i => natLe 8 (s.t.s.getD i 0).toNat).flatten ++
    ((liveV c.clive).map fun i => spillSlot (getV s i)).flatten

/-- Releases a folio at suspension: a write-back completes before the record is written (R148, R469). Answers the first fault. -/
def releaseNow (s : State) (h : Nat) (e : FolioEntry) : Option (Nat × Nat) × State :=
  let s1 := setHandle (releaseFolio s e 5 []) h none
  match folioAt s1 e.core e.index with
  | some x => if x.state = .draining then finishDrain s1 x else (none, s1)
  | none => (none, s1)

/-- Releases the folios without keep (R78). -/
def releaseUnkept (s : State) : Option (Nat × Nat) × State :=
  (List.range s.t.handles.length).foldl (fun a h =>
    match handleEntry a.2 h with
    | some e =>
      if e.keep then a
      else
        let r := releaseNow a.2 h e
        (a.1.orElse fun _ => r.1, r.2)
    | none => a) (none, s)

/-- The identity and waiting state of a suspended thread; everything else reads at resume as at node start (R77). -/
def Thread.suspended (t : Thread) (handles : List (Option Nat)) : Thread :=
  { Thread.blank with
    uid := t.uid
    core := t.core
    slot := t.slot
    part := t.part
    launch := t.launch
    node := t.node
    spawned := t.spawned
    team := t.team
    tci := t.tci
    prio := t.prio
    kind := t.kind
    spawnCb := t.spawnCb
    spawnDesc := t.spawnDesc
    arg := t.arg
    stack := t.stack
    handles := handles
    snap := t.snap
    snapSeq := t.snapSeq
    own := t.own
    seen := t.seen
    barCount := t.barCount }

/-- R76 once the checks of R195 have passed, with the record's keys: the record is written and published, folios are released,
the slot becomes free, and the continuation waits; `post` hands its number to the unit that it waits for. It waits first for older
instructions of both streams. A folio whose write-back faults ends the node in place of suspending (R469). -/
def suspendWith (w : Waiting) (dests : List (BitVec 5)) (keys : List Nat) (post : Nat → State → State) (s : State) : Res :=
  if xBusy s then .stall s
  else
    let s0 := drainMatrix s
    let r := releaseUnkept s0
    match r.1 with
    | some (c, a) =>
      .ok (endThread r.2 r.2.t.uid c 0 a)
    | none =>
      let s1 := publish (storeKeys r.2 keys (recordBytes s0)) 5
      let c : Cont :=
        { id := s1.nextCont, th := s1.t.suspended (keptHandles s1), record := s1.t.ctl.crec, waiting := w, dests := dests,
          results := [] }
      .ok (post c.id { s1 with t := Thread.blank, conts := s1.conts ++ [c], nextCont := s1.nextCont + 1 })

/-! ## Finishing and resuming -/

def contOf (s : State) (id : Nat) : Option Cont := s.conts.find? fun c => c.id == id

def updCont (s : State) (id : Nat) (f : Cont → Cont) : State :=
  { s with conts := updWhere s.conts (fun c => c.id == id) f }

/-- The operation of a continuation has finished with its results. -/
def finishCont (s : State) (id : Nat) (results : List Word) : State :=
  updCont s id fun c => { c with waiting := .done, results := results }

/-- CONTINUATION_READY (R78): a continuation whose operation has finished enters the ready pool of the die that suspended it. -/
def execContinuationReady (cont : Nat) (s : State) : Host.Outcome State Fault Refusal :=
  match contOf s cont with
  | none => happening s
  | some c =>
    let there := s.ready.any fun r => r.work == .resume cont
    if c.waiting = .done ∧ there = false ∧ (findThread s c.th.uid).isNone then
      happening (postReady s (dieOf c.th.core) c.th.part (.resume cont) c.th.prio)
    else happening s

/-- The registers of a spill slot as a resume reads it; a slot whose format byte software has made undefined gives a free value
(log 4). -/
def slotValue (s : State) (bs : List Byte) : VReg := (fillSlot bs).getD (BitVec.ofNat 8192 (Config.freeNat s.fresh))

/-- Restores the live v registers from their slots. -/
def restoreV : List Nat → Word → State → Got Unit
  | [], _, s => .ok () s
  | r :: rest, va, s =>
    match loadBytesAt (fun _ => 0) va 1032 0 s with
    | .bad t s1 => .bad t s1
    | .ok bs s1 =>
      let s2 := markDirty (setV { s1 with fresh := s1.fresh + 1 } r (slotValue s1 bs)) r 1
      restoreV rest (va + 1032) s2

/-- Reads the record of the current thread's continuation and restores what it holds (R196, R470). -/
def restoreRecord (c : Cont) (s : State) : Got Unit :=
  match loadWords c.record 8 0 s with
  | .bad t s1 => .bad t s1
  | .ok h s1 =>
    let live := h.getD 1 0
    let ss := liveS live
    match loadWords (c.record + 64) ss.length 0 s1 with
    | .bad t s2 => .bad t s2
    | .ok vs s2 =>
      let s3 := s2.updT fun t => { t with pc := h.getD 0 0, line := none, s := (ss.zip vs).foldl (fun a p => a.setIfInBounds p.1 p.2) t.s }
      match restoreV (liveV live) (c.record + BitVec.ofNat 64 (64 + 8 * ss.length)) s3 with
      | .bad t s4 => .bad t s4
      | .ok _ s4 =>
        let vt := h.getD 3 0 &&& 0xFF1F
        let s5 := s4.updC fun x =>
          { x with vtype := vt, vl := min (h.getD 4 0).toNat (vlMaxOf vt), frm := frmStored (h.getD 5 0),
                   fflags := (h.getD 6 0).setWidth 6, sat := (h.getD 7 0).setWidth 3 }
        .ok () ((c.dests.zip c.results).foldl (fun a p => setS a p.1 p.2) s5)

/-- The current thread, which has been given its slot, resumes from its record (R196). A page fault waits for Horsil in the
slot; another fault ends the node with its class and the first failing address (R470). -/
def resumeRecord (c : Cont) (s : State) : State :=
  match restoreRecord c s with
  | .ok _ s1 => { s1.updT fun t => { t with status := .running } with conts := s1.conts.filter fun x => x.id != c.id }
  | .bad tr s1 =>
    if tr.cls = 0x05 then s1.updT fun t => { t with status := .pageFault tr true }
    else
      { s1.updT fun t => { t with status := .ending 1 tr.cls 0 (tr.tval.toNat % 2 ^ 57) } with
        conts := s1.conts.filter fun x => x.id != c.id }

end Sys2Proof.Machine
end

