-- ==== Sys2Proof/Machine/CountBarriers.lean ====
section
/-! DEFINITION. The count-barrier instructions (R389 to R392, R395). -/

namespace Sys2Proof.Machine

/-- The frame of a count-barrier instruction (R391): after the value check, which `bad` gives, alignment and translation of the
barrier's address as for an atomic at .pod; `f` gets the key. No store is published: R391 says so of these instructions, against
R223 for atomics (log 32). -/
def barrierOp (o : LE) (bad : State → Option Trap) (f : Nat → State → Res) (s : State) : Host.Outcome State Fault Refusal :=
  accessOp [o.fa, o.fb, o.fc] (fun s =>
    let a := getS s o.fa
    match bad s with
    | some t => .trap t s
    | none =>
      let s1 := settleMatrix s
      if conflicts s1 a 16 true then .stall s1
      else
        match keyOf s1 .store a 16 0 with
        | .bad t s2 => .trap t s2
        | .ok k s2 =>
          if pointPoisoned s2 5 k 16 then .trap (addrTrap 0x0E a 0) s2
          else f k s2) s

/-- The bytes that an atomic of the current thread has just changed count among its own writes (R349). -/
def ownAtomic (s : State) (key n : Nat) : State :=
  s.updT fun t =>
    { t with own := (List.range n).map (fun i =>
        { key := key + i, val := s.home.read (key + i), unit := key, seq := s.pubs, scope := 5, seen := false }) ++
        t.own.filter fun o => decide (o.key < key ∨ key + n ≤ o.key) }

/-- Values above 2^48 − 1, and a count of 0 where it is not admitted, are Illegal Instruction with tval = b (R391). -/
def countBad (o : LE) (zero third : Bool) (s : State) : Option Trap :=
  let b := getS s o.fb
  if (zero ∧ b = 0) ∨ 2 ^ 48 ≤ b.toNat ∨ (third ∧ 2 ^ 48 ≤ (getS s o.fc).toNat) then some (mkTrap 0x01 b) else none

/-- `cbinit sa, sb, sc` (R391). -/
def execCbinit (o : LE) (s : State) : Host.Outcome State Fault Refusal :=
  barrierOp o (countBad o true true) (fun k s =>
    let w0 := (if phOf (cbWord s (me s) k) then 2 ^ 63 else 0) + (getS s o.fb).toNat
    .ok (atomicPut .atomic s 5 k (natLe 8 w0 ++ natLe 8 (getS s o.fc).toNat))) s

/-- `cbarrive sd, sa, sb` (R390, R391). -/
def execCbarrive (o : LE) (s : State) : Host.Outcome State Fault Refusal :=
  barrierOp o (countBad o false false) (fun k s =>
    let w0 := cbWord s (me s) k
    let r := decrement s (me s) k (getS s o.fb).toNat []
    .ok (setS (if r.1 then ownAtomic r.2 k 8 else r.2) o.fd (BitVec.ofNat 64 w0))) s

/-- `cbtest sd, sa, sb` (R391, R395). -/
def execCbtest (o : LE) (s : State) : Host.Outcome State Fault Refusal :=
  barrierOp o (fun _ => none) (fun k s =>
    let w0 := cbWord s (me s) k
    let s1 := if phOf w0 = (getS s o.fb).getLsbD 0 then s else acquireBarrier s k
    .ok (setS s1 o.fd (BitVec.ofNat 64 w0))) s

/-- `cbwait sd, sa, sb, #s` (R392): with S = 0 the thread waits in its slot, with S = 1 it suspends unless PH differs already. -/
def execCbwait (o : LE) (s : State) : Host.Outcome State Fault Refusal :=
  jumpOp [o.fa, o.fb] (fun s =>
    let go := fun (k : Nat) (s1 : State) =>
      Res.ok (advance (setS (acquireBarrier s1 k) o.fd (BitVec.ofNat 64 (cbWord s1 (me s1) k))))
    let a := getS s o.fa
    let b := (getS s o.fb).getLsbD 0
    let s1 := settleMatrix s
    if conflicts s1 a 16 true then .stall s1
    else
      match keyOf s1 .store a 16 0 with
      | .bad t s2 => .trap t s2
      | .ok k s2 =>
        if pointPoisoned s2 5 k 16 then .trap (addrTrap 0x0E a 0) s2
        else
          let flipped : Bool := phOf (cbWord s2 (me s2) k) != b
          if o.imm = 0 then (if flipped then go k s2 else .stall s2)
          else
            match suspendCheck s2 with
            | .bad t s4 => .trap t s4
            | .ok ks s4 => if flipped then go k s4 else suspendWith (.barrier a b) [o.fd] ks (fun _ x => x) s4) s

/-- CB_FLIP_OBSERVED (R392): the barrier of a suspended cbwait has flipped; its operation finishes with word 0 as the flip left it. -/
def execCbFlipObserved (cont : Nat) (s : State) : Host.Outcome State Fault Refusal :=
  match contOf s cont with
  | none => happening s
  | some c =>
    match c.waiting with
    | .barrier a ph =>
      let w := asked c.th
      match barrierKey s w a with
      | (.ok k, s1) =>
        if phOf (cbWord s1 w k) = ph then happening s else happening (finishCont s1 cont [BitVec.ofNat 64 (flipWord s1 w k)])
      | (.error _, _) => happening s
    | .put _ | .take _ | .view _ _ | .spawn _ | .done => happening s

end Sys2Proof.Machine
end

