-- ==== Sys2Proof/Machine/Engines.lean ====
section
/-! DEFINITION. Engine commands: issue and acceptance (R375, R376), copies (R381 to R383), puts (R384 to R386) and how engines
read, write and complete (R380, R393, R394). -/

namespace Sys2Proof.Machine

/-! ## Issue and acceptance -/

/-- Whether a queued execute-stream instruction of the thread stores to memory or a folio, chunks of streams included (R375 step 3). -/
def storesQueued (s : State) : Bool :=
  (footprints s).any Footprint.stores || (s.t.vq ++ s.t.xdec).any fun e => e.folio.any Prod.snd

/-- Step 1 of R375: the descriptor of `n` words at the address that a register holds, behind posted matrix stores (R300). -/
def commandDesc (fa : BitVec 5) (n : Nat) (f : List Word → State → Res) (s0 : State) : Res :=
  let s := settleMatrix s0
  let a := getS s fa
  if n ≠ 0 ∧ canonical a ∧ a.toNat % 64 ≠ 0 then .trap (addrTrap 0x03 a 0) s
  else if n ≠ 0 ∧ conflicts s a (8 * n) false then .stall s
  else
    match loadWords a n 0 s with
    | .bad t s1 => .trap t s1
    | .ok d s1 => f d s1

/-- Steps 1 and 2 of R375: the descriptor, then the barrier operand of FC; s0 names none. -/
def commandOperands (o : LE) (n : Nat) (f : List Word → Option Word → State → Res) (s0 : State) : Res :=
  commandDesc o.fa n (fun d s1 =>
    if o.fc = 0 then f d none s1
    else
      match keyOf s1 .store (getS s1 o.fc) 16 0 with
      | .bad t s2 => .trap t s2
      | .ok _ s2 => f d (some (getS s2 o.fc)) s2) s0

/-- The words of the descriptor of an engine command, by MIN (R381, R384, R387, R412); none where a head is no command that takes one. -/
def descWords (h : BitVec 16) : Option Nat :=
  if h.extractLsb' 8 6 = 0x3C ∧ h.extractLsb' 14 2 = 3 then
    match (h.extractLsb' 0 8).toNat with
    | 0 => some 24
    | 1 | 2 | 3 | 4 => some 8
    | _ => none
  else none

/-- An engine command with a bad field (R141): its descriptor is read first, and a fault of that read is taken (R375, steps 1 and 2). -/
def illegalCommand (n : Nat) (t : BitVec 64) (s : State) : Host.Outcome State Fault Refusal :=
  let fa := t.extractLsb' 18 5
  accessOp [fa] (commandDesc fa n fun _ s1 => illegal s1) s

/-- Step 3 of R375. -/
def commandPublish (f : State → Res) (s : State) : Res := if storesQueued s then .stall s else f (publish (drainMatrix s) 4)

/-- The queue of a command's kind (R376): 0 copy, 1 put, 2 reduce. -/
def CmdKind.queue : CmdKind → Nat
  | .xcopy | .xcopyView | .zenc | .zdec => 0
  | .xput => 1
  | .xreduce => 2

/-- Two commands of one channel; the reduce queue has none (R376). -/
def Cmd.sameChannel (a b : Cmd) : Bool := a.uid == b.uid && a.kind.queue == b.kind.queue && a.chan == b.chan

/-- The commands of a thread's queue, or channel, that have been accepted and have not completed. -/
def queued (s : State) (uid q chan : Nat) : Nat :=
  (s.cmds.filter fun c => c.uid == uid && c.kind.queue == q && c.chan == chan && !c.waitingSlot).length

/-- BUSY (R375, R376): the queue is full or the completion queue has no free slot. -/
def busy (s : State) (q chan : Nat) : Bool :=
  decide (16 ≤ queued s s.t.uid q chan) || !cqHasSlot s s.t.launch

/-- A command of the current thread before its particulars. -/
def newCmd (s : State) (kind : CmdKind) (desc : List Word) (cb : Option Word) : Cmd where
  id := s.nextCmd
  uid := s.t.uid
  core := s.t.core
  slot := s.t.slot
  part := s.t.part
  launch := s.t.launch
  kind := kind
  chan := 0
  pc := s.t.pc
  desc := desc
  cb := cb
  arg0 := 0
  arg1 := 0
  count := 0
  peer := s.t.part
  folS := none
  folD := none
  needs := 0
  waitingSlot := false
  srcRead := false
  bytes := []
  carry := []
  status := 0
  addr := 0

/-- Accepts a command: it reserves a completion-queue slot and joins its queue (R375). -/
def acceptCmd (s : State) (c : Cmd) : State :=
  updLaunch { s with cmds := s.cmds ++ [c], nextCmd := s.nextCmd + 1 } c.launch fun l => { l with reserved := l.reserved + 1 }

/-- Step 5 of R375 once BADARG and NOBOUND are settled: BUSY, or acceptance. -/
def issueCmd (o : LE) (c : Cmd) (s : State) : Res :=
  if busy s c.kind.queue c.chan then .ok (setS s o.fd 1) else .ok (setS (acceptCmd s c) o.fd 0)

/-- Two byte ranges of an engine command overlap. -/
def bytesMeet (a : Word) (n : Nat) (b : Word) (m : Nat) : Bool :=
  decide (0 < n ∧ 0 < m ∧ a.toNat < b.toNat + m ∧ b.toNat < a.toNat + n)

/-- The status BADARG. -/
def badArg (o : LE) (s : State) : Res := .ok (setS s o.fd 2)

/-! ## What engines read and write -/

/-- An engine's way into memory: the command's partition on a package (R155). -/
def engineWho (part pkg die : Nat) : Who := { part := part, pkg := pkg, core := none, die := die }

def Cmd.who (c : Cmd) : Who := engineWho c.part (pkgOf c.core) (dieOf c.core)

/-- STATUS of a translation fault (R380). -/
def faultStatus (cls : Nat) : Nat := if cls = 0x05 then 0x01 else 0x02

/-- What an engine's access gives: a value, or the status and address that end the command. -/
inductive Eng (α : Type) where
  | ok (a : α) (s : State)
  | bad (status addr : Nat) (s : State)

/-- The key of an address for an engine that accesses `n` bytes; a view's guard over some of them gives PROT (R402). -/
def engineKey (s : State) (w : Who) (acc : Access) (va : Word) (n : Nat) : Eng Nat :=
  if canonical va && (guardedIn s w.part w.pkg va.toNat n).isSome then .bad 0x02 (va.toNat % 2 ^ 57) s
  else match translate s w acc va with
  | .ok k s1 => .ok k (fillBlock s1 k)
  | .fault c s1 => .bad (faultStatus c) (va.toNat % 2 ^ 57) s1

/-- Reads one unit of `n` bytes at its home (R393). -/
def engineRead (s : State) (w : Who) (va : Word) (n : Nat) : Eng (List Byte) :=
  match engineKey s w .load va n with
  | .bad st a s1 => .bad st a s1
  | .ok k s1 => if homeBad s1 k n then .bad 0x04 (va.toNat % 2 ^ 57) s1 else .ok (s1.home.readN n k) s1

/-- Reads `n` bytes from an address on, byte by byte: the bytes before the first failure, with it. -/
def engineReadBytes (w : Who) (va : Word) : Nat → Nat → State → List Byte × Option (Nat × Nat) × State
  | 0, _, s => ([], none, s)
  | n + 1, j, s =>
    match engineRead s w (va + BitVec.ofNat 64 j) 1 with
    | .bad st a s1 => ([], some (st, a), s1)
    | .ok bs s1 =>
      let r := engineReadBytes w va n (j + 1) s1
      (bs ++ r.1, r.2)

/-- The keys of bytes written from an address on: those before the first failure, with it. -/
def engineKeys (w : Who) (va : Word) : Nat → Nat → State → List Nat × Option (Nat × Nat) × State
  | 0, _, s => ([], none, s)
  | n + 1, j, s =>
    match engineKey s w .store (va + BitVec.ofNat 64 j) 1 with
    | .bad st a s1 => ([], some (st, a), s1)
    | .ok k s1 =>
      let r := engineKeys w va n (j + 1) s1
      (k :: r.1, r.2)

/-- Bytes as a decrement carries them: each key once, with its place and its final value. -/
def carriedBytes (n : Nat) (kvs : List (Nat × Byte)) : List (Nat × Nat × Byte) :=
  (kvs.foldl (fun (m : List (Nat × Byte)) p => p :: m.filter fun q => q.1 != p.1) []).map fun p => (p.1, n, p.2)

/-! ## Completion -/

/-- CLASS of an engine command's entry (R437). -/
def statusClass (st : Nat) : Nat :=
  match st with
  | 0x01 => 0x05
  | 0x02 => 0x04
  | 0x04 => 0x0E
  | 0x05 => 0x18
  | 0x06 => 0x19
  | 0x07 => 0x1A
  | 0x08 => 0x1B
  | 0x09 => 0x0B
  | 0x0A => 0x0C
  | _ => 0

/-- UNIT of an engine (R379). -/
def Cmd.unit (c : Cmd) : Nat := 2 ^ 14 + dieOf c.core % 8 * 2 ^ 11 + c.kind.queue * 2 ^ 8

/-- A command completes: its entry is written into the slot it reserved, and it leaves its queue (R375, R379, R380). Uncorrectable data that
it has met is logged (R444, R445). -/
def completeCmd (s : State) (c : Cmd) (status addr : Nat) (fl : Fl) : State :=
  let ws := entryWords 0x03 (statusClass status) (if status = 0 then 0 else c.unit) status (if status = 0 then 0 else addr) c.pc
    c.slot fl.toNat
  let s0 := if status = 0x04 then logError s (dieOf c.core) 0x0E 0x04 c.unit c.part addr else s
  let s1 := { s0 with cmds := s0.cmds.filter fun x => x.id != c.id }
  postCommandEntry s1 c.launch ws

def cmdOf (s : State) (id : Nat) : Option Cmd := s.cmds.find? fun c => c.id == id

/-- Commands of one channel complete in issue order (R376). -/
def isOldest (s : State) (c : Cmd) : Bool :=
  c.kind.queue == 2 || s.cmds.all fun x => !(x.sameChannel c) || decide (c.id ≤ x.id)

/-- A barrier's decrement by an engine (R390): the status it adds to the command's. -/
def signal (s : State) (w : Who) (cb : Word) (d : Nat) (bytes : List (Nat × Nat × Byte)) : Nat × Nat × State :=
  match engineKey s w .store cb 16 with
  | .bad st a s1 => (st, a, s1)
  | .ok k s1 =>
    if cbBad s1 w k then (0x04, cb.toNat % 2 ^ 57, s1)
    else
      let r := decrement s1 w k d bytes
      (if r.1 then 0 else 0x08, 0, r.2)

/-- The end of a command that succeeded, whose writes took place `n`: its barrier is decremented by its size, carrying the bytes;
a spent barrier is no failure of a copy, a codec or a collective (R380, R390). -/
def signalEnd (s : State) (c : Cmd) (d : Nat) (bytes : List (Nat × Nat × Byte)) : Nat × Nat × State :=
  match c.cb with
  | none => (0, 0, s)
  | some cb =>
    let r := signal s c.who cb d bytes
    if r.1 = 0x08 then (0, 0, r.2.2) else r

/-! ## Copies -/

/-- The descriptor of an xcopy (R381), or of an xcopy.view in the fields they share. -/
structure CopyDesc where
  dty : Nat
  sty : Nat
  nd : Nat
  dfol : Bool
  sfol : Bool
  sbase : Word
  dbase : Word
  slo : Word
  shi : Word
  dlo : Word
  dhi : Word
  fill : Word
  lead : List Nat
  trail : List Nat
  count : List Nat
  sstr : List Word
  dstr : List Word
  deriving DecidableEq, Repr

/-- Reads an xcopy descriptor. -/
def CopyDesc.dec (d : List Word) : CopyDesc :=
  let w0 := d.getD 0 0
  let nd := (w0.extractLsb' 11 3).toNat
  let dims := (d.drop 8).take nd
  { dty := (w0.extractLsb' 19 5).toNat, sty := (w0.extractLsb' 14 5).toNat, nd := nd, dfol := w0.getLsbD 10, sfol := w0.getLsbD 9,
    sbase := d.getD 1 0, dbase := d.getD 2 0, slo := d.getD 3 0, shi := d.getD 4 0, dlo := d.getD 5 0, dhi := d.getD 6 0,
    fill := d.getD 7 0, lead := dims.map fun w => (w.extractLsb' 32 16).toNat, trail := dims.map fun w => (w.extractLsb' 48 16).toNat,
    count := dims.map fun w => (w.extractLsb' 0 32).toNat, sstr := (d.drop 13).take nd, dstr := (d.drop 18).take nd }

/-- E_k of each dimension (R381). -/
def CopyDesc.extents (c : CopyDesc) : List Nat := (c.lead.zip (c.trail.zip c.count)).map fun p => p.1 + p.2.1 + p.2.2

def product (l : List Nat) : Nat := l.foldl (· * ·) 1

/-- BYTES of R381. -/
def CopyDesc.size (c : CopyDesc) : Nat := typeWidth c.dty / 8 * product c.extents

/-- An address or the offset of a folio reference (R381). -/
def baseOf (fol : Bool) (w : Word) : Word := if fol then w &&& 0x3FFFFF else w

/-- R381's rules on a descriptor that do not look at folios. -/
def copyOk (d : List Word) : Bool :=
  let w0 := d.getD 0 0
  let c := CopyDesc.dec d
  let zs := typeWidth c.sty / 8
  let zd := typeWidth c.dty / 8
  let strideOk := fun (z : Nat) (l : List (Nat × Word)) => l.all fun p => decide (p.1 ≤ 1) || p.2.toNat % z == 0
  w0.extractLsb' 24 40 == 0 && w0.extractLsb' 0 9 == 0 && d.getD 23 0 == 0 &&
    decide (c.dty ≤ 0x0E ∧ c.sty ≤ 0x0E ∧ 1 ≤ c.nd ∧ c.nd ≤ 5) && ((c.dty == 0x0E) == (c.sty == 0x0E)) &&
    !(c.sfol && c.sbase.extractLsb' 26 38 != 0) && !(c.dfol && c.dbase.extractLsb' 26 38 != 0) &&
    decide (c.size < 2 ^ 48) && (baseOf c.sfol c.sbase).toNat % zs == 0 && (baseOf c.dfol c.dbase).toNat % zd == 0 &&
    strideOk zs (c.count.zip c.sstr) && strideOk zd (c.extents.zip c.dstr) &&
    !(!c.sfol && !c.dfol && decide (c.slo.toNat < c.dhi.toNat ∧ c.dlo.toNat < c.shi.toNat ∧ c.slo.toNat < c.shi.toNat ∧
      c.dlo.toNat < c.dhi.toNat))

/-- The entry a folio reference names: a wait while it fills (R375 step 4), none when it is not usable (BADARG). -/
def refEntry (s : State) (fol : Bool) (w : Word) : Named × Bool :=
  if fol then
    match nameFolio s (w.extractLsb' 22 4).toNat with
    | .ready e => (.ready e, true)
    | .filling => (.filling, true)
    | .unbound => (.unbound, false)
  else (.unbound, true)

def Named.isFilling : Named → Bool
  | .filling => true
  | .ready _ | .unbound => false

def Named.index : Named → Option Nat
  | .ready e => some e.index
  | .filling | .unbound => none

/-- `xcopy sd, sa, sc` (R383). -/
def execXcopy (o : LE) (s : State) : Host.Outcome State Fault Refusal :=
  accessOp [o.fa, o.fc] (commandOperands o 24 fun d cb s1 => commandPublish (fun s2 =>
    let c := CopyDesc.dec d
    let src := refEntry s2 c.sfol c.sbase
    let dst := refEntry s2 c.dfol c.dbase
    if src.1.isFilling ∨ dst.1.isFilling then .stall s2
    else if copyOk d = false ∨ src.2 = false ∨ dst.2 = false then badArg o s2
    else
      issueCmd o { newCmd s2 .xcopy d cb with folS := src.1.index, folD := dst.1.index } s2) s1) s

/-- The index tuple of element `p` of a box, dimension 0 fastest. -/
def boxIndex : List Nat → Nat → List Nat
  | [], _ => []
  | e :: r, p => p % e :: boxIndex r (p / e)

/-- The dot product of indices and strides, mod 2^64. -/
def strideSum (js : List Int) (st : List Word) : Word := (js.zip st).foldl (fun a p => a + BitVec.ofInt 64 p.1 * p.2) 0

/-- In bounds by R161. -/
def inBounds (lo hi a : Word) (z : Nat) : Bool := decide (lo.toNat ≤ a.toNat ∧ a.toNat + z ≤ hi.toNat)

/-- A byte an engine has written or would read: the writes of the running command first. -/
def overlay (w : List (Nat × Byte)) (m : Memory) (k : Nat) : Byte :=
  match w.find? fun p => p.1 == k with
  | some p => p.2
  | none => m.read k

/-- The key of a folio offset that an engine names in a captured entry: PROT outside the folio or when the entry is gone. -/
def folioRefKey (s : State) (core : Nat) (entry : Option Nat) (off : Word) (z : Nat) : Eng Nat :=
  match entry.bind (folioAt s core) with
  | some e =>
    if e.state = .ready ∧ off.toNat + z ≤ e.size then .ok (e.key off.toNat) s else .bad 0x02 (off.toNat % 2 ^ 57) s
  | none => .bad 0x02 (off.toNat % 2 ^ 57) s

/-- One side of a copy: the key of an element. -/
def sideKey (s : State) (c : Cmd) (fol : Bool) (entry : Option Nat) (acc : Access) (a : Word) (z : Nat) : Eng Nat :=
  if fol then folioRefKey s c.core entry a z else engineKey s c.who acc a z

/-- The destination element's conversion (R382): RNE, integer destinations saturating; fpos bit for bit. -/
def copyCvt (dty sty x : Nat) : Nat × Fl := if dty = 0x0E then (x, 0) else convertElem dty sty 0 false x

/-- The state of a copy under way: the bytes written so far, newest first, and the flags. -/
structure CopyRun where
  written : List (Nat × Byte)
  fl : Fl
  bad : Option (Nat × Nat)

/-- Whether a put that is landing has written one of the bytes: a command that would write it too completes after that put (R394; log 21). -/
def landedBy (s : State) (keys : List Nat) : Bool :=
  s.cmds.any fun c => c.kind == .xput && !c.carry.isEmpty && c.carry.any fun q => keys.contains q.1

/-- The value that element `p` of the box delivers: FILL read as the source type in the padding, else the source element by R161 and
R162 (R382). -/
def copySource (c : Cmd) (d : CopyDesc) (js : List Nat) (w : List (Nat × Byte)) (s : State) : Eng Nat :=
  let pad := (js.zip (d.lead.zip d.count)).any fun x => decide (x.1 < x.2.1 ∨ x.2.1 + x.2.2 ≤ x.1)
  let z := typeWidth d.sty / 8
  let off := (js.zip d.lead).map fun x => (x.1 : Int) - x.2
  let sa := baseOf d.sfol d.sbase + strideSum off d.sstr
  if pad then .ok (d.fill.toNat % 2 ^ (8 * z)) s
  else if inBounds d.slo d.shi sa z = false then .ok (fillElem d.fill.toNat d.sty) s
  else
    match sideKey s c d.sfol c.folS .load sa z with
    | .bad st a s1 => .bad st a s1
    | .ok k s1 =>
      if homeBad s1 k z then .bad 0x04 (sa.toNat % 2 ^ 57) s1
      else .ok (leNat ((List.range z).map fun i => overlay w s1.home (k + i))) s1

/-- The copy engine on elements `p` on (R382). -/
def copyLoop (c : Cmd) (d : CopyDesc) : Nat → Nat → CopyRun → State → CopyRun × State
  | 0, _, r, s => (r, s)
  | n + 1, p, r, s =>
    let js := boxIndex d.extents p
    let z := typeWidth d.dty / 8
    let da := baseOf d.dfol d.dbase + strideSum (js.map fun j => (j : Int)) d.dstr
    match copySource c d js r.written s with
    | .bad st a s1 => ({ r with bad := some (st, a) }, s1)
    | .ok x s1 =>
      let v := copyCvt d.dty d.sty x
      let r1 := { r with fl := r.fl ||| v.2 }
      if inBounds d.dlo d.dhi da z = false then copyLoop c d n (p + 1) r1 s1
      else
        match sideKey s1 c d.dfol c.folD .store da z with
        | .bad st a s2 => ({ r with bad := some (st, a) }, s2)
        | .ok k s2 =>
          let bs := (natLe z v.1).mapIdx fun i b => (k + i, b)
          copyLoop c d n (p + 1) { r1 with written := bs.reverse ++ r.written } s2

/-- A copy that has run: its bytes are published, its barrier decremented by BYTES, its entry written (R383). -/
def copyEnd (c : Cmd) (d : CopyDesc) (r : CopyRun) (s : State) : State :=
  let kvs := r.written.reverse
  let w := engineWrite s (pkgOf c.core) kvs
  let s1 := match c.folD with
    | some i => if kvs.isEmpty then w.1 else updFolio w.1 c.core i fun e => { e with clean := false, view := none }
    | none => w.1
  match r.bad with
  | some (st, a) => completeCmd s1 c st a r.fl
  | none =>
    let g := signalEnd s1 c d.size (carriedBytes w.2 kvs)
    completeCmd g.2.2 c g.1 g.2.1 r.fl

/-- XCOPY_COMPLETE (R382, R383). -/
def execXcopyComplete (cmd : Nat) (s : State) : Host.Outcome State Fault Refusal :=
  match cmdOf s cmd with
  | none => happening s
  | some c =>
    if c.kind = .xcopy ∧ isOldest s c then
      let d := CopyDesc.dec c.desc
      let r := copyLoop c d (product d.extents) 0 { written := [], fl := 0, bad := none } s
      if landedBy s (r.1.written.map Prod.fst) then happening s else happening (copyEnd c d r.1 r.2)
    else happening s

/-! ## Puts -/

/-- The bridle between two adjacent dies of a package (R10). -/
def bridleOf (a b : Nat) : Nat :=
  let lo := min a b
  if a / 4 = b / 4 then (if lo < 4 then lo else lo - 1) else 6 + lo

/-- The steps of the route between two dies of a package: along the row, then along the column (R11). -/
def dieRoute (a b : Nat) : List (Nat × Nat) :=
  let row := a / 4 * 4
  let cols := if a % 4 ≤ b % 4 then (List.range (b % 4 - a % 4)).map fun i => (a + i, a + i + 1)
    else (List.range (a % 4 - b % 4)).map fun i => (a - i, a - i - 1)
  let turn := row + b % 4
  cols ++ (if turn = b then [] else [(turn, b)])

/-- The paths of R26 that a route between two dies of a package uses. -/
def diePaths (pkg a b : Nat) : List Path := (dieRoute a b).map fun p => .bridle pkg (bridleOf p.1 p.2) (decide (p.1 < p.2))

/-- A spar link direction from its number in `Config.sparRoute`. -/
def sparPath (n : Nat) : Path := .spar (n / 2 / 16) (n / 2 % 16) (n % 2 == 1)

/-- The paths from an issuing die to a die of a package (R376). -/
def routePaths (die pkg tgt : Nat) : List Path :=
  if die / 8 = pkg then diePaths pkg (die % 8) tgt
  else
    let ls := Config.sparRoute (die / 8) pkg
    let first := (ls.headD 0) / 2 % 16 / 2
    let last := (ls.getLastD 0) / 2 % 16 / 2
    diePaths (die / 8) (die % 8) first ++ ls.map sparPath ++ diePaths pkg last tgt

/-- The paths that every route from a die to a package has in common: to the die of the first spar link, and the links (R376). -/
def linkPaths (die pkg : Nat) : List Path :=
  if die / 8 = pkg then []
  else
    let ls := Config.sparRoute (die / 8) pkg
    diePaths (die / 8) (die % 8) ((ls.headD 0) / 2 % 16 / 2) ++ ls.map sparPath

/-- h of R376: the spar links on the route. -/
def hopsOf (a b : Nat) : Nat := if a = b then 0 else (Config.sparRoute a b).length

/-- The home dies, within their package, of a range and of a barrier; unmapped parts are met at landing. -/
def homeDies (s : State) (part pkg : Nat) (vas : List Word) : List Nat :=
  (vas.filterMap fun va =>
    match walk s part pkg (va.toNat % 2 ^ 57) with
    | .leaf _ e l => some (homeDie (field e 51 16 * 2 ^ 16 + va.toNat % 2 ^ levelShift l))
    | .pageFault | .protection => none).dedup

/-- One address of each 64 KiB of a range. -/
def rangeProbes (va : Word) (n : Nat) : List Word :=
  if n = 0 then [] else va :: (List.range (n / 2 ^ 16 + 1)).filterMap fun i =>
    let a := (va.toNat / 2 ^ 16 + 1 + i) * 2 ^ 16
    if a < va.toNat + n then some (BitVec.ofNat 64 a) else none

/-- The units a partition has reserved on a path (R26). -/
def unitsOn (p : Partition) (x : Path) : Nat := (p.units.filter fun u => u.1 == x).foldl (fun a u => a + u.2) 0

/-- NOBOUND (R376). Where no byte of the destination is mapped its dies are not known, and the links of the route decide. -/
def noBound (s : State) (die dpart dpkg : Nat) (vas : List Word) : Bool :=
  decide (4 < hopsOf (die / 8) dpkg) ||
    (match partOf s s.t.part with
      | none => true
      | some p =>
        ((linkPaths die dpkg) ++ ((homeDies s dpart dpkg vas).map fun d => routePaths die dpkg d).flatten).any fun x => unitsOn p x == 0)

/-- The destination of a put (R384): partition, package, address and barrier address; none when the descriptor breaks its rules. -/
def putDest (s : State) (d : List Word) : Option (Nat × Nat × Word × Word) :=
  let w0 := d.getD 0 0
  let tid := (w0.extractLsb' 32 12).toNat
  let dpkg := (w0.extractLsb' 48 8).toNat
  let sig := w0.getLsbD 0
  let len := (d.getD 2 0).toNat
  let dst := d.getD 3 0
  let dcb := d.getD 4 0
  if w0.extractLsb' 56 7 ≠ 0 ∨ w0.extractLsb' 44 4 ≠ 0 ∨ w0.extractLsb' 1 31 ≠ 0 ∨ 2 ^ 24 < len ∨ (d.drop 5).any (· != 0) ∨
      (sig ∧ dcb.toNat % 16 ≠ 0) then none
  else if w0.getLsbD 63 then
    match s.tethers.find? fun t => t.sender == s.t.part && t.senderTid == tid && !t.revoked with
    | none => none
    | some t =>
      if tid = 0 ∨ dpkg ≠ 0 ∨ t.size < dst.toNat + len ∨ (sig ∧ t.size < dcb.toNat + 16) then none
      else some (t.receiver, t.pkg, BitVec.ofNat 64 (t.base + dst.toNat), BitVec.ofNat 64 (t.base + dcb.toNat))
  else
    match partOf s s.t.part with
    | none => none
    | some p =>
      if tid ≠ 0 ∨ (p.quads.all fun q => q / 96 != dpkg) then none else some (s.t.part, dpkg, dst, dcb)

/-- A put as its descriptor gives it. -/
def newPut (s : State) (d : List Word) (cb : Option Word) (x : Nat × Nat × Word × Word) : Cmd :=
  { newCmd s .xput d cb with chan := x.2.1, peer := x.1, arg0 := x.2.2.1, arg1 := x.2.2.2, count := (d.getD 2 0).toNat }

/-- The issue of a put up to BUSY, which `k` handles (R375, R385). -/
def putIssue (o : LE) (k : Cmd → State → Res) (s : State) : Res :=
  commandOperands o 8 (fun d cb s1 => commandPublish (fun s2 =>
    match putDest s2 d with
    | none => (badArg o s2).map advance
    | some x =>
      let c := newPut s2 d cb x
      let probes := rangeProbes c.arg0 c.count ++ (if (d.getD 0 0).getLsbD 0 then [c.arg1] else [])
      if noBound s2 (dieOf s2.t.core) x.1 x.2.1 probes then .ok (advance (setS s2 o.fd 3)) else k c s2) s1) s

/-- `xput sd, sa, sc` (R385). -/
def execXput (o : LE) (s : State) : Host.Outcome State Fault Refusal :=
  jumpOp [o.fa, o.fc] (putIssue o fun c s => (issueCmd o c s).map advance) s

/-- `xput.w sd, sa, sc` (R385): in place of BUSY it suspends, and its put waits in its channel. The checks of R195 come before
the operation starts. -/
def execXputW (o : LE) (s : State) : Host.Outcome State Fault Refusal :=
  jumpOp [o.fa, o.fc] (fun s =>
    match suspendCheck s with
    | .bad t s1 => .trap t s1
    | .ok keys s1 =>
      putIssue o (fun c s2 =>
        if busy s2 1 c.chan then
          suspendWith (.put c.id) [o.fd] keys
            (fun _ x => { x with cmds := x.cmds ++ [{ c with waitingSlot := true }], nextCmd := x.nextCmd + 1 }) s2
        else (issueCmd o c s2).map advance) s1) s

/-- Whether the tether of a put has been revoked (R386). -/
def tetherGone (s : State) (c : Cmd) : Bool :=
  (c.desc.getD 0 0).getLsbD 63 &&
    !(s.tethers.any fun t => t.sender == c.part && t.senderTid == ((c.desc.getD 0 0).extractLsb' 32 12).toNat && !t.revoked)

/-- PUT_WAIT_ACCEPT (R385): the put of a suspended xput.w is accepted when its channel and the completion queue both have a
free slot, in issue order. One whose tether was revoked while it waited does not land: it completes with NOPEER (R380, R386; log 21). -/
def execPutWaitAccept (cont : Nat) (s : State) : Host.Outcome State Fault Refusal :=
  match contOf s cont with
  | none => happening s
  | some k =>
    match k.waiting with
    | .put id =>
      match cmdOf s id with
      | none => happening s
      | some c =>
        let first := s.cmds.all fun x => !(x.waitingSlot && x.sameChannel c) || decide (c.id ≤ x.id)
        if first ∧ queued s c.uid 1 c.chan < 16 ∧ cqHasSlot s c.launch then
          let st := if tetherGone s c then 0x06 else 0
          let s1 := { s with cmds := updWhere s.cmds (fun x => x.id == id) fun x => { x with waitingSlot := false, status := st } }
          let s2 := updLaunch s1 c.launch fun l => { l with reserved := l.reserved + 1 }
          happening (finishCont s2 cont [0])
        else happening s
    | .take _ | .barrier _ _ | .view _ _ | .spawn _ | .done => happening s

/-- Replaces a command. -/
def updCmd (s : State) (id : Nat) (f : Cmd → Cmd) : State := { s with cmds := updWhere s.cmds (fun c => c.id == id) f }

/-- PUT_SOURCE_READ (R385 steps 1 and 2): the source bytes are read at their home; the release barrier is decremented by LEN,
carrying nothing, unless the read failed (R380). -/
def execPutSourceRead (cmd : Nat) (s : State) : Host.Outcome State Fault Refusal :=
  match cmdOf s cmd with
  | none => happening s
  | some c =>
    if c.kind = .xput ∧ c.waitingSlot = false ∧ c.srcRead = false then
      let r := engineReadBytes c.who (c.desc.getD 1 0) c.count 0 s
      match r.2.1 with
      | some (st, a) => happening (updCmd r.2.2 cmd fun x => { x with srcRead := true, status := st, addr := a })
      | none =>
        let s1 := match c.cb with
          | none => r.2.2
          | some cb => (signal r.2.2 c.who cb c.count []).2.2
        happening (updCmd s1 cmd fun x => { x with srcRead := true, bytes := r.1 })
    else happening s

/-- The way into memory at a put's destination: R385 has the destination package translate, and the model takes that package's die 0 (log 33,
DESIGN CHOICE). -/
def Cmd.destWho (c : Cmd) : Who := engineWho c.peer c.chan (c.chan * 8)

/-- Whether the destination partition has ended (R380, R386). -/
def peerEnded (s : State) (c : Cmd) : Bool := c.peer != c.part && (match partOf s c.peer with
  | some p => p.ended
  | none => true)

/-- Whether a put may go on landing (R394): it is the oldest of its channel, and no other put is landing on its destination package, so that
of two puts to one byte the one that completes later has written later (log 21). -/
def landsNow (s : State) (c : Cmd) : Bool :=
  isOldest s c && s.cmds.all fun x => x.id == c.id || x.kind != .xput || x.chan != c.chan || x.carry.isEmpty

/-- PUT_PACKET_LAND (R385 step 3): the next packet, of `size` bytes or what is left, is written at the destination and
published at .pod. -/
def execPutPacketLand (cmd size : Nat) (s : State) : Host.Outcome State Fault Refusal :=
  match cmdOf s cmd with
  | none => happening s
  | some c =>
    if c.kind = .xput ∧ c.srcRead ∧ c.status = 0 ∧ c.carry.length < c.bytes.length ∧ landsNow s c then
      if peerEnded s c then happening (updCmd s cmd fun x => { x with status := 0x06 })
      else
        let k := c.carry.length
        let n := min (max 1 size) (c.bytes.length - k)
        let r := engineKeys c.destWho (c.arg0 + BitVec.ofNat 64 k) n 0 s
        let kvs := r.1.zip (c.bytes.drop k)
        let w := engineWrite r.2.2 c.chan kvs
        let s1 := updCmd w.1 cmd fun x => { x with carry := x.carry ++ kvs.map fun p => (p.1, w.2, p.2) }
        match r.2.1 with
        | some (st, a) => happening (updCmd s1 cmd fun x => { x with status := st, addr := a })
        | none => happening s1
    else happening s

/-- PUT_COMPLETE (R385 steps 4 and 5): every packet has landed or the put has failed, and every earlier command of its channel
has completed; the signal is applied and the entry written. -/
def execPutComplete (cmd : Nat) (s : State) : Host.Outcome State Fault Refusal :=
  match cmdOf s cmd with
  | none => happening s
  | some c =>
    if c.kind = .xput ∧ c.srcRead ∧ isOldest s c ∧ (c.status ≠ 0 ∨ c.carry.length = c.bytes.length) then
      if c.status ≠ 0 then happening (completeCmd s c c.status c.addr 0)
      else if (c.desc.getD 0 0).getLsbD 0 then
        let g := if peerEnded s c then (0x06, 0, s) else signal s c.destWho c.arg1 c.count c.carry
        happening (completeCmd g.2.2 c g.1 g.2.1 0)
      else happening (completeCmd s c 0 0 0)
    else happening s

end Sys2Proof.Machine
end

