-- ==== Sys2Proof/Machine/Collectives.lean ====
section
/-! DEFINITION. Collectives: xreduce and the formation of its result (R56, R57, R387, R388). -/

namespace Sys2Proof.Machine

/-- The descriptor of an xreduce (R387). -/
structure ReduceDesc where
  dty : Nat
  ty : Nat
  bl : Nat
  mode : Nat
  op : Nat
  np : Nat
  pix : Nat
  src : Word
  dst : Word
  n : Nat
  key : Word
  ssc : Word
  dsc : Word
  deriving DecidableEq, Repr

def ReduceDesc.dec (d : List Word) : ReduceDesc :=
  let w := (d.getD 0 0).toNat
  { dty := field w 63 59, ty := field w 58 54, bl := field w 53 52, mode := field w 51 50, op := field w 49 48,
    np := field w 47 32 + 1, pix := field w 31 16, src := d.getD 1 0, dst := d.getD 2 0, n := field (d.getD 3 0).toNat 31 0,
    key := d.getD 4 0, ssc := d.getD 5 0, dsc := d.getD 6 0 }

/-- The bytes of N elements of a type: whole plane blocks for bfpm (R388). -/
def elemBytes (ty n : Nat) : Nat := if isBfp ty then (n + 255) / 256 * (32 * (ty - 0x10 + 2)) else n * (typeWidth ty / 8)

/-- The bytes of the scale array of N elements of a type. -/
def scaleBytes (ty bl n : Nat) : Nat := if isBfp ty then (n + 2 ^ (bl + 3) - 1) / 2 ^ (bl + 3) else 0

/-- The result bytes of R388. -/
def ReduceDesc.size (d : ReduceDesc) : Nat := elemBytes d.dty d.n + scaleBytes d.dty d.bl d.n

/-- The combinations of R387. -/
def ReduceDesc.admitted (d : ReduceDesc) : Bool :=
  match d.mode with
  | 1 => d.op == 0 && (d.ty == 0x0C || isBfp d.ty) && (d.dty == 0x0C || d.dty == 0x0B || isBfp d.dty)
  | 2 => d.op == 0 && d.ty == 0x0D && d.dty == 0x0D
  | 0 => decide (d.op ≤ 2 ∧ d.ty ∈ [0x02, 0x03, 0x06, 0x07, 0x0C, 0x0D, 0x0B]) && d.dty == d.ty
  | _ => false

/-- R387's rules on a descriptor. -/
def reduceOk (ws : List Word) : Bool :=
  let d := ReduceDesc.dec ws
  let srcs := [(d.src, elemBytes d.ty d.n), (d.ssc, scaleBytes d.ty d.bl d.n)]
  let dsts := [(d.dst, elemBytes d.dty d.n), (d.dsc, scaleBytes d.dty d.bl d.n)]
  (ws.getD 0 0).extractLsb' 0 16 == 0 && (ws.getD 3 0).extractLsb' 32 32 == 0 && ws.getD 7 0 == 0 && decide (d.n ≤ 2 ^ 24) &&
    decide (d.pix < d.np) && d.admitted && !(srcs.any fun x => dsts.any fun y => bytesMeet x.1 x.2 y.1 y.2)

/-- Word 0 without PIX. -/
def matchWord (ws : List Word) : Nat := (ws.getD 0 0 &&& ~~~(0xFFFF0000 : Word)).toNat

/-- An accepted arrival joins its collective, or ends with MISMATCH (R388). -/
def joinCollective (s : State) (c : Cmd) : State :=
  let d := ReduceDesc.dec c.desc
  match s.colls.find? fun x => x.part == c.part && x.key == d.key with
  | none =>
    { s with colls := s.colls ++ [{ part := c.part, key := d.key, word0 := matchWord c.desc, n := d.n, arrivals := [(d.pix, c.id)] }] }
  | some x =>
    if x.word0 ≠ matchWord c.desc ∨ x.n ≠ d.n ∨ (assoc x.arrivals d.pix).isSome then completeCmd s c 0x07 0 0
    else
      { s with
        colls := updWhere s.colls (fun y => y.part == c.part && y.key == d.key) fun y =>
          { y with arrivals := y.arrivals ++ [(d.pix, c.id)] } }

/-- `xreduce sd, sa, sc` (R388). -/
def execXreduce (o : LE) (s : State) : Host.Outcome State Fault Refusal :=
  accessOp [o.fa, o.fc] (commandOperands o 8 fun d cb s1 => commandPublish (fun s2 =>
    if reduceOk d = false then badArg o s2
    else
      let c := newCmd s2 .xreduce d cb
      if busy s2 2 0 then .ok (setS s2 o.fd 1) else .ok (setS (joinCollective (acceptCmd s2 c) c) o.fd 0)) s1) s

/-! ## The result -/

/-- A contribution as read: its elements' bytes and its scale bytes. -/
structure Contrib where
  data : List Byte
  scales : List Byte
  deriving DecidableEq, Repr

/-- Element `i` of a contribution that is not bfpm. -/
def Contrib.elem (c : Contrib) (ty i : Nat) : Nat :=
  let z := typeWidth ty / 8
  leNat ((c.data.drop (i * z)).take z)

/-- The value of element `i` of a contribution (R47), with the flags of a poisoned block. -/
def Contrib.value (c : Contrib) (d : ReduceDesc) (i : Nat) : FVal × Fl :=
  if isBfp d.ty then
    let m := d.ty - 0x10 + 2
    let e := (c.scales.getD (i / 2 ^ (d.bl + 3)) 0).toNat
    let x := planeElem m (i % 256) fun b => c.data.getD (i / 256 * (32 * m) + b) 0
    (bfpValue m e (bfpMant m x), if e = 255 then flNV ||| flPZ else 0)
  else ((fmtOf d.ty).value (c.elem d.ty i), 0)

def FVal.isInf (neg : Bool) : FVal → Bool
  | .inf n => n == neg
  | _ => false

/-- The exact sum of R56, before its one rounding: in multiples of 2^−149. -/
def exactSum (vs : List FVal) : FVal × Fl :=
  let p := vs.any (FVal.isInf false)
  let n := vs.any (FVal.isInf true)
  if vs.any FVal.isNan ∨ (p ∧ n) then (.nan false, flNV)
  else if p then (.inf false, 0)
  else if n then (.inf true, 0)
  else
    let t := (scaleInts (-149) vs).foldl (fun (a : Int) x => a + x) 0
    (.fin (decide (t < 0)) t.natAbs (-149), 0)

/-- Removes element `i` of a list. -/
def without (l : List Nat) (i : Nat) : List Nat := l.take i ++ l.drop (i + 1)

/-- A binary tree of the engine's choosing (R57; log 8): two of the values left are combined, until one is left. -/
def freeTree (op : Nat → Nat → Nat × Fl) (seed : Nat) : Nat → List Nat → Fl → Nat × Fl
  | 0, l, fl => (l.headD 0, fl)
  | k + 1, l, fl =>
    let i := Config.freeNat (seed + 2 * k) % l.length
    let r := without l i
    let j := Config.freeNat (seed + 2 * k + 1) % r.length
    let v := op (l.getD i 0) (r.getD j 0)
    freeTree op seed k (v.1 :: without r j) (fl ||| v.2)

/-- The node of a sum, a maximum or a minimum of a type: integer sums wrap, fp nodes round RNE (R40, R57, R387). -/
def reduceNode (ty op x y : Nat) : Nat × Fl :=
  if isFloat ty then
    let f := fmtOf ty
    if op = 0 then fAdd f 0 false (f.value x) (f.value y) else fMinMax f (op == 1) x y
  else
    let a := readInt ty x
    let b := readInt ty y
    (truncInt (if op = 0 then a + b else if op = 1 then max a b else min a b) (typeWidth ty), 0)

/-- Element `i` of an ordered or other collective; the contributions stand by index. -/
def reduceElem (d : ReduceDesc) (cs : List Contrib) (seed i : Nat) : Nat × Fl :=
  let xs := cs.map fun c => c.elem d.ty i
  if d.mode = 2 then
    let r := tree (reduceNode d.ty 0) (xs.map some)
    (r.1.getD 0, r.2)
  else freeTree (reduceNode d.ty d.op) (seed + i * 2 ^ 17) (xs.length - 1) xs 0

/-- The sum of element `i` in exact mode, with the flags of its contributions. -/
def exactElem (d : ReduceDesc) (cs : List Contrib) (i : Nat) : FVal × Fl :=
  let vs := cs.map fun c => c.value d i
  let r := exactSum (vs.map Prod.fst)
  (r.1, vs.foldl (fun (a : Fl) v => a ||| v.2) r.2)

/-- The result's element bytes, scale bytes and flags. -/
structure Reduced where
  data : List Byte
  scales : List Byte
  fl : Fl
  deriving DecidableEq, Repr

/-- A bfpm result (R50, R160): every block quantised, mantissas in plane blocks. -/
def bfpResult (d : ReduceDesc) (vs : List (FVal × Fl)) : Reduced :=
  let m := d.dty - 0x10 + 2
  let b := 2 ^ (d.bl + 3)
  let qs := (List.range (scaleBytes d.dty d.bl d.n)).map fun j => quantise m (((vs.drop (j * b)).take b).map Prod.fst)
  let mants := (qs.map fun q => q.2.1).flatten
  let planes := (List.range ((d.n + 255) / 256)).map fun k =>
    planeBytes m (min 256 (d.n - 256 * k)) fun p => bfpByte (mants.getD (256 * k + p) 0)
  { data := planes.flatten, scales := qs.map fun q => BitVec.ofNat 8 q.1,
    fl := qs.foldl (fun (a : Fl) q => a ||| q.2.2) (vs.foldl (fun (a : Fl) v => a ||| v.2) 0) }

/-- The result of a collective, formed once, element by element (R388). -/
def reduced (d : ReduceDesc) (cs : List Contrib) (seed : Nat) : Reduced :=
  let is := List.range d.n
  if d.mode = 1 then
    let vs := is.map (exactElem d cs)
    if isBfp d.dty then bfpResult d vs
    else
      let rs := vs.map fun v =>
        let r := fConvert (fmtOf d.dty) 0 false v.1
        (r.1, r.2 ||| v.2)
      { data := (rs.map fun r => natLe (typeWidth d.dty / 8) r.1).flatten, scales := [],
        fl := rs.foldl (fun (a : Fl) r => a ||| r.2) 0 }
  else
    let rs := is.map (reduceElem d cs seed)
    { data := (rs.map fun r => natLe (typeWidth d.dty / 8) r.1).flatten, scales := [],
      fl := rs.foldl (fun (a : Fl) r => a ||| r.2) 0 }

/-- Reads the contribution of a participant; the failure with which it ends, if any. -/
def readContrib (c : Cmd) (s : State) : (Contrib × Option (Nat × Nat)) × State :=
  let d := ReduceDesc.dec c.desc
  let a := engineReadBytes c.who d.src (elemBytes d.ty d.n) 0 s
  match a.2.1 with
  | some f => (({ data := [], scales := [] }, some f), a.2.2)
  | none =>
    let b := engineReadBytes c.who d.ssc (scaleBytes d.ty d.bl d.n) 0 a.2.2
    (({ data := a.1, scales := b.1 }, b.2.1), b.2.2)

/-- Reads every participant's contribution in index order. -/
def readContribs : List Cmd → State → List (Contrib × Option (Nat × Nat)) × State
  | [], s => ([], s)
  | c :: r, s =>
    let x := readContrib c s
    let y := readContribs r x.2
    (x.1 :: y.1, y.2)

/-- One participant receives the result: published, its barrier decremented by the result bytes, its entry last (R388). -/
def deliverResult (r : Reduced) (s : State) (c : Cmd) : State :=
  let d := ReduceDesc.dec c.desc
  let a := engineKeys c.who d.dst r.data.length 0 s
  let b := if a.2.1.isSome then ([], none, a.2.2) else engineKeys c.who d.dsc r.scales.length 0 a.2.2
  let kvs := a.1.zip r.data ++ b.1.zip r.scales
  let w := engineWrite b.2.2 (pkgOf c.core) kvs
  match a.2.1.orElse fun _ => b.2.1 with
  | some (st, ad) => completeCmd w.1 c st ad r.fl
  | none =>
    let g := signalEnd w.1 c d.size (carriedBytes w.2 kvs)
    completeCmd g.2.2 c g.1 g.2.1 r.fl

/-- Whether a participant's result would be written over bytes of a put that is landing (R394). -/
def resultWaits (r : Reduced) (s : State) (c : Cmd) : Bool :=
  let d := ReduceDesc.dec c.desc
  landedBy s ((engineKeys c.who d.dst r.data.length 0 s).1 ++ (engineKeys c.who d.dsc r.scales.length 0 s).1)

/-- COLLECTIVE_FORM (R388): once NP distinct indices have arrived, the result is formed and the key freed. When a contribution
cannot be read, its participant ends with that status and every other one with MISMATCH. -/
def execCollectiveForm (part : Nat) (key : Word) (s : State) : Host.Outcome State Fault Refusal :=
  match s.colls.find? fun x => x.part == part && x.key == key with
  | none => happening s
  | some x =>
    let np := field x.word0 47 32 + 1
    let cs := (List.range np).filterMap fun p => (assoc x.arrivals p).bind (cmdOf s)
    if cs.length = np then
      let s1 := { s with colls := s.colls.filter fun y => !(y.part == part && y.key == key) }
      let r := readContribs cs s1
      if r.1.any fun c => c.2.isSome then
        happening ((cs.zip r.1).foldl (fun a p => match p.2.2 with
          | some (st, ad) => completeCmd a p.1 st ad 0
          | none => completeCmd a p.1 0x07 0 0) r.2)
      else
        let d := ReduceDesc.dec ((cs.headD (newCmd s .xreduce [] none)).desc)
        let v := reduced d (r.1.map Prod.fst) (r.2.fresh * 2 ^ 64)
        if cs.any (resultWaits v s) then happening s
        else happening (cs.foldl (deliverResult v) { r.2 with fresh := r.2.fresh + 1 })
    else happening s

end Sys2Proof.Machine
end

