-- ==== Sys2Proof/Machine/Compression.lean ====
section
/-! DEFINITION. zenc and zdec (R280 to R284, R291). -/

namespace Sys2Proof.Machine

/-- n of R291. -/
def codecBlocks (o : LE) : Nat := (o.imm.extractLsb' 0 12).toNat + 1

/-- Bytes of the raw side and of the image side: slots, then descriptor bytes. -/
def rawSize (n : Nat) : Nat := 4096 * n
def imageSize (n : Nat) : Nat := 4096 * n + n

/-- The issue of a codec command (R291, R375): `kind` tells which side is raw. -/
def codecOp (kind : CmdKind) (o : LE) (s : State) : Host.Outcome State Fault Refusal :=
  accessOp [o.fa, o.fb, o.fc] (fun s =>
    let n := codecBlocks o
    let a := getS s o.fa
    let b := getS s o.fb
    let sizes := if kind = .zenc then (rawSize n, imageSize n) else (imageSize n, rawSize n)
    if a.toNat % 4096 ≠ 0 then .trap (addrTrap 0x03 a 0) s
    else if b.toNat % 4096 ≠ 0 then .trap (addrTrap 0x03 b 0) s
    else
      commandOperands o 0 (fun _ cb s1 => commandPublish (fun s2 =>
        if bytesMeet a sizes.1 b sizes.2 then badArg o s2
        else issueCmd o { newCmd s2 kind [] cb with arg0 := a, arg1 := b, count := n } s2) s1) s) s

/-- `zenc sd, sa, sb, sc, #n` (R291). -/
def execZenc (o : LE) (s : State) : Host.Outcome State Fault Refusal := codecOp .zenc o s

/-- `zdec sd, sa, sb, sc, #n` (R291). -/
def execZdec (o : LE) (s : State) : Host.Outcome State Fault Refusal := codecOp .zdec o s

/-- The bytes that one block writes, by address, or the status and address that end the command. -/
abbrev BlockOut := Except (Nat × Nat) (List (Word × List Byte))

/-- Block `j` encoded: its SECT sectors and its descriptor byte (R284, R291). -/
def zencBlock (c : Cmd) (j : Nat) (s : State) : BlockOut × State :=
  let r := engineReadBytes c.who (c.arg0 + BitVec.ofNat 64 (4096 * j)) 4096 0 s
  match r.2.1 with
  | some f => (.error f, r.2.2)
  | none =>
    let e := encodeBlock r.1
    (.ok [(c.arg1 + BitVec.ofNat 64 (4096 * j), e.2), (c.arg1 + BitVec.ofNat 64 (4096 * c.count + j), [BitVec.ofNat 8 e.1])], r.2.2)

/-- Block `j` decoded (R282, R283, R291): a malformed image gives FORMAT with ADDR naming slot j. -/
def zdecBlock (c : Cmd) (j : Nat) (s : State) : BlockOut × State :=
  let d := engineReadBytes c.who (c.arg0 + BitVec.ofNat 64 (4096 * c.count + j)) 1 0 s
  match d.2.1 with
  | some f => (.error f, d.2.2)
  | none =>
    let sect := (d.1.headD 0).toNat % 16
    if sect = 0 ∨ 8 < sect then (.error (0x05, j), d.2.2)
    else
      let r := engineReadBytes c.who (c.arg0 + BitVec.ofNat 64 (4096 * j)) (512 * sect) 0 d.2.2
      match r.2.1 with
      | some f => (.error f, r.2.2)
      | none =>
        match decodeBlock sect r.1 with
        | some bs => (.ok [(c.arg1 + BitVec.ofNat 64 (4096 * j), bs)], r.2.2)
        | none => (.error (0x05, j), r.2.2)

/-- The keys of a block's bytes: all of them, or the failure. -/
def blockKeys (w : Who) : List (Word × List Byte) → State → Except (Nat × Nat) (List (Nat × Byte)) × State
  | [], s => (.ok [], s)
  | (a, bs) :: r, s =>
    let k := engineKeys w a bs.length 0 s
    match k.2.1 with
    | some f => (.error f, k.2.2)
    | none =>
      let q := blockKeys w r k.2.2
      match q.1 with
      | .error f => (.error f, q.2)
      | .ok l => (.ok (k.1.zip bs ++ l), q.2)

/-- The codec engine on blocks `j` on, in ascending order, each written before the next is read: what it writes, at place `place`, and the
failure that ends it. -/
def codecLoop (c : Cmd) (place : Nat) : Nat → Nat → State → (List (Nat × Byte) × Option (Nat × Nat)) × State
  | 0, _, s => (([], none), s)
  | n + 1, j, s =>
    let b := if c.kind = .zenc then zencBlock c j s else zdecBlock c j s
    match b.1 with
    | .error f => (([], some f), b.2)
    | .ok w =>
      let k := blockKeys c.who w b.2
      match k.1 with
      | .error f => (([], some f), k.2)
      | .ok kvs =>
        let r := codecLoop c place n (j + 1) (kvs.foldl (fun a p => homeWrite a p.1 p.2 place) k.2)
        ((kvs ++ r.1.1, r.1.2), r.2)

/-- ZCODEC_COMPLETE (R291): the bytes are published at .pkg, and count as an engine's writes for masters (R403); the barrier is decremented by 4096 × n, the entry written. -/
def execZcodecComplete (cmd : Nat) (s : State) : Host.Outcome State Fault Refusal :=
  match cmdOf s cmd with
  | none => happening s
  | some c =>
    if (c.kind = .zenc ∨ c.kind = .zdec) ∧ isOldest s c then
      let n := s.pubs + 1
      let r := codecLoop c n c.count 0 { s with pubs := n }
      let w := publishMasters r.2 (pkgOf c.core) (pkgOf c.core * 8) 5 (r.1.1.map fun p => (p.1, n))
      if landedBy s (r.1.1.map Prod.fst) then happening s
      else
        match r.1.2 with
        | some (st, a) => happening (completeCmd w c st a 0)
        | none =>
          let g := signalEnd w c (4096 * c.count) (carriedBytes n r.1.1)
          happening (completeCmd g.2.2 c g.1 g.2.1 0)
    else happening s

end Sys2Proof.Machine
end

