-- ==== Sys2Proof/Machine/Fetch.lean ====
section
/-! DEFINITION. Instruction fetch: lines read through translation and checked whole at entry (R116 to R122, R124, R269, R448,
R449). -/

namespace Sys2Proof.Machine

/-- The half-words of a line from its 64 bytes (R116). -/
def lineOf : List Byte → Line
  | a :: b :: r => (b ++ a) :: lineOf r
  | _ => []

/-- The line at an address, as the thread's fetch reads it at its home (R124); a page that failed its hash and a line that
holds uncorrectable data are INTEGRITY (R448, R449), and a view's guard over some of it is Protection (R402). -/
def fetchLine (s : State) (va : Word) : Got Line :=
  if canonical va && (guardedIn s s.t.part (pkgOf s.t.core) va.toNat 64).isSome then .bad (addrTrap 0x04 va 0) s
  else match translate s (me s) .fetch va with
  | .fault c s1 => .bad (addrTrap c va 0) s1
  | .ok k s1 =>
    let page := va.toNat / 2 ^ 16 * 2 ^ 16
    if s1.badPages.contains (s1.t.part, pkgOf s1.t.core, page) then .bad (addrTrap 0x0E (BitVec.ofNat 64 page) 0) s1
    else
      let s2 := fillBlock s1 k
      if s2.poison.any fun p => decide (k ≤ p ∧ p < k + 64) then .bad (addrTrap 0x0E va 0) s2
      else .ok (lineOf (s2.home.readN 64 k)) s2

/-- Line Format with a head index (R119 to R121). -/
def lineTrap (i : Nat) : Trap := mkTrap 0x02 (BitVec.ofNat 64 i)

/-- A head that a lane line may hold (R269): major and minor in the subset, no sequencer flag and no tail that carries one in
an unflagged format, and not form 0b11. -/
def laneHead (h : BitVec 16) (t : BitVec 64) : Bool :=
  let tl := (h.extractLsb' 14 2).toNat
  let maj := (h.extractLsb' 8 6).toNat
  let mn := (h.extractLsb' 0 8).toNat
  let subset : Bool :=
    match maj with
    | 0x01 => mn == 0 || mn == 5
    | 0x21 => decide (mn ≤ 0x0D)
    | 0x22 => decide (mn ≤ 7) && mn != 5
    | 0x23 => decide (2 ≤ mn ∧ mn ≤ 5)
    | 0x24 => decide (mn ≤ 5 ∨ (8 ≤ mn ∧ mn ≤ 0x0B))
    | 0x25 => mn == 6 || mn == 7
    | 0x27 => decide (mn ≤ 9)
    | 0x28 => decide (mn ≤ 3)
    | 0x2C => mn == 1
    | 0x38 => decide (mn ≤ 5)
    | _ => false
  let flagged : Bool := if maj = 0x01 then tl != 0 else decide (2 ≤ tl) && t.extractLsb' 28 4 != 0
  let form3 : Bool := decide (0x21 ≤ maj ∧ maj ≤ 0x38) && maj != 0x2C && decide (2 ≤ tl) && t.extractLsb' 21 2 == 3
  subset && !flagged && !form3

/-- The entry check of R120 and R121 at a PC; `seq` when control flows from the previous line, `lane` for a lane line. -/
def enterLine (s : State) (pc : Word) (seq lane : Bool) : Got Line :=
  if pc.getLsbD 0 then .bad (lineTrap 0x20) s
  else
    match fetchLine s (pc &&& ~~~(63 : Word)) with
    | .bad t s1 => .bad t s1
    | .ok l s1 =>
      match lineHeads l with
      | .error i => .bad (lineTrap i) s1
      | .ok hs =>
        let i := (pc.extractLsb' 1 5).toNat
        match (if lane then hs.findIdx? fun h => !laneHead h.1 h.2 else none) with
        | some k => .bad (lineTrap k) s1
        | none => if hs.length ≤ i ∧ !(seq && i == 0) then .bad (lineTrap i) s1 else .ok l s1

/-- Whether the thread has entered the line its PC is in. -/
def entered (s : State) : Bool :=
  match s.t.line with
  | some (a, _) => a == s.t.pc &&& ~~~(63 : Word)
  | none => false

/-- The thread enters the line of its PC. A line whose head 0 is lend passes control to the next one (R122). The fault of a
line is taken before any head of it issues, once every older instruction has completed (R120, R141). -/
def enterOwn (s : State) : Res :=
  match enterLine s s.t.pc (sequential s) false with
  | .bad t s1 => .trap t s1
  | .ok l s1 =>
    let a := s.t.pc &&& ~~~(63 : Word)
    match lineHeads l with
    | .ok [] => .ok (s1.updT fun t => { t with line := some (a, l), pc := a + 64, flows := false })
    | _ => .ok (s1.updT fun t => { t with line := some (a, l), flows := false })

/-- LINE_ENTRY (R119 to R122). -/
def execLineEntry (s : State) : Host.Outcome State Fault Refusal :=
  if entered s then goto { s with stalled := false } else goto (finish (enterOwn s) s)

end Sys2Proof.Machine
end

