-- ==== Sys2Proof/Machine/Lanes.lean ====
section
/-! DEFINITION. Lane threads (R84, R269 to R276) and the vector sequencer's choice (R81). -/

namespace Sys2Proof.Machine

def Lane.isRunning (l : Lane) : Bool := l.status == .running

/-- The s registers that the running instruction captured (R133, R270). -/
def capturedS (s : State) : Vector Word 32 :=
  match s.t.xctx with
  | some c => c.entry.sregs
  | none => s.t.s

/-- The trap of a lane line that vblk cannot enter: tpc is the target, nothing younger is held (R120, R270); a page fault leaves
the vblk to issue again. -/
def laneLineTrap (tr : Trap) (target : Word) (s : State) : Res :=
  if tr.cls = 0x05 then .trap tr s
  else .trap tr (s.updT fun t => { t with xctx := none, vq := [], xdec := [], pc := target, line := none })

/-- `vblk target` (R270): lane thread g starts at the target head for every EG below ceil(vl / epg). What the lane threads go on
with is captured: s registers, modes and stream bindings. -/
def execVblk (o : WJ) (s : State) : Host.Outcome State Fault Refusal :=
  executeOp [] .whole (fun s =>
    if vtGrp s ≠ 1 ∨ typeValid (vtType s) = false then illegal s
    else
      let target := relTarget (curPc s) o.ld.toInt o.hd.toNat
      match enterLine s target false true with
      | .bad t s1 => laneLineTrap t target s1
      | .ok l s1 =>
        let epg := 256 / typeWidth (vtType s)
        let ls := (List.range ((s.t.ctl.vl + epg - 1) / epg)).map fun g =>
          ({ g := g, pc := target, line := l, status := .running, geom := 0, since := s1.cycle, issued := false } : Lane)
        .ok (s1.updT fun t =>
          { t with lanes := some { lanes := ls, sregs := capturedS s, env := t.ctl.env, binds := t.binds, read := [] } })) s

/-- Moves the running lane instruction's lane thread to a PC of a line. -/
def laneJump (s : State) (g : Nat) (pc : Word) (l : Line) : State :=
  s.updT fun t =>
    { t with lanes := t.lanes.map fun r =>
        { r with lanes := updWhere r.lanes (fun x => x.g == g) fun x => { x with pc := pc, line := l, since := s.cycle, issued := false } } }

/-- Whether a lane thread's lfetch is taken (R272). -/
def lfetchTaken (s : State) (mk g : Nat) : Bool :=
  mk == 0 || (List.range s.t.ctl.vl).any fun e => e / (256 / typeWidth (vtType s)) == g && maskOn s mk e

/-- `lfetch target ?mk` (R272): in a lane thread; a line it cannot enter is the lane's fault, with tpc the target (R275). -/
def execLfetch (o : WL) (s : State) : Host.Outcome State Fault Refusal :=
  match s.t.xctx, s.t.xctx.bind XCtx.lane with
  | some c, some g =>
    if lfetchTaken s o.msk.toNat g then
      let target := relTarget c.entry.pc o.ld.toInt o.hd.toNat
      match enterLine s target false true with
      | .bad t s1 => goto { laneStop s1 g t target (decide (t.cls ≠ 0x02)) with stalled := false }
      | .ok l s1 => goto { laneJump s1 g target l with stalled := false }
    else goto { advance s with stalled := false }
  | _, _ => executeOp [] .ignore illegal s

/-- Ends a lane thread (R273). -/
def laneEnd (s : State) (g : Nat) : State :=
  s.updT fun t =>
    { t with lanes := t.lanes.map fun r =>
        { r with lanes := updWhere r.lanes (fun x => x.g == g) fun x => { x with status := .ended } } }

/-- `lstop` (R273). -/
def execLstop (s : State) : Host.Outcome State Fault Refusal :=
  match s.t.xctx.bind XCtx.lane with
  | some g => goto { laneEnd s g with stalled := false }
  | none => executeOp [] .ignore illegal s

/-- The fault of a lane thread that has stopped. -/
def Lane.fault (l : Lane) : Option (Trap × Word) :=
  match l.status with
  | .faulted tr tpc _ => some (tr, tpc)
  | .running | .ended => none

/-- Restarts the lane threads that a page fault stopped. -/
def restartPaged (r : LaneRun) : LaneRun :=
  { r with lanes := r.lanes.map fun l => match l.fault with
      | some (tr, _) => if tr.cls = 0x05 then { l with status := .running } else l
      | none => l }

/-- The same binding, at the same chunk. -/
def Binding.sameAs (a b : Binding) : Bool :=
  a.vd == b.vd && a.store == b.store && a.desc == b.desc && a.ety == b.ety && a.c == b.c && a.q == b.q && a.live == b.live

/-- The thread's bindings with what has been read into the chunks of those that the lane threads use. -/
def syncBinds (mine used : List Binding) : List Binding :=
  mine.map fun b => (used.find? fun u => u.sameAs b).getD b

/-- vjoin once no lane thread runs (R274 to R276): a page fault goes to Horsil and the lane threads it stopped go on; the lowest
faulting lane thread's trap is taken here, with its tgeom1 (R330); without a fault the chunks that lane instructions have read advance,
and their retags count. -/
def joinLanes (r : LaneRun) (s : State) : Res :=
  let faulted := r.lanes.filterMap fun l => l.fault.map fun f => (l, f)
  match faulted.find? fun x => x.2.1.cls == 0x05 with
  | some x => .trap { x.2.1 with telem := x.1.g } (s.updT fun t => { t with lanes := some (restartPaged r) })
  | none =>
    match faulted with
    | x :: _ =>
      let tr := { x.2.1 with telem := x.1.g }
      if tr.cls = 0x02 then
        .trap tr (s.updT fun t => { t with lanes := none, xctx := none, vq := [], xdec := [], pc := x.2.2, line := none })
      else
        let s1 := if 0x07 ≤ tr.cls ∧ tr.cls ≤ 0x0A then s.updC fun c => { c with tgeom1 := x.1.geom } else s
        .trap tr (s1.updT fun t => { t with lanes := some { r with lanes := [{ x.1 with status := .running }] } })
    | [] =>
      let s1 := s.updT fun t => { t with lanes := none }
      let bs := s1.t.binds.filter fun b => r.read.contains b.vd && r.binds.any fun u => u.sameAs b
      let n := (bs.map fun b => b.retagged 0 b.c).foldl (· + ·) 0
      let s2 := if n = 0 then s1 else countRetags s1 n
      .ok (bs.foldl (fun a b => beginChunk a { b with q := b.q + 1 }) s2)

/-- `vjoin` (R274): completes when every lane thread has ended. -/
def execVjoin (s : State) : Host.Outcome State Fault Refusal :=
  executeOp [] .join (fun s =>
    match s.t.lanes with
    | none => .ok s
    | some r => if r.lanes.any Lane.isRunning then .stall s else joinLanes r s) s

/-- LANE_FAULT (R275): a running lane thread of the current thread meets one of the faults of R275 and stops. -/
def execLaneFault (g : Nat) (tr : Trap) (s : State) : Host.Outcome State Fault Refusal :=
  let running : Option Lane := match s.t.lanes with
    | some r => r.lanes.find? fun (l : Lane) => l.g == g && l.isRunning
    | none => none
  match running with
  | some l =>
    if tr.cls = 0x01 ∨ tr.cls = 0x02 ∨ (0x07 ≤ tr.cls ∧ tr.cls ≤ 0x0A) then
      happening (laneStop s g tr l.pc (decide (tr.cls ≠ 0x02)))
    else happening s
  | none => happening s

/-- Whether slice `a` goes before slice `b` (R81). -/
def sliceBefore (a b : Slice) : Bool :=
  let la := if 64 ≤ a.waited then a.waited else 0
  let lb := if 64 ≤ b.waited then b.waited else 0
  decide (lb < la) || (la == lb && (decide (a.remaining < b.remaining) || (a.remaining == b.remaining &&
    (decide (a.age < b.age) || (a.age == b.age && decide (a.slot < b.slot))))))

/-- The slice that a core issues in a beat (R81). -/
def chooseSlice : List Slice → Option Slice
  | [] => none
  | c :: r =>
    match chooseSlice r with
    | none => some c
    | some b => if sliceBefore b c then some b else some c

/-- The modes behind a queued instruction that sets vtype or vl (R186, R231, R239, R240). -/
def XEntry.modesPast (e : XEntry) (c : Env) : Env :=
  let typed := fun (v : Word) => let v' := v &&& 0xFF1F; { c with vtype := v', vl := min c.vl (vlMaxOf v') }
  match e.maj, e.mn with
  | 0x20, 0 => { c with vl := min (e.val 18).toNat (vlMaxOf c.vtype) }
  | 0x20, 1 => typed (BitVec.ofNat 64 (e.reg 23 * 2 ^ 12 + e.reg 18 * 2 ^ 10 + e.reg 13 * 2 ^ 8 + e.reg 3))
  | 0x00, 2 =>
    match (e.tail.extractLsb' 0 11).toNat with
    | 0 => typed (e.val 11)
    | 1 => { c with vl := min (e.val 11).toNat (vlMaxOf c.vtype) }
    | _ => c
  | _, _ => c

/-- The modes at a queued instruction's place, with those that stand again behind its images, from those behind the one before (R43, R440). -/
def XEntry.modesAt (e : XEntry) (m : Env × List Env) : Env × List Env :=
  match (m.2.drop (m.2.length - e.image - 1)).head? with
  | some x => if e.image < m.2.length then (x, m.2.drop (m.2.length - e.image)) else m
  | none => m

/-- The EGs that a queued instruction's slices pass, with the modes of its place: those below vl at its element width; one for an
instruction that names no vector element. -/
def XEntry.egs (c : Env) (e : XEntry) : Nat :=
  if e.maj ∈ [0x1C, 0x1D, 0x1F, 0x38] ∨ (0x21 ≤ e.maj ∧ e.maj ≤ 0x2B) then
    let ty := if e.maj = 0x1C ∨ e.maj = 0x1D ∨ tailKind e.maj e.mn = some .vec then e.reg 23 else (c.vtype.extractLsb' 0 5).toNat
    let epg := 256 / min 256 (typeWidth ty)
    max 1 ((c.vl + epg - 1) / epg)
  else 1

/-- The EGs of one slice on a core (R81). -/
def sliceEgs (core : Nat) : Nat := if isVCore core then 32 else 16

/-- A queued instruction with how many of its EGs have not issued. -/
abbrev Weighed := XEntry × Nat

/-- The queue with what each entry has still to issue. -/
def weigh (core : Nat) : Env × List Env → List XEntry → List Weighed
  | _, [] => []
  | m, e :: r =>
    let here := e.modesAt m
    (e, e.egs here.1 - e.slices * sliceEgs core) :: weigh core (e.modesPast here.1, here.2.map e.modesPast) r

/-- Whether the chain bit of a source register is set (R126, R135). -/
def XEntry.chains (e : XEntry) (r : Nat) : Bool :=
  if e.maj = 0x1C ∨ e.maj = 0x1D then e.tail.getLsbD 19
  else if e.maj = 0x31 then e.tail.getLsbD 4
  else (e.reg 5 == r && e.tail.getLsbD 20) || (e.reg 0 == r && e.tail.getLsbD 19)

/-- Whether a source that an older entry writes is available to an entry (R135): whole, or by the chain slot, met when the producer has
issued its first slice and no other. -/
def sourceReady (p : Weighed) (c : XEntry) (chained : Bool) : Bool :=
  p.2 == 0 || (chained && if c.slices = 0 then p.1.slices == 1 else decide (c.slices < p.1.slices))

/-- Whether an entry behind `older` ones of its queue has its sources available (R81, R135); the youngest writer of a source decides. -/
def issuable (older : List Weighed) (e : Weighed) : Bool :=
  e.2 != 0 && e.1.vecSrcs.all fun r =>
    match older.reverse.find? fun p => p.1.vecDest == some r with
    | some p => sourceReady p e.1 (e.1.chains r)
    | none => true

/-- The queue with the waits of entries that are not issuable starting over. -/
def restWaits (now : Nat) : List Weighed → List Weighed → List XEntry
  | _, [] => []
  | older, e :: r => (if issuable older e then e.1 else { e.1 with since := now }) :: restWaits now (older ++ [e]) r

/-- The issuable slices of a thread's vector queue. -/
def queueSlices (now slot : Nat) : List Weighed → List Weighed → List Slice
  | _, [] => []
  | older, e :: r =>
    (if issuable older e then
      [{ slot := slot, entry := older.length, waited := now - e.1.since, remaining := e.2, age := e.1.age }] else []) ++
      queueSlices now slot (older ++ [e]) r

/-- A thread's queue, weighed. -/
def Thread.weighed (t : Thread) : List Weighed := weigh t.core (t.ctl.env, t.shadow) t.vq

/-- The slices of a thread's lane instructions, each of one EG (R271), until they have issued. -/
def laneSlices (now : Nat) (t : Thread) : List Slice :=
  match t.lanes with
  | some r => (r.lanes.filter fun l => l.isRunning && !l.issued).map fun l =>
      { slot := t.slot, entry := 64 + l.g, waited := now - l.since, remaining := 1, age := l.since }
  | none => []

/-- A thread's issuable slices. -/
def threadSlices (now : Nat) (t : Thread) : List Slice := laneSlices now t ++ queueSlices now t.slot [] t.weighed

/-- A slice of the thread issues: of a lane instruction, or of a queued one. -/
def Thread.issue (now : Nat) (c : Slice) (t : Thread) : Thread :=
  if 64 ≤ c.entry then
    { t with lanes := t.lanes.map fun r =>
        { r with lanes := updWhere r.lanes (fun (l : Lane) => 64 + l.g == c.entry) fun l => { l with issued := true } } }
  else { t with vq := t.vq.modify c.entry fun e => { e with slices := e.slices + 1, since := now } }

/-- SLICE_ISSUE (R81) on a core, by its number of R12: of the issuable slices of all of the core's threads, at most one issues in a beat. Chains and waits are kept for this
choice alone: an instruction's effect does not depend on it (log 3). -/
def execSliceIssue (pkg core : Nat) (s : State) : Host.Outcome State Fault Refusal :=
  let here := fun (t : Thread) => t.core == pkg * 384 + core && t.status != .free
  let wait := fun (t : Thread) => if here t then { t with vq := restWaits s.cycle [] t.weighed } else t
  let s1 := { s with t := wait s.t, parked := s.parked.map wait }
  match chooseSlice (((allThreads s1).filter here).map (threadSlices s.cycle)).flatten with
  | none => happening { s1 with issued := none }
  | some c =>
    let go := fun (t : Thread) => if here t && t.slot == c.slot then t.issue s.cycle c else t
    happening { s1 with t := go s1.t, parked := s1.parked.map go, issued := some c }

end Sys2Proof.Machine
end

