-- ==== Sys2Proof/Machine/Sequencer.lean ====
section
/-! DEFINITION. The nested-loop sequencer (R85, R128, R129, R181 to R184, R190). -/

namespace Sys2Proof.Machine

/-- A sequencer instruction: Illegal Instruction while SEQ = 1 (R190). -/
def seqOp (rd : List (BitVec 5)) (f : State → Res) (s : State) : Host.Outcome State Fault Refusal :=
  accessOp rd (fun s => if s.t.ctl.seqt then illegal s else f s) s

/-- Changes the sequencer's configuration. -/
def State.updSeq (s : State) (f : SeqConf → SeqConf) : State := s.updT fun t => { t with seq := f t.seq }

/-- `seqlev #k, sa` (R182). -/
def execSeqlev (o : W4) (s : State) : Host.Outcome State Fault Refusal :=
  seqOp [o.fa] (fun s =>
    let a := getS s o.fa
    if 2 ^ 32 ≤ a.toNat then illegalWith a s
    else .ok (s.updSeq fun q => { q with counts := q.counts.setIfInBounds o.fc.toNat a.toNat })) s

/-- `seqbind #j, sa` (R182). -/
def execSeqbind (o : W4) (s : State) : Host.Outcome State Fault Refusal :=
  seqOp [] (fun s =>
    .ok (s.updSeq fun q =>
      let cleared := q.binds.map fun b => if b = some o.fa then none else b
      { q with binds := cleared.setIfInBounds o.fc.toNat (some o.fa) })) s

/-- `seqstride #k, #j, sa` (R182). -/
def execSeqstride (o : W4) (s : State) : Host.Outcome State Fault Refusal :=
  seqOp [o.fa] (fun s =>
    .ok (s.updSeq fun q =>
      let row := (q.strides.getD o.fc.toNat (Vector.replicate 8 0)).setIfInBounds o.fb.toNat (getS s o.fa).toInt
      { q with strides := q.strides.setIfInBounds o.fc.toNat row })) s

/-- `seqhalt` (R182): the reset configuration of R181. -/
def execSeqhalt (_o : W4) (s : State) : Host.Outcome State Fault Refusal :=
  seqOp [] (fun s => .ok (s.updSeq fun _ => SeqConf.start)) s

/-! ## seqrun (R183) -/

/-- A head that a replay body may not hold (R183): branches, jumps and bqx, sequencer instructions, svc, brk, tret, nend, and
the instructions that may suspend their thread (R76). A head that is no instruction is illegal when it issues (R141). -/
def bodyRefuses (h : BitVec 16) (t : BitVec 64) : Bool :=
  let maj := (h.extractLsb' 8 6).toNat
  let mn := (h.extractLsb' 0 8).toNat
  match (tailKind maj mn).bind fun k => splitTail k (h.extractLsb' 14 2).toNat t with
  | none => false
  | some (f, w) =>
    let q := W4.dec w
    (SeqFlag.dec f).isSome &&
      match maj, mn with
      | 0x00, 0x00 | 0x01, 0x01 | 0x01, 0x02 | 0x01, 0x03 | 0x10, _ | 0x11, _ => true
      | 0x12, _ => (Q3.dec w).any fun o => wf (.jalr o)
      | 0x13, _ => (QN.dec w).any fun o => wf (.bqx o)
      | 0x14, 0x00 => wf (.seqlev q)
      | 0x14, 0x01 => wf (.seqbind q)
      | 0x14, 0x02 => wf (.seqstride q)
      | 0x14, 0x03 => wf (.seqrun q)
      | 0x14, 0x04 => wf (.seqhalt q)
      | 0x05, 0x01 => wf (.nspawnW q)
      | 0x1F, 0x03 => wf (.vwaitView q) && q.fc == 1
      | 0x3C, 0x02 => (LE.dec w).any fun o => o.fb == 0 && o.sc == 0 && o.imm == 0
      | 0x3D, 0x02 => (LE.dec w).any fun o => o.fc == 0 && o.sc == 0 && o.imm == 1
      | 0x3E, 0x02 => (LE.dec w).any fun o => o.sc == 0 && decide (o.imm.toNat ≤ 3) && destsApart o
      | _, _ => false

/-- What collecting a replay body gives: its PCs and the PC after it, or the trap. -/
inductive Body where
  | ok (pcs : List Word) (endPc : Word) (s : State)
  | bad (t : Trap) (s : State)

/-- The next `n` executable heads from a PC on (R183): `l` is the line the PC lies in when it has been checked, `k` the body
index; `fuel` bounds the heads and lines passed, above what the address space holds. -/
def collectBody : Nat → Nat → Nat → Word → Option Line → Bool → List Word → State → Body
  | 0, _, _, pc, _, _, acc, s => .ok acc.reverse pc s
  | fuel + 1, n, k, pc, l, seq, acc, s =>
    if n = 0 then .ok acc.reverse pc s
    else
      match l with
      | none =>
        match enterLine s pc seq false with
        | .bad t s1 => .bad t (if t.cls = 0x05 then s1 else if seq then flowTo s1 pc else jumpTo s1 pc)
        | .ok l1 s1 => collectBody fuel n k pc (some l1) seq acc s1
      | some l1 =>
        match lineHead l1 pc with
        | none => collectBody fuel n k ((pc &&& ~~~(63 : Word)) + 64) none true acc s
        | some (h, t) =>
          if bodyRefuses h t then .bad (mkTrap 0x01 (BitVec.ofNat 64 k)) s
          else
            let nx := nextPc pc l1
            let same := nx &&& ~~~(63 : Word) == pc &&& ~~~(63 : Word)
            collectBody fuel (n - 1) (k + 1) nx (if same then some l1 else none) true (pc :: acc) s

/-- The count of a level in a replay: those at or above lv count as 1 (R183). -/
def levelCount (q : SeqConf) (lv k : Nat) : Nat := if k < lv then q.counts.getD k 1 else 1

/-- The value of a bound register in a pass (R183). -/
def passValue (q : SeqConf) (r : Replay) (j : Nat) : Word :=
  (List.range r.levels).foldl (fun (a : Word) k =>
    a + BitVec.ofInt 64 ((r.idx.getD k 0 : Int) * (q.strides.getD k (Vector.replicate 8 0)).getD j 0)) (r.bases.getD j 0)

/-- Writes the bound registers at the start of a pass: access-stream writes (R183). -/
def writeBound (s : State) (r : Replay) : State :=
  (List.range 8).foldl (fun a j =>
    match s.t.seq.binds.getD j none with
    | some x => setS a x (passValue s.t.seq r j)
    | none => a) s

/-- The index tuple after the present one, level 0 innermost; none after the last (R183). -/
def nextIdx (q : SeqConf) (r : Replay) : Option (Vector Nat 6) :=
  let step := (List.range r.levels).foldl (fun (a : Vector Nat 6 × Bool) k =>
    if a.2 then
      let i := a.1.getD k 0 + 1
      if i < levelCount q r.levels k then (a.1.setIfInBounds k i, false) else (a.1.setIfInBounds k 0, true)
    else a) (r.idx, true)
  if step.2 then none else some step.1

/-- `seqrun #n, #lv` (R183). A line of the body that fails its check is taken at the seqrun, with tpc the PC that enters the
line (R120); a page fault leaves the seqrun to issue again. -/
def execSeqrun (o : W4) (s : State) : Host.Outcome State Fault Refusal :=
  let bound := (s.t.seq.binds.toList.filterMap id)
  if bound.any fun r => (pendingDests s).contains r then goto { s with stalled := true }
  else
    jumpOp [] (fun s =>
      if s.t.ctl.seqt then illegal s
      else
        let lv := o.fc.toNat
        let pc := pcAfter s
        let same := pc &&& ~~~(63 : Word) == s.t.pc &&& ~~~(63 : Word)
        match collectBody (2 ^ 60) (o.fd.toNat + 1) 0 pc (if same then s.t.line.map Prod.snd else none) true [] s with
        | .bad t s1 => .trap t s1
        | .ok pcs endPc s1 =>
          let bases := Vector.ofFn fun (j : Fin 8) => match s1.t.seq.binds.getD j.val none with
            | some x => getS s1 x
            | none => 0
          let r : Replay :=
            { body := pcs, endPc := endPc, levels := lv, idx := Vector.replicate 6 0, bases := bases, pos := 0, begun := true }
          if (List.range lv).any fun k => levelCount s1.t.seq lv k == 0 then .ok (flowTo s1 endPc)
          else
            match pcs with
            | [] => .ok (flowTo s1 endPc)
            | p :: _ => .ok ((writeBound (jumpTo s1 p) r).updT fun t => { t with replay := some r })) s

/-! ## Replaying (R85, R128, R183) -/

/-- Whether an instruction with a sequencer flag runs in a pass (R85); outside a replay the flag is ignored (R129). -/
def flagRuns (s : State) (f : SeqFlag) : Bool :=
  match s.t.replay with
  | none => true
  | some r =>
    match f with
    | .none => true
    | .first k => (List.range (k + 1)).all fun j => r.idx.getD j 0 == 0
    | .last k => (List.range (k + 1)).all fun j => r.idx.getD j 0 + 1 == levelCount s.t.seq r.levels j

/-- A pass begins with the access stream's first instruction of it: the writes of the bound registers are decoded before that one (R183). -/
def beginPass (s : State) : State :=
  match s.t.replay with
  | none => s
  | some r =>
    if r.begun then s
    else (writeBound s r).updT fun t => { t with replay := some { r with begun := true }, decodes := t.decodes + 1 }

/-- The thread has passed a body instruction: the next one of the pass, the next pass, or the end of the replay (R183). -/
def replayNext (s : State) : State :=
  match s.t.replay with
  | none => s
  | some r =>
    match r.body[r.pos + 1]? with
    | some p => jumpTo (s.updT fun t => { t with replay := some { r with pos := r.pos + 1 } }) p
    | none =>
      match nextIdx s.t.seq r with
      | none => flowTo (s.updT fun t => { t with replay := none }) r.endPc
      | some ix =>
        jumpTo (s.updT fun t => { t with replay := some { r with idx := ix, pos := 0, begun := false } }) (r.body.getD 0 0)

end Sys2Proof.Machine
end

