-- ==== Sys2Proof/Machine/Issue.lean ====
section
/-! DEFINITION. How a thread's two streams and its lane threads take turns at issuing (R79, R82 to R85, R133, R142, R163), and the
end of a queue stall (R83). The model lets the oldest work go first (log 3). -/

namespace Sys2Proof.Machine

/-! ## Entering the vector queue -/

/-- The data queue that an entry pops on entering the vector queue (R133, R178): xqget's, or form 0b11's. -/
def XEntry.pops (e : XEntry) : Option Nat :=
  if e.maj = 0x00 ∧ e.mn = 0x06 then some (e.tail.extractLsb' 5 5).toNat
  else if tailKind e.maj e.mn = some .vec ∧ e.tail.extractLsb' 21 2 = 3 then some (e.tail.extractLsb' 0 5).toNat
  else none

/-- Whether an entry is a bqx. -/
def XEntry.isBqx (e : XEntry) : Bool := e.maj == 0x13 && e.mn == 0

/-- Whether an entry is a vblk. -/
def XEntry.isVblk (e : XEntry) : Bool := e.maj == 0x2C && e.mn == 0

/-- Whether the next instruction to enter the queue follows a vblk in program order, so that only vjoin may stand there (R270). -/
def afterVblk (s : State) : Bool :=
  match s.t.vq.getLast? with
  | some e => e.isVblk
  | none => s.t.lanes.isSome

/-- The oldest decoded execute-stream instruction enters the vector queue of 64 entries (R79), is dropped (R142), or is a bqx that
pops its bit (R180); none when it has to wait. `legal` says whether its encoding is an instruction's. A bqx that follows a vblk enters
the queue, where it is illegal (R270). -/
def enterQueue (legal : Bool) (s : State) : Option State :=
  match s.t.xdec with
  | [] => none
  | e :: r =>
    let s1 := s.updT fun t => { t with xdec := r }
    let e1 := { e with age := s.cycle, since := s.cycle }
    if 64 ≤ s.t.vq.length then none
    else if 0 < s.t.dropRun then some (s1.updT fun t => settleModes { t with dropRun := t.dropRun - 1 })
    else if legal && e.isBqx && !(afterVblk s) then
      match bqxBody (e.tail.extractLsb' 0 8).toNat s1 with
      | .ok s2 => some (s2.updT settleModes)
      | .trap _ _ | .stall _ => none
    else
      match (if legal && e.pop.isNone then e.pops else none) with
      | none => some (s1.updT fun t => { t with vq := t.vq ++ [e1] })
      | some k =>
        match s.t.dq.getD k [] with
        | [] => none
        | v :: q => some (s1.updT fun t => { t with vq := t.vq ++ [{ e1 with pop := some v }], dq := t.dq.setIfInBounds k q })

/-! ## The vector queue's head -/

/-- The oldest instruction of the vector queue begins to issue. -/
def beginHead (s : State) : Option (XEntry × State) :=
  match s.t.vq with
  | [] => none
  | e :: r => some (e, s.updT fun t => { t with vq := r, xctx := some { entry := e, lane := none } })

/-- It has issued, or stands at the head again while it waits. The modes become those of the next place (R440). -/
def endHead (uid : Nat) (e : XEntry) (s : State) : State :=
  if s.t.uid = uid ∧ s.t.xctx.isSome then
    if s.stalled then s.updT fun t => { t with xctx := none, vq := e :: t.vq } else s.updT fun t => settleModes { t with xctx := none }
  else s

/-! ## Lane threads -/

/-- The lane threads that run. -/
def runningLanes (s : State) : List Lane :=
  match s.t.lanes with
  | some r => r.lanes.filter Lane.isRunning
  | none => []

/-- A lane thread begins its instruction: the head at its PC, with the s registers, modes and bindings of its vblk (R270). A lane thread
past its last head has ended (R273). -/
def beginLane (l : Lane) (s : State) : Option (XEntry × State) :=
  match s.t.lanes, lineHead l.line l.pc with
  | some r, some (h, t) =>
    let e : XEntry :=
      { pc := l.pc, head := h, tail := t, sregs := r.sregs, pop := none, dead := false, pass := none, image := 0, num := 0, age := 0,
        since := 0, slices := 0 }
    some (e, s.updT fun x =>
      { x with xctx := some { entry := e, lane := some l.g }, ctl := x.ctl.withEnv r.env, binds := r.binds })
  | _, _ => none

/-- Whether a lane thread has stopped at a fault. -/
def laneFaulted (s : State) (g : Nat) : Bool :=
  match s.t.lanes with
  | some r => r.lanes.any fun (l : Lane) => l.g == g && l.fault.isSome
  | none => false

/-- The lane instruction has run, or waits: the thread has its own modes and bindings again, and of a fault no tgeom1 yet (R275). -/
def endLane (g : Nat) (s0 s : State) : State :=
  if s.t.uid = s0.t.uid then
    let back := fun (c : Ctl) =>
      { c.withEnv s0.t.ctl.env with tgeom1 := if laneFaulted s g then s0.t.ctl.tgeom1 else c.tgeom1 }
    s.updT fun t =>
      { t with
        xctx := none, ctl := back t.ctl, lanes := t.lanes.map fun r => { r with binds := t.binds }
        binds := syncBinds s0.t.binds t.binds }
  else s

/-! ## The access stream -/

/-- The head at the access stream's PC, when its line has been entered. -/
def accessHead (s : State) : Option (BitVec 16 × BitVec 64) :=
  if entered s then
    match s.t.line with
    | some (_, l) => lineHead l s.t.pc
    | none => none
  else none

/-- Whether a head is of the execute stream by its opcode (R82, R139), so that its illegal encodings fault there (R141). -/
def ofExecuteStream (h : BitVec 16) : Bool :=
  let maj := (h.extractLsb' 8 6).toNat
  let mn := (h.extractLsb' 0 8).toNat
  match maj with
  | 0x00 => mn == 5 || mn == 6
  | 0x01 => mn == 4 || mn == 5
  | 0x03 | 0x04 | 0x13 | 0x1C | 0x1D => true
  | 0x1F => mn == 0
  | m => decide ((0x20 ≤ m ∧ m ≤ 0x3B))

/-- A head that is no instruction (R141). -/
def illegalHead (h : BitVec 16) (s : State) : Host.Outcome State Fault Refusal :=
  if ofExecuteStream h then executeOp [] .ignore illegal s else bothJump illegal s

/-- An instruction whose sequencer flag leaves it out of this pass (R85). -/
def skipHead (s : State) : State := replayNext { advance s with stalled := false }

/-- Goes on with a replay when the instruction at hand was of its body and has been passed (R183). -/
def afterAccess (s0 s : State) : State :=
  if s0.t.replay.isSome ∧ s.t.replay.isSome ∧ s.t.uid = s0.t.uid ∧ s.stalled = false ∧ s.t.status = .running ∧
      s.t.pc ≠ s0.t.pc then replayNext s
  else s

/-! ## Queue stalls (R83) -/

/-- The queue that the oldest uncommitted execute-stream instruction waits on, with that instruction: 0 to 3 for the data queues,
4 for bq. -/
def queueWait (s : State) : Option (Nat × XEntry) :=
  match s.t.vq, s.t.xdec with
  | e :: _, _ =>
    if e.maj = 0x00 ∧ e.mn = 0x05 then
      let k := (e.tail.extractLsb' 10 5).toNat
      if 8 ≤ (s.t.dq.getD k []).length then some (k, e) else none
    else if e.pop.isNone then
      match e.pops with
      | some k => if (s.t.dq.getD k []).isEmpty then some (k, e) else none
      | none => none
    else none
  | [], e :: _ =>
    if e.isBqx then (if s.t.bq.isEmpty then some (4, e) else none)
    else
      match e.pops with
      | some k => if (s.t.dq.getD k []).isEmpty then some (k, e) else none
      | none => none
  | [], [] => none

/-- Whether the access stream waits on a queue: dqput and ldq on a full one, dqget on an empty one, bqput on a full bq. -/
def accessWaits (s : State) : Bool :=
  match accessHead s with
  | none => false
  | some (h, t) =>
    let maj := (h.extractLsb' 8 6).toNat
    let mn := (h.extractLsb' 0 8).toNat
    let full := fun (k : Nat) => decide (8 ≤ (s.t.dq.getD k []).length)
    if maj = 0x00 ∧ mn = 0x03 then full (t.extractLsb' 10 5).toNat
    else if maj = 0x00 ∧ mn = 0x04 then (s.t.dq.getD (t.extractLsb' 5 5).toNat []).isEmpty
    else if maj = 0x00 ∧ mn = 0x07 then decide (16 ≤ s.t.bq.length)
    else if maj = 0x19 then full (t.extractLsb' 23 5).toNat
    else false

/-- QUEUE_STALL_TIMEOUT (R83): both streams of the current thread have stood stalled on queues for 65 536 cycles, with no memory
or engine operation outstanding. -/
def execQueueStallTimeout (s : State) : Host.Outcome State Fault Refusal :=
  if s.t.status ≠ .running ∨ accessWaits s = false ∨ hasCommands s s.t.uid ∨ hasPuts s s.t.uid ∨ !s.t.mq.isEmpty ∨
      !(runningLanes s).isEmpty then happening s
  else
    match queueWait s with
    | none => happening s
    | some (k, e) =>
      let younger := fun (t : Thread) => match t.vq with
        | _ :: r => { t with vq := r }
        | [] => { t with xdec := t.xdec.drop 1 }
      let s1 := s.updT fun t => { younger t with xctx := some { entry := e, lane := none } }
      happening (takeTrap (mkTrap 0x01 (BitVec.ofNat 64 k)) s1)

end Sys2Proof.Machine
end

