-- ==== Sys2Proof/Machine/Pools.lean ====
section
/-! DEFINITION. Priority pools: shelves, rounds, takes with a rank bound, closing (R414 to R433). -/

namespace Sys2Proof.Machine

/-! ## Order and rank -/

/-- Insertion orders compared (R416). -/
def orderLt (a b : Nat × Nat × Nat) : Bool :=
  decide (a.1 < b.1 ∨ (a.1 = b.1 ∧ (a.2.1 < b.2.1 ∨ (a.2.1 = b.2.1 ∧ a.2.2 < b.2.2))))

/-- Pool order (R416). -/
def Elem.before (a b : Elem) : Bool := decide (a.key < b.key) || (a.key == b.key && orderLt a.order b.order)

/-- The first element of a list in pool order. -/
def lowestElem (l : List Elem) : Option Elem :=
  l.foldl (fun a e => match a with
    | some x => if e.before x then some e else a
    | none => some e) none

/-- `est(h)` of R418 for a head on the shelf of a die. -/
def Pool.est (p : Pool) (die : Nat) (h : Elem) : Nat :=
  (p.shelves.filter fun x => x.die != die).foldl (fun a x =>
    let n := (x.now.lowest.filter fun e => e.before h).length
    a + (if n = 8 then x.now.count else n)) 0

def Pool.shelfOf (p : Pool) (die : Nat) : Option Shelf := p.shelves.find? fun x => x.die == die

def Pool.updShelf (p : Pool) (die : Nat) (f : Shelf → Shelf) : Pool :=
  { p with shelves := updWhere p.shelves (fun x => x.die == die) f }

/-- The overdue element a shelf serves first (R423): the lowest stamp, then pool order. -/
def Pool.overdue (p : Pool) (x : Shelf) : Option Elem :=
  (x.elems.filter fun e => decide (p.limit ≤ p.tcAt + x.takes - e.stamp)).foldl (fun a e => match a with
    | some y => if e.stamp < y.stamp ∨ (e.stamp = y.stamp ∧ e.before y) then some e else a
    | none => some e) none

/-- The elements of the pool and its accepted puts, for FULL (R427). -/
def Pool.size (p : Pool) : Nat :=
  p.shelves.foldl (fun a x => a + x.elems.length + x.puts.length) p.moving.length

/-! ## The pools of a partition -/

def poolOf (s : State) (part num : Nat) : Option Pool := s.pools.find? fun p => p.part == part && p.num == num

def updPool (s : State) (part num : Nat) (f : Pool → Pool) : State :=
  { s with pools := updWhere s.pools (fun p => p.part == part && p.num == num) f }

/-- The boundaries that a package has passed since its reset (R416). -/
def boundaryOf (s : State) (pkg : Nat) : Nat := (assoc s.boundary pkg).getD 0

/-- TC of a partition (R423). -/
def tcOf (s : State) (part : Nat) : Nat := ((partOf s part).map Partition.tc).getD 0

/-- A take serves an element from a shelf: it is removed and TC rises (R419, R423). -/
def serveElem (s : State) (p : Pool) (die : Nat) (e : Elem) : State :=
  let s1 := updPool s p.part p.num fun q =>
    q.updShelf die fun x => { x with elems := x.elems.filter fun y => y.order != e.order, takes := x.takes + 1 }
  { s1 with parts := updWhere s1.parts (fun q => q.slot == p.part) fun q => { q with tc := (q.tc + 1) % 2 ^ 48 } }

/-- A status value (R427). -/
def poolStatus (code : Nat) (forced : Bool) : Word := BitVec.ofNat 64 (code + if forced then 256 else 0)

/-- NOBOUND of R424: no units on the die fabric of some die that holds a shelf. -/
def poolNoBound (s : State) (p : Pool) : Bool :=
  match partOf s p.part with
  | none => true
  | some q => p.shelves.any fun x => unitsOn q (.fabric p.pkg (x.die % 8)) == 0

/-- The frame of a pool instruction that names a pool (R415). -/
def poolOp (o : LE) (rd : List (BitVec 5)) (jump : Bool) (f : Pool → State → Res) (s : State) : Host.Outcome State Fault Refusal :=
  let body := fun (s : State) =>
    let a := getS s o.fa
    let miss := Res.trap (mkTrap 0x0D a) s
    if 255 < a.toNat then miss
    else
      match poolOf s s.t.part a.toNat with
      | none => miss
      | some p => if p.pkg = pkgOf s.t.core then f p s else miss
  if jump then jumpOp rd body s else accessOp rd body s

/-! ## pput (R428) -/

/-- `pput sd, sa, sb, sc`. -/
def execPput (o : LE) (s : State) : Host.Outcome State Fault Refusal :=
  poolOp o [o.fa, o.fb, o.fc] false (fun _ s => commandPublish (fun s1 =>
    match poolOf s1 s1.t.part (getS s1 o.fa).toNat with
    | none => .ok s1
    | some p =>
      let mine := s1.pools.foldl (fun a q => q.shelves.foldl (fun b x => b + (x.puts.filter fun y => y.uid == s1.t.uid).length) a) 0
      let st := fun (c : Nat) => Res.ok (setS s1 o.fd (poolStatus c false))
      if p.cap ≤ p.size then st 2
      else if 16 ≤ mine then st 3
      else if p.closed then st 4
      else if poolNoBound s1 p then st 5
      else
        let die := dieOf s1.t.core
        let put := fun (x : Shelf) =>
          { x with
            puts := x.puts ++ [{ uid := s1.t.uid, key := (getS s1 o.fb).toNat, payload := (getS s1 o.fc).toNat, seq := x.accepted }]
            accepted := x.accepted + 1 }
        .ok (setS (updPool s1 p.part p.num fun q => q.updShelf die put) o.fd 0)) s) s

/-! ## Takes (R419, R422, R429) -/

/-- What a shelf serves to a take of its own die: an overdue element, or its head when it lies within the bound. -/
def localServe (p : Pool) (die bound : Nat) : Option (Elem × Bool) :=
  match p.shelfOf die with
  | none => none
  | some x =>
    match p.overdue x with
    | some e => some (e, true)
    | none =>
      match lowestElem x.elems with
      | some h => if p.est die h < bound then some (h, false) else none
      | none => none

/-- The shelf that holds the lowest element of the latest summaries. -/
def stealTarget (p : Pool) : Option Nat :=
  (lowestElem (p.shelves.map fun x => x.now.lowest).flatten).bind fun e =>
    (p.shelves.find? fun x => x.now.lowest.any fun y => y.order == e.order).map Shelf.die

/-- Ends a thread's take. -/
def endTake (s : State) (p : Pool) (id : Nat) : State :=
  updPool s p.part p.num fun q => { q with takes := q.takes.filter fun y => y.id != id }

/-- Writes the results of a take (R429). -/
def takeResult (o : LE) (key payload : Nat) (st : Word) (s : State) : State :=
  setS (setS (setS s o.fb (BitVec.ofNat 64 key)) o.fd (BitVec.ofNat 64 payload)) o.fc st

/-- A take as it goes on (R419): `empty` handles a take that may complete EMPTY. -/
def takeGo (o : LE) (p : Pool) (k : PoolTake) (empty : State → Res) (s : State) : Res :=
  match k.served with
  | some e => .ok (advance (takeResult o e.key e.payload (poolStatus 0 false) (endTake s p k.id)))
  | none =>
    match localServe p k.frm k.bound with
    | some (e, forced) =>
      .ok (advance (takeResult o e.key e.payload (poolStatus 0 forced) (endTake (serveElem s p k.frm e) p k.id)))
    | none =>
      if p.emptyRun ∧ k.since < boundaryOf s p.pkg then
        if p.closed then .ok (advance (takeResult o 0 0 (poolStatus 4 false) (endTake s p k.id))) else empty s
      else .stall s

/-- ptake and ptake.w (R425, R429): the take waits for the thread's own older pputs to the pool, and stands in the pool until it
completes. Only its issue can be refused (R424). -/
def takeOp (o : LE) (empty : Pool → PoolTake → State → Res) (p : Pool) (s : State) : Res :=
  let own := p.shelves.any fun x => x.puts.any fun y => y.uid == s.t.uid
  match p.takes.find? fun k => k.uid == s.t.uid && k.pc == s.t.pc with
  | some k => takeGo o p k (empty p k) s
  | none =>
    if poolNoBound s p then .ok (advance (setS s o.fc (poolStatus 5 false)))
    else if own then .stall s
    else
      let b := s.t.ctl.pbnd.toList.getD (o.imm.extractLsb' 0 2).toNat 64
      let k : PoolTake :=
        { id := s.nextCmd, uid := s.t.uid, pc := s.t.pc, frm := dieOf s.t.core, bound := b, since := boundaryOf s p.pkg, tried := 0,
          served := none }
      let s1 := updPool { s with nextCmd := s.nextCmd + 1 } p.part p.num fun q => { q with takes := q.takes ++ [k] }
      takeGo o p k (empty p k) s1

/-- `ptake sd, sb, sc, sa, #k` (R429). -/
def execPtake (o : LE) (s : State) : Host.Outcome State Fault Refusal :=
  poolOp o [o.fa] true (takeOp o fun p k s => .ok (advance (takeResult o 0 0 (poolStatus 1 false) (endTake s p k.id)))) s

/-- `ptake.w sd, sb, sc, sa, #k` (R429): where it would complete EMPTY it suspends and waits in the pool. -/
def execPtakeW (o : LE) (s : State) : Host.Outcome State Fault Refusal :=
  poolOp o [o.fa] true (fun p s =>
    match suspendCheck s with
    | .bad t s1 => .trap t s1
    | .ok keys s1 =>
      takeOp o (fun p k s2 =>
        if xBusy s2 then .stall s2
        else
          suspendWith (.take p.num) [o.fb, o.fd, o.fc] keys
            (fun id x => updPool x p.part p.num fun q => { q with waiters := q.waiters ++ [id] }) (endTake s2 p k.id)) p s1) s

/-- POOL_STEAL (R419): a steal reaches the shelf with the lowest element, which serves its head when in bound; otherwise it is
repeated at the next boundary. -/
def execPoolSteal (steal : Nat) (s : State) : Host.Outcome State Fault Refusal :=
  match s.pools.find? fun p => p.takes.any fun k => k.id == steal with
  | none => happening s
  | some p =>
    match p.takes.find? fun k => k.id == steal with
    | none => happening s
    | some k =>
      if k.served.isSome ∨ boundaryOf s p.pkg < k.tried ∨ (localServe p k.frm k.bound).isSome then happening s
      else
        let mark := fun (e : Option Elem) (x : State) => updPool x p.part p.num fun q =>
          { q with takes := updWhere q.takes (fun y => y.id == steal) fun y => { y with tried := boundaryOf s p.pkg + 1, served := e } }
        match stealTarget p with
        | none => happening (mark none s)
        | some die =>
          match (p.shelfOf die).bind fun x => lowestElem x.elems with
          | some h =>
            if p.est die h < k.bound then happening (mark (some h) (serveElem s p die h)) else happening (mark none s)
          | none => happening (mark none s)

/-! ## pbnd, pstat, pdrain (R430 to R432) -/

/-- `pbnd #k, sa` (R430). -/
def execPbnd (o : LE) (s : State) : Host.Outcome State Fault Refusal :=
  accessOp [o.fa] (fun s =>
    let a := getS s o.fa
    if a.toNat = 0 ∨ 4096 < a.toNat then illegalWith a s
    else .ok (s.updC fun c => { c with pbnd := c.pbnd.setIfInBounds (o.imm.extractLsb' 0 2).toNat a.toNat })) s

/-- What pstat reads (R431): the latest boundary, adjusted by the own shelf's changes since. -/
def poolStat (p : Pool) (die q : Nat) : Nat :=
  let count := fun (x : Shelf) => if x.die = die then x.elems.length + (p.moving.filter fun m => m.1 == die).length else x.now.count
  let named := (p.shelves.map fun x => if x.die = die then x.elems else x.now.lowest).flatten
  match q with
  | 0 => p.shelves.foldl (fun a x => a + count x) 0
  | 1 => p.shelves.foldl (fun a x => a + x.now.pseq) 0 % 2 ^ 48
  | 2 => (p.tcAt + ((p.shelfOf die).map Shelf.takes).getD 0) % 2 ^ 48
  | _ => match lowestElem named with
    | some e => e.key
    | none => 2 ^ 64 - 1

/-- `pstat sd, sa, #q`. -/
def execPstat (o : LE) (s : State) : Host.Outcome State Fault Refusal :=
  poolOp o [o.fa] false (fun p s =>
    .ok (setS s o.fd (BitVec.ofNat 64 (poolStat p (dieOf s.t.core) (o.imm.extractLsb' 0 2).toNat)))) s

/-- `pdrain sd, sa, #m` (R432): with m = 1 it waits for the next boundary; a pdrain of another place or mode is another. -/
def execPdrain (o : LE) (s : State) : Host.Outcome State Fault Refusal :=
  poolOp o [o.fa] false (fun p s =>
    let m := (o.imm.extractLsb' 0 2).toNat
    let mine := fun (d : PoolDrain) => m == 1 && d.uid == s.t.uid && d.pc == s.t.pc
    match (p.drainers.find? mine).map PoolDrain.removed with
    | some none => .stall s
    | some (some n) =>
      .ok (setS (updPool s p.part p.num fun q => { q with drainers := q.drainers.filter fun d => !mine d }) o.fd (BitVec.ofNat 64 n))
    | none => commandPublish (fun s1 =>
        if poolNoBound s1 p then .ok (setS s1 o.fd (poolStatus 5 false))
        else
          let s2 := updPool s1 p.part p.num fun q => { q with closed := m != 2 }
          if m = 1 then .stall (updPool s2 p.part p.num fun q => { q with drainers := q.drainers ++ [{ uid := s1.t.uid, pc := s1.t.pc, removed := none }] })
          else .ok (setS s2 o.fd 0)) s) s

/-! ## Round boundaries (R416, R417, R420 to R422) -/

/-- A suspended ptake.w receives an element, or ends without one. -/
def wakeTake (s : State) (cont key payload : Nat) (st : Word) : State :=
  finishCont s cont [BitVec.ofNat 64 key, BitVec.ofNat 64 payload, st]

/-- One put linearises at a boundary on its shelf (R416); the oldest suspended ptake.w of the pool is served at once (R429). -/
def linearise (b die : Nat) (s : State) (pool : Pool) (u : Put) : State :=
  match poolOf s pool.part pool.num with
  | none => s
  | some p =>
    let e : Elem := { key := u.key, payload := u.payload, order := (b, die, u.seq), stamp := tcOf s p.part }
    let s1 := updPool s p.part p.num fun q => q.updShelf die fun x => { x with elems := x.elems ++ [e], pseq := (x.pseq + 1) % 2 ^ 48 }
    match p.waiters with
    | [] => s1
    | w :: r =>
      let s2 := updPool (serveElem s1 p die e) p.part p.num fun q => { q with waiters := r }
      wakeTake s2 w e.key e.payload (poolStatus 0 false)

/-- Moved elements arrive (R421). -/
def Pool.arrive (p : Pool) : Pool :=
  { p.moving.foldl (fun q m => q.updShelf m.2.1 fun x => { x with elems := x.elems ++ [m.2.2] }) p with moving := [] }

/-- Every linearised element is removed, for the drains that wait (R432). -/
def Pool.drain (p : Pool) : Pool :=
  if p.drainers.any fun d => d.removed.isNone then
    let n := p.shelves.foldl (fun a x => a + x.elems.length) 0
    let give := fun (a : List PoolDrain × Nat) (d : PoolDrain) =>
      match d.removed with
      | none => (a.1 ++ [{ d with removed := some a.2 }], 0)
      | some _ => (a.1 ++ [d], a.2)
    { p with drainers := (p.drainers.foldl give ([], n)).1, shelves := p.shelves.map fun x => { x with elems := [] } }
  else p

/-- The 8 lowest elements of a shelf, in pool order (R417). -/
def lowestEight (l : List Elem) : List Elem := (l.mergeSort fun a b => a.before b || a.order == b.order).take 8

/-- Summaries are published (R417); R422's condition needs two boundaries of the pool. -/
def Pool.summarise (p : Pool) (tc : Nat) : Pool :=
  let sum := fun (x : Shelf) =>
    { x with
      before := x.now
      now := { count := x.elems.length, pseq := x.pseq, lowest := lowestEight x.elems }
      takes := 0 }
  let shelves := p.shelves.map sum
  let total := fun (f : Shelf → Summary) => shelves.foldl (fun a x => a + (f x).pseq) 0
  { p with
    shelves := shelves
    tcAt := tc
    passed := p.passed + 1
    emptyRun := decide (0 < p.passed) && (shelves.all fun x => x.now.count == 0 && x.before.count == 0) && total Shelf.now == total Shelf.before &&
      p.moving.isEmpty }

/-- Rebalancing (R421): the surplus of a shelf among the K lowest named elements, lowest first, leaves for the shelves that hold
fewer, lower die number first. -/
def Pool.rebalance (p : Pool) : Pool :=
  let d := p.shelves.length
  let k := 8 * d
  let quota := if d = 0 then 0 else (k + d - 1) / d
  let low := ((p.shelves.map fun x => x.now.lowest.map fun e => (x.die, e)).flatten.mergeSort
    fun a b => a.2.before b.2 || a.2.order == b.2.order).take k
  let held := fun (die : Nat) => (low.filter fun m => m.1 == die).length
  let overdue := fun (e : Elem) => decide (p.limit ≤ p.tcAt - e.stamp)
  let surplus := (p.shelves.map fun x => ((low.filter fun m => m.1 == x.die && !overdue m.2).take (held x.die - quota))).flatten
  let room := (p.shelves.map fun x => List.replicate (quota - held x.die) x.die).flatten
  let moves := (surplus.zip room).map fun m => (m.1.1, m.2, m.1.2)
  moves.foldl (fun q m =>
    { q.updShelf m.1 (fun x => { x with elems := x.elems.filter fun e => e.order != m.2.2.order }) with moving := q.moving ++ [m] }) p

/-- One pool at a boundary. -/
def boundaryPool (b : Nat) (s : State) (p0 : Pool) : State :=
  let s1 := updPool s p0.part p0.num Pool.arrive
  let exact := p0.takes.any fun k => k.bound == 1 && k.served.isNone
  let hold := exact && !p0.held
  let shelves := p0.shelves.mergeSort fun x y => decide (x.die ≤ y.die)
  let s2 := if hold then updPool s1 p0.part p0.num fun q => { q with held := true }
    else
      let a := shelves.foldl (fun x sh => sh.puts.foldl (fun y u => linearise b sh.die y p0 u) x) s1
      updPool a p0.part p0.num fun q => { q with held := false, shelves := q.shelves.map fun x => { x with puts := [] } }
  updPool s2 p0.part p0.num fun q => ((q.drain).summarise (tcOf s2 p0.part)).rebalance

/-- ROUND_BOUNDARY (R416): all dies of a package pass a boundary. -/
def execRoundBoundary (pkg : Nat) (s : State) : Host.Outcome State Fault Refusal :=
  let ps := s.pools.filter fun p => p.pkg == pkg
  let b := boundaryOf s pkg
  happening (ps.foldl (boundaryPool b) { s with boundary := (pkg, b + 1) :: s.boundary.filter fun x => x.1 != pkg })

/-- POOL_PUT_WAKE (R429): a suspended ptake.w takes an element that has linearised, or ends DRAINED once its pool is closed and
empty. -/
def execPoolPutWake (part pool : Nat) (s : State) : Host.Outcome State Fault Refusal :=
  match poolOf s part pool with
  | none => happening s
  | some p =>
    match p.waiters with
    | [] => happening s
    | w :: r =>
      let rest := fun (x : State) => updPool x part pool fun q => { q with waiters := r }
      match lowestElem (p.shelves.map Shelf.elems).flatten with
      | some e =>
        match p.shelves.find? fun x => x.elems.any fun y => y.order == e.order with
        | some x => happening (wakeTake (rest (serveElem s p x.die e)) w e.key e.payload (poolStatus 0 false))
        | none => happening s
      | none => if p.closed ∧ p.emptyRun then happening (wakeTake (rest s) w 0 0 (poolStatus 4 false)) else happening s

end Sys2Proof.Machine
end

