-- ==== Sys2Proof/Machine/Views.lean ====
section
/-! DEFINITION. Master tensors and derived views: registration, reading with a policy, refresh (R400 to R413). -/

namespace Sys2Proof.Machine

/-! ## Shapes -/

/-- z of a master's elements, its element count, its blocks, and e of R402. -/
def Master.zm (m : Master) : Nat := typeWidth m.mtype / 8
def Master.total (m : Master) : Nat := m.ext[0] * m.ext[1] * m.ext[2] * m.ext[3]
def blocksFor (total zm : Nat) : Nat := (total * zm + 4095) / 4096
def Master.perBlock (m : Master) : Nat := 4096 / m.zm

/-- The fields of a view's descriptor (R408). -/
def viewField (d : List Word) (k hi lo : Nat) : Nat := field (d.getD k 0).toNat hi lo
def View.ty (v : View) : Nat := viewField v.desc 4 4 0
def View.layout (v : View) : Nat := viewField v.desc 4 7 6
def View.axis (v : View) : Nat := viewField v.desc 4 9 8
def View.blc (v : View) : Nat := viewField v.desc 4 11 10
def View.shard (v : View) : Nat := viewField v.desc 4 13 12
def View.sat1 (v : View) : Bool := viewField v.desc 4 14 14 == 1
def View.tid (v : View) : Nat := viewField v.desc 4 43 32

/-- L and the product of the extents below the block axis (R401). -/
def View.len (v : View) : Nat := 2 ^ (v.blc + 3)
def innerProduct (ext : Vector Nat 4) (axis : Nat) : Nat := (ext.toList.take axis).foldl (· * ·) 1

/-- z of a view format, and Zs of R402. -/
def viewZ (ty : Nat) : Nat := if ty = 0x0A ∨ ty = 0x0B then 2 else 1
def slotSize (ty blc zm : Nat) : Nat :=
  let e := 4096 / zm
  64 * ((e * viewZ ty + (if isBfp ty then e / 2 ^ (blc + 3) else 0) + 16 + 63) / 64)

/-- The master of a view. -/
def masterOf (s : State) (v : View) : Option Master := s.masters.find? fun m => m.part == v.part && m.id == v.handle / 16

/-- The quantisation block of an element, numbered by its first element in master order, and its place in that block (R401). -/
def quantIndex (len inner x : Nat) : Nat × Nat := (x / (inner * len) * inner + x % inner, x / inner % len)

/-! ## Finding a view and the copy a reader reads (R401, R407, R411) -/

/-- The tether by which a partition receives under a number. -/
def receivingTether (s : State) (part tid : Nat) : Option Tether :=
  s.tethers.find? fun t => t.receiver == part && t.receiverTid == tid && !t.revoked && !t.ended

/-- The view that a partition names by TID and HANDLE. -/
def namedView (s : State) (part tid handle : Nat) : Option View :=
  let owner := if tid = 0 then some part else (receivingTether s part tid).map Tether.sender
  owner.bind fun o => s.views.find? fun v => v.part == o && v.handle == handle

/-- The tether of a tether view, by the sender's number. -/
def viewTether (s : State) (v : View) : Option Tether :=
  s.tethers.find? fun t => t.sender == v.part && t.senderTid == v.tid && !t.ended

/-- The copy that a reader of a partition on a core reads, none when it has no readable copy. -/
def readable (s : State) (v : View) (m : Master) (part core : Nat) : Option Copy :=
  if v.shard = 2 then
    match viewTether s v with
    | some t => if t.receiver = part then v.copies.head? else none
    | none => none
  else if part ≠ v.part ∨ pkgOf core ≠ m.pkg then none
  else if v.shard = 1 then v.copies.find? fun c => c.die == dieOf core
  else v.copies.head?

/-- The freshness of a block (R404). -/
def Block.freshness (b : Block) (m : Master) : Nat := if b.state = .fresh then m.pc else b.f

/-- n_obs of a thread (R407). -/
def nObs (t : Thread) (m : Master) : Nat := (assoc t.seen m.born).getD 0

/-- What reading a block under a policy gives (R407). -/
inductive BlockRead where
  | ok
  | waits
  | stale
  | faulted
  deriving DecidableEq, Repr

def blockRead (m : Master) (pol n nobs : Nat) (b : Block) : BlockRead :=
  let f := b.freshness m
  if b.state = .faulted then .faulted
  else
    match pol with
    | 0 => if nobs ≤ f then .ok else .waits
    | 1 => if nobs - n ≤ f then .ok else .waits
    | 2 => .ok
    | _ => if nobs ≤ f then .ok else .stale

/-- MBASE + 4096 × block. -/
def blockAddr (m : Master) (b : Nat) : Word := m.base + BitVec.ofNat 64 (4096 * b)

/-- An element of a copy, in master order, and its exponent (0 for a format without). -/
def Copy.elem (c : Copy) (m : Master) (x : Nat) : Nat :=
  match c.blocks[x / m.perBlock]? with
  | some b => b.elems.getD (x % m.perBlock) 0
  | none => 0

def Copy.scale (c : Copy) (v : View) (m : Master) (x : Nat) : Nat :=
  match c.blocks[x / m.perBlock]? with
  | some b => b.scales.getD (quantIndex v.len (innerProduct m.ext v.axis) (x % m.perBlock)).1 0
  | none => 0

/-! ## vld.view (R411) -/

/-- The fields of the read word. -/
def readTid (a : Word) : Nat := field a.toNat 47 36
def readK (a : Word) : Nat := field a.toNat 35 32
def readN (a : Word) : Nat := field a.toNat 31 24
def readPol (a : Word) : Nat := field a.toNat 17 16
def readHandle (a : Word) : Nat := field a.toNat 15 0
def readReserved (a : Word) : Bool := a.extractLsb' 48 16 != 0 || a.extractLsb' 18 6 != 0

/-- A view failure at an element. -/
def viewTrap (cls : Nat) (va : Word) (elem : Nat) : Trap := addrTrap cls va elem

/-- What the access of view element `x`, as element `i`, gives: the element, a wait, or the trap. -/
def viewElem (s : State) (a : Word) (m : Master) (c : Option Copy) (x i : Nat) : Except (Option Trap) Nat :=
  if m.total ≤ x then .ok 0
  else
    let b := x / m.perBlock
    match c with
    | none => .error (some (viewTrap 0x0B (blockAddr m b) i))
    | some c =>
      match c.blocks[b]? with
      | none => .ok 0
      | some k =>
        match blockRead m (readPol a) (readN a) (nObs s.t m) k with
        | .ok => .ok (c.elem m x)
        | .waits => .error none
        | .stale => .error (some (viewTrap 0x0C (blockAddr m b) i))
        | .faulted => .error (some (viewTrap 0x0B (blockAddr m b) i))

/-- Whether some active element has to wait before any fails. -/
def viewWaits (f : Nat → Except (Option Trap) Nat) (act : Nat → Bool) : Nat → Nat → Bool
  | 0, _ => false
  | n + 1, i =>
    if act i then
      match f i with
      | .ok _ => viewWaits f act n (i + 1)
      | .error none => true
      | .error (some _) => false
    else viewWaits f act n (i + 1)

/-- The exponents of the blocks with an active element from `lo` up to `hi` (R411). -/
def viewScales (k lo hi : Nat) (act : Nat → Bool) (e : Nat → Nat) (s : State) : State :=
  (List.range hi).foldl (fun x i => if lo ≤ i ∧ act i then setScale x k (blockOf s i) (e i) else x) s

/-- The elements of a vld.view from a view, or the failure of every element when the handle names none. -/
def viewLoad (o : WM) (a : Word) (j : Nat) (vm : Option (View × Master)) (s : State) : Res :=
  let c := vm.bind fun p => readable s p.1 p.2 s.t.part s.t.core
  let f := fun (i : Nat) => match vm with
    | none => Except.error (some (viewTrap 0x0B 0 i))
    | some p => viewElem s a p.2 c (j + i) i
  let act := maskOn s o.msk.toNat
  let st := startElem s
  let vl := s.t.ctl.vl
  if viewWaits f act (vl - st) st then .stall s
  else
    let e := fun (i : Nat) => match vm, c with
      | some p, some k => if p.2.total ≤ j + i then 0 else k.scale p.1 p.2 (j + i)
      | _, _ => 0
    let put := fun (hi : Nat) (x : State) => if isBfp o.ty.toNat then viewScales (readK a) st hi act e x else x
    let r := loadVec false o.vd.toNat o.msk.toNat (typeWidth o.ty.toNat) [] (fun x i => match f i with
      | .ok v => .ok v x
      | .error t => .bad (t.getD (viewTrap 0x0B 0 i)) x) s
    match r with
    | .ok x => .ok (put vl x)
    | .trap t x => .trap t (if t.cls = 0x0B ∨ t.cls = 0x0C then put t.telem x else x)
    | .stall x => .stall x

/-- `vld.view.ty vd, (sa), sb` (R411). -/
def execVldView (o : WM) (s : State) : Host.Outcome State Fault Refusal :=
  executeOp [o.sa, o.xb] .elements (fun s =>
    let a := getS s o.sa
    let j := (getS s o.xb).toNat
    let ty := o.ty.toNat
    let vm := (namedView s s.t.part (readTid a) (readHandle a)).bind fun v => (masterOf s v).map fun m => (v, m)
    let fits : Bool := match vm with
      | none => true
      | some p => p.1.ty == ty && (!isBfp ty || p.1.blc == vtBl s)
    if readReserved a then illegalWith a s
    else if vtType s ≠ ty ∨ fits = false ∨ (isBfp ty ∧ (j % 2 ^ (vtBl s + 3) ≠ 0 ∨ scaleFits s (readK a) = false)) then illegal s
    else
      match vm with
      | some p => if isBfp ty ∧ p.1.axis ≠ 0 then illegalWith a s else viewLoad o a j vm s
      | none => viewLoad o a j none s) s

/-! ## Registration (R408) -/

/-- The refusal statuses of R408 and R409. -/
def viewRefusal (code : Nat) : Word := BitVec.ofNat 64 (2 ^ 63 + code)

/-- The extents that a descriptor gives. -/
def extentsOf (d : List Word) : Vector Nat 4 :=
  #v[viewField d 2 31 0, viewField d 2 63 32, viewField d 3 31 0, viewField d 3 63 32]

/-- BADDESC. -/
def viewDescBad (d : List Word) : Bool :=
  let rs := viewField d 0 15 13
  let nd := viewField d 0 12 10
  let mt := viewField d 0 4 0
  let e := (extentsOf d).toList
  viewField d 0 63 16 != 0 || viewField d 0 9 5 != 0 || viewField d 4 63 44 != 0 || viewField d 4 31 15 != 0 ||
    viewField d 4 5 5 != 0 || d.getD 6 0 != 0 || d.getD 7 0 != 0 || !(decide (3 ≤ rs ∧ rs ≤ 5)) || !(decide (1 ≤ nd ∧ nd ≤ 4)) ||
    !(decide (mt = 0x0B ∨ mt = 0x0C ∨ mt = 0x0D)) || (e.any fun x => decide (x = 0 ∨ 2 ^ 24 < x)) ||
    ((e.drop nd).any fun x => x != 1) || viewField d 4 13 12 == 3 || decide (nd ≤ viewField d 4 9 8) ||
    !(viewTy (viewField d 4 4 0))

/-- BADBLOCK (R401, R408). -/
def blockBad (d : List Word) (zm : Nat) : Bool :=
  let ty := viewField d 4 4 0
  let e := extentsOf d
  let lay := viewField d 4 7 6
  let l := 2 ^ (viewField d 4 11 10 + 3)
  let ba := viewField d 4 9 8
  (isBfp ty && (e.toList.getD ba 1 % l != 0 || (4096 / zm) % (l * innerProduct e ba) != 0)) ||
    (lay == 2 && (e[0] % 64 != 0 || e[1] % 64 != 0)) || (lay == 3 && !isBfp ty)

/-- Where a view's storage lies: partition, package and first address. -/
structure Storage where
  part : Nat
  pkg : Nat
  base : Nat
  size : Nat
  deriving DecidableEq, Repr

/-- The physical address of a page's byte for a read or, with `w`, a write; none when it is not mapped so. -/
def mappedAt (s : State) (part pkg va : Nat) (w : Bool) : Option Nat :=
  match walk s part pkg (va % 2 ^ 57) with
  | .leaf _ e l => if w ∧ field e 3 3 = 0 then none else some (field e 51 16 * 2 ^ 16 + va % 2 ^ levelShift l)
  | .pageFault | .protection => none

/-- Two ranges of addresses meet. -/
def spansMeet (a n b m : Nat) : Bool := decide (0 < n ∧ 0 < m ∧ a < b + m ∧ b < a + n)

/-- Whether storage overlaps a master or another view. -/
def storageMeets (s : State) (x : Storage) : Bool :=
  (s.masters.any fun m => m.part == x.part && m.pkg == x.pkg && spansMeet x.base x.size m.base.toNat (m.total * m.zm)) ||
    (match partOf s x.part with
      | none => false
      | some p => p.guards.any fun g => g.pkg == x.pkg && spansMeet x.base x.size g.base g.size)

/-- A range of addresses that are all canonical (R155). -/
def rangeCanonical (base n : Nat) : Bool :=
  decide (base + n ≤ 2 ^ 64) && canonical (BitVec.ofNat 64 base) && (n == 0 || canonical (BitVec.ofNat 64 (base + n - 1)))

/-- Storage that is mapped with W throughout. -/
def storageMapped (s : State) (x : Storage) : Bool :=
  rangeCanonical x.base x.size && (rangeProbes (BitVec.ofNat 64 x.base) x.size).all fun a =>
    (mappedAt s x.part x.pkg a.toNat true).isSome

/-- The blocks of a master at MBASE: their physical addresses, when every one lies in HBM of the package (R400). -/
def masterBlocks (s : State) (base : Word) (n : Nat) : Option (List Nat) :=
  if rangeCanonical base.toNat (4096 * n) = false then none
  else
    let bs := (List.range n).map fun b => mappedAt s s.t.part (pkgOf s.t.core) (base.toNat + 4096 * b) false
    if bs.all fun p => match p with
      | some a => populated a && field a 43 42 == 0 && field a 51 44 == pkgOf s.t.core
      | none => false
    then some (bs.filterMap id) else none

/-- The dies of the copies of a view (R401). -/
def copyDies (s : State) (shard : Nat) : List Nat :=
  let mine := dieOf s.t.core
  if shard = 1 then
    match partOf s s.t.part with
    | some p => (mine :: (p.quads.map (· / 12)).filter fun d => d / 8 == pkgOf s.t.core).dedup
    | none => [mine]
  else [mine]

/-- What registering a descriptor meets before any change: a refusal code, or the place of its storage and the master's blocks. -/
def registerCheck (d : List Word) (s : State) : Except Nat (Storage × List Nat) :=
  let base := d.getD 1 0
  let mt := viewField d 0 4 0
  let zm := typeWidth mt / 8
  let e := extentsOf d
  let shard := viewField d 4 13 12
  let known := s.masters.find? fun m => m.part == s.t.part && m.pkg == pkgOf s.t.core && m.base == base
  let views := fun (m : Master) => (s.views.filter fun v => v.part == m.part && v.handle / 16 == m.id).length
  if viewDescBad d then .error 1
  else if known.isNone ∧ 4096 ≤ (s.masters.filter fun m => m.part == s.t.part).length then .error 2
  else if known.any fun m => decide (16 ≤ views m) then .error 3
  else if known.any fun m => m.mtype != mt || m.ndim != viewField d 0 12 10 || m.ext != e || m.rs != viewField d 0 15 13 then
    .error 4
  else
    let nm := blocksFor (e[0] * e[1] * e[2] * e[3]) zm
    let size := (copyDies s shard).length * 2 * nm * slotSize (viewField d 4 4 0) (viewField d 4 11 10) zm
    let tether := s.tethers.find? fun t => t.sender == s.t.part && t.senderTid == viewField d 4 43 32 && !t.revoked && !t.ended
    let vb := (d.getD 5 0).toNat
    let x : Storage := match shard, tether with
      | 2, some t => { part := t.receiver, pkg := t.pkg, base := t.base + vb, size := size }
      | _, _ => { part := s.t.part, pkg := pkgOf s.t.core, base := vb, size := size }
    let short := shard == 2 && (match tether with
      | some t => decide (t.size < vb + size)
      | none => true)
    let own : Storage := { part := s.t.part, pkg := pkgOf s.t.core, base := base.toNat, size := nm * 4096 }
    let meetsOwn := x.part == own.part && x.pkg == own.pkg && spansMeet x.base x.size own.base (e[0] * e[1] * e[2] * e[3] * zm)
    match (if base.toNat % 4096 = 0 then masterBlocks s base nm else none) with
    | none => .error 5
    | some pas =>
      if (shard ≠ 2 ∧ vb % 2 ^ 16 ≠ 0) ∨ ((shard ≠ 2 ∨ tether.isSome) ∧ (storageMapped s x = false ∨ storageMeets s x ∨ meetsOwn)) then
        .error 5
      else if blockBad d zm then .error 6
      else if shard = 2 ∧ (short ∨ viewField d 0 15 13 ≠ 5) then .error 7
      else .ok (x, pas)

/-- A block as registration leaves it: stale, its served slot zero (R404). -/
def Block.start (die pc elems scales : Nat) : Block where
  die := die
  state := .stale
  f := pc
  marked := false
  elems := List.replicate elems 0
  scales := List.replicate scales 0
  nextElems := []
  nextScales := []
  c := 0

/-- The die that keeps a block of a copy: the home die of the master block for a view per die, that of the window for a tether
view, the copy's die for a broadcast view (R401, R405). -/
def blockDie (s : State) (shard die : Nat) (x : Storage) (pa : Nat) : Nat :=
  if shard = 0 then die / 8 * 8 + homeDie pa
  else if shard = 2 then x.pkg * 8 + ((mappedAt s x.part x.pkg x.base true).map homeDie).getD 0
  else die

/-- Registers a view that has passed its checks (R403, R404, R408): the handle and the state. -/
def register (d : List Word) (x : Storage) (pas : List Nat) (s : State) : Nat × State :=
  let base := d.getD 1 0
  let part := s.t.part
  let pkg := pkgOf s.t.core
  let mt := viewField d 0 4 0
  let known := s.masters.find? fun m => m.part == part && m.pkg == pkg && m.base == base
  let id := match known with
    | some m => m.id
    | none => ((List.range 4096).find? fun i => s.masters.all fun m => !(m.part == part && m.id == i)).getD 0
  let m : Master := known.getD
    { id := id, part := part, born := s.pubs + 1, pkg := pkg, base := base, mtype := mt, ndim := viewField d 0 12 10, ext := extentsOf d,
      rs := viewField d 0 15 13, pc := 0, blockPa := pas, podP := 0, pkgP := 0, dieP := [] }
  let idx := ((List.range 16).find? fun i => s.views.all fun v => !(v.part == part && v.handle == id * 16 + i)).getD 0
  let handle := id * 16 + idx
  let ty := viewField d 4 4 0
  let shard := viewField d 4 13 12
  let block := fun (die : Nat) (b : Nat) (pa : Nat) =>
    let n := min m.perBlock (m.total - m.perBlock * b)
    Block.start (blockDie s shard die x pa) m.pc n (if isBfp ty then n / 2 ^ (viewField d 4 11 10 + 3) else 0)
  let copies := (copyDies s shard).map fun die => { die := die, blocks := pas.mapIdx (block die) : Copy }
  let v : View := { part := part, handle := handle, desc := d, copies := copies, fflags := 0, sat := 0 }
  let g : Guard := { pkg := x.pkg, base := x.base, size := x.size, owner := part, handle := handle }
  let m1 := m.count (dieOf s.t.core) 5 []
  let s1 := { s with
    views := s.views ++ [v]
    masters := m1 :: s.masters.filter fun y => !(y.part == part && y.id == id)
    parts := updWhere s.parts (fun p => p.slot == x.part) (fun p => { p with guards := p.guards ++ [g] })
    pubs := s.pubs + 1 }
  (handle, s1)

/-- `vreg.view sd, sa` (R408). -/
def execVregView (o : W4) (s : State) : Host.Outcome State Fault Refusal :=
  accessOp [o.fa] (fun s =>
    if xBusy s then .stall s
    else
      let s1 := publish (drainMatrix s) 4
      let a := getS s1 o.fa
      if canonical a ∧ a.toNat % 64 ≠ 0 then .trap (addrTrap 0x03 a 0) s1
      else
        match loadWords a 8 0 s1 with
        | .bad t s2 => .trap t s2
        | .ok d s2 =>
          match registerCheck d s2 with
          | .error c => .ok (setS s2 o.fd (viewRefusal c))
          | .ok (x, pas) =>
            let r := register d x pas s2
            .ok (setS r.2 o.fd (BitVec.ofNat 64 r.1))) s

/-! ## Waiting for a view (R410) -/

/-- The blocks that an operand b names among `n`. -/
def namedBlocks (b : Word) (n : Nat) : List Nat :=
  if b = 0 then List.range n
  else (List.range (field b.toNat 47 24)).filterMap fun i => if field b.toNat 23 0 + i < n then some (field b.toNat 23 0 + i) else none

/-- The result word of vwait.view. -/
def waitWord (v : View) (f : Nat) : Word := BitVec.ofNat 64 (f % 2 ^ 48 + v.fflags.toNat * 2 ^ 48 + v.sat.toNat * 2 ^ 54)

/-- The result of a vwait.view of a thread now, none while it has to wait. -/
def viewWait (s : State) (t : Thread) (a b : Word) : Option Word :=
  let bad := some (viewRefusal 9)
  match namedView s t.part (readTid a) (readHandle a) with
  | none => bad
  | some v =>
    match masterOf s v with
    | none => bad
    | some m =>
      match readable s v m t.part t.core with
      | none => bad
      | some c =>
        let bs := (namedBlocks b c.blocks.length).filterMap fun i => c.blocks[i]?
        let pol := if readPol a = 3 then 0 else readPol a
        let rs := bs.map (blockRead m pol (readN a) (nObs t m))
        if bs.isEmpty then some (waitWord v m.pc)
        else if rs.contains .faulted then bad
        else if rs.contains .waits then none
        else some (waitWord v (bs.foldl (fun x k => min x (k.freshness m)) (2 ^ 48 - 1)))

/-- `vwait.view sd, sa, sb, #s` (R410). -/
def execVwaitView (o : W4) (s : State) : Host.Outcome State Fault Refusal :=
  jumpOp [o.fa, o.fb] (fun s =>
    let a := getS s o.fa
    let b := getS s o.fb
    if readReserved a then illegalWith a s
    else
      let now := viewWait s s.t a b
      let go := fun (w : Word) (x : State) => Res.ok (advance (setS x o.fd w))
      if o.fc = 0 then (match now with
        | some w => go w s
        | none => .stall s)
      else
        match suspendCheck s with
        | .bad t s1 => .trap t s1
        | .ok ks s1 =>
          match now with
          | some w => go w s1
          | none => suspendWith (.view a b) [o.fd] ks (fun _ x => x) s1) s

/-- Finishes the suspended vwait.view whose condition now holds. -/
def settleViews (s : State) : State :=
  s.conts.foldl (fun x c =>
    match c.waiting with
    | .view a b =>
      match viewWait x c.th a b with
      | some w => finishCont x c.id [w]
      | none => x
    | .put _ | .take _ | .barrier _ _ | .spawn _ | .done => x) s

/-! ## Dropping a view (R409) -/

/-- The storage of a dropped view is ordinary memory again, with contents the spec does not give (log 4). -/
def freeStorage (s : State) (part : Nat) (g : Guard) : State :=
  let put := fun (x : State) (j : Nat) =>
    match mappedAt x part g.pkg (g.base + j) false with
    | some pa => homeWrite x pa (BitVec.ofNat 8 (Config.freeNat (s.fresh * 2 ^ 64 + j))) x.pubs
    | none => x
  (List.range g.size).foldl put { s with pubs := s.pubs + 1, fresh := s.fresh + 1 }

/-- Ends a view: the guard is lifted, its master ends with its last view, and no folio counts as holding it: the handle may name another
view next. -/
def dropView (s : State) (v : View) : State :=
  let mine := fun (g : Guard) => g.owner == v.part && g.handle == v.handle
  let s1 := { s with
    views := s.views.filter fun x => !(x.part == v.part && x.handle == v.handle)
    parts := s.parts.map fun p => { p with guards := p.guards.filter fun g => !mine g }
    folios := s.folios.map fun e =>
      if e.view.any fun k => k.part == v.part && k.handle == v.handle then { e with view := none } else e }
  let left := s1.views.any fun x => x.part == v.part && x.handle / 16 == v.handle / 16
  let s2 := if left then s1 else { s1 with masters := s1.masters.filter fun m => !(m.part == v.part && m.id == v.handle / 16) }
  s.parts.foldl (fun x p => (p.guards.filter mine).foldl (fun y g => freeStorage y p.slot g) x) s2

/-- `vdrop.view sd, sa` (R409): accepted reads of the view come first (R413). -/
def execVdropView (o : W4) (s : State) : Host.Outcome State Fault Refusal :=
  accessOp [o.fa] (fun s =>
    let a := getS s o.fa
    if a.extractLsb' 16 48 ≠ 0 then illegalWith a s
    else
      match s.views.find? fun v => v.part == s.t.part && v.handle == a.toNat with
      | none => .ok (setS s o.fd (viewRefusal 8))
      | some v =>
        let refreshing := v.copies.any fun c => c.blocks.any fun b => b.state == .refreshing
        let read := s.cmds.any fun c => c.kind == .xcopyView && c.peer == v.part && c.arg0.toNat == v.handle
        if refreshing ∨ read then .stall s else .ok (setS (settleViews (dropView s v)) o.fd 0)) s

/-! ## Refresh (R405) -/

/-- A block of the machine: view, copy, index. -/
structure BlockRef where
  view : Nat
  copy : Nat
  block : Nat
  deriving DecidableEq, Repr

/-- Whether the view engine's publish step of a view can land: the signal to a tether that is revoked does not (R386, R405; log 16). -/
def View.lands (s : State) (v : View) : Bool :=
  v.shard != 2 || (match viewTether s v with
    | some t => !t.revoked
    | none => false)

/-- The blocks of a die's engine that meet `p`, in ascending master block index, then in the order of views and copies. -/
def dieBlocks (s : State) (die : Nat) (p : View → Block → Bool) : List BlockRef :=
  let all := (s.views.mapIdx fun i v => (v.copies.mapIdx fun j c =>
    (c.blocks.mapIdx fun k b => if b.die == die && p v b then [{ view := i, copy := j, block := k : BlockRef }] else []).flatten).flatten).flatten
  all.mergeSort fun x y => decide (x.block ≤ y.block)

def blockOfRef (s : State) (r : BlockRef) : Option (View × Block) :=
  (s.views[r.view]?).bind fun v => ((v.copies[r.copy]?).bind fun c => c.blocks[r.block]?).map fun b => (v, b)

/-- Changes a block and its view. -/
def updBlock (s : State) (r : BlockRef) (fv : View → View) (f : Block → Block) : State :=
  let copy := fun (c : Copy) => { c with blocks := c.blocks.mapIdx (fun k b => if k = r.block then f b else b) }
  let view := fun (v : View) => { v with copies := v.copies.mapIdx (fun j c => if j = r.copy then copy c else c) }
  { s with views := s.views.mapIdx (fun i v => if i = r.view then fv (view v) else v) }

/-- The elements, exponents and flags of a view block from its master block's elements (R405 steps 2 and 3). -/
def derive (v : View) (m : Master) (xs : List Nat) : List Nat × List Nat × Fl :=
  let f := fmtOf m.mtype
  if isBfp v.ty then
    let mb := v.ty - 0x10 + 2
    let l := v.len
    let p := innerProduct m.ext v.axis
    let qs := (List.range (xs.length / l)).map fun q =>
      quantise mb ((List.range l).map fun k => f.value (xs.getD (q / p * (p * l) + k * p + q % p) 0))
    let es := (List.range xs.length).map fun x =>
      let q := quantIndex l p x
      bfpByte (((qs[q.1]?).map fun y => y.2.1.getD q.2 0).getD 0)
    (es, qs.map Prod.fst, qs.foldl (fun (a : Fl) q => a ||| q.2.2) 0)
  else
    let rs := xs.map fun x => fConvert (fmtOf v.ty) 0 v.sat1 (f.value x)
    (rs.map Prod.fst, [], rs.foldl (fun (a : Fl) r => a ||| r.2) 0)

/-- VIEW_REFRESH_READ (R404, R405): a die's view engine, idle, takes its lowest stale block, reads the master block at one moment
and computes the next slot. Blocks whose publish step cannot land are left (log 16). -/
def execViewRefreshRead (die : Nat) (s : State) : Host.Outcome State Fault Refusal :=
  if !(dieBlocks s die fun _ b => b.state == .refreshing).isEmpty then happening s
  else
    match (dieBlocks s die fun v b => b.state == .stale && v.lands s).head? with
    | none => happening s
    | some r =>
      match blockOfRef s r with
      | none => happening s
      | some (v, _) =>
        match masterOf s v with
        | none => happening s
        | some m =>
          let pa := m.blockPa.getD r.block 0
          let n := min m.perBlock (m.total - m.perBlock * r.block)
          let s1 := fillBlock s pa
          if homeBad s1 pa (n * m.zm) then
            let s2 := logError s1 die 0x0E 0x04 (2 ^ 14 + die % 8 * 2 ^ 11 + 3 * 2 ^ 8) v.part 0
            happening (settleViews (updBlock s2 r id fun b => { b with state := .faulted }))
          else
            let d := derive v m ((List.range n).map fun i => leNat (s1.home.readN m.zm (pa + i * m.zm)))
            happening (updBlock s1 r
              (fun v => { v with fflags := v.fflags ||| d.2.2.setWidth 6, sat := v.sat ||| d.2.2.extractLsb' 6 3 })
              fun b => { b with state := .refreshing, marked := false, nextElems := d.1, nextScales := d.2.1, c := m.pc })

/-- The publish step of a refreshing block (R404). -/
def Block.serve (b : Block) : Block :=
  { b with
    state := if b.marked then .stale else .fresh
    f := b.c
    marked := false
    elems := b.nextElems
    scales := b.nextScales
    nextElems := []
    nextScales := [] }

/-- VIEW_REFRESH_PUBLISH (R404, R405 step 4): the new slot is served in one atomic. The signal to a revoked tether does not land,
and the block is stale as before (log 16). -/
def execViewRefreshPublish (die : Nat) (s : State) : Host.Outcome State Fault Refusal :=
  match (dieBlocks s die fun _ b => b.state == .refreshing).head? with
  | none => happening s
  | some r =>
    match blockOfRef s r with
    | none => happening s
    | some (v, _) =>
      happening (settleViews (updBlock s r id fun b =>
        if v.lands s then b.serve else { b with state := .stale, marked := false, nextElems := [], nextScales := [] }))

/-! ## xcopy.view (R412) -/

/-- The master element that an image element is, by the view's layout (R412). -/
def imageElem (v : View) (m : Master) (y : Nat) : Nat :=
  let d0 := m.ext[0]
  let d1 := m.ext[1]
  if v.layout = 1 then y / d1 % d0 + d0 * (y % d1 + d1 * (y / (d0 * d1)))
  else if v.layout = 2 then
    let nt := d0 * d1 / 4096
    let t := y / 4096
    let i1 := t % nt / (d0 / 64) * 64 + y % 4096 / 64
    let i0 := t % nt % (d0 / 64) * 64 + y % 64
    i0 + d0 * (i1 + d1 * (t / nt))
  else y

/-- Fields of an xcopy.view descriptor. -/
structure ViewCopy where
  handle : Nat
  pol : Nat
  n : Nat
  dfol : Bool
  cfol : Bool
  tid : Nat
  j0 : Nat
  cnt : Nat
  dst : Word
  sdst : Word
  deriving DecidableEq, Repr

def ViewCopy.dec (d : List Word) : ViewCopy :=
  { handle := viewField d 0 63 48, pol := viewField d 0 47 46, n := viewField d 0 45 38, dfol := viewField d 0 37 37 == 1,
    cfol := viewField d 0 36 36 == 1, tid := viewField d 0 35 24, j0 := viewField d 1 47 0, cnt := viewField d 2 31 0,
    dst := d.getD 3 0, sdst := d.getD 4 0 }

/-- R412's rules on a descriptor whose view is known. -/
def viewCopyOk (d : List Word) (v : View) : Bool :=
  let c := ViewCopy.dec d
  viewField d 0 23 0 == 0 && d.getD 5 0 == 0 && d.getD 6 0 == 0 && d.getD 7 0 == 0 && decide (c.cnt ≤ 2 ^ 24) &&
    !(isBfp v.ty && c.j0 % v.len != 0) && !(v.layout == 3 && c.j0 % 256 != 0) && (isBfp v.ty || c.sdst == 0) &&
    !(c.dfol && c.dst.extractLsb' 26 38 != 0) && !(isBfp v.ty && c.cfol && c.sdst.extractLsb' 26 38 != 0) &&
    (baseOf c.dfol c.dst).toNat % viewZ v.ty == 0

/-- `xcopy.view sd, sa, sc` (R412). -/
def execXcopyView (o : LE) (s : State) : Host.Outcome State Fault Refusal :=
  accessOp [o.fa, o.fc] (commandOperands o 8 fun d cb s1 => commandPublish (fun s2 =>
    let c := ViewCopy.dec d
    match namedView s2 s2.t.part c.tid c.handle with
    | none => badArg o s2
    | some v =>
      let cf := isBfp v.ty && c.cfol
      let dst := refEntry s2 c.dfol c.dst
      let sd := refEntry s2 cf c.sdst
      if dst.1.isFilling ∨ sd.1.isFilling then .stall s2
      else if viewCopyOk d v = false ∨ dst.2 = false ∨ sd.2 = false then badArg o s2
      else
        let nobs := ((masterOf s2 v).map (nObs s2.t)).getD 0
        issueCmd o { newCmd s2 .xcopyView d cb with
          peer := v.part, arg0 := BitVec.ofNat 64 c.handle, needs := nobs, folS := sd.1.index, folD := dst.1.index } s2) s1) s

/-- How far the elements of an xcopy.view can be read: the image elements read, with their master elements, and what ends them:
a wait, or a status with its address. -/
def imageReads (v : View) (m : Master) (c : ViewCopy) (k : Option Copy) (nobs : Nat) : Nat → Nat →
    List (Nat × Nat) × Option (Option (Nat × Nat))
  | 0, _ => ([], none)
  | n + 1, y =>
    let x := imageElem v m y
    let b := x / m.perBlock
    let addr := (blockAddr m b).toNat % 2 ^ 57
    let go := fun (_ : Unit) =>
      let r := imageReads v m c k nobs n (y + 1)
      ((y, x) :: r.1, r.2)
    if m.total ≤ x then go ()
    else
      match k with
      | none => ([], some (some (0x09, addr)))
      | some k =>
        match k.blocks[b]? with
        | none => go ()
        | some q =>
          match blockRead m c.pol c.n nobs q with
          | .ok => go ()
          | .waits => ([], some none)
          | .stale => ([], some (some (0x0A, addr)))
          | .faulted => ([], some (some (0x09, addr)))

/-- The bytes of the destination: the offset and value of each. A bit-planed image is written plane byte by plane byte; past its
last element the last block is 0 (R160, R412), and a copy that fails keeps the other bits of a byte. -/
def imageBytes (v : View) (whole : Bool) (old : Nat → Byte) (es : List Nat) : List (Nat × Byte) :=
  if v.layout = 3 then
    let mb := v.ty - 0x10 + 2
    let n := es.length
    ((List.range ((n + 255) / 256)).map fun b =>
      (List.range (32 * mb)).filterMap fun i =>
        let off := b * (32 * mb) + i
        let bits := (List.range 8).map fun k =>
          let p := b * 256 + i % 32 * 8 + k
          if p < n then (es.getD p 0).testBit (i / 32) else if whole then false else (old off).getLsbD k
        if whole ∨ b * 256 + i % 32 * 8 < n then
          some (off, BitVec.ofNat 8 (bits.mapIdx (fun k t => if t then 2 ^ k else 0) |>.foldl (· + ·) 0))
        else none).flatten
  else
    let z := viewZ v.ty
    (es.mapIdx fun i e => (natLe z e).mapIdx fun k b => (z * i + k, b)).flatten

/-- The keys of bytes at offsets from a destination, in order: those before the first failure, with it. -/
def sideKeys (c : Cmd) (fol : Bool) (entry : Option Nat) (base : Word) : List (Nat × Byte) → State →
    List (Nat × Byte) × Option (Nat × Nat) × State
  | [], s => ([], none, s)
  | (o, b) :: r, s =>
    match sideKey s c fol entry .store (base + BitVec.ofNat 64 o) 1 with
    | .bad st a s1 => ([], some (st, a), s1)
    | .ok k s1 =>
      let q := sideKeys c fol entry base r s1
      ((k, b) :: q.1, q.2)

/-- The byte that stands at an offset of a destination. -/
def sideOld (s : State) (c : Cmd) (fol : Bool) (entry : Option Nat) (base : Word) (o : Nat) : Byte :=
  match sideKey s c fol entry .store (base + BitVec.ofNat 64 o) 1 with
  | .ok k _ => s.home.read k
  | .bad _ _ _ => 0

/-- What a completed xcopy.view leaves in its folio's entry (R146, R412). -/
def viewMark (v : View) (d : ViewCopy) (fresh : Nat) : ViewMark :=
  { part := v.part, handle := v.handle, first := d.j0, count := d.cnt, dst := d.dst, sdst := d.sdst, fresh := fresh }

/-- Whether a folio holds what an xcopy.view would deliver, at a freshness that meets its policy (R407, R412); the scales must lie in it
too. -/
def viewHeld (s : State) (c : Cmd) (v : View) (d : ViewCopy) : Bool :=
  (!isBfp v.ty || (d.cfol && c.folS == c.folD)) &&
    match (c.folD.bind (folioAt s c.core)).bind FolioEntry.view with
    | some k => k == viewMark v d k.fresh &&
        (d.pol == 2 || decide ((if d.pol = 1 then c.needs - d.n else c.needs) ≤ k.fresh))
    | none => false

/-- BYTES of an xcopy.view (R412): element bytes and scale bytes. -/
def viewBytes (v : View) (m : Master) (d : ViewCopy) : Nat :=
  let xs := ((List.range d.cnt).map fun i => imageElem v m (d.j0 + i)).filter fun x => decide (x < m.total)
  let elems := if v.layout = 3 then (d.cnt + 255) / 256 * (32 * (v.ty - 0x10 + 2)) else d.cnt * viewZ v.ty
  elems + if isBfp v.ty then (xs.map fun x => (quantIndex v.len (innerProduct m.ext v.axis) x).1).dedup.length else 0

/-- The quantisation blocks with an element among master elements, in ascending order of their first element in master order, each with
one of its elements. -/
def viewQuants (v : View) (m : Master) (xs : List Nat) : List (Nat × Nat) :=
  let qs := (xs.map fun x => ((quantIndex v.len (innerProduct m.ext v.axis) x).1, x)).mergeSort fun x y => decide (x.1 ≤ y.1)
  qs.foldl (fun (l : List (Nat × Nat)) q => if l.any fun y => y.1 == q.1 then l else l ++ [q]) []

/-- The lowest freshness of the blocks read. -/
def lowestFresh (m : Master) (k : Option Copy) (xs : List Nat) : Nat :=
  xs.foldl (fun a x => match k.bind fun q => q.blocks[x / m.perBlock]? with
    | some q => min a (q.freshness m)
    | none => a) (2 ^ 48 - 1)

/-- What an xcopy.view writes and how it ends: bytes by key, size, and status with address. -/
structure ViewRun where
  kvs : List (Nat × Byte)
  size : Nat
  bad : Option (Nat × Nat)
  fresh : Nat
  s : State

/-- The bytes that an xcopy.view delivers, as far as `r` was read (R412). An image element past the master's last has a value the spec does
not state (log 4). -/
def viewRun (c : Cmd) (v : View) (m : Master) (d : ViewCopy) (k : Option Copy) (r : List (Nat × Nat)) (bad : Option (Nat × Nat))
    (s : State) : ViewRun :=
  let val := fun (p : Nat × Nat) =>
    if m.total ≤ p.2 then Config.freeNat (s.fresh * 2 ^ 64 + p.1) % 2 ^ (8 * viewZ v.ty)
    else (k.map fun q => q.elem m p.2).getD 0
  let base := baseOf d.dfol d.dst
  let bytes := imageBytes v bad.isNone (sideOld s c d.dfol c.folD base) (r.map val)
  let a := sideKeys c d.dfol c.folD base bytes { s with fresh := s.fresh + 1 }
  let xs := (r.map Prod.snd).filter fun x => decide (x < m.total)
  let scales := if isBfp v.ty then
      (viewQuants v m xs).mapIdx fun i q => (i, BitVec.ofNat 8 ((k.map fun y => y.scale v m q.2).getD 0))
    else []
  let b := if bad.isSome ∨ a.2.1.isSome then ([], none, a.2.2) else sideKeys c d.cfol c.folS (baseOf d.cfol d.sdst) scales a.2.2
  { kvs := a.1 ++ b.1, size := bytes.length + scales.length, bad := a.2.1.orElse fun _ => b.2.1.orElse fun _ => bad
    fresh := lowestFresh m k (r.map Prod.snd), s := b.2.2 }

/-- The end of an xcopy.view: bytes published, folios marked, its barrier decremented, its entry written (R383, R412). -/
def viewEnd (c : Cmd) (v : View) (d : ViewCopy) (r : ViewRun) : State :=
  let w := engineWrite r.s (pkgOf c.core) r.kvs
  let mark := fun (x : State) (f : Option Nat) (k : Option ViewMark) => match f with
    | some i => updFolio x c.core i fun e => { e with clean := false, view := k }
    | none => x
  let s1 := mark w.1 c.folS none
  match r.bad with
  | some (st, ad) => completeCmd (mark s1 c.folD none) c st ad 0
  | none =>
    let g := signalEnd (mark s1 c.folD (some (viewMark v d r.fresh))) c r.size (carriedBytes w.2 r.kvs)
    completeCmd g.2.2 c g.1 g.2.1 0

/-- XCOPY_VIEW_COMPLETE (R412, R383). A folio that holds what it would deliver is left as it is. -/
def execXcopyViewComplete (cmd : Nat) (s : State) : Host.Outcome State Fault Refusal :=
  match cmdOf s cmd with
  | none => happening s
  | some c =>
    if c.kind ≠ .xcopyView ∨ isOldest s c = false then happening s
    else
      let d := ViewCopy.dec c.desc
      match (s.views.find? fun v => v.part == c.peer && v.handle == d.handle).bind fun v => (masterOf s v).map fun m => (v, m) with
      | none => happening (completeCmd s c 0x09 0 0)
      | some (v, m) =>
        if viewHeld s c v d then
          let g := signalEnd s c (viewBytes v m d) []
          happening (completeCmd g.2.2 c g.1 g.2.1 0)
        else
          let k := readable s v m c.part c.core
          let r := imageReads v m d k c.needs d.cnt d.j0
          match r.2 with
          | some none => happening s
          | e =>
            let run := viewRun c v m d k r.1 (e.bind id) s
            if landedBy s (run.kvs.map Prod.fst) then happening s else happening (viewEnd c v d run)

end Sys2Proof.Machine
end

