-- ==== Sys2Proof/Machine/Schedule.lean ====
section
/-! DEFINITION. Spawning and the schedulers of the dies (R69 to R72, R75, R78, R148, R151, R196, R198 to R201, R357). -/

namespace Sys2Proof.Machine

/-! ## Spawning -/

/-- The entries of a die's spawn area that a partition has taken (R201). -/
def spawnCount (s : State) (die part : Nat) : Nat :=
  ((s.spawnUsed.find? fun x => x.1 == die && x.2.1 == part).map fun x => x.2.2).getD 0

def setSpawnCount (s : State) (die part n : Nat) : State :=
  { s with spawnUsed := (die, part, n) :: s.spawnUsed.filter fun x => !(x.1 == die && x.2.1 == part) }

/-- A spawned node is created: it takes an entry of the spawn area and enters the ready pool (R69, R199, R201). -/
def makeSpawn (s : State) (sp : Spawn) : State :=
  let s1 := setSpawnCount s sp.die sp.part (spawnCount s sp.die sp.part + 1)
  let s2 := updLaunch s1 sp.launch fun l => { l with spawnedLeft := l.spawnedLeft + 1 }
  postReady s2 sp.die sp.part (.spawned sp) sp.prio

/-- nspawn and nspawn.w (R198 to R200); `full` is what happens when the spawn area is full. A barrier that holds poisoned data ends the node
with INTEGRITY at the check, whatever n is (log 24, DESIGN CHOICE: R199 names the translation and protection faults of the check). -/
def spawnOp (o : W4) (full : Spawn → State → Res) (s : State) : Res :=
  if xBusy s then .stall s
  else
    let s0 := drainMatrix s
    let a := getS s0 o.fa
    let n := (getS s0 o.fb).toNat
    if canonical a ∧ a.toNat % 32 ≠ 0 then .trap (addrTrap 0x03 a 0) s0
    else
      match loadWords a 4 0 s0 with
      | .bad t s1 => .trap t s1
      | .ok d s1 =>
        let w3 := d.getD 3 0
        let cb := d.getD 2 0
        let done := fun (st : Nat) (x : State) => Res.ok (advance (setS x o.fd (BitVec.ofNat 64 st)))
        if typeValid (vtType s1) = false ∨ vlMaxOf s1.t.ctl.vtype < n then illegal s1
        else if cb.toNat % 16 ≠ 0 ∨ w3.extractLsb' 32 32 ≠ 0 ∨ w3.extractLsb' 26 2 = 3 ∨ w3.extractLsb' 0 26 ≠ 0 then done 2 s1
        else
          match keyOf s1 .store cb 16 0 with
          | .bad t s2 => .trap t s2
          | .ok k s2 =>
            if pointPoisoned s2 5 k 16 then .trap (addrTrap 0x0E cb 0) s2
            else
              let s3 := publish s2 3
              if n = 0 then
                let units := s3.t.unitsIn k 16
                let s4 := publishIf s3 5 fun w => units.contains w.unit
                let r := decrement s4 (me s4) k 1 []
                done 0 (if r.1 then ownAtomic r.2 k 8 else r.2)
              else
                let sp : Spawn :=
                  { part := s3.t.part, launch := s3.t.launch, die := dieOf s3.t.core, pc := d.getD 0 0, arg := d.getD 1 0, cb := cb,
                    prio := (w3.extractLsb' 28 4).toNat, kind := (w3.extractLsb' 26 2).toNat, vtype := s3.t.ctl.vtype, vl := n,
                    desc := a }
                if 1024 ≤ spawnCount s3 sp.die sp.part then full sp s3 else done 0 (makeSpawn s3 sp)

/-- `nspawn sd, sa, sb` (R199). -/
def execNspawn (o : W4) (s : State) : Host.Outcome State Fault Refusal :=
  jumpOp [o.fa, o.fb] (spawnOp o fun _ s => .ok (advance (setS s o.fd 1))) s

/-- `nspawn.w sd, sa, sb` (R200): with the area full it suspends, and its spawn waits in the die's spawn queue. -/
def execNspawnW (o : W4) (s : State) : Host.Outcome State Fault Refusal :=
  jumpOp [o.fa, o.fb] (fun s =>
    match suspendCheck s with
    | .bad t s1 => .trap t s1
    | .ok keys s1 =>
      spawnOp o (fun sp s2 =>
        suspendWith (.spawn sp) [o.fd] keys (fun id x => { x with spawnQueue := x.spawnQueue ++ [id] }) s2) s1) s

/-- The spawn that a continuation waits for. -/
def spawnOf (s : State) (id : Nat) : Option Spawn :=
  (contOf s id).bind fun c => match c.waiting with
    | .spawn sp => some sp
    | .put _ | .take _ | .barrier _ _ | .view _ _ | .done => none

/-- SPAWN_QUEUE_MADE (R200): the oldest waiting spawn of a die whose partition has a free entry is made. -/
def execSpawnQueueMade (die : Nat) (s : State) : Host.Outcome State Fault Refusal :=
  match s.spawnQueue.findSome? fun id => match spawnOf s id with
      | some sp => if sp.die = die ∧ spawnCount s die sp.part < 1024 then some (id, sp) else none
      | none => none with
  | some (id, sp) =>
    happening (finishCont (makeSpawn { s with spawnQueue := s.spawnQueue.filter fun x => x != id } sp) id [0])
  | none => happening s

/-! ## Slots, folios and cores -/

/-- The free slots of a core, lowest first. -/
def freeSlots (s : State) (core : Nat) : List Nat :=
  (List.range (slotsOf core)).filter fun k => !((allThreads s).any fun t => t.core == core && t.slot == k && t.status != .free)

/-- The occupied slots of a core. -/
def usedSlots (s : State) (core : Nat) : Nat := slotsOf core - (freeSlots s core).length

/-- The cores of a partition on a die, ascending. -/
def partCores (s : State) (part die : Nat) : List Nat :=
  match partOf s part with
  | none => []
  | some p => (((p.quads.filter fun q => q / 12 == die).mergeSort fun a b => decide (a ≤ b)).map fun q =>
      (List.range 4).map (q * 4 + ·)).flatten

/-- A retained entry that a spec may reuse (R151). -/
def reusable (e : FolioEntry) (launch : Nat) (f : FolioSpec) : Bool :=
  e.retained && e.same f && e.clean && e.launch == launch

/-- The specs that a core could serve by reuse (R71 step 1). -/
def reuseCount (s : State) (core launch : Nat) (fs : List FolioSpec) : Nat :=
  (fs.filter fun f => (coreFolios s core).any fun e => reusable e launch f).length

/-- A thread of a team. -/
def ofTeam (s : State) (launch team uid : Nat) : Bool :=
  team != 0 && (everyThread s).any fun t => t.uid == uid && t.launch == launch && t.team == team && !t.spawned

/-- An entry that a team member already holds and a node of the team shares (R357). -/
def sharedWith (s : State) (launch team : Nat) (f : FolioSpec) (e : FolioEntry) : Bool :=
  e.same f && (e.state == .filling || e.state == .ready) && e.owners.any (ofTeam s launch team)

/-- Whether a core can take the folios of a node, or those that a resuming thread `uid` has not kept (R144, R147, R151, R357). -/
def foliosFit (s : State) (core launch team uid : Nat) (fs : List FolioSpec) : Bool :=
  let es := (coreFolios s core).filter fun e => !e.retained
  let new := fs.filter fun f => !(es.any (sharedWith s launch team f))
  (fs.all fun f => specFits core f && es.all fun e => !e.meets f || e.owners.contains uid || sharedWith s launch team f e) &&
    decide (es.length + new.length ≤ 64)

/-- The kind of core a node needs (R62, R71): 0 any, 1 M, 2 V; a W entry makes it M. -/
def needKind (kind : Nat) (fs : List FolioSpec) : Nat := if kind = 0 ∧ fs.any fun f => f.space == 0 then 1 else kind

/-- The better of two cores by steps 1 and 2 of R71; `none` when they tie. -/
def coreBetter (s : State) (launch : Nat) (fs : List FolioSpec) (a b : Nat) : Option Bool :=
  let ra := reuseCount s a launch fs
  let rb := reuseCount s b launch fs
  if ra ≠ rb then some (decide (rb < ra))
  else if usedSlots s a ≠ usedSlots s b then some (decide (usedSlots s a < usedSlots s b))
  else none

/-- The best of cores by R71, which stand in ascending order. -/
def bestCore (s : State) (launch : Nat) (fs : List FolioSpec) (l : List Nat) : Option Nat :=
  l.foldl (fun a c => match a with
    | none => some c
    | some b => if coreBetter s launch fs c b = some true then some c else a) none

/-- The core that R71 chooses among cores for a node of a kind. -/
def chooseCore (s : State) (launch kind : Nat) (fs : List FolioSpec) (l : List Nat) : Option Nat :=
  let m := bestCore s launch fs (l.filter fun c => !isVCore c)
  let v := bestCore s launch fs (l.filter isVCore)
  match kind with
  | 1 => m
  | 2 => v
  | _ =>
    match m, v with
    | some a, some b => if coreBetter s launch fs b a = some true then some b else some a
    | some a, none => some a
    | none, b => b

/-! ## Starting a thread -/

/-- The state of a thread at node start (R72): identity aside, what `base` holds. -/
def startThread (s : State) (base : Thread) (core slot : Nat) (pc : Word) : Thread :=
  let args := ((launchOf s base.launch).map Launch.args).getD 0
  let idx : Word := if base.spawned then BitVec.allOnes 64 else BitVec.ofNat 64 base.node
  let regs := ((((Vector.replicate 32 (0 : Word)).set 2 base.stack).set 3 base.arg).set 4 idx).set 5 args
  { base with core := core, slot := slot, status := .running, s := regs, pc := pc }

/-- The top of the private stack that Horsil gives a slot (R72, R152). -/
def stackTop (s : State) (part core slot : Nat) : Word := ((partOf s part).bind fun p => assoc p.stackTops (core * 8 + slot)).getD 0

/-- Binds handle `h` at dispatch or resume (R148, R151): a retained entry is reused whole, otherwise the folio fills. -/
def bindFolio (s : State) (h : Nat) (f : FolioSpec) : State :=
  match (coreFolios s s.t.core).find? fun e => reusable e s.t.launch f with
  | some e =>
    setHandle (updFolio s s.t.core e.index fun x => { x with owners := [s.t.uid], keep := f.keep, drain := f.drain }) h (some e.index)
  | none =>
    match bindRange s h f with
    | .ok s1 => s1
    | .trap _ s1 | .stall s1 => s1

/-- The current thread takes its first snapshot, at .core (R349, R365), and its folios begin to fill. -/
def beginThread (fs : List FolioSpec) (s : State) : State :=
  (fs.mapIdx fun h f => (h, f)).foldl (fun a p => match a.t.handles.getD p.1 none with
    | some _ => a
    | none => bindFolio a p.1 p.2) (snapshot s 1)

/-- A new thread stands in its slot. -/
def placeThread (s : State) (t : Thread) (f : State → State) : State := asThread { s with parked := s.parked ++ [t] } t.uid f

/-! ## Ready entries -/

/-- The folio specs of an entry's node; none for a spawned node. -/
def nodeSpecs (s : State) (launch idx : Nat) : List FolioSpec :=
  match nodeOf s launch idx with
  | some n => n.folios.map fun p => FolioSpec.dec p.1 p.2
  | none => []

def effPrio (r : Ready) : Nat := if r.aged then 16 else r.prio

/-- The cores among `l` with a free slot that fit an entry. -/
def openCores (s : State) (launch team : Nat) (fs : List FolioSpec) (l : List Nat) : List Nat :=
  l.filter fun c => !(freeSlots s c).isEmpty && foliosFit s c launch team 0 fs

/-- The folios that a resuming thread binds again: those of its node's list that it has not kept (R78). -/
def Cont.refills (s : State) (c : Cont) : List FolioSpec :=
  if c.th.spawned then []
  else ((nodeSpecs s c.th.launch c.th.node).mapIdx fun h f => (h, f)).filterMap fun p =>
    if (c.th.handles.getD p.1 none).isSome then none else some p.2

/-- Removes a dispatched entry from the pool, and from the resume list when it stands there (R78). -/
def takeEntry (s : State) (r : Ready) : State :=
  let s1 := { s with ready := s.ready.erase r }
  match r.work with
  | .resume c => { s1 with parts := s1.parts.map fun p => { p with resume := p.resume.filter (fun x => x != c) } }
  | .node _ _ | .spawned _ => s1

/-- Starts a node of a node table on a core (R72). -/
def startNode (s : State) (part launch : Nat) (n : Node) (core : Nat) : State :=
  let slot := (freeSlots s core).headD 0
  let base : Thread :=
    { Thread.blank with
      uid := s.nextUid, part := part, launch := launch, node := n.index, team := n.team, prio := n.prio, kind := n.kind,
      arg := n.word 1, stack := stackTop s part core slot, handles := List.replicate n.folios.length none }
  let s1 := updNode { s with nextUid := s.nextUid + 1 } launch n.index fun x => { x with state := .running }
  placeThread s1 (startThread s1 base core slot (n.word 0)) (beginThread (n.folios.map fun p => FolioSpec.dec p.1 p.2))

/-- Starts a spawned node (R199): its entry of the spawn area is freed (R201). -/
def startSpawn (s : State) (sp : Spawn) (core : Nat) : State :=
  let slot := (freeSlots s core).headD 0
  let base : Thread :=
    { Thread.blank with
      uid := s.nextUid, part := sp.part, launch := sp.launch, spawned := true, prio := sp.prio, kind := sp.kind, spawnCb := sp.cb,
      spawnDesc := sp.desc, arg := sp.arg, stack := stackTop s sp.part core slot }
  let s1 := setSpawnCount { s with nextUid := s.nextUid + 1 } sp.die sp.part (spawnCount s sp.die sp.part - 1)
  let t := startThread s1 base core slot sp.pc
  placeThread s1 { t with ctl := { t.ctl with vtype := sp.vtype, vl := sp.vl } } (beginThread [])

/-- Resumes a continuation on a core (R78, R196): unkept folios refill from the node's list. -/
def startResume (s : State) (c : Cont) (core : Nat) : State :=
  let slot := (freeSlots s core).headD 0
  let fs := if c.th.spawned then [] else nodeSpecs s c.th.launch c.th.node
  placeThread s (startThread s c.th core slot 0) fun x => resumeRecord c (beginThread fs x)

/-- Places an entry that belongs to no team, when some core of the die can take it (R71, R78). -/
def placeSingle (s : State) (r : Ready) : Option State :=
  let cores := partCores s r.part r.die
  match r.work with
  | .node l i =>
    (nodeOf s l i).bind fun n =>
      let fs := nodeSpecs s l i
      (chooseCore s l (needKind n.kind fs) fs (openCores s l 0 fs cores)).map fun c => startNode (takeEntry s r) r.part l n c
  | .spawned sp => (chooseCore s sp.launch sp.kind [] (openCores s sp.launch 0 [] cores)).map fun c => startSpawn (takeEntry s r) sp c
  | .resume id =>
    (contOf s id).bind fun c =>
      let fs := if c.th.spawned then [] else nodeSpecs s c.th.launch c.th.node
      let l := c.th.launch
      if c.th.handles.any Option.isSome then
        if (freeSlots s c.th.core).isEmpty || !(foliosFit s c.th.core l c.th.team c.th.uid (c.refills s)) then none
        else some (startResume (takeEntry s r) c c.th.core)
      else
        let kind := if isVCore c.th.core then 2 else 1
        (chooseCore s l kind fs (openCores s l c.th.team fs cores)).map fun core => startResume (takeEntry s r) c core

/-! ## Teams (R63, R70, R71) -/

/-- The members of a team that an entry belongs to; none for an entry outside a team. -/
def teamOf (s : State) (r : Ready) : Option (Launch × List Node) :=
  match r.work with
  | .node l i =>
    match launchOf s l, nodeOf s l i with
    | some x, some n => if n.team = 0 then none else some (x, x.nodes.filter fun m => m.team == n.team)
    | _, _ => none
  | .spawned _ | .resume _ => none

/-- Whether free slots suffice for members of given kinds. -/
def slotsSuffice (kinds : List Nat) (m v : Nat) : Bool :=
  let n := fun (k : Nat) => (kinds.filter fun x => x == k).length
  decide (n 1 ≤ m ∧ n 2 ≤ v ∧ kinds.length ≤ m + v)

def memberKind (n : Node) : Nat := needKind n.kind (n.folios.map fun p => FolioSpec.dec p.1 p.2)

/-- The free slots of a quad on its M-cores and on its V-core. -/
def quadFree (s : State) (q : Nat) : Nat × Nat :=
  (((List.range 3).map fun p => (freeSlots s (q * 4 + p)).length).foldl (· + ·) 0, (freeSlots s (q * 4 + 3)).length)

/-- Places the members of a team on a quad, in node index order, by a split that leaves slots for the rest. -/
def placeMembers (q part : Nat) (l : Launch) : List Node → State → Option State
  | [], s => some s
  | n :: r, s =>
    let fs := n.folios.map fun p => FolioSpec.dec p.1 p.2
    let kinds := r.map memberKind
    let f := quadFree s q
    let cores := (openCores s l.num n.team fs ((List.range 4).map (q * 4 + ·))).filter fun c =>
      if isVCore c then slotsSuffice kinds f.1 (f.2 - 1) else slotsSuffice kinds (f.1 - 1) f.2
    match chooseCore s l.num (memberKind n) fs cores with
    | none => none
    | some c => placeMembers q part l r (startNode s part l.num n c)

/-- The team core indices: ascending quad positions that the team uses (R63). -/
def setTeamIndices (s : State) (launch team : Nat) : State :=
  let mine := fun (t : Thread) => t.launch == launch && t.team == team && !t.spawned && t.status != .free
  let cores := (((allThreads s).filter mine).map Thread.core).dedup.mergeSort fun a b => decide (a ≤ b)
  let put := fun (t : Thread) => if mine t then { t with tci := cores.findIdx fun c => c == t.core } else t
  { s with t := put s.t, parked := s.parked.map put }

/-- Places a whole team when every member is ready and some quad of the die can take it: the lowest such quad. -/
def placeTeam (s : State) (r : Ready) (l : Launch) (ms : List Node) : Option State :=
  if ms.all fun m => s.ready.any fun x => x.work == .node l.num m.index && x.die == r.die then
    let s1 := ms.foldl (fun a m => { a with ready := a.ready.filter fun x => x.work != .node l.num m.index }) s
    let quads := ((partCores s r.part r.die).map (· / 4)).dedup
    (quads.findSome? fun q => placeMembers q r.part l ms s1).map fun s2 => setTeamIndices s2 l.num ((ms.headD r0).team)
  else none
where
  r0 : Node := { index := 0, desc := [], die := 0, left := 0, crossLeft := 0, state := .waiting, folios := [], succs := [] }

/-- The highest effective priority among the members of an entry's team, or the entry's own. -/
def unitPrio (s : State) (r : Ready) : Nat :=
  match teamOf s r with
  | none => effPrio r
  | some (l, ms) => s.ready.foldl (fun a x => if ms.any fun m => x.work == .node l.num m.index then max a (effPrio x) else a) 0

/-- Places one entry, with its team when it has one. -/
def placeEntry (s : State) (r : Ready) : Option State :=
  match teamOf s r with
  | none => placeSingle s r
  | some (l, ms) => placeTeam s r l ms

/-- Dispatches the entry that R70 chooses among those that can be placed: the highest effective priority, then the oldest. A team is as old as
the oldest entry of a member (log 24, DESIGN CHOICE: R70 speaks of single entries). -/
def dispatchOne (s : State) (die : Nat) : Option State :=
  let mine := s.ready.filter fun r => r.die == die
  (mine.mergeSort fun a b => decide (unitPrio s b ≤ unitPrio s a)).findSome? (placeEntry s)

/-- Dispatches entries while there are any to place. -/
def dispatchAll (die : Nat) : Nat → State → State
  | 0, s => s
  | n + 1, s =>
    match dispatchOne s die with
    | some s1 => dispatchAll die n s1
    | none => s

/-- DISPATCH (R70, R71, R72, R196): a die dispatches ready entries to free slots. -/
def execDispatch (die : Nat) (s : State) : Host.Outcome State Fault Refusal := happening (dispatchAll die s.ready.length s)

/-- PRIORITY_AGING (R70). -/
def execPriorityAging (die : Nat) (s : State) : Host.Outcome State Fault Refusal :=
  happening { s with ready := s.ready.map fun r => if r.die = die ∧ 65536 ≤ s.cycle - r.since then { r with aged := true } else r }

/-! ## The resume list (R78) -/

/-- Whether a ready entry is an unpinned record. -/
def unpinned (s : State) (r : Ready) : Option Cont :=
  match r.work with
  | .resume id => (contOf s id).bind fun c => if c.th.handles.any Option.isSome then none else some c
  | .node _ _ | .spawned _ => none

/-- RESUME_LIST_POST: an unpinned record that has waited 16 384 fabric cycles is listed as well. -/
def execResumeListPost (die : Nat) (s : State) : Host.Outcome State Fault Refusal :=
  let due := fun (r : Ready) => r.die == die && !r.listed && decide (16384 ≤ s.cycle - r.since) && (unpinned s r).isSome
  let s1 := { s with ready := s.ready.map fun r => if due r then { r with listed := true } else r }
  happening ((s.ready.filter due).foldl (fun a r => match r.work with
    | .resume id => { a with parts := updWhere a.parts (fun p => p.slot == r.part) fun p => { p with resume := p.resume ++ [id] } }
    | .node _ _ | .spawned _ => a) s1)

/-- The kind of core an entry waits for: 0 either. -/
def entryKind (s : State) (r : Ready) : Nat :=
  match r.work with
  | .node l i => match nodeOf s l i with
    | some n => memberKind n
    | none => 0
  | .spawned sp => sp.kind
  | .resume id => match contOf s id with
    | some c => if isVCore c.th.core then 2 else 1
    | none => 0

/-- Whether a die may take a listed record: it has a free slot of the record's kind and no ready entry of that kind; a ready entry of kind any
counts as one of that kind (log 24, DESIGN CHOICE: R78 does not say). -/
def takesListed (s : State) (die : Nat) (r : Ready) : Bool :=
  let kind := entryKind s r
  r.listed && r.die != die && ((partCores s r.part die).any fun c => isVCore c == (kind == 2) && !(freeSlots s c).isEmpty) &&
    s.ready.all fun x => !(x.die == die) || (entryKind s x != kind && entryKind s x != 0)

/-- RESUME_LIST_TAKE: a die with a free slot of the kind and no ready entry of it takes the oldest listed record. -/
def execResumeListTake (die : Nat) (s : State) : Host.Outcome State Fault Refusal :=
  let ids := (s.parts.map Partition.resume).flatten
  match ids.findSome? fun id => s.ready.find? fun r => r.work == .resume id && takesListed s die r with
  | none => happening s
  | some r =>
    let s1 := takeEntry s r
    happening { s1 with ready := s1.ready ++ [{ r with die := die, listed := false, since := s.cycle }] }

/-- CROSS_DIE_EDGE (R68): the owning die observes the flip of a node's edge barrier. -/
def execCrossDieEdge (launch node : Nat) (s : State) : Host.Outcome State Fault Refusal :=
  match launchOf s launch, nodeOf s launch node with
  | some l, some n =>
    if n.crossLeft = 0 ∨ n.state ≠ .waiting then happening s
    else
      match barrierKey s (dieWho l.part n.die) (edgeAddr l node) with
      | (.ok k, s1) =>
        if phOf (cbWord s1 (dieWho l.part n.die) k) then happening (makeReady (updNode s1 launch node fun x => { x with crossLeft := 0 }) launch)
        else happening s1
      | (.error _, s1) => happening s1
  | _, _ => happening s

end Sys2Proof.Machine
end

