-- ==== Sys2Proof/Machine/Faults.lean ====
section
/-! DEFINITION. Traps and errors that come from outside an instruction's own meaning: the error log, page-fault service, lane
re-execution, the scrubber, nodes that Horsil ends, partitions that end, and the debugger's step (R87, R158, R386, R434 to R449). -/

namespace Sys2Proof.Machine

/-! ## Traps from outside (R189, R190, R435) -/

/-- How an entry's instruction treats vstart, by its opcode (R439). -/
def XEntry.startRule (e : XEntry) : StartRule :=
  let maj := e.maj
  let mn := e.mn
  let whole : Bool := decide (maj = 0x26 ∨ maj = 0x2A ∨ maj = 0x2B ∨ (maj = 0x25 ∧ mn ≤ 4) ∨ (maj = 0x24 ∧ mn = 0x0C) ∨
    (maj = 0x1C ∧ 0x0C ≤ mn) ∨ (maj = 0x2C ∧ mn = 0))
  let each : Bool := decide (maj = 0x1C ∨ maj = 0x1D ∨ maj = 0x1F ∨ (0x21 ≤ maj ∧ maj ≤ 0x25) ∨ (0x27 ≤ maj ∧ maj ≤ 0x29) ∨ maj = 0x38)
  if whole then .whole else if each then .elements else .ignore

/-- The oldest uncommitted execute-stream instruction stands as the running one; without any it is the access stream's. -/
def standOldest (s : State) : State :=
  match s.t.vq, s.t.xdec with
  | e :: r, _ => s.updT fun t => { t with vq := r, xctx := some { entry := e, lane := none } }
  | [], e :: r => s.updT fun t => { t with xdec := r, xctx := some { entry := e, lane := none } }
  | [], [] => s

/-- TRAP_ENTRY (R189, R190, R435): a fault of the current thread's oldest uncommitted instruction is taken. -/
def execTrapEntry (tr : Trap) (s : State) : Host.Outcome State Fault Refusal :=
  if s.t.status ≠ .running then happening s
  else
    let s1 := standOldest s
    match s1.t.xctx with
    | some c => happening (takeTrap tr (faultX c.entry.startRule tr s1))
    | none => happening (takeTrap tr s1)

/-! ## Lane re-execution (R443) -/

/-- The instruction that a slice of an EG belongs to stands as the running one: that of the EG's lane thread while it runs, else the
oldest uncommitted one. -/
def standSlice (eg : Nat) (s : State) : State :=
  match (runningLanes s).find? fun l => l.g == eg with
  | some l => ((beginLane l s).map Prod.snd).getD s
  | none => standOldest s

/-- What the sampling check of the running instruction selects (R441): an element among its active ones, or the index of a tree node; none
when no instruction that is checked stands there. -/
def sampledElem (s : State) : Option (Nat × State) :=
  let h := curHead s
  let maj := (h.1.extractLsb' 8 6).toNat
  let mn := (h.1.extractLsb' 0 8).toNat
  let tree : Bool := decide (maj = 0x26 ∨ maj = 0x2B)
  let per := if maj = 0x23 ∧ 2 ≤ mn then (if mn ≤ 3 then 2 else 4) else 1
  let w := if maj = 0x24 ∧ 8 ≤ mn then typeWidth (vtType s) else per * typeWidth (h.2.extractLsb' 23 5).toNat
  let act := activeElems s w ((s.t.ctl.vl + per - 1) / per) (if tree then 0 else startElem s) (h.2.extractLsb' 16 3).toNat
  if (0x21 ≤ maj ∧ maj ≤ 0x2B) ∧ !act.isEmpty then
    let s1 := sampleStep tree s act
    (s1.samples.head?).map fun x => (x.chosen, s1)
  else none

/-- LANE_REEXECUTE: the slice of an EG runs again from kept operands and delivers the same bits (R442). What the sampling check finds
(R441) is a mismatch, and SDC_DETECTED when it stays; what an uncorrectable error leads to (R443) is UNREPAIRED when the kept operands
are themselves damaged, at the element that the check selected or the error lies in. Every case is logged (R444). A lane thread's instruction ends
its owner's node. -/
def execLaneReexecute (lane eg : Nat) (check : LaneCheck) (s : State) : Host.Outcome State Fault Refusal :=
  if s.t.status ≠ .running then happening s
  else
    let u := laneUnit s.t.core (lane % lanesOf s.t.core)
    let cls := if check.repaired then 0 else if check.sampled then 0x11 else 0x12
    let event := if check.sampled then 0x03 else if check.repaired then 0x02 else 0x04
    let s1 := logError s (dieOf s.t.core) cls event u s.t.part 0
    if check.repaired then happening s1
    else
      let s2 := standSlice eg s1
      let r := (if check.sampled then sampledElem s2 else none).getD (check.elem, s2)
      happening (endByTrap { cls := cls, tval := 0, telem := r.1, va := false } r.2)

/-! ## Nodes that end from outside -/

/-- A continuation goes: the unit that it waits for, the ready pools and the resume lists no longer know it. -/
def dropCont (s : State) (c : Cont) : State :=
  { s with
    conts := s.conts.filter fun x => x.id != c.id
    cmds := s.cmds.filter fun k => !(k.waitingSlot && k.uid == c.th.uid)
    spawnQueue := s.spawnQueue.filter fun id => id != c.id
    pools := s.pools.map fun p => { p with waiters := p.waiters.filter fun id => id != c.id }
    ready := s.ready.filter fun r => r.work != .resume c.id
    parts := s.parts.map fun p => { p with resume := p.resume.filter fun id => id != c.id } }

/-- A thread that has left its slot stands among the threads again to complete its node (R74, R437): its number of slot, from 8 on, is
that of no slot. -/
def standEnding (th : Thread) (cls unit addr : Nat) (s : State) : State :=
  { s with parked := s.parked ++ [{ th.endedBy cls unit addr with slot := th.slot % 8 + 8 }] }

/-- The write-back of a folio entry that was saved with its thread, when no other saved thread is bound to it (R74, R357). -/
def drainSaved (uid : Nat) (s : State) (e : FolioEntry) : State :=
  match e.data with
  | some bs =>
    if e.drain && s.saved.all fun v => v.folios.all fun x => !(x.core == e.core && x.index == e.index && x.launch == e.launch) then
      let r := drainKeys { part := e.part, pkg := pkgOf e.core, core := none, die := dieOf e.core } e.src e.sizek s
      writeBack r.2.2 uid e bs r.1 5
    else s
  | none => s

/-- The guard of the area that holds a pre-empted thread has this as its handle, which no view has (R451). -/
def areaHandle (uid : Nat) : Nat := 2 ^ 64 + uid

/-- The area of a saved thread is guarded no longer. -/
def freeArea (s : State) (uid : Nat) : State :=
  { s with parts := s.parts.map fun p => { p with guards := p.guards.filter fun g => g.handle != areaHandle uid } }

/-- A node ends wherever its thread is: in a slot, suspended, or pre-empted. -/
def endNode (s : State) (uid cls unit addr : Nat) : State :=
  let gone := s.conts.filter fun c => c.th.uid == uid
  let s1 := gone.foldl dropCont s
  if (findThread s1 uid).isSome then endThread s1 uid cls unit addr
  else
    match s1.saved.find? fun v => v.th.uid == uid with
    | some v =>
      let s2 := standEnding { v.th with handles := v.th.handles.map fun _ => none } cls unit addr
        { freeArea s1 uid with saved := s1.saved.filter fun x => x.th.uid != uid }
      v.folios.foldl (drainSaved uid) s2
    | none =>
      match gone with
      | c :: _ => standEnding c.th cls unit addr s1
      | [] => s1

/-- A spawned node that waits for dispatch ends. -/
def endSpawn (sp : Spawn) (cls : Nat) (s : State) : State :=
  let s1 := setSpawnCount s sp.die sp.part (spawnCount s sp.die sp.part - 1)
  let s2 := match barrierKey s1 (dieWho sp.part sp.die) sp.cb with
    | (.ok k, a) => (decrement a (dieWho sp.part sp.die) k 1 []).2
    | (.error _, a) => a
  let s3 := updLaunch s2 sp.launch fun l => { l with spawnedLeft := l.spawnedLeft - 1 }
  postNodeEntry s3 sp.launch (some cls) (entryWords 0x04 cls 0 1 0 sp.desc 0 0)

/-- Whether a piece of waiting work is a launch's node that no thread runs yet. -/
def workOf (num : Nat) (r : Ready) : Bool :=
  match r.work with
  | .node l _ => l == num
  | .spawned sp => sp.launch == num
  | .resume _ => false

/-- Every node of a launch ends with a class (R449): those that have a thread complete as nodes that Horsil ends, the others are reported
at once. -/
def endLaunch (cls : Nat) (s : State) (num : Nat) : State :=
  let spawns := s.ready.filterMap fun r => match r.work with
    | .spawned sp => if sp.launch = num then some sp else none
    | .node _ _ | .resume _ => none
  let s1 := { s with ready := s.ready.filter fun r => !(workOf num r) }
  let idle : List Node := match launchOf s1 num with
    | some l => l.nodes.filter fun (n : Node) => n.state == .waiting || n.state == .ready
    | none => []
  let s2 := updLaunch s1 num fun l =>
    { l with nodes := updWhere l.nodes (fun n => n.state == .waiting || n.state == .ready) fun n => { n with state := .done } }
  let s3 := idle.foldl (fun a n => postNodeEntry a num (some cls) (entryWords 0x01 cls 0 1 0 (BitVec.ofNat 64 n.index) 0 0)) s2
  let s4 := spawns.foldl (fun a sp => endSpawn sp cls a) s3
  let mine := (everyThread s4).filter fun t => t.launch == num && t.uid != 0
  ((mine.map Thread.uid).dedup).foldl (fun a u => endNode a u cls 0 0) s4

/-- NODE_ENDED (R435, R444): Horsil ends the node in a slot. -/
def execNodeEnded (core slot : Nat) (s : State) : Host.Outcome State Fault Refusal :=
  match (allThreads s).find? fun t => t.core == core && t.slot == slot && t.status != .free with
  | none => happening s
  | some t => happening (logError (endNode s t.uid 0x14 0 0) (dieOf core) 0x14 0x08 (laneUnit core 0) t.part 0)

/-- FOLIO_FILL_FAULT (R149): every node bound to the entry ends with the fault's class and the first failing address, wherever its thread
is; the entry becomes empty. Uncorrectable data that the fill has met is logged (R444, R445). -/
def execFolioFillFault (core entry : Nat) (s : State) : Host.Outcome State Fault Refusal :=
  match folioAt s core entry with
  | none => happening s
  | some e =>
    match e.state, e.bad with
    | .filling, some (c, a) =>
      let s1 := if c = 0x0E then logError s (dieOf core) c 0x04 (laneUnit core 0) e.part a else s
      happening (e.owners.foldl (fun x u => endNode x u c 0 (a % 2 ^ 57)) (dropFolio s1 core entry))
    | _, _ => happening s

/-- A code page has failed its hash (R449): every fetch from it is INTEGRITY, and every node of the launches of its codex ends. -/
def hashFail (s : State) (part pkg page : Nat) : State :=
  let holds := fun (c : Codex) => c.part == part && decide (c.codeBase.toNat / 2 ^ 16 * 2 ^ 16 ≤ page ∧ page < c.codeBase.toNat + c.code.length)
  let launches := ((s.codices.filter holds).map Codex.launches).flatten.dedup
  let die := if pkgOf s.t.core = pkg then dieOf s.t.core else pkg * 8
  launches.foldl (endLaunch 0x0E) (logError { s with badPages := (part, pkg, page) :: s.badPages } die 0x0E 0x07 0 part page)

/-- CODE_PAGE_HASH_FAIL (R449). -/
def execCodePageHashFail (part pkg : Nat) (va : Word) (s : State) : Host.Outcome State Fault Refusal :=
  happening (hashFail s part pkg (va.toNat / 2 ^ 16 * 2 ^ 16))

/-- TETHER_PEER_END (R386, R468): a partition ends: its nodes end, its tethers end, and packets that have not landed in it are
dropped. A vwait.view whose tether ends so names no view any more (R410). -/
def execTetherPeerEnd (part : Nat) (s : State) : Host.Outcome State Fault Refusal :=
  let open_ := (s.launches.filter fun l => l.part == part && !l.finished).map Launch.num
  let s1 := open_.foldl (endLaunch 0x14) s
  let lost := fun (c : Cmd) => c.kind == .xput && c.peer == part && c.part != part && c.srcRead && c.status == 0 &&
    (decide (c.carry.length < c.bytes.length) || (c.desc.getD 0 0).getLsbD 0)
  happening (settleViews { s1 with
    parts := updWhere s1.parts (fun p => p.slot == part) fun p => { p with ended := true }
    tethers := updWhere s1.tethers (fun t => t.receiver == part || t.sender == part) fun t => { t with ended := true }
    cmds := updWhere s1.cmds lost fun c => { c with status := 0x06 } })

/-! ## Page faults (R156, R157, R436) -/

/-- Two ranges of memory share a byte. -/
def memMeets (a n b m : Nat) : Bool := decide (a < b + m ∧ b < a + n)

/-- A frame that can become a table of a package (R153, R155, R156): aligned, in the bytes of that package's stacks that are Horsil's, and with
nothing in it, so that it is no table yet (log 15, DESIGN CHOICE: the spec does not say where in a package's memory its tables lie). -/
def tableOk (s : State) (pkg base size : Nat) : Bool :=
  field base 51 44 == pkg && base % size == 0 && decide (base + size ≤ 2 ^ 52) && field base 43 42 == 0 &&
    decide (89 * 2 ^ 30 ≤ field base 36 0) && populated base && populated (base + size - 1) &&
    s.home.all fun c => !memMeets c.1 1 base size

/-- Writes a leaf at its level, with the frames for the tables that are missing on the way; nothing where a frame cannot be a table. -/
def installLeaf (leaf level pkg : Nat) (va : Nat) : List Nat → Nat → List Nat → State → State
  | [], _, _, s => s
  | l :: ls, table, frames, s =>
    let a := table + 8 * levelIndex l va
    if l ≤ level then notePage (hardWrite s a (natLe 8 leaf)) (field leaf 51 16 * 2 ^ 16) (2 ^ levelShift l) (field leaf 7 7 == 1)
    else
      let e := leNat (s.home.readN 8 a)
      if field e 0 0 = 1 then (if field e 1 1 = 1 then s else installLeaf leaf level pkg va ls (field e 51 8 * 256) frames s)
      else
        match frames with
        | [] => s
        | f :: r =>
          let size := if l = 1 then 256 else 4096
          if tableOk s pkg f size then
            installLeaf leaf level pkg va ls f r (hardWrite (clearRange s f size) a (natLe 8 (f + 1)))
          else s

/-- How many tables are missing on the way to a leaf at a level. -/
def tablesMissing (m : Memory) (level va : Nat) : List Nat → Nat → Nat
  | [], _ => 0
  | l :: ls, table =>
    if l ≤ level then 0
    else
      let e := leNat (m.readN 8 (table + 8 * levelIndex l va))
      if field e 0 0 = 1 then (if field e 1 1 = 1 then 0 else tablesMissing m level va ls (field e 51 8 * 256)) else l - level

/-- Whether a page of CXL memory is some other living partition's (R25). -/
def cxlTaken (s : State) (part pa size : Nat) : Bool :=
  s.cxl.any fun x => x.1 != part && memMeets pa size x.2.1 x.2.2 && (s.parts.any fun p => p.slot == x.1 && !p.ended)

/-- Horsil gives a partition a page; CXL memory, which is not in shares, is its own from then on (R25). -/
def cxlGiven (s : State) (part pa size : Nat) : State :=
  if field pa 43 42 = 2 then { s with cxl := (part, pa, size) :: s.cxl } else s

/-- Where a partition's pages may lie (R25, R153): in its shares of the stacks and of the second tier, and in CXL memory that no other
partition has. -/
def inShares (s : State) (p : Partition) (pa size : Nat) : Bool :=
  if field pa 43 42 = 2 then !cxlTaken s p.slot pa size
  else p.shares.any fun x => decide (x.1 ≤ pa ∧ pa + size ≤ x.1 + x.2 * 2 ^ 30)

/-- The end of a private area below `top` in the 57-bit space that pages are counted in (R152, R156). -/
def areaEnd (top : Word) : Nat := (top.toNat + 2 ^ 57 - 1) % 2 ^ 57 + 1

/-- The dies of the slots whose private memory a page holds (R152). -/
def privateDies (p : Partition) (va size : Nat) : List Nat :=
  p.stackTops.filterMap fun x =>
    if areaEnd x.2 - p.stackSize < va + size ∧ va < areaEnd x.2 then some (dieOf (x.1 / 8)) else none

/-- Whether a range of memory holds some of a partition's catalogue (R318). -/
def holdsCatalogue (p : Partition) (pa size : Nat) : Bool :=
  decide (pa < p.catBase + 128 * p.catSize ∧ p.catBase < pa + size)

/-- Whether a page of a partition may lie at a frame of a package: in the partition's memory, private memory in the HBM of the slot's
own die, the catalogue never writable (R25, R152, R153, R155, R318). -/
def frameOk (s : State) (p : Partition) (pkg va pa size : Nat) (write : Bool) : Bool :=
  field pa 51 44 == pkg && pa % size == 0 && populated pa && populated (pa + size - 1) && inShares s p pa size &&
    ((privateDies p va size).all fun d => d / 8 != pkg || (field pa 43 42 == 0 && d == pkg * 8 + homeDie pa)) &&
    !(write && holdsCatalogue p pa size)

/-- Horsil maps a page of a partition on a package. -/
def mapPage (s : State) (part pkg va : Nat) (g : PageGrant) : State :=
  match partOf s part with
  | none => s
  | some p =>
    match assoc p.roots pkg with
    | none => s
    | some root =>
      let l := min g.level 2
      let e := g.leaf.toNat
      let pa := field e 51 16 * 2 ^ 16
      if frameOk s p pkg (va / 2 ^ levelShift l * 2 ^ levelShift l) pa (2 ^ levelShift l) (field e 3 3 == 1) then
        cxlGiven (installLeaf e l pkg va [4, 3, 2, 1, 0] root g.tables s) part pa (2 ^ levelShift l)
      else s

/-- Horsil maps pages of 64 KiB at frames, each with the frames for tables that the ones before it have left. -/
def mapPages (part pkg : Nat) (leaf : Nat → Word) : List (Nat × Nat) → List Nat → State → State
  | [], _, s => s
  | x :: r, tables, s =>
    let used := match (partOf s part).bind fun p => assoc p.roots pkg with
      | some root => tablesMissing s.home 0 x.1 [4, 3, 2, 1, 0] root
      | none => 0
    mapPages part pkg leaf r (tables.drop used) (mapPage s part pkg x.1 { leaf := leaf x.2, level := 0, tables := tables })

/-- The bytes of a codex's code page that stand at a virtual page of 64 KiB, by address. -/
def Codex.cells (c : Codex) (page : Nat) : List (Nat × Byte) :=
  (List.range (2 ^ 16)).filterMap fun i =>
    let a := page + i
    if c.codeBase.toNat ≤ a then (c.code[a - c.codeBase.toNat]?).map fun b => (a, b) else none

/-- Whether the file pages that lie in a virtual page pass their hashes (R456). -/
def Codex.passes (c : Codex) (page : Nat) : Bool :=
  let one := fun (k : Nat) =>
    Config.sm3 ((c.file.drop (2 ^ 16 * k)).take (2 ^ 16)) == BitVec.ofNat 256 (leNat ((c.hashes.drop (32 * k)).take 32))
  (List.range ((c.file.length + 2 ^ 16 - 1) / 2 ^ 16)).all fun k =>
    let lo := c.codeBase.toNat + 2 ^ 16 * k
    decide (page + 2 ^ 16 ≤ lo ∨ lo + 2 ^ 16 ≤ page) || one k

/-- A page of a codex's code is loaded on its first use and checked by its hash then (R449, R458). -/
def demandLoad (s : State) (part pkg va : Nat) : State :=
  let page := va / 2 ^ 16 * 2 ^ 16
  match s.codices.find? fun c => c.part == part && !(c.cells page).isEmpty with
  | none => s
  | some c =>
    match walk s part pkg page with
    | .leaf _ e l =>
      let pa := field e 51 16 * 2 ^ 16 + page % 2 ^ levelShift l
      let s1 := (engineWrite s pkg ((c.cells page).map fun x => (pa + (x.1 - page), x.2))).1
      if c.passes page then s1 else hashFail s1 part pkg page
    | .pageFault | .protection => s

/-- The continuation that a resident thread is resuming from. -/
def resuming (s : State) : Option Cont := s.conts.find? fun c => c.th.uid == s.t.uid

/-- Horsil serves the page fault of the current thread: with a page it resumes, without one it takes Protection. -/
def servePage (grant : Option PageGrant) (s : State) : State :=
  match s.t.status with
  | .pageFault tr resume =>
    match grant with
    | some g =>
      let va := tr.tval.toNat % 2 ^ 57
      let s0 := mapPage s s.t.part (pkgOf s.t.core) va g
      let s1 := demandLoad (s0.updT fun t => { t with status := .running }) s0.t.part (pkgOf s0.t.core) va
      if resume then
        match resuming s1 with
        | some c => resumeRecord c s1
        | none => s1
      else s1
    | none =>
      let tr' := { tr with cls := 0x04 }
      if resume then
        { s.updT fun t => { t with status := .ending 1 0x04 0 (tr.tval.toNat % 2 ^ 57) } with
          conts := s.conts.filter fun c => c.th.uid != s.t.uid }
      else takeTrap tr' (standOldest (s.updT fun t => { t with status := .running }))
  | .free | .running | .ending _ _ _ _ | .halted => s

def TStatus.isPageFault : TStatus → Bool
  | .pageFault _ _ => true
  | .free | .running | .ending _ _ _ _ | .halted => false

/-- Horsil serves the page fault of a pre-empted thread (R436): it stays saved, unless its node ends. -/
def serveSaved (grant : Option PageGrant) (v : Saved) (s : State) : State :=
  let uid := v.th.uid
  let s1 := asThread { s with parked := s.parked ++ [v.th], saved := s.saved.filter fun x => x.th.uid != uid } uid (servePage grant)
  match s1.parked.find? fun t => t.uid == uid with
  | none => s1
  | some t =>
    let s2 := { s1 with parked := s1.parked.filter (fun x => x.uid != uid), saved := s1.saved ++ [{ v with th := t }] }
    match t.status with
    | .ending _ c unit a => endNode s2 uid c unit a
    | .free | .running | .pageFault _ _ | .halted => s2

/-- PAGE_FAULT_SERVICE (R436): of the current thread when it waits for a page, else of the first thread that does, in a slot or
pre-empted. -/
def execPageFaultService (grant : Option PageGrant) (s : State) : Host.Outcome State Fault Refusal :=
  match (allThreads s).find? fun t => t.status.isPageFault with
  | some t => happening (asThread s t.uid (servePage grant))
  | none =>
    match s.saved.find? fun v => v.th.status.isPageFault with
    | some v => happening (serveSaved grant v s)
    | none => happening s

/-! ## The scrubber (R446, R447) -/

/-- The global die of a unit of R379, on the package of the current thread. -/
def unitDie (s : State) (unit : Nat) : Nat :=
  let pkg := pkgOf s.t.core
  match field unit 15 14 with
  | 0 => pkg * 8 + field unit 13 5 / 48
  | 1 => pkg * 8 + field unit 13 11
  | _ => pkg * 8

/-- The partition that owns a physical byte by its memory shares, or by its page of CXL memory (R25, R446). -/
def ownerOf (s : State) (pa : Nat) : Nat :=
  match s.parts.find? fun p => p.shares.any fun x => decide (x.1 ≤ pa ∧ pa < x.1 + x.2 * 2 ^ 30) with
  | some p => p.slot
  | none => ((s.cxl.find? fun x => memMeets pa 1 x.2.1 x.2.2).map Prod.fst).getD horsilPart

/-- A pool element goes, with PSEQ and the counts that include it. -/
def scrubElem (p : Pool) (die index : Nat) : Pool :=
  p.updShelf die fun x =>
    match x.elems[index]? with
    | none => x
    | some e =>
      let less := fun (m : Summary) => if m.lowest.any fun y => y.order == e.order then
          { m with count := m.count - 1, pseq := m.pseq - 1, lowest := m.lowest.filter fun y => y.order != e.order } else m
      { x with elems := x.elems.eraseIdx index, pseq := (x.pseq + 2 ^ 48 - 1) % 2 ^ 48, now := less x.now, before := less x.before }

/-- Chain caches are numbered from here among the places of cached entries, TLBs below (R447). -/
def chainPlace : Nat := 2 ^ 21

/-- A cached entry that holds no unique data is invalidated. -/
def scrubCache (s : State) (place index : Nat) : State :=
  if place < chainPlace then
    { s with tlbs := updWhere s.tlbs (fun t => t.place == place) fun t => { t with entries := t.entries.eraseIdx index } }
  else
    match (s.chains.filter fun c => c.1 == place - chainPlace)[index]? with
    | none => s
    | some c => { s with chains := s.chains.erase c }

/-- The partition of a cached entry (R446). -/
def cacheOwner (s : State) (place index : Nat) : Nat :=
  let found : Option Nat := if place < chainPlace then
      ((s.tlbs.find? fun t => t.place == place).bind fun t => t.entries[index]?).map TlbEntry.part
    else ((s.chains.filter fun c => c.1 == place - chainPlace)[index]?).map fun c => c.2.getD 0 0
  found.getD horsilPart

/-- The thread in a slot. -/
def inSlot (s : State) (core slot : Nat) : Option Thread :=
  (allThreads s).find? fun t => t.core == core && t.slot == slot && t.status != .free

/-- The owner tag of a corrected word (R446): the partition of a thread context, or of the memory that the word or the cached line is of. -/
def ownerTag (s : State) (unit addr : Nat) (slot : Option Nat) : Nat :=
  match slot with
  | some k => ((inSlot s (pkgOf s.t.core * 384 + field unit 13 5) k).map Thread.part).getD horsilPart
  | none => ownerOf s addr

/-- The die of a cache's number (R447): a core's, or a die's own. -/
def cacheDie (place : Nat) : Nat :=
  let p := if place < chainPlace then place else place - chainPlace
  if p < 2 ^ 20 then dieOf p else p - 2 ^ 20

/-- A suspended or pre-empted thread's node (R447). -/
def endContext (s : State) (uid addr : Nat) : State :=
  match (everyThread s).find? fun t => t.uid == uid && uid != 0 with
  | none => logError s (pkgOf s.t.core * 8) 0 0x05 0 horsilPart addr
  | some t => logError (endNode s uid 0x13 (laneUnit t.core 0) addr) (dieOf t.core) 0x13 0x05 (laneUnit t.core 0) t.part addr

/-- What an uncorrectable error of an owner leads to, logged with EVENT 0x05 (R447). -/
def scrubbed (f : ScrubFinding) (s : State) : State :=
  match f with
  | .corrected unit addr slot => logError s (unitDie s unit) 0 0x01 unit (ownerTag s unit addr slot) addr
  | .correctedCache place index addr => logError s (cacheDie place) 0 0x01 0 (cacheOwner s place index) addr
  | .correctedFolio core entry addr =>
    logError s (dieOf core) 0 0x01 (laneUnit core 0) (((folioAt s core entry).map FolioEntry.part).getD horsilPart) addr
  | .thread core slot addr =>
    match inSlot s core slot with
    | none => logError s (dieOf core) 0 0x05 (laneUnit core 0) horsilPart addr
    | some t => endContext s t.uid addr
  | .context uid addr => endContext s uid addr
  | .prefetched core slot line =>
    logError s (dieOf core) 0 0x06 (laneUnit core 0) (((inSlot s core slot).map Thread.part).getD horsilPart) line.toNat
  | .folioEntry core entry =>
    match folioAt s core entry with
    | none => s
    | some e =>
      let s1 := e.owners.foldl (fun a u => endNode a u 0x13 (laneUnit core 0) 0) (dropFolio s core entry)
      logError s1 (dieOf core) (if e.owners.isEmpty then 0 else 0x13) 0x05 (laneUnit core 0) e.part 0
  | .memory pa len =>
    let zipped := s.zblocks.any fun z => z.block == pa / 4096
    let bytes := (if zipped then (List.range 4096).map (pa / 4096 * 4096 + ·) else []) ++ (List.range len).map (pa + ·)
    let s1 := fillBlock s pa
    let s2 := { s1 with poison := (bytes ++ s1.poison).dedup }
    logError s2 (field pa 51 44 * 8 + homeDie pa) 0 0x05 (2 ^ 15 + field pa 40 37 * 2 ^ 9) (ownerOf s pa) 0
  | .poolElement part pool die index => logError (updPool s part pool fun p => scrubElem p die index) die 0 0x05 0 part 0
  | .viewBlock part handle copy block =>
    let bad := fun (b : Block) => { b with state := BlockState.faulted }
    let hurt := fun (v : View) => { v with copies := v.copies.modify copy fun c => { c with blocks := c.blocks.modify block bad } }
    let die := (((s.views.find? fun v => v.part == part && v.handle == handle).bind fun v => v.copies[copy]?).bind fun c =>
      c.blocks[block]?).map Block.die
    let s1 := settleViews { s with views := updWhere s.views (fun v => v.part == part && v.handle == handle) hurt }
    logError s1 (die.getD 0) 0 0x05 0 part 0
  | .cacheEntry place index =>
    logError (scrubCache s place index) (cacheDie place) 0 0x05 0 (cacheOwner s place index) 0
  | .horsil => logError s (pkgOf s.t.core * 8) 0 0x05 0 horsilPart 0

/-- SCRUB (R446, R447). -/
def execScrub (finding : ScrubFinding) (s : State) : Host.Outcome State Fault Refusal := happening (scrubbed finding s)

/-! ## The debugger (R87) -/

/-- DEBUG_STEP: a running thread is halted; a halted one is let run one instruction. -/
def execDebugStep (s : State) : Host.Outcome State Fault Refusal :=
  match s.t.status with
  | .running => happening (s.updT fun t => { t with status := .halted, stepping := false })
  | .halted => happening (s.updT fun t => { t with status := .running, stepping := true })
  | .free | .pageFault _ _ | .ending _ _ _ _ => happening s

end Sys2Proof.Machine
end

