-- ==== Sys2Proof/Machine/GeomInstr.lean ====
section
/-! DEFINITION. Geometry instructions (R324 to R336). -/

namespace Sys2Proof.Machine

/-- What a geometry instruction makes of one element: the resolved sources to be written back (R332), the result, the retags
made and the conversion looked up (R328, R330). -/
structure GOut where
  ra : Option Nat
  rb : Option Nat
  out : Nat
  retags : Nat
  conv : Option (Nat × Nat)
  deriving DecidableEq, Repr

/-- An element's outcome: done, or a geometry fault. -/
inductive GElem where
  | done (g : GOut)
  | fault (f : GFault)
  deriving DecidableEq, Repr

/-- How an instruction handles an element: from the catalogue as the thread sees it, and the element's bits. -/
abbrev GEval := (Nat → Option NodeRec) → Nat → Nat → GElem

/-- What ends an instruction at an element: a geometry fault, or a poisoned record that the element consumes (R445). -/
inductive GStop where
  | fault (f : GFault)
  | record (n : Nat)
  deriving DecidableEq, Repr

/-- The elements done so far, with what ends them. -/
structure GRun where
  done : List (Nat × GOut)
  bad : Option (Nat × GStop)
  deriving DecidableEq, Repr

/-- Runs the elements in ascending order until one faults (R331). -/
def runElems (s : State) (p : Partition) (ev : GEval) (a b : Nat → Nat) : List Nat → GRun
  | [] => { done := [], bad := none }
  | i :: r =>
    match badRecord s p fun nodes => ev nodes (a i) (b i) with
    | some n => { done := [], bad := some (i, .record n) }
    | none =>
      match ev (nodeSeen s p) (a i) (b i) with
      | .fault f => { done := [], bad := some (i, .fault f) }
      | .done g =>
        let t := runElems s p ev a b r
        { t with done := (i, g) :: t.done }

/-- What stops an element whose second source has a fill fault: va's own fault, which is taken first (R331); none when va's chunk is a
stream's. `b` stands for the missing operand. -/
def vaStop (s : State) (p : Partition) (ev : GEval) (x b : Nat) : Option GStop :=
  match ev (nodeSeen s p) x b, badRecord s p (resolved x) with
  | .done _, _ => none
  | .fault _, some n => some (.record n)
  | .fault _, none => ((resolved x (nodeSeen s p)).2.2).map .fault

/-- Whether a register holds the chunk of a load binding: then a resolved value is not written back into it (R332). One that holds the
chunk of a store binding is rewritten, and that produces no chunk (log 19, DESIGN CHOICE). -/
def streamBound (s : State) (r : Nat) : Bool := s.t.binds.any fun b => !b.store && decide (b.vd ≤ r ∧ r < b.vd + b.regs)

/-- Writes resolved values back into the registers of a source group that are not stream-bound, and marks them written (R332). -/
def rewriteSource (s : State) (r g : Nat) (vals : List (Nat × Nat)) : State :=
  (List.range g).foldl (fun a j =>
    if (vals.any fun v => v.1 / 64 == j) && !(streamBound a (r + j)) then
      let old := (getV a (r + j)).toNat
      let es := (List.range 64).map fun i => (assoc vals (64 * j + i)).getD (elemAt old 128 i)
      markDirty (setV a (r + j) (BitVec.ofNat 8192 (packElems 128 es))) (r + j) 1
    else a) s

/-- The frame of a geometry instruction on groups of size G, whose second source is a group of `gb` registers with elements of
width `wb` (R333): sources resolved and rewritten, the destination written by R235, counts made for the elements completed. It runs only on its catalogue's home package (R318). A
faulting lane instruction completes no element (R275). -/
def geomVec (o : WV) (gb : Nat → Nat) (wb : Nat) (usesB : Bool) (ev : State → GEval) (s : State) :
    Host.Outcome State Fault Refusal :=
  executeOp [] .elements (fun s =>
    let g := vtGrp s
    let va := o.va.toNat
    let vd := o.vd.toNat
    let vb := match o.src with
      | .vec v _ => v.toNat
      | .scal _ | .imm _ | .queue _ => 0
    if lengthOk s g 128 = false ∨ groupOk va g = false ∨ groupOk vd g = false ∨ (usesB ∧ groupOk vb (gb g) = false) then
      illegal s
    else
      vecFrame (.below 1) (regsOf va g ++ (if usesB then regsOf vb (gb g) else [])) (regsOf vd g) none
        (fun x i => decide (i < x.t.ctl.vl) && maskOn x o.msk.toNat i) (fun s1 =>
          let vl := s1.t.ctl.vl
          let st := startElem s1
          let mk := o.msk.toNat
          match catalogue s1 with
          | none => .trap (catTrap st) s1
          | some p =>
            let on := fun (x : State) (i : Nat) => touched x 128 vl st i && maskOn x mk i
            let a := elemAt (getGroup s1 va g) 128
            let b := elemAt (getGroup s1 vb (gb g)) wb
            let r0 := runElems s1 p (ev s1) a b ((List.range vl).filter (on s1))
            let r1 : GRun := match r0.bad, s1.t.limit with
              | none, some k =>
                if k < vl ∧ on (stopAt none s1) k ∧ !((regsOf va g).any (streamBound s1)) then
                  { r0 with bad := (vaStop s1 p (ev s1) (a k) (b k)).map fun x => (k, x) }
                else r0
              | _, _ => r0
            let lane := (laneOf s1).isSome
            let r : GRun := if r1.bad.isSome && lane then { r1 with done := [] } else r1
            let s2 := r.done.foldl (fun x d => countGeom x p d.2.retags d.2.conv) s1
            let s3 := rewriteSource s2 va g (r.done.filterMap fun d => d.2.ra.map fun v => (d.1, v))
            let s4 := rewriteSource s3 vb g (r.done.filterMap fun d => d.2.rb.map fun v => (d.1, v))
            let res := fun i => ((assoc r.done i).map GOut.out).getD 0
            match r.bad with
            | none => .ok (if vl = 0 then s4 else writeGroup s4 vd g 128 128 vl st mk res)
            | some (k, f) =>
              let s5 := if lane then s4 else placePart s4 vd g 128 st k (on s1) res
              match f with
              | .fault f => let t := geomTrap s5 f k; .trap t.1 t.2
              | .record n => .trap (recTrap p n k) s5) s) s

/-- Resolves a source, then goes on. -/
def withResolved (nodes : Nat → Option NodeRec) (x : Nat) (f : GVal → Nat → GElem) : GElem :=
  match resolve nodes (GVal.dec x) with
  | .error e => .fault e
  | .ok (v, k) => f v k

/-- `gcvt` on an element (R326, R333). -/
def gcvtElem : GEval := fun nodes a b =>
  withResolved nodes a fun va ka => withResolved nodes b fun vb kb =>
    match convertFrame nodes va vb.frame with
    | .error e => .fault e
    | .ok v => .done { ra := some va.enc, rb := some vb.enc, out := v.enc, retags := ka + kb, conv := some (va.frame, vb.frame) }

/-- The sum or difference of two values in one frame (R335): weights 1 for a point and 0 for a direction. -/
def addKinds (sub : Bool) (a b : GVal) : Except GFault GVal :=
  let w : Int := if sub then (1 - a.kind : Int) - (1 - b.kind : Int) else (1 - a.kind : Int) + (1 - b.kind : Int)
  let op := fun (x y : Int) => if sub then x - y else x + y
  let o := [op a.x b.x, op a.y b.y, op a.z b.z]
  if w < 0 ∨ 1 < w then .error ⟨0x0A, 11, a.tag⟩
  else if o.all inS32 then
    .ok { a with kind := (1 - w).toNat, x := o.getD 0 0, y := o.getD 1 0, z := o.getD 2 0 }
  else .error ⟨0x0A, 9, a.tag⟩

/-- `gadd` and `gsub` on an element (R335); `gconv` is vtype.GCONV. -/
def gaddElem (sub gconv : Bool) : GEval := fun nodes a b =>
  withResolved nodes a fun va ka => withResolved nodes b fun vb kb =>
    let fin := fun (x : GVal) (conv : Option (Nat × Nat)) =>
      match addKinds sub va x with
      | .error e => GElem.fault e
      | .ok v => .done { ra := some va.enc, rb := some vb.enc, out := v.enc, retags := ka + kb, conv := conv }
    if va.frame = vb.frame then fin vb none
    else if gconv then
      match convertFrame nodes vb va.frame with
      | .error e => .fault e
      | .ok x => fin x (some (vb.frame, va.frame))
    else .fault ⟨0x09, 8, vb.tag⟩

/-- `gscale` on an element (R336): the factor is an fp64 pattern. -/
def gscaleElem : GEval := fun nodes a b =>
  withResolved nodes a fun va ka =>
    match fmt64.value b with
    | .nan _ | .inf _ => .fault ⟨0x0A, 9, va.tag⟩
    | .fin _ _ _ =>
      let sc := fun (x : Int) => ((Dy.ofInt x).mul (Dy.of64 b)).rint
      let o := [sc va.x, sc va.y, sc va.z]
      if o.all inS32 then
        .done { ra := some va.enc, rb := none, retags := ka, conv := none,
                out := ({ va with x := o.getD 0 0, y := o.getD 1 0, z := o.getD 2 0 } : GVal).enc }
      else .fault ⟨0x0A, 9, va.tag⟩

/-- `gsettag` on an element: va's offsets with vb's tag word; it checks nothing. -/
def gsettagElem : GEval := fun _ a b =>
  .done { ra := none, rb := none, out := a % 2 ^ 96 + field b 127 96 * 2 ^ 96, retags := 0, conv := none }

/-- `gtagof` on an element. -/
def gtagofElem : GEval := fun nodes a _ =>
  withResolved nodes a fun va ka => .done { ra := some va.enc, rb := none, out := va.enc, retags := ka, conv := none }

/-- `gcvt.fpos vd, va, vb`. -/
def execGcvt (o : WV) (s : State) := geomVec o id 128 true (fun _ => gcvtElem) s

/-- `gadd.fpos vd, va, vb`. -/
def execGadd (o : WV) (s : State) := geomVec o id 128 true (fun s => gaddElem false (vtGconv s)) s

/-- `gsub.fpos vd, va, vb`. -/
def execGsub (o : WV) (s : State) := geomVec o id 128 true (fun s => gaddElem true (vtGconv s)) s

/-- `gscale.fpos vd, va, vb`: vb holds fp64 elements in a group of size max(1, G / 2). -/
def execGscale (o : WV) (s : State) := geomVec o (fun g => max 1 (g / 2)) 64 true (fun _ => gscaleElem) s

/-- `gsettag.fpos vd, va, vb`. -/
def execGsettag (o : WV) (s : State) := geomVec o id 128 true (fun _ => gsettagElem) s

/-- `gtagof.fpos vd, va`. -/
def execGtagof (o : WV) (s : State) := geomVec o id 128 false (fun _ => gtagofElem) s

end Sys2Proof.Machine
end

