-- ==== Sys2Proof/Machine/Frames.lean ====
section
/-! DEFINITION. Frame events (R337 to R344). -/

namespace Sys2Proof.Machine

/-- The node index and the generation of a node operand (R337). -/
def nodeIdx (w : Word) : Nat := (w.extractLsb' 0 24).toNat
def nodeGen (w : Word) : Nat := (w.extractLsb' 24 7).toNat

/-- A tag word with KIND 0. -/
def tagWord (gen idx : Nat) : Word := BitVec.ofNat 64 (gen % 128 * 2 ^ 24 + idx)

/-- A refusal in sd (R337). -/
def refusal (code : Nat) : Word := BitVec.ofNat 64 (2 ^ 63 + code)

/-- No record: what stands for an index at or beyond C, to which only RANGE applies. -/
def NodeRec.none : NodeRec := { nchild := 0, rev := 0, state := 0, gen := 0, parent := 2 ^ 24, q := [], t := [], split := [] }

/-- A record at the point of coherence of a scope (R337, R369). -/
def nodeAt (s : State) (p : Partition) (scope f : Nat) : NodeRec :=
  if p.catSize ≤ f then NodeRec.none
  else NodeRec.dec ((List.range 16).map fun j => leNat (atomicGet s scope 8 (nodeKey p f + 8 * j)))

/-- Writes a record whole at the point of a scope; chain-cache entries that include the node go (R328, R337). -/
def putNode (scope : Nat) (p : Partition) (s : State) (n : Nat × NodeRec) : State :=
  let s1 := atomicPut .event s scope (nodeKey p n.1) (n.2.enc.map fun w => natLe 8 w).flatten
  { s1 with chains := s1.chains.filter fun c => !(markIncludes c.2 p.slot n.1) }

/-- The lowest status code whose condition holds (R337). -/
def lowest (l : List (Nat × Bool)) : Option Nat := (l.find? fun x => x.2).map Prod.fst

/-- The frame of an event: it needs the catalogue on this package and reads only sound records; `f` gives the result and the
records changed. -/
def frameEvent (o : W4) (f : Partition → (Nat → NodeRec) → State → Res × List Nat) (s : State) :
    Host.Outcome State Fault Refusal :=
  executeOp [o.fa, o.fb, o.fc] .ignore (fun s =>
    match catalogue s with
    | none => .trap (catTrap 0) s
    | some p =>
      let s1 := settleMatrix s
      let r := f p (nodeAt s1 p o.sc.toNat) s1
      match r.2.find? fun n => decide (n < p.catSize) && pointPoisoned s1 o.sc.toNat (nodeKey p n) 128 with
      | some n => .trap (recTrap p n 0) s1
      | none => r.1) s

/-- An event's outcome: a refusal leaves every record as it is; success writes the records and delivers the result. -/
def settle (o : W4) (p : Partition) (codes : List (Nat × Bool)) (result : Word) (recs : List (Nat × NodeRec)) (s : State) : Res :=
  match lowest codes with
  | some c => .ok (setS s o.fd (refusal c))
  | none => .ok (setS (recs.foldl (putNode o.sc.toNat p) s) o.fd result)

/-- The conditions NOTLIVE, STALE and ROOT on a node operand (R337). -/
def liveCodes (p : Partition) (w : Word) (n : NodeRec) (root : Bool) : List (Nat × Bool) :=
  let inr := decide (nodeIdx w < p.catSize)
  [(0x01, inr && n.state != 1), (0x02, inr && n.gen != nodeGen w), (0x03, root && nodeIdx w == 0)]

/-- The index is at or beyond C (R337). -/
def rangeCode (p : Partition) (idxs : List Nat) : Nat × Bool := (0x0A, idxs.any fun i => decide (p.catSize ≤ i))

/-- A new index that is 0 or not free (R337). -/
def inUse (p : Partition) (c : Nat) (n : NodeRec) : Nat × Bool := (0x05, c == 0 || (decide (c < p.catSize) && n.state != 0))

/-- The empty split ring (R320). -/
def emptyRing : List Nat := List.replicate 8 splitEmpty

/-- Reads a transform block (R321): quaternion and translation, or the fault of an ordinary load. -/
def loadBlock (a : Word) (s : State) (f : List Nat → List Int → State → Res × List Nat) : Res × List Nat :=
  if canonical a ∧ a.toNat % 64 ≠ 0 then (.trap (addrTrap 0x03 a 0) s, [])
  else
    match loadWords a 7 0 s with
    | .bad t s1 => (.trap t s1, [])
    | .ok ws s1 =>
      f ((ws.take 4).map BitVec.toNat) ((ws.drop 4).map fun w => w.toInt) s1

/-- `fnew.sc sd, sa, sb, sc` (R339). -/
def execFnew (o : W4) (s : State) : Host.Outcome State Fault Refusal :=
  frameEvent o (fun p rec_ s =>
    let a := getS s o.fa
    let c := nodeIdx (getS s o.fc)
    loadBlock (getS s o.fb) s fun q t s1 =>
      let par := rec_ (nodeIdx a)
      let old := rec_ c
      let codes := liveCodes p a par false ++ [inUse p c old, (0x06, !quatOk q), (0x07, decide (65535 ≤ par.nchild)),
        rangeCode p [nodeIdx a, c]]
      let g := (old.gen + 1) % 128
      let new : NodeRec := { nchild := 0, rev := 0, state := 1, gen := g, parent := nodeIdx a, q := q, t := t, split := emptyRing }
      (settle o p codes (tagWord g c) [(c, new), (nodeIdx a, { par with nchild := par.nchild + 1 })] s1, [nodeIdx a, c])) s

/-- `fmove.sc sd, sa, sb` (R339). -/
def execFmove (o : W4) (s : State) : Host.Outcome State Fault Refusal :=
  frameEvent o (fun p rec_ s =>
    let a := getS s o.fa
    loadBlock (getS s o.fb) s fun q t s1 =>
      let n := rec_ (nodeIdx a)
      let codes := liveCodes p a n true ++ [(0x06, !quatOk q), rangeCode p [nodeIdx a]]
      (settle o p codes (tagWord n.gen (nodeIdx a)) [(nodeIdx a, { n with q := q, t := t, rev := (n.rev + 1) % 2 ^ 15 })] s1,
        [nodeIdx a])) s

/-- A split record (R320). -/
def splitRec (oldgen newgen new plane : Nat) : Nat := oldgen * 2 ^ 57 + newgen * 2 ^ 50 + new * 2 ^ 26 + plane

/-- `fsplit.sc sd, sa, sb, sc` (R341). -/
def execFsplit (o : W4) (s : State) : Host.Outcome State Fault Refusal :=
  frameEvent o (fun p rec_ s =>
    let a := getS s o.fa
    let b := getS s o.fb
    let c := nodeIdx (getS s o.fc)
    let n := rec_ (nodeIdx a)
    let old := rec_ c
    let par := rec_ n.parent
    let codes := liveCodes p a n true ++ [inUse p c old, (0x07, decide (65535 ≤ par.nchild)), rangeCode p [nodeIdx a, c],
      (0x0B, b.extractLsb' 24 2 == 3 || b.extractLsb' 26 38 != 0)]
    let g := (old.gen + 1) % 128
    let new : NodeRec := { n with nchild := 0, rev := 0, state := 1, gen := g, split := emptyRing }
    let node : NodeRec :=
      { n with gen := (n.gen + 1) % 128, split := n.split.set (n.gen % 8) (splitRec n.gen g c (b.extractLsb' 0 26).toNat) }
    (settle o p codes (tagWord g c)
      [(c, new), (nodeIdx a, node), (n.parent, { par with nchild := par.nchild + 1 })] s, [nodeIdx a, c, n.parent])) s

/-- `fdel.sc sd, sa` (R342). -/
def execFdel (o : W4) (s : State) : Host.Outcome State Fault Refusal :=
  frameEvent o (fun p rec_ s =>
    let a := getS s o.fa
    let n := rec_ (nodeIdx a)
    let par := rec_ n.parent
    let codes := liveCodes p a n true ++ [(0x04, decide (0 < n.nchild)), rangeCode p [nodeIdx a]]
    (settle o p codes (tagWord n.gen (nodeIdx a))
      [(nodeIdx a, { n with state := 2 }), (n.parent, { par with nchild := par.nchild - 1 })] s, [nodeIdx a, n.parent])) s

/-- `fdel.fwd.sc sd, sa` (R342): values of the node's generation move to the parent. -/
def execFdelFwd (o : W4) (s : State) : Host.Outcome State Fault Refusal :=
  frameEvent o (fun p rec_ s =>
    let a := getS s o.fa
    let n := rec_ (nodeIdx a)
    let par := rec_ n.parent
    let codes := liveCodes p a n true ++ [(0x04, decide (0 < n.nchild)), rangeCode p [nodeIdx a]]
    let fwd := splitRec n.gen par.gen n.parent (3 * 2 ^ 24 + 2 ^ 23)
    (settle o p codes (tagWord n.gen (nodeIdx a))
      [(nodeIdx a, { n with state := 2, gen := (n.gen + 1) % 128, split := n.split.set (n.gen % 8) fwd }),
        (n.parent, { par with nchild := par.nchild - 1 })] s, [nodeIdx a, n.parent])) s

/-- The Hamilton product, each component formed exactly and rounded once (R342). -/
def hamilton (a b : List Nat) : List Nat :=
  let x := fun (l : List Nat) (i : Nat) => Dy.of64 (l.getD i 0)
  let m := fun (i j : Nat) => (x a i).mul (x b j)
  [((((m 0 0).sub (m 1 1)).sub (m 2 2)).sub (m 3 3)).to64, ((((m 0 1).add (m 1 0)).add (m 2 3)).sub (m 3 2)).to64,
    ((((m 0 2).sub (m 1 3)).add (m 2 0)).add (m 3 1)).to64, ((((m 0 3).add (m 1 2)).sub (m 2 1)).add (m 3 0)).to64]

/-- An adopted child's record (R342). -/
def adopted (node child : NodeRec) : NodeRec :=
  let t := ((rint3 (matOf node.q) child.t).zip node.t).map fun x => x.1 + x.2
  { child with q := hamilton node.q child.q, t := t, parent := node.parent, rev := (child.rev + 1) % 2 ^ 15 }

/-- Loads the 32-bit indices of an adoption list. -/
def loadIndices (a : Word) : Nat → Nat → State → Got (List Nat)
  | 0, _, s => .ok [] s
  | n + 1, j, s =>
    match loadAt s (a + BitVec.ofNat 64 (4 * j)) 4 4 0 with
    | .bad t s1 => .bad t s1
    | .ok w s1 =>
      match loadIndices a n (j + 1) s1 with
      | .bad t s2 => .bad t s2
      | .ok r s2 => .ok (w :: r) s2

/-- `fdel.adopt.sc sd, sa, sb, sc` (R342). A count above 4096 is LIST without a read of the list (log 19, DESIGN CHOICE: R342 does not say whether
a load fault in it would come first). -/
def execFdelAdopt (o : W4) (s : State) : Host.Outcome State Fault Refusal :=
  frameEvent o (fun p rec_ s =>
    let a := getS s o.fa
    let b := getS s o.fb
    let cnt := (getS s o.fc).toNat
    if canonical b ∧ b.toNat % 4 ≠ 0 then (.trap (addrTrap 0x03 b 0) s, [])
    else
      match loadIndices b (if cnt ≤ 4096 then cnt else 0) 0 s with
      | .bad t s1 => (.trap t s1, [])
      | .ok ids s1 =>
        let n := rec_ (nodeIdx a)
        let par := rec_ n.parent
        let child := fun (i : Nat) => decide (i < p.catSize) && (rec_ i).state == 1 && (rec_ i).parent == nodeIdx a && i != 0
        let inr := decide (nodeIdx a < p.catSize)
        let bad : Bool := decide (4096 < cnt) || ids.dedup.length != ids.length || (inr && (cnt != n.nchild || !(ids.all child)))
        let kids := if bad ∨ inr = false then [] else ids.map fun i => (i, adopted n (rec_ i))
        let codes := liveCodes p a n true ++ [(0x07, inr && decide (65536 < par.nchild + cnt)), (0x08, bad), rangeCode p [nodeIdx a],
          (0x0C, !(kids.all fun k => k.2.t.all inS64))]
        (settle o p codes (tagWord n.gen (nodeIdx a))
          (kids ++ [(nodeIdx a, { n with state := 2, nchild := 0 }), (n.parent, { par with nchild := par.nchild + cnt - 1 })]) s1,
          nodeIdx a :: n.parent :: (if bad then [] else ids))) s

/-- `freclaim.sc sd, sa` (R343): the operand is judged only by NOTTOMB, STALE, ROOT and RANGE. -/
def execFreclaim (o : W4) (s : State) : Host.Outcome State Fault Refusal :=
  frameEvent o (fun p rec_ s =>
    let a := getS s o.fa
    let n := rec_ (nodeIdx a)
    let inr := decide (nodeIdx a < p.catSize)
    let codes := [(0x02, inr && n.gen != nodeGen a), (0x03, nodeIdx a == 0), (0x09, inr && (n.state != 2 || decide (0 < n.nchild))),
      rangeCode p [nodeIdx a]]
    (settle o p codes (tagWord n.gen (nodeIdx a)) [(nodeIdx a, { n with state := 0, split := emptyRing })] s, [nodeIdx a])) s

/-- `fread sd, sa, sb` (R344): the destination is checked first; the record is read as the thread sees it (R327). -/
def execFread (o : W4) (s : State) : Host.Outcome State Fault Refusal :=
  executeOp [o.fa, o.fb] .ignore (fun s =>
    match catalogue s with
    | none => .trap (catTrap 0) s
    | some p =>
      let s0 := settleMatrix s
      let b := getS s0 o.fb
      let n := nodeIdx (getS s0 o.fa)
      if canonical b ∧ b.toNat % 128 ≠ 0 then .trap (addrTrap 0x03 b 0) s0
      else
        match checkStores 0 (byteAddrs b 128) s0 with
        | .bad t s1 => .trap t s1
        | .ok ks s1 =>
          if p.catSize ≤ n then .ok (setS s1 o.fd (refusal 0x0A))
          else if recBad s1 p n then .trap (recTrap p n 0) s1
          else .ok (setS (storeKeys s1 ks (s1.t.readBytes 128 (nodeKey p n))) o.fd 0)) s

end Sys2Proof.Machine
end

