-- ==== Sys2Proof/Machine/Launch.lean ====
section
/-! DEFINITION. Launch packets: their checks in every die and what an accepted one sets up (R63 to R68, R147, R378). -/

namespace Sys2Proof.Machine

/-! ## Reading a packet -/

/-- `n` bytes from an address on as the hardware of a die reads them, or its control cores, by its package's tables and through its cache
(R16, R20); the class of the first fault where a byte is unmapped, unreadable or damaged. -/
def dieReadBytes (w : Who) (va : Word) : Nat → Nat → State → Except Nat (List Byte) × State
  | 0, _, s => (.ok [], s)
  | n + 1, j, s =>
    match translate s w .load (va + BitVec.ofNat 64 j) with
    | .fault c s1 => (.error c, s1)
    | .ok k s1 =>
      let s2 := fillBlock s1 k
      if latestBad s2 w.part k fun x => x.cachedAt w.die || x.cachedAt x.homeCache then (.error 0x0E, s2)
      else
        match dieReadBytes w va n (j + 1) s2 with
        | (.ok bs, s3) => (.ok (dieRead s2 w.die w.part k :: bs), s3)
        | (.error c, s3) => (.error c, s3)

/-- `n` bytes that hardware or Horsil reads, none where one of them cannot be read. -/
def hardRead (w : Who) (va : Word) (n : Nat) (s : State) : Option (List Byte) × State :=
  let r := dieReadBytes w va n 0 s
  (r.1.toOption, r.2)

/-- The words of a byte string. -/
def wordsOf : Nat → List Byte → List Word
  | 0, _ => []
  | n + 1, bs => BitVec.ofNat 64 (leNat (bs.take 8)) :: wordsOf n (bs.drop 8)

/-- Whether every byte of a range can be accessed. -/
def rangeMapped (s : State) (w : Who) (acc : Access) (va : Word) (n : Nat) : Bool :=
  (rangeProbes va n).all fun a => match translate s w acc a with
    | .ok _ _ => true
    | .fault _ _ => false

/-- A launch packet as a die has it: Horsil's header, N, and what the die reads: the node table, the successor array, the folio lists by
node. -/
structure Packet where
  header : List Word
  n : Nat
  nodes : List (List Word)
  succs : List Nat
  folios : List (Option (List (Word × Word)))
  deriving DecidableEq, Repr

/-- Fields of a node descriptor (R65). -/
def descSoff (d : List Word) : Nat := ((d.getD 3 0).extractLsb' 32 32).toNat
def descScnt (d : List Word) : Nat := ((d.getD 3 0).extractLsb' 0 32).toNat
def descFcnt (d : List Word) : Nat := ((d.getD 5 0).extractLsb' 0 5).toNat
def descNpred (d : List Word) : Nat := ((d.getD 2 0).extractLsb' 0 21).toNat
def descKind (d : List Word) : Nat := ((d.getD 2 0).extractLsb' 26 2).toNat
def descTeam (d : List Word) : Nat := ((d.getD 2 0).extractLsb' 32 16).toNat
def descPlace (d : List Word) : Nat := ((d.getD 2 0).extractLsb' 48 16).toNat

/-- N of a header (R64). -/
def headerN (h : List Word) : Nat := ((h.getD 0 0).extractLsb' 32 20).toNat + 1

/-- The folio list of a descriptor; none when it cannot be read. -/
def readFolios (w : Who) (d : List Word) (s : State) : Option (List (Word × Word)) × State :=
  let n := descFcnt d
  let r := hardRead w (d.getD 4 0) (16 * n) s
  (r.1.map fun bs => (List.range n).map fun i =>
    let ws := wordsOf 2 (bs.drop (16 * i))
    (ws.getD 0 0, ws.getD 1 0), r.2)

/-- What a die reads of the packet of a header (R64), by its own package's tables (R155); none where it cannot be read. -/
def readPacket (w : Who) (h : List Word) (s : State) : Option Packet × State :=
  let n := headerN h
  match hardRead w (h.getD 2 0) (64 * n) s with
  | (none, s1) => (none, s1)
  | (some tb, s1) =>
    let nodes := (List.range n).map fun i => wordsOf 8 (tb.drop (64 * i))
    let len := (nodes.map descScnt).foldl (· + ·) 0
    match hardRead w (h.getD 3 0) (4 * len) s1 with
    | (none, s2) => (none, s2)
    | (some sb, s2) =>
      let succs := (List.range len).map fun i => leNat ((sb.drop (4 * i)).take 4)
      let r := nodes.foldl (fun (a : List (Option (List (Word × Word))) × State) d =>
        let x := if descFcnt d ≤ 16 then readFolios w d a.2 else (some [], a.2)
        (a.1 ++ [x.1], x.2)) ([], s2)
      (some { header := h, n := n, nodes := nodes, succs := succs, folios := r.1 }, r.2)

/-! ## The checks (R64 to R66, R147, R378) -/

/-- The header's own rules (R64), those of the completion queue's place included. -/
def headerOk (s : State) (w : Who) (h : List Word) : Bool :=
  let w0 := h.getD 0 0
  w0.extractLsb' 52 12 == 0 && w0.extractLsb' 16 16 == 1 && w0.extractLsb' 0 16 == 0 && (h.getD 1 0).extractLsb' 32 32 == 0 &&
    h.getD 7 0 == 0 && (h.getD 2 0).toNat % 64 == 0 && (h.getD 3 0).toNat % 4 == 0 && (h.getD 4 0).toNat % 16 == 0 &&
    (h.getD 5 0).toNat % 64 == 0 && rangeMapped s w .load (h.getD 4 0) (16 * headerN h)

/-- The completion queue (R378): its header and ring writable, NSLOT a power of two from 64 to 2^24. -/
def queueOk (s : State) (w : Who) (cq : Word) : Bool :=
  match translate s w .store cq with
  | .fault _ _ => false
  | .ok k s1 =>
    let n := homeWord (fillBlock s1 k) k % 2 ^ 32
    decide (64 ≤ n ∧ n ≤ 2 ^ 24) && (List.range 25).any (fun i => n == 2 ^ i) && rangeMapped s1 w .store cq (64 + 32 * n)

/-- In-edges of a node found in the successor array (R65). -/
def Packet.inEdges (p : Packet) (i : Nat) : Nat :=
  (p.nodes.map fun d => ((p.succs.drop (descSoff d)).take (descScnt d)).filter fun x => x == i).flatten.length

/-- A descriptor's own rules (R65). -/
def Packet.descOk (p : Packet) (i : Nat) (d : List Word) : Bool :=
  (d.getD 2 0).extractLsb' 21 5 == 0 && descKind d != 3 && decide (descSoff d + descScnt d ≤ p.succs.length) &&
    (d.getD 5 0).extractLsb' 5 59 == 0 && decide (descFcnt d ≤ 16) && d.getD 6 0 == 0 && d.getD 7 0 == 0 &&
    descNpred d == p.inEdges i

/-- A folio list's rules for a kind (R66, R147). -/
def foliosOk (kind : Nat) (l : List (Word × Word)) : Bool :=
  let fs := l.map fun p => FolioSpec.dec p.1 p.2
  let fits := fun (f : FolioSpec) => (kind != 2 && specFits 0 f) || (kind != 1 && specFits 3 f)
  (l.all fun p => specOk p.1 p.2) && (fs.all fun f => fits f && !(kind == 2 && f.space == 0)) &&
    (fs.mapIdx fun i f => (fs.drop (i + 1)).all fun g => !rangesMeet f.space f.basek f.sizek g.space g.basek g.sizek).all id

/-- The folio lists of a packet: aligned, readable and right. A descriptor with FCNT = 0 has no list, and its FLIST is not looked at
(log 24, DESIGN CHOICE: R65 does not say whether such a FLIST can refuse the launch). -/
def Packet.foliosOk (p : Packet) : Bool :=
  (p.nodes.zip p.folios).all fun x =>
    descFcnt x.1 == 0 || ((x.1.getD 4 0).toNat % 16 == 0 && (match x.2 with
      | none => false
      | some l => Machine.foliosOk (descKind x.1) l))

/-- The successors of a node. -/
def Packet.succsOf (p : Packet) (i : Nat) : List Nat :=
  match p.nodes[i]? with
  | some d => (p.succs.drop (descSoff d)).take (descScnt d)
  | none => []

/-- What is left of the nodes once those without a predecessor among them have gone, pass by pass; a graph with a cycle leaves
some (R66). -/
def Packet.peel (p : Packet) : Nat → List Nat → List Nat
  | 0, l => l
  | n + 1, l =>
    let hit := (l.map p.succsOf).flatten
    let rest := l.filter fun i => hit.contains i
    if rest.length = l.length then l else p.peel n rest

/-- The kind a node of a packet counts as (R63): one of kind any with a folio in W counts as M. -/
def Packet.memberKind (p : Packet) (i : Nat) : Nat :=
  let d := p.nodes.getD i []
  needKind (descKind d) (((p.folios.getD i none).getD []).map fun x => FolioSpec.dec x.1 x.2)

/-- The teams of a packet meet R63, and their members agree on PLACE (R67). -/
def Packet.teamsOk (p : Packet) : Bool :=
  ((p.nodes.map descTeam).dedup.filter (· != 0)).all fun t =>
    let is := (List.range p.n).filter fun i => descTeam (p.nodes.getD i []) == t
    let n := fun (k : Nat) => (is.filter fun i => p.memberKind i == k).length
    let places := (is.map fun i => descPlace (p.nodes.getD i [])).dedup
    decide (is.length ≤ 16 ∧ n 1 ≤ 12 ∧ n 2 ≤ 8 ∧ n 0 ≤ (12 - n 1) + (8 - n 2)) && places.length == 1

/-- The lowest result number of R463 among the checks that a packet breaks, as a package's tables show it; none for a good one. -/
def packetResult (s : State) (w : Who) (p : Option Packet) : Option Nat :=
  match p with
  | none => some 1
  | some p =>
    if headerOk s w p.header = false then some 1
    else if !((List.range p.n).all fun i => p.descOk i (p.nodes.getD i [])) then some 2
    else if p.succs.any fun x => decide (p.n ≤ x) then some 3
    else if p.foliosOk = false then some 4
    else if !(p.peel p.n (List.range p.n)).isEmpty then some 5
    else if p.teamsOk = false then some 6
    else none

/-! ## The distribution function (R67) -/

/-- The dies that hold quads of a partition, ascending. -/
def dieList (p : Partition) : List Nat := ((p.quads.map (· / 12)).dedup).mergeSort fun a b => decide (a ≤ b)

/-- mix of R67. -/
def mixKey (k seed : Nat) : Nat := ((k ^^^ seed) % 2 ^ 32 * 0x9E3779B1 % 2 ^ 32) >>> 8

/-- die_of of R67, on a list of dies. -/
def dieOfNode (dies : List Nat) (seed i : Nat) (d : List Word) : Nat :=
  let n := max 1 dies.length
  let key := if descTeam d = 0 then i else descTeam d + 2 ^ 20
  let j := if descPlace d ≠ 0xFFFF then descPlace d % n else mixKey key seed % n
  dies.getD j 0

/-! ## Acceptance -/

/-- The nodes of an accepted packet that a die owns by its copy, with their open predecessors on their own die and on others (R67, R68). -/
def dieNodes (dies : List Nat) (die : Nat) (p : Packet) : List Node :=
  let seed := ((p.header.getD 1 0).extractLsb' 0 32).toNat
  let dieAt := fun (i : Nat) => dieOfNode dies seed i (p.nodes.getD i [])
  ((List.range p.n).filter fun i => dieAt i == die).map fun i =>
    let preds := ((List.range p.n).map fun j => ((p.succsOf j).filter fun x => x == i).map fun _ => dieAt j).flatten
    { index := i, desc := p.nodes.getD i [], die := die, left := (preds.filter fun d => d == die).length,
      crossLeft := (preds.filter fun d => d != die).length, state := .waiting, folios := (p.folios.getD i none).getD [],
      succs := p.succsOf i }

/-- The nodes of a launch: those that each die owns by its own copy of the packet (R64, R67), in index order. -/
def packetNodes (copies : List (Nat × Packet)) : List Node :=
  let dies := copies.map Prod.fst
  ((copies.map fun c => dieNodes dies c.1 c.2).flatten).mergeSort fun a b => decide (a.index ≤ b.index)

/-- Arms the edge barrier of a node with predecessors on other dies (R68). -/
def armEdge (l : Launch) (s : State) (n : Node) : State :=
  if n.crossLeft = 0 then s
  else
    match barrierKey s (dieWho l.part n.die) (edgeAddr l n.index) with
    | (.ok k, s1) => hardWrite s1 k (natLe 8 n.crossLeft ++ natLe 8 0)
    | (.error _, s1) => s1

/-- Horsil writes WRI, RDI and the reserved words of the completion queue as 0 (R378). -/
def startQueue (s : State) (l : Launch) : State :=
  match cqKey s l 0 with
  | some (k, s1) => hardWrite s1 k (natLe 8 (homeWord s1 k % 2 ^ 32) ++ List.replicate 56 0)
  | none => s

/-- An accepted launch (R66 to R69) with each die's copy of its packet: its queue and edge barriers are set, and its nodes without
predecessors are ready. -/
def acceptLaunch (part pkg : Nat) (h : List Word) (copies : List (Nat × Packet)) (s : State) : State :=
  let l : Launch :=
    { num := s.nextLaunch, part := part, edge := h.getD 4 0, cq := h.getD 5 0, args := h.getD 6 0, cqPkg := pkg,
      nodes := packetNodes copies, spawnedLeft := 0, reserved := 0, failed := none, finished := false, waiting := [] }
  let runs := fun (c : Codex) => c.part == part && l.nodes.any fun n =>
    decide (c.codeBase.toNat ≤ (n.word 0).toNat ∧ (n.word 0).toNat < c.codeBase.toNat + c.code.length)
  let s1 := { s with
    launches := s.launches ++ [l]
    nextLaunch := s.nextLaunch + 1
    codices := updWhere s.codices runs fun c => { c with launches := c.launches ++ [l.num] } }
  makeReady (l.nodes.foldl (armEdge l) (startQueue s1 l)) l.num

end Sys2Proof.Machine
end

