-- ==== Sys2Proof/Machine/Matrix.lean ====
section
/-! DEFINITION. Matrix and tile instructions: their checks at vcommit and what they post (R293 to R316); acc.peek (R314). -/

namespace Sys2Proof.Machine

/-! ## Frames -/

/-- The state that the checks use at mmode (R301). -/
def MatCheck.start (ty : Nat) : MatCheck := { mtype := ty, tiles := Vector.replicate 4 none }

/-- Posts a matrix instruction that has passed its checks (R80); it waits while the matrix queue is full. -/
def post (op : MatOp) (s : State) : Res :=
  if 256 ≤ s.t.mq.length then .stall s else .ok (s.updT fun t => { t with mq := t.mq ++ [op] })

/-- An instruction of majors 0x30 to 0x33 (R296): only an M-core has a matrix unit. -/
def matrixOp (rd : List (BitVec 5)) (f : State → Res) (s : State) : Host.Outcome State Fault Refusal :=
  executeOp rd .ignore (fun s => if isVCore s.t.core then illegal s else f s) s

/-- An instruction that needs matrix mode, with the state its checks use. -/
def heldOp (rd : List (BitVec 5)) (f : MatCheck → State → Res) (s : State) : Host.Outcome State Fault Refusal :=
  matrixOp rd (fun s => match s.t.mchk with
    | none => illegal s
    | some c => f c s) s

/-- An instruction on a configured tile. -/
def tileOp (ta : Nat) (rd : List (BitVec 5)) (f : TileShape → State → Res) (s : State) : Host.Outcome State Fault Refusal :=
  heldOp rd (fun c s => match c.tiles.getD ta none with
    | none => illegal s
    | some sh => f sh s) s

/-- A posted write of vector register `vd` with `n` elements: a store-bound register produces its chunk when it is written, so
the queue completes first (R219, R299). -/
def postWrite (op : MatOp) (vd n : Nat) (s : State) : Res :=
  vecFrame .whole [] [vd] none (fun _ i => decide (i < n)) (fun s =>
    (post op s).map fun a => if a.t.binds.any fun b => b.store && b.vd == vd then drainMatrix a else a) s

/-! ## Taking and leaving the unit (R301, R302) -/

/-- The threads that hold one of the two places of a core's unit. -/
def holders (s : State) (core : Nat) : List Nat := (s.granted.filter fun g => g.1 == core).map Prod.snd

/-- The waiting mmodes of a core. -/
def matrixWaiters (s : State) (core : Nat) : List Thread :=
  (allThreads s).filter fun t => t.core == core && t.mwait != 0 && t.status == .running

/-- Whether a waiting mmode goes before another (R301). -/
def waitsBefore (a b : Thread) : Bool := decide (a.mwait < b.mwait) || (a.mwait == b.mwait && decide (a.slot < b.slot))

/-- The next mmode of a core to be granted (R301). -/
def nextWaiter (s : State) (core : Nat) : Option Thread :=
  (matrixWaiters s core).foldl (fun a t => match a with
    | none => some t
    | some b => if waitsBefore t b then some t else some b) none

/-- Gives a place of a core's unit to the longest-waiting mmode, when one is free. -/
def grantMatrix (s : State) (core : Nat) : State :=
  if 2 ≤ (holders s core).length then s
  else
    match nextWaiter s core with
    | none => s
    | some t => updThread { s with granted := s.granted ++ [(core, t.uid)] } t.uid fun x => { x with mwait := 0 }

/-- The thread takes matrix mode: it holds it from here on (R301). -/
def takeMode (ty : Nat) (s : State) : Res :=
  (post (.mmode ty) s).map fun a => a.updT fun t => { t with mchk := some (MatCheck.start ty), mwait := 0 }

/-- `mmode.ty` (R301): waits at vcommit for a place of the unit. -/
def execMmode (o : WX) (s : State) : Host.Outcome State Fault Refusal :=
  matrixOp [] (fun s =>
    let ty := o.ty.toNat
    if s.t.mchk.isSome then takeMode ty (drainMatrix s)
    else
      let s1 := if s.t.mexiting then drainMatrix s else s
      if (holders s1 s1.t.core).contains s1.t.uid then takeMode ty s1
      else
        let s2 := if s1.t.mwait = 0 then s1.updT fun t => { t with mwait := s1.cycle + 1 } else s1
        let s3 := grantMatrix s2 s2.t.core
        if (holders s3 s3.t.core).contains s3.t.uid then takeMode ty s3 else .stall s3) s

/-- MMODE_GRANT (R301). -/
def execMmodeGrant (core : Nat) (s : State) : Host.Outcome State Fault Refusal := happening (grantMatrix s core)

/-- `mexit` (R302): without matrix mode it has no effect. -/
def execMexit (_o : WX) (s : State) : Host.Outcome State Fault Refusal :=
  matrixOp [] (fun s =>
    if s.t.mchk.isNone then .ok s
    else (post .mexit s).map fun a => a.updT fun t => { t with mchk := none, mexiting := true }) s

/-- MATRIX_QUEUE_COMPLETE (R80, R298): the oldest posted instruction of the current thread completes. -/
def execMatrixQueueComplete (s : State) : Host.Outcome State Fault Refusal := happening (matrixStep s)

/-! ## Tiles (R303 to R306) -/

/-- R303's limits on a shape. -/
def shapeOk (ty nr nc : Nat) : Bool := decide (1 ≤ nr ∧ nr ≤ 64 ∧ 1 ≤ nc ∧ nc ≤ 64 ∧ nr * nc * tileWidth ty ≤ 65536)

/-- Sets a tile's configuration for the checks of younger instructions. -/
def setTileCheck (s : State) (ta : Nat) (sh : Option TileShape) : State :=
  s.updT fun t => { t with mchk := t.mchk.map fun c => { c with tiles := c.tiles.setIfInBounds ta sh } }

/-- `tcfg.ty ta, sk` (R304). -/
def execTcfg (o : WX) (s : State) : Host.Outcome State Fault Refusal :=
  heldOp [o.sk] (fun _ s =>
    let g := getS s o.sk
    let nr := (g.extractLsb' 0 7).toNat
    let nc := (g.extractLsb' 8 7).toNat
    if g.getLsbD 7 ∨ g.extractLsb' 15 49 ≠ 0 ∨ modeTy o.ty.toNat = false ∨ shapeOk o.ty.toNat nr nc = false then illegalWith g s
    else
      let sh : TileShape := { ty := o.ty.toNat, nr := nr, nc := nc }
      (post (.tcfg o.ta.toNat sh) s).map fun a => setTileCheck a o.ta.toNat (some sh)) s

/-- `trel ta` (R304). -/
def execTrel (o : WX) (s : State) : Host.Outcome State Fault Refusal :=
  heldOp [] (fun _ s => (post (.trel o.ta.toNat) s).map fun a => setTileCheck a o.ta.toNat none) s

/-- Whether vector elements of a type convert into or out of a tile's type (R305, R306). -/
def tileTypeOk (tile ty : Nat) : Bool := if isBfp tile then ty == tile else decide (0x08 ≤ ty ∧ ty ≤ 0x0D)

/-- `tmvr.ty ta, vs, sk` (R305). -/
def execTmvr (o : WX) (s : State) : Host.Outcome State Fault Refusal :=
  tileOp o.ta.toNat [o.sk] (fun sh s =>
    let r := getS s o.sk
    if sh.nr ≤ r.toNat then illegalWith r s
    else if tileTypeOk sh.ty o.ty.toNat = false then illegal s
    else
      vecFrame .whole [o.vs.toNat] [] none (fun _ _ => false) (fun s =>
        post (.tmvr o.ta.toNat o.ty.toNat r.toNat s.t.ctl.vl (getV s o.vs.toNat) (frmMode s) (vtSat s)) s) s) s

/-- `tmvc.ty vd, ta, sk` (R306). -/
def execTmvc (o : WX) (s : State) : Host.Outcome State Fault Refusal :=
  tileOp o.ta.toNat [o.sk] (fun sh s =>
    let c := getS s o.sk
    if sh.nc ≤ c.toNat then illegalWith c s
    else if tileTypeOk sh.ty o.ty.toNat = false ∨ 8192 / typeWidth o.ty.toNat < sh.nr then illegal s
    else
      postWrite (.tmvc o.vs.toNat o.ta.toNat o.ty.toNat c.toNat (frmMode s) (vtSat s) (vtTp s)) o.vs.toNat sh.nr s) s

/-! ## Tile loads and stores (R307, R308) -/

/-- The bytes of a tile row in memory or a folio. -/
def rowSize (sh : TileShape) : Nat :=
  if isBfp sh.ty then 32 * (sh.ty - 0x10 + 2) else sh.nc * tileWidth sh.ty / 8

/-- The row stride: sb's value read signed, or the row size when it is s0. -/
def rowStride (s : State) (r : BitVec 5) (sh : TileShape) : Int :=
  if r = 0 then (rowSize sh : Int) else (getS s r).toInt

/-- The checks of a folio reference by a tile load or an accumulator spill or fill (R307, R315): `sp` tells the spaces admitted;
rows at offsets d + r × st of `n` bytes; alignment `al`; `rd` when the bytes are read. -/
def folioRows (a : Word) (sp : Nat → Bool) (rows n al : Nat) (st : Int) (rd : Bool) (f : FolioEntry → Nat → State → Res)
    (s : State) : Res :=
  let d := (a.extractLsb' 0 22).toNat
  let h := (a.extractLsb' 22 4).toNat
  if a.extractLsb' 26 38 ≠ 0 then .trap { cls := 0x04, tval := a, telem := 0, va := false } s
  else
    match nameFolio s h with
    | .unbound => .trap (unboundTrap h 0) s
    | .filling => .stall s
    | .ready e =>
      let off := fun (r : Nat) => (d : Int) + (r : Int) * st
      let trapAt := fun (cls r : Nat) => ({ cls := cls, tval := BitVec.ofInt 64 (off r), telem := r, va := false } : Trap)
      if sp e.space = false then illegal s
      else
        match (List.range rows).find? fun r => decide (off r < 0 ∨ (e.size : Int) < off r + n) with
        | some r => .trap (trapAt 0x04 r) s
        | none =>
          if d % al ≠ 0 ∨ st % (al : Int) ≠ 0 then
            .trap { cls := 0x03, tval := BitVec.ofNat 64 d, telem := 0, va := false } s
          else
            match (if rd then (List.range rows).find? fun r => poisoned s (e.key (off r).toNat) n else none) with
            | some r => .trap (trapAt 0x0E r) s
            | none => f e d s

/-- `tld.ty ta, sk, vs` (R307). -/
def execTld (o : WX) (s : State) : Host.Outcome State Fault Refusal :=
  tileOp o.ta.toNat [o.sk, o.vs] (fun sh s =>
    if o.ty.toNat ≠ sh.ty then illegal s
    else
      let st := rowStride s o.vs sh
      let al := if isBfp sh.ty then rowSize sh else tileWidth sh.ty / 8
      folioRows (getS s o.sk) (fun sp => sp != 2) sh.nr (rowSize sh) al st true
        (fun e d s => post (.tld o.ta.toNat (e.key d) st) s) s) s

/-- The bytes of the rows of a tile store, checked as stores, a row at a time (R308). -/
def storeRows (a : Word) (st : Int) (n : Nat) : List Nat → State → Got (List (List (Nat × Nat)))
  | [], s => .ok [] s
  | r :: rs, s =>
    match checkStores r (byteAddrs (a + BitVec.ofInt 64 ((r : Int) * st)) n) s with
    | .bad t s1 => .bad t s1
    | .ok ks s1 =>
      match storeRows a st n rs s1 with
      | .bad t s2 => .bad t s2
      | .ok l s2 => .ok (ks.map (fun k => (k, 1)) :: l) s2

/-- `tst.ty ta, sk, vs` (R308). -/
def execTst (o : WX) (s : State) : Host.Outcome State Fault Refusal :=
  tileOp o.ta.toNat [o.sk, o.vs] (fun sh s =>
    if o.ty.toNat ≠ sh.ty then illegal s
    else
      match storeRows (getS s o.sk) (rowStride s o.vs sh) (rowSize sh) (List.range sh.nr) s with
      | .bad t s1 => .trap t s1
      | .ok rows s1 => post (.tst o.ta.toNat rows) s1) s

/-! ## Outer products (R309 to R312) -/

/-- The checks of an outer product (R309), then its posting; `mask` is mopsp's. -/
def outerProduct (o : WX) (neg sparse : Bool) (s : State) : Host.Outcome State Fault Refusal :=
  heldOp [] (fun c s =>
    let ty := o.ty.toNat
    match c.tiles.getD o.ta.toNat none, c.tiles.getD o.tb.toNat none with
    | some a, some b =>
      let n := mvlOf c.mtype
      let k := b.nr
      let mask := (getM s o.msk.toNat).toNat
      let cnt := ((List.range k).filter fun i => mask.testBit i).length
      if ty ≠ c.mtype ∨ a.ty ≠ ty ∨ b.ty ≠ ty ∨ n < a.nr ∨ n < b.nc then illegal s
      else if sparse = false ∧ a.nc ≠ k then illegalWith (BitVec.ofNat 64 a.nc) s
      else if isBfp ty ∧ k ≠ 16 then illegalWith (BitVec.ofNat 64 k) s
      else if sparse ∧ cnt ≠ 0 ∧ a.nc ≠ cnt then illegalWith (BitVec.ofNat 64 cnt) s
      else
        let e := fun (r : BitVec 5) => if isBfp ty then getE s r.toNat else 0
        post (.mop o.ad.toNat o.ta.toNat o.tb.toNat neg (if sparse then some (mask % 2 ^ k) else none) (e o.sk) (e o.vs)
          (frmMode s)) s
    | _, _ => illegal s) s

/-- `mop.ty ad, ta, tb` (R309). -/
def execMop (o : WX) (s : State) := outerProduct o false false s

/-- `mopsp.ty ad, ta, tb ?mk` (R309, R312). -/
def execMopsp (o : WX) (s : State) := outerProduct o false true s

/-- `mopneg.ty ad, ta, tb` (R309). -/
def execMopneg (o : WX) (s : State) := outerProduct o true false s

/-! ## Accumulators (R313 to R315) -/

/-- The checks of accmv and acc.peek (R313): the row, and mvl. -/
def accRow (o : WX) (f : Nat → Nat → State → Res) (s : State) : Host.Outcome State Fault Refusal :=
  heldOp [o.sk] (fun c s =>
    let r := getS s o.sk
    let n := mvlOf c.mtype
    if n ≤ r.toNat then illegalWith r s
    else if o.ty.toNat < 0x0A ∨ 0x0D < o.ty.toNat ∨ 8192 / typeWidth o.ty.toNat < n then illegal s
    else f r.toNat n s) s

/-- `accmv.ty vd, ad, sk` (R313). -/
def execAccmv (o : WX) (s : State) : Host.Outcome State Fault Refusal :=
  accRow o (fun r n s =>
    postWrite (.accmv o.vs.toNat o.ad.toNat o.ty.toNat r (frmMode s) (vtSat s) (vtTp s)) o.vs.toNat n s) s

/-- The posted instructions in queue order, each with the state in which the queue reaches it. -/
def queueStates : Nat → State → List (MatOp × State)
  | 0, _ => []
  | n + 1, s =>
    match s.t.mq with
    | [] => []
    | op :: _ => (op, s) :: queueStates n (matrixStep s)

/-- The values that cell (i, j) of an accumulator takes, one per step of a posted instruction (R314). -/
def cellSteps (ad i j : Nat) (p : MatOp × State) : List Nat :=
  match p.2.t.munit with
  | none => []
  | some u =>
    match p.1 with
    | .mop a ta tb neg mask ea eb frm =>
      if a ≠ ad then []
      else
        match u.tiles.getD ta none, u.tiles.getD tb none with
        | some x, some y => (mopCell u x y neg mask ea eb frm i j (u.cell ad i j)).map Prod.fst
        | _, _ => []
    | .acczero a => if a = ad then [0] else []
    | .accfl a _ =>
      if a = ad then ((matrixStep p.2).t.munit.map fun v => v.cell ad i j).toList else []
    | .mmode _ | .mexit | .tcfg .. | .trel _ | .tmvr .. | .tmvc .. | .tld .. | .tst .. | .accmv .. | .accsp .. => []

/-- The queue completes every older mmode (R314). -/
def passModes : Nat → State → State
  | 0, s => s
  | n + 1, s =>
    if s.t.mq.any fun op => match op with
        | .mmode _ => true
        | _ => false then passModes n (matrixStep s) else s

/-- The cell's floor: the steps an earlier acc.peek has shown (R314). -/
def floorKey (ad i j : Nat) : Nat := ad * 4096 + i * 64 + j

/-- What acc.peek reads of cell (i, j): a freely chosen prefix of the steps, no shorter than those complete or shown before; its
value, and its length (log 7). -/
def peekCell (s : State) (u : MatUnit) (q : List (MatOp × State)) (ad i j : Nat) : Nat × Nat :=
  let vals := u.cell ad i j :: (q.map (cellSteps ad i j)).flatten
  let base := u.steps.getD ad 0
  let low := min ((assoc s.t.floors (floorKey ad i j)).getD 0 - base) (vals.length - 1)
  let k := low + Config.freeNat (s.fresh + j) % (vals.length - low)
  (vals.getD k 0, base + k)

/-- `acc.peek.ty vd, ad, sk` (R314). -/
def execAccPeek (o : WX) (s : State) : Host.Outcome State Fault Refusal :=
  accRow o (fun r n s =>
    let vd := o.vs.toNat
    vecFrame .whole [] [vd] none (fun _ i => decide (i < n)) (fun s2 =>
      match s2.t.munit with
      | none => illegal s2
      | some u =>
        let ad := o.ad.toNat
        let q := queueStates s2.t.mq.length s2
        let cells := (List.range n).map fun j => peekCell s2 u q ad r j
        let cv := fun (j : Nat) => convertElem o.ty.toNat (cellTy u.mtype) (frmMode s2) (vtSat s2) (cells.getD j (0, 0)).1
        let fl := (List.range n).foldl (fun a j => a ||| (cv j).2) (0 : Fl)
        let s3 := raise (writeRow { s2 with fresh := s2.fresh + n } vd o.ty.toNat n (vtTp s2) fun j => (cv j).1) fl
        let shown := cells.mapIdx fun j c => (floorKey ad r j, c.2)
        .ok (s3.updT fun t => { t with floors := shown ++ t.floors.filter fun f => !(shown.any fun x => x.1 == f.1) }))
      (passModes s.t.mq.length s)) s

/-- `acczero ad` (R315). -/
def execAcczero (o : WX) (s : State) : Host.Outcome State Fault Refusal :=
  heldOp [] (fun _ s => post (.acczero o.ad.toNat) s) s

/-- The folio of an accumulator spill or fill (R315). -/
def accFolio (o : WX) (rd : Bool) (f : FolioEntry → Nat → State → Res) (s : State) : Host.Outcome State Fault Refusal :=
  heldOp [o.sk] (fun c s =>
    let n := mvlOf c.mtype
    let cb := typeWidth (cellTy c.mtype) / 8
    folioRows (getS s o.sk) (fun sp => sp == 2) n (n * cb) cb (n * cb : Nat) rd f s) s

/-- `accsp ad, sk` (R315). -/
def execAccsp (o : WX) (s : State) : Host.Outcome State Fault Refusal :=
  accFolio o false (fun e d s => post (.accsp o.ad.toNat (e.key d) e.index) s) s

/-- `accfl ad, sk` (R315). -/
def execAccfl (o : WX) (s : State) : Host.Outcome State Fault Refusal :=
  accFolio o true (fun e d s => post (.accfl o.ad.toNat (e.key d)) s) s

end Sys2Proof.Machine
end

