-- ==== Sys2Proof/Machine/Pages.lean ====
section
/-! DEFINITION. What moves under the feet of translation: shootdowns, die-cache evictions, page migration (R158, R159, R366, R397),
and the arbitration of the shared paths (R27). -/

namespace Sys2Proof.Machine

/-- Removes a partition's translations by a package's tables from every TLB (R158). -/
def shootdown (s : State) (part pkg : Nat) : State :=
  { s with tlbs := s.tlbs.map fun t => { t with entries := t.entries.filter fun e => !(e.part == part && e.pkg == pkg) } }

/-- TLB_SHOOTDOWN (R158). -/
def execTlbShootdown (part pkg : Nat) (s : State) : Host.Outcome State Fault Refusal := happening (shootdown s part pkg)

/-- DIE_CACHE_EVICT (R159, R366). -/
def execDieCacheEvict (die line : Nat) (s : State) : Host.Outcome State Fault Refusal := happening (evictLine s die line)

/-! ## Page migration (R397) -/

/-- The leaf that maps an address: the address of its entry, the entry, its page's first byte and its size. -/
def leafOf (s : State) (part pkg : Nat) (va : Word) : Option (Nat × Nat × Nat × Nat) :=
  match walk s part pkg (va.toNat % 2 ^ 57) with
  | .leaf at_ e l => some (at_, e, field e 51 16 * 2 ^ 16, 2 ^ levelShift l)
  | .pageFault | .protection => none

/-- Whether a page holds some block of a master (R400). -/
def holdsMaster (s : State) (old size : Nat) : Bool :=
  s.masters.any fun m => m.blockPa.any fun b => decide (old ≤ b ∧ b < old + size)

/-- A place that a page of a partition can move to on a package: one where Horsil could map it, and for a master's page, in HBM (R400).
Catalogue records stay where they are (R318). -/
def moveOk (s : State) (part pkg va newPa size old : Nat) (write : Bool) : Bool :=
  decide (newPa < 2 ^ 52) && decide (newPa + size ≤ old ∨ old + size ≤ newPa) &&
    (!(holdsMaster s old size) || field newPa 43 42 == 0) &&
    match partOf s part with
    | some p => frameOk s p pkg va newPa size write && !holdsCatalogue p old size
    | none => false

/-- PAGE_MIGRATION: the engine begins to send the page's blocks, or sends again those written back meanwhile; every access is
still served at the old place. -/
def execPageMigration (part pkg : Nat) (va : Word) (newPa : Nat) (s : State) : Host.Outcome State Fault Refusal :=
  match leafOf s part pkg va with
  | none => happening s
  | some (_, e, old, size) =>
    let page := BitVec.ofNat 64 (va.toNat / size * size)
    if moveOk s part pkg (page.toNat % 2 ^ 57) newPa size old (field e 3 3 == 1) = false ∨ s.moves.any (fun m => m.part == part && m.pkg == pkg && m.va == page) then happening s
    else happening { s with moves := s.moves ++ [{ part := part, pkg := pkg, va := page, newPa := newPa }] }

/-- A page's move in keys: first byte, new first byte, size. -/
structure Shift where
  old : Nat
  new : Nat
  size : Nat
  deriving DecidableEq, Repr

/-- Whether a key lies in the page, or at its new place. -/
def Shift.inOld (m : Shift) (k : Nat) : Bool := decide (m.old ≤ k ∧ k < m.old + m.size)
def Shift.inNew (m : Shift) (k : Nat) : Bool := decide (m.new ≤ k ∧ k < m.new + m.size)

/-- A key after the move. -/
def Shift.key (m : Shift) (k : Nat) : Nat := if m.inOld k then k - m.old + m.new else k

/-- Bytes after the move: the page stands at its new place, over what that place held. -/
def Shift.bytes (m : Shift) (mem : Memory) : Memory :=
  (mem.filter fun c => m.inOld c.1).foldl (fun a c => a.write (m.key c.1) c.2) (mem.filter fun c => !m.inNew c.1)

/-- Places in the coherence order after the move. -/
def Shift.seqs (m : Shift) (q : SeqMap) : SeqMap :=
  (q.filter fun c => m.inOld c.1).foldl (fun a c => a.set (m.key c.1) c.2) (q.filter fun c => !m.inNew c.1)

/-- A byte with its place in the coherence order, after the move. -/
def Shift.carry (m : Shift) (b : Nat × Nat × Byte) : Nat × Nat × Byte := (m.key b.1, b.2)

/-- A thread's view of memory after the move. -/
def Shift.thread (m : Shift) (t : Thread) : Thread :=
  { t with
    snap := m.bytes t.snap
    snapSeq := m.seqs t.snapSeq
    own := t.own.map fun o => { o with key := m.key o.key, unit := m.key o.unit } }

/-- A block of a per-die view belongs to the home die of its master block (R401, R405). -/
def resettle (s : State) (v : View) : View :=
  match masterOf s v with
  | none => v
  | some m =>
    if v.shard ≠ 0 then v
    else
      let at_ := fun (b : Block) (pa : Nat) => { b with die := m.pkg * 8 + homeDie pa }
      { v with copies := v.copies.map fun c => { c with blocks := (c.blocks.zip m.blockPa).map fun p => at_ p.1 p.2 } }

/-- Every key of the machine after the move. -/
def Shift.state (m : Shift) (s : State) : State :=
  let narrow := fun (n : Narrow) => { n with key := m.key n.key, unit := m.key n.unit }
  let zblock := fun (z : ZBlock) => { z with block := m.key (z.block * 4096) / 4096 }
  let carried := fun (c : Carried) => { c with barrier := m.key c.barrier, bytes := c.bytes.map m.carry }
  let cmd := fun (c : Cmd) => { c with carry := c.carry.map m.carry }
  let folio := fun (e : FolioEntry) => { e with pages := e.pages.map m.key }
  let master := fun (x : Master) => { x with blockPa := x.blockPa.map m.key }
  let cont := fun (c : Cont) => { c with th := m.thread c.th }
  let saved := fun (v : Saved) => { v with th := m.thread v.th }
  let s1 := { s with
    t := m.thread s.t
    parked := s.parked.map m.thread
    conts := s.conts.map cont
    saved := s.saved.map saved
    home := m.bytes s.home
    homeSeq := m.seqs s.homeSeq
    narrow := s.narrow.map narrow
    poison := (s.poison.filter (fun k => !m.inNew k)).map m.key
    zblocks := (s.zblocks.filter (fun (z : ZBlock) => !m.inNew (z.block * 4096))).map zblock
    zpages := (s.zpages.filter (fun (p : Nat × Nat × Bool) => !m.inNew p.1)).map (fun (p : Nat × Nat × Bool) => (m.key p.1, p.2))
    carried := s.carried.map carried
    phases := s.phases.map (fun (p : PhaseCount) => (m.key p.1, p.2))
    flips := s.flips.map (fun (p : Nat × Nat) => (m.key p.1, p.2))
    cmds := s.cmds.map cmd
    folios := s.folios.map folio
    masters := s.masters.map master }
  { s1 with views := s1.views.map (resettle s1) }

/-- Accesses already translated to the old place are performed there first: the matrix queues of every thread run dry. -/
def settleAll (s : State) : State :=
  ((allThreads s).filter fun t => !t.mq.isEmpty).foldl (fun a t => asThread a t.uid drainMatrix) s

/-- The leaf of a page moved to a new place. -/
def movedLeaf (e newPa : Nat) : Nat := e - field e 51 16 * 2 ^ 16 + field newPa 51 16 * 2 ^ 16

/-- PAGE_SWITCH: every block is current at the new place; the leaf is rewritten and a shootdown completes the switch. A move to a place
that the page may no longer take, as a page that has become a master's may not leave the stacks (R400), is given up. -/
def execPageSwitch (part pkg : Nat) (va : Word) (s : State) : Host.Outcome State Fault Refusal :=
  match leafOf s part pkg va with
  | none => happening s
  | some (at_, e, old, size) =>
    match s.moves.find? fun m => m.part == part && m.pkg == pkg && m.va.toNat == va.toNat / size * size with
    | none => happening s
    | some mv =>
      let s0 := { s with moves := s.moves.erase mv }
      if moveOk s0 part pkg (mv.va.toNat % 2 ^ 57) mv.newPa size old (field e 3 3 == 1) = false then happening s0
      else
        let m : Shift := { old := old, new := mv.newPa, size := size }
        let s1 := m.state (settleAll s0)
        let s2 := hardWrite s1 (m.key at_) (natLe 8 (movedLeaf e mv.newPa))
        happening (shootdown (cxlGiven s2 part mv.newPa size) part pkg)

/-! ## Shared paths (R26, R27) -/

/-- One partition's share of a path in a cycle, in units of 1/64 of its capacity: number, demand, reservation, grant. -/
structure PathShare where
  part : Nat
  demand : Nat
  units : Nat
  got : Nat
  deriving DecidableEq, Repr

def PathShare.hungry (x : PathShare) : Bool := decide (x.got < x.demand)

/-- Whether the next unit goes to `a` rather than `b`: the one with less beyond its reservation, in proportion to it. -/
def PathShare.behind (a b : PathShare) : Bool :=
  decide ((a.got - a.units + 1) * b.units < (b.got - b.units + 1) * a.units)

/-- Hands out what is left, unit by unit, among the shares that `p` admits. -/
def shareOut (p : PathShare → Bool) (better : PathShare → PathShare → Bool) : Nat → List PathShare → List PathShare × Nat
  | 0, l => (l, 0)
  | n + 1, l =>
    let pick := (l.filter fun x => p x && x.hungry).foldl (fun (a : Option PathShare) x => match a with
      | none => some x
      | some y => if better x y then some x else some y) none
    match pick with
    | none => (l, n + 1)
    | some x => shareOut p better n (updWhere l (fun y => y.part == x.part) fun y => { y with got := y.got + 1 })

/-- R27's three steps on the demands of a path. -/
def arbitrate (l : List PathShare) : List PathShare :=
  let l1 := l.map fun x => { x with got := min x.demand x.units }
  let left := 64 - l1.foldl (fun a x => a + x.got) 0
  let r2 := shareOut (fun x => decide (0 < x.units)) PathShare.behind left l1
  (shareOut (fun x => x.units == 0) (fun a b => decide (a.got < b.got)) r2.2 r2.1).1

/-- PATH_ARBITRATION (R27): what each partition gets on a path in a cycle. -/
def execPathArbitration (path : Path) (demands : List (Nat × Nat)) (s : State) : Host.Outcome State Fault Refusal :=
  let units := fun (part : Nat) => ((partOf s part).map fun p => unitsOn p path).getD 0
  let l := arbitrate (demands.map fun d => { part := d.1, demand := d.2, units := units d.1, got := 0 })
  happening { s with arbiter := (path, l.map fun x => (x.part, x.got)) :: s.arbiter.filter fun a => a.1 != path }

end Sys2Proof.Machine
end

