-- ==== Sys2Proof/Machine/Services.lean ====
section
/-! DEFINITION. Horsil's services (R193, R461 to R463, R466) and svc. -/

namespace Sys2Proof.Machine

/-- What a service answers: its status, its result (none where the spec states none), and the state it leaves. -/
structure Answer where
  status : Nat
  result : Option Word
  s : State

/-- The statuses of R463. -/
def okay (r : Option Word) (s : State) : Answer := { status := 0, result := r, s := s }
def badCall (s : State) : Answer := { status := 2, result := none, s := s }
def noSpace (s : State) : Answer := { status := 3, result := none, s := s }
def refusedCall (r : Option Word) (s : State) : Answer := { status := 4, result := r, s := s }
def deniedCall (s : State) : Answer := { status := 5, result := none, s := s }

/-- Whether a partition exists and has not ended. -/
def partLives (s : State) (part : Nat) : Bool :=
  match partOf s part with
  | some p => !p.ended
  | none => false

/-- The way into memory of Horsil on behalf of a partition: by the TLB and cache of the die on which the control core lies that made the
call, for a svc the first of the thread's die (R20; log 33, DESIGN CHOICE: the spec does not say which control core serves a call). -/
def Call.who (c : Call) : Who := { part := c.part, pkg := c.pkg, core := none, die := c.pkg * 8 + c.core % 16 / 2 }

/-! ## Version, launch, wait -/

/-- Service 0x0000. -/
def versionService (_c : Call) (s : State) : Answer := okay (some Config.horsilRelease) s

/-- What every die of a partition reads of a packet, by its own package's tables (R64, R155). -/
def readCopies (part : Nat) (h : List Word) (dies : List Nat) (s : State) : List (Nat × Option Packet) × State :=
  dies.foldl (fun a d =>
    let r := readPacket { part := part, pkg := d / 8, core := none, die := d } h a.2
    (a.1 ++ [(d, r.1)], r.2)) ([], s)

/-- The lowest result number among the checks that the dies find broken (R66, R463); 8 for none. -/
def copiesResult (part : Nat) (copies : List (Nat × Option Packet)) (s : State) : Nat :=
  copies.foldl (fun m x =>
    min m ((packetResult s { part := part, pkg := x.1 / 8, core := none, die := x.1 } x.2).getD 8)) 8

/-- Service 0x0001 (R64 to R68): Horsil reads the header and sends it to every die, each die checks its package's copy of the rest; the
lowest result number refuses it. A partition that is ending refuses it (R468). -/
def launchService (c : Call) (s : State) : Answer :=
  match partOf s c.part with
  | none => deniedCall s
  | some p =>
    if p.ended then refusedCall none s
    else
      match hardRead (Call.who c) c.a0 64 s with
      | (none, s1) => refusedCall (some 1) s1
      | (some hb, s1) =>
        let h := wordsOf 8 hb
        let r := readCopies c.part h (dieList p) s1
        let worst := if queueOk r.2 (Call.who c) (h.getD 5 0) then copiesResult c.part r.1 r.2 else 1
        if worst < 8 then refusedCall (some (BitVec.ofNat 64 worst)) r.2
        else
          okay (some (BitVec.ofNat 64 r.2.nextLaunch))
            (acceptLaunch c.part c.pkg h (r.1.filterMap fun x => x.2.map fun k => (x.1, k)) r.2)

/-- Service 0x0002: none while the launch is in progress. -/
def waitService (c : Call) (s : State) : Option Answer :=
  match launchOf s c.a0.toNat with
  | none => some (badCall s)
  | some l => if l.part ≠ c.part then some (badCall s) else if launchOver l then some (okay none s) else none

/-! ## Pools (R414) -/

/-- A shelf with nothing in it. -/
def Shelf.start (die : Nat) : Shelf :=
  let m : Summary := { count := 0, pseq := 0, lowest := [] }
  { die := die, elems := [], puts := [], pseq := 0, accepted := 0, now := m, before := m, takes := 0 }

/-- Service 0x0010: number, CAP, S (0 for the default). -/
def poolCreateService (c : Call) (s : State) : Answer :=
  match partOf s c.part with
  | none => deniedCall s
  | some p =>
    let num := c.a0.toNat
    let cap := c.a1.toNat
    let lim := if c.a2 = 0 then 4096 else c.a2.toNat
    let dies := (dieList p).filter fun d => d / 8 == c.pkg
    if 255 < num ∨ (poolOf s c.part num).isSome ∨ cap = 0 ∨ 2 ^ 32 < cap ∨ lim < 64 ∨ 2 ^ 24 < lim ∨ dies.isEmpty then badCall s
    else
      let q : Pool :=
        { part := c.part, num := num, cap := cap, limit := lim, pkg := c.pkg, closed := false, shelves := dies.map Shelf.start,
          moving := [], takes := [], waiters := [], held := false, drainers := [], tcAt := p.tc, emptyRun := false,
          passed := 0 }
      okay none { s with pools := s.pools ++ [q] }

/-- Service 0x0011: the pool goes; takes that wait suspended in it resume as DRAINED. -/
def poolEndService (c : Call) (s : State) : Answer :=
  match poolOf s c.part c.a0.toNat with
  | none => badCall s
  | some p =>
    let s1 := p.waiters.foldl (fun a w => wakeTake a w 0 0 (poolStatus 4 false)) s
    okay none { s1 with pools := s1.pools.filter fun q => !(q.part == p.part && q.num == p.num) }

/-! ## Tethers (R386) -/

/-- The lowest TID from 1 that a partition does not use. -/
def freeTid (s : State) (part : Nat) : Option Nat :=
  (List.range 4096).find? fun i => i != 0 && s.tethers.all fun t =>
    !(t.sender == part && t.senderTid == i) && !(t.receiver == part && t.receiverTid == i)

/-- Service 0x0020: peer, size of the window, direction (0: the caller sends, 1: the caller receives). Horsil brings the place of
the window, package and address in the receiving partition's memory. -/
def tetherGrantService (c : Call) (s : State) : Answer :=
  let peer := c.a0.toNat
  let size := c.a1.toNat
  if partLives s c.part = false then deniedCall s
  else if partLives s peer = false ∨ peer = c.part ∨ size = 0 ∨ 1 < c.a2.toNat then badCall s
  else
    let sender := if c.a2 = 0 then c.part else peer
    let receiver := if c.a2 = 0 then peer else c.part
    let pkg := c.frames.getD 0 0
    let base := c.frames.getD 1 0
    let w : Who := { part := receiver, pkg := pkg, core := none, die := pkg * 8 }
    match freeTid s sender, freeTid s receiver with
    | some a, some b =>
      if rangeMapped s w .store (BitVec.ofNat 64 base) size then
        let t : Tether :=
          { sender := sender, senderTid := a, receiver := receiver, receiverTid := b, pkg := pkg, base := base, size := size,
            revoked := false, ended := false }
        okay (some (BitVec.ofNat 64 (if c.a2 = 0 then a else b))) { s with tethers := s.tethers ++ [t] }
      else noSpace s
    | _, _ => noSpace s

/-- Service 0x0021: accepted puts complete, later ones are refused. -/
def tetherRevokeService (c : Call) (s : State) : Answer :=
  let tid := c.a0.toNat
  let mine := fun (t : Tether) =>
    !t.revoked && ((t.sender == c.part && t.senderTid == tid) || (t.receiver == c.part && t.receiverTid == tid))
  if s.tethers.any mine then okay none (settleViews { s with tethers := updWhere s.tethers mine fun t => { t with revoked := true } })
  else badCall s

/-! ## Mapping (R155 to R158, R378) -/

/-- The 64 KiB pages of a range. -/
def rangePages (va : Word) (n : Nat) : List Nat := (List.range (n / 2 ^ 16)).map fun i => va.toNat % 2 ^ 57 + 2 ^ 16 * i

/-- A range of whole pages. -/
def pagesOk (va : Word) (n : Nat) : Bool :=
  canonical va && va.toNat % 2 ^ 16 == 0 && n % 2 ^ 16 == 0 && n != 0 && decide (va.toNat % 2 ^ 57 + n ≤ 2 ^ 57)

/-- A range touches the completion queue of a launch in progress (R378). -/
def touchesQueue (s : State) (c : Call) (n : Nat) : Bool :=
  s.launches.any fun l => l.part == c.part && l.cqPkg == c.pkg && !launchOver l && (match cqHead s l with
    | some (h, _) => bytesMeet c.a0 n l.cq (64 + 32 * h.nslot)
    | none => false)

/-- The leaf entry of a frame with rights (bit 0 R, bit 1 W, bit 2 X, bit 3 Z). -/
def leafWord (frame rights : Nat) : Word :=
  BitVec.ofNat 64 (frame / 2 ^ 16 * 2 ^ 16 + field rights 3 3 * 2 ^ 7 + field rights 2 2 * 2 ^ 4 + field rights 1 1 * 2 ^ 3 +
    field rights 0 0 * 2 ^ 2 + 3)

/-- Rights that a leaf can give (R157). -/
def rightsOk (r : Nat) : Bool :=
  decide (r < 16) && field r 2 0 != 0 && !(field r 2 2 == 1 && field r 1 1 == 1) && !(field r 1 1 == 1 && field r 0 0 == 0)

/-- Whether frames can hold the pages of a partition on a package in a region (R152, R153, R318). -/
def framesOk (s : State) (c : Call) (pages : List Nat) (region : Nat) (write : Bool) : Bool :=
  match partOf s c.part with
  | none => false
  | some p => (pages.zip c.frames).all fun x => frameOk s p c.pkg x.1 x.2 (2 ^ 16) write && field x.2 43 42 == region

/-- Service 0x0030: address, size, rights, region (as REG of R153). Horsil brings a frame for each page and frames for tables;
where they do not suffice it answers NOSPACE and maps nothing. -/
def mapService (c : Call) (s : State) : Answer :=
  let n := c.a1.toNat
  let r := c.a2.toNat
  let pages := rangePages c.a0 n
  if partLives s c.part = false then deniedCall s
  else if pagesOk c.a0 n = false ∨ rightsOk r = false ∨ 2 < c.a3.toNat ∨ touchesQueue s c n then badCall s
  else if pages.any fun va => (match walk s c.part c.pkg va with
      | .leaf _ _ _ => true
      | .pageFault | .protection => false) then badCall s
  else if c.frames.length < pages.length ∨ framesOk s c pages c.a3.toNat (field r 1 1 == 1) = false then noSpace s
  else
    let s1 := mapPages c.part c.pkg (fun f => leafWord f r) (pages.zip c.frames) c.tables s
    let placed := (pages.zip c.frames).all fun x => match walk s1 c.part c.pkg x.1 with
      | .leaf _ e _ => field e 51 16 == x.2 / 2 ^ 16
      | .pageFault | .protection => false
    if placed then okay none s1 else noSpace s

/-- Service 0x0031: address, size. A page in use by a larger leaf, or not mapped, makes the range bad. -/
def unmapService (c : Call) (s : State) : Answer :=
  let n := c.a1.toNat
  let pages := rangePages c.a0 n
  let entry := fun (va : Nat) => match walk s c.part c.pkg va with
    | .leaf at_ _ 0 => some at_
    | .leaf _ _ _ | .pageFault | .protection => none
  if partLives s c.part = false then deniedCall s
  else if pagesOk c.a0 n = false ∨ touchesQueue s c n ∨ (pages.any fun va => (entry va).isNone) then badCall s
  else
    let s1 := (pages.filterMap entry).foldl (fun a at_ => hardWrite a at_ (natLe 8 0)) s
    okay none { s1 with tlbs := s1.tlbs.map fun t => { t with entries := t.entries.filter fun e => !(e.part == c.part && e.pkg == c.pkg) } }

/-! ## Log, quote, keys, boot record -/

/-- Bytes as the current thread reads them, without a fault: none where one cannot be read. -/
def threadRead (va : Word) : Nat → Nat → State → Option (List Byte) × State
  | 0, _, s => (some [], s)
  | n + 1, j, s =>
    match translate s (me s) .load (va + BitVec.ofNat 64 j) with
    | .fault _ s1 => (none, s1)
    | .ok k s1 =>
      let s2 := fillBlock s1 k
      if homeBad s2 k 1 then (none, s2)
      else
        let r := threadRead va n (j + 1) s2
        (r.1.map fun bs => s2.t.readByte k :: bs, r.2)

/-- Service 0x0040: address, length; `own` when a thread asks by svc, whose bytes are read as it reads them. -/
def logService (own : Bool) (c : Call) (s : State) : Answer :=
  if 4096 < c.a1.toNat then badCall s
  else
    match (if own then threadRead c.a0 c.a1.toNat 0 s else hardRead (Call.who c) c.a0 c.a1.toNat s) with
    | (some bs, s1) => okay none { s1 with hlog := s1.hlog ++ bs }
    | (none, s1) => badCall s1

/-- The bytes of a measured log (R464): each entry its register's number and digest. -/
def mlogBytes (l : List (Nat × BitVec 256)) : List Byte := (l.map fun e => natLe 8 e.1 ++ natLe 32 e.2.toNat).flatten

/-- A quote of a package over a nonce (R466). -/
def quoteBytes (pkg : Nat) (nonce : List Byte) (b : Boot) : List Byte :=
  let body := nonce ++ (b.m.toList.map fun x => natLe 32 x.toNat).flatten ++ natLe 8 b.mlog.length ++ mlogBytes b.mlog
  body ++ natLe 64 (Config.sm2Sign pkg body).toNat

/-- Service 0x0050: nonce address, output address; the result is the quote's length. -/
def quoteService (c : Call) (s : State) : Answer :=
  match hardRead (Call.who c) c.a0 32 s with
  | (none, s1) => badCall s1
  | (some nonce, s1) =>
    let q := quoteBytes c.pkg nonce (bootOf s1 c.pkg)
    let r := engineKeys (Call.who c) c.a1 q.length 0 s1
    match r.2.1 with
    | some _ => badCall r.2.2
    | none => okay (some (BitVec.ofNat 64 q.length)) (engineWrite r.2.2 c.pkg (r.1.zip q)).1

/-- Service 0x0060: the certificate at an address, signed by an enrolled key or by the root, enrols its key in one of 64 slots of the package.
The certificate is as long as the bytes that the call brings (log 25, DESIGN CHOICE: the spec gives it no length). -/
def enrolService (c : Call) (s : State) : Answer :=
  match hardRead (Call.who c) c.a0 c.bytes.length s with
  | (none, s1) => badCall s1
  | (some bs, s1) =>
    let keys := (bootOf s1 c.pkg).keys
    match (Config.rootKey :: keys).findSome? fun k => Config.certKey k bs with
    | none => badCall s1
    | some k =>
      if 64 ≤ keys.length then noSpace s1
      else okay (some (BitVec.ofNat 64 keys.length)) (updBoot s1 c.pkg fun b => { b with keys := b.keys ++ [k] })

/-- Service 0x0061: steps that succeeded on an alternative go back to their first choice (R465). -/
def clearService (c : Call) (s : State) : Answer :=
  let first := fun (u : UnitResult) => if u.ok then { u with setting := 0 } else u
  okay none (updBoot s c.pkg fun b => { b with record := b.record.map fun l => l.map fun e => { e with units := e.units.map first } })

/-! ## Calls (R463) -/

/-- The service of a number, `own` when it is asked by svc; none where it waits. -/
def service (own : Bool) (n : Nat) (c : Call) (s : State) : Option Answer :=
  match n with
  | 0x0000 => some (versionService c s)
  | 0x0001 => some (launchService c s)
  | 0x0002 => waitService c s
  | 0x0010 => some (poolCreateService c s)
  | 0x0011 => some (poolEndService c s)
  | 0x0020 => some (tetherGrantService c s)
  | 0x0021 => some (tetherRevokeService c s)
  | 0x0030 => some (mapService c s)
  | 0x0031 => some (unmapService c s)
  | 0x0040 => some (logService own c s)
  | 0x0050 => some (quoteService c s)
  | 0x0060 => some (enrolService c s)
  | 0x0061 => some (clearService c s)
  | _ => some { status := 1, result := some 0, s := s }

/-- Whether the table allows a service from svc. -/
def svcAllowed (n : Nat) : Bool := decide (n ∈ [0x0000, 0x0010, 0x0011, 0x0040])

/-- Whether a number is in the table. -/
def knownService (n : Nat) : Bool :=
  decide (n ∈ [0x0000, 0x0001, 0x0002, 0x0010, 0x0011, 0x0020, 0x0021, 0x0030, 0x0031, 0x0040, 0x0050, 0x0060, 0x0061])

/-- The result register's value: a free value where the spec states none (log 4). -/
def resultWord (a : Answer) : Word := a.result.getD (Config.freeWord a.s.fresh)

/-- A call by a control program or through the mailbox: it is answered once it does not wait. -/
def callService (n : Nat) (c : Call) (s : State) : Host.Outcome State Fault Refusal :=
  match service false n c s with
  | none => goto { s with stalled := true }
  | some a => happening { a.s with replies := a.s.replies ++ [(BitVec.ofNat 64 a.status, resultWord a)], fresh := a.s.fresh + 1 }

/-- `svc #n` (R193, R463): Horsil's service begins when every older instruction of both streams has completed; status in s10,
result in s11. -/
def execSvc (o : QI) (s : State) : Host.Outcome State Fault Refusal :=
  accessOp [] (fun s =>
    if xBusy s then .stall s
    else
      let n := o.imm.toNat
      let s0 := drainMatrix s
      let c : Call :=
        { part := s0.t.part, pkg := pkgOf s0.t.core, core := dieOf s0.t.core % 8 * 2, a0 := getS s0 10, a1 := getS s0 11, a2 := getS s0 12, a3 := getS s0 13,
          frames := [], tables := [], bytes := [] }
      let a := if knownService n && !svcAllowed n then some (deniedCall s0) else service true n c s0
      match a with
      | none => .stall s0
      | some a =>
        let w := resultWord a
        .ok (setS (setS { a.s with fresh := a.s.fresh + 1 } 10 (BitVec.ofNat 64 a.status)) 11 w)) s

def execVersion (c : Call) (s : State) : Host.Outcome State Fault Refusal := callService 0x0000 c s
def execLaunch (c : Call) (s : State) : Host.Outcome State Fault Refusal := callService 0x0001 c s
def execWaitForLaunch (c : Call) (s : State) : Host.Outcome State Fault Refusal := callService 0x0002 c s
def execPoolCreate (c : Call) (s : State) : Host.Outcome State Fault Refusal := callService 0x0010 c s
def execPoolEnd (c : Call) (s : State) : Host.Outcome State Fault Refusal := callService 0x0011 c s
def execTetherGrant (c : Call) (s : State) : Host.Outcome State Fault Refusal := callService 0x0020 c s
def execTetherRevoke (c : Call) (s : State) : Host.Outcome State Fault Refusal := callService 0x0021 c s
def execMapMemory (c : Call) (s : State) : Host.Outcome State Fault Refusal := callService 0x0030 c s
def execUnmap (c : Call) (s : State) : Host.Outcome State Fault Refusal := callService 0x0031 c s
def execLog (c : Call) (s : State) : Host.Outcome State Fault Refusal := callService 0x0040 c s
def execAttestationQuote (c : Call) (s : State) : Host.Outcome State Fault Refusal := callService 0x0050 c s
def execEnrolSigningKey (c : Call) (s : State) : Host.Outcome State Fault Refusal := callService 0x0060 c s
def execClearBootRecordAlternatives (c : Call) (s : State) : Host.Outcome State Fault Refusal := callService 0x0061 c s

/-- A number outside the table answers UNKNOWN with result 0; one of the table is that service. -/
def execUnknownService (n : BitVec 16) (c : Call) (s : State) : Host.Outcome State Fault Refusal := callService n.toNat c s

end Sys2Proof.Machine
end

