-- ==== Sys2Proof/Machine/Codices.lean ====
section
/-! DEFINITION. Codices: their checks, their images and relocations, their load (R96, R456 to R461). -/

namespace Sys2Proof.Machine

/-- Horsil runs on a package from the end of step 8 of its start on (R464). -/
def horsilRuns (s : State) (pkg : Nat) : Bool :=
  let b := bootOf s pkg
  !b.stopped && (!b.running || decide (8 < b.step))

/-- The answer to a request of Horsil that is no numbered service: OK, or another status of R463 with a result. -/
def reply (status : Nat) (result : Word) (s : State) : Host.Outcome State Fault Refusal :=
  happening { s with replies := s.replies ++ [(BitVec.ofNat 64 status, result)] }

/-! ## The file (R456) -/

def sectionsOf (f : CodexFile) (kind : Nat) : List CodexSection := f.sections.filter fun x => x.kind == kind
def hasSection (f : CodexFile) (kind : Nat) : Bool := f.sections.any fun x => x.kind == kind

/-- `n` bytes of a byte string from a place on. -/
def slice (l : List Byte) (at_ n : Nat) : List Byte := (l.drop at_).take n

/-- The bytes of a file's section of a kind; none of them where it has none. -/
def sectionBytes (f : CodexFile) (kind : Nat) : List Byte := ((sectionsOf f kind).map fun x => slice f.bytes x.offset x.size).flatten

/-- The place of a file's signature, its last 64 bytes. -/
def signatureAt (f : CodexFile) : Nat := ((sectionsOf f 8).map CodexSection.offset).headD f.bytes.length

/-- The bytes that the signature is over: every byte before it. -/
def signedBytes (f : CodexFile) : List Byte := f.bytes.take (signatureAt f)

/-- The pages of 64 KiB of a section. -/
def sectionPages (f : CodexFile) (kind : Nat) : Nat := ((sectionBytes f kind).length + 2 ^ 16 - 1) / 2 ^ 16

/-- The sections lie one after the other behind the header of 64 bytes and the directory, each aligned and within the file. -/
def laidOut (size : Nat) : Nat → List CodexSection → Bool
  | _, [] => true
  | at_, x :: r => decide (at_ ≤ x.offset) && x.offset % 64 == 0 && decide (x.offset + x.size ≤ size) && laidOut size (x.offset + x.size) r

/-- The hash of a page of the data image is the one that the file gives, behind those of the code pages (log 27, DEDUCED: R456 makes a bad hash
section refuse the load; a code page is checked on its first use). -/
def dataHashesOk (f : CodexFile) : Bool :=
  let d := sectionBytes f 3
  let h := (sectionBytes f 7).drop (32 * sectionPages f 2)
  !hasSection f 7 || (List.range (sectionPages f 3)).all fun k =>
    Config.sm3 (slice d (2 ^ 16 * k) (2 ^ 16)) == BitVec.ofNat 256 (leNat (slice h (32 * k) 32))

/-- The file's form and the sections that R456 asks for, the signature last. -/
def codexSectionsOk (f : CodexFile) : Bool :=
  laidOut f.bytes.length (64 + 32 * f.sections.length) f.sections && (f.sections.all fun x => decide (1 ≤ x.kind ∧ x.kind ≤ 8)) &&
    ([1, 5, 8].all fun k => (sectionsOf f k).length == 1) && ([2, 3, 4, 6, 7].all fun k => decide ((sectionsOf f k).length ≤ 1)) &&
    (hasSection f 2 || hasSection f 4) && (!hasSection f 2 || hasSection f 7) && (sectionBytes f 6).length % 16 == 0 &&
    (!hasSection f 7 || (sectionBytes f 7).length == 32 * (sectionPages f 2 + sectionPages f 3)) && dataHashesOk f &&
    ((f.sections.getLast?).map CodexSection.kind == some 8) && signatureAt f + 64 == f.bytes.length &&
    (sectionBytes f 8).length == 64

/-! ## The manifest (R457) -/

/-- The words of a folio list as bytes. -/
def folioListBytes (l : List (Word × Word)) : List Byte := (l.map fun p => natLe 8 p.1.toNat ++ natLe 8 p.2.toNat).flatten

/-- A manifest record stands in the manifest section, its parts at their places. -/
def recordStands (m : List Byte) (r : ManifestRecord) : Bool :=
  let d := (r.descriptor.map fun w => natLe 8 w.toNat).flatten
  r.descriptor.length == 8 && slice m r.nameAt r.name.length == r.name && leNat (slice m r.generationAt 8) == r.generation &&
    slice m r.descriptorAt 64 == d && slice m r.foliosAt (16 * r.folios.length) == folioListBytes r.folios

/-- A manifest record's rules (R457); the rules of its folio list are those of a launch (R147). -/
def recordOk (r : ManifestRecord) : Bool :=
  let d := r.descriptor
  descPlace d == 0xFFFF && descSoff d == 0 && descScnt d == 0 && descNpred d == 0 && (d.getD 2 0).extractLsb' 21 5 == 0 &&
    descKind d != 3 && (d.getD 5 0).extractLsb' 5 59 == 0 && descFcnt d == r.folios.length && decide (r.folios.length ≤ 16) &&
    d.getD 6 0 == 0 && d.getD 7 0 == 0

/-! ## Crela kernels (R459) -/

/-- The vector instructions that a Crela body may hold, by major: the first minor and the instructions from it on. -/
def crelaTable (maj mn : Nat) : Nat × List (WV → Instr) :=
  match maj with
  | 0x21 => (0, [.vadd, .vsub, .vrsub, .vmul, .vmulh, .vmin, .vmax, .vand, .vor, .vxor, .vadds, .vsubs, .vabs, .vavg])
  | 0x22 => (0, [.vsll, .vsrl, .vsra, .vsrar, .vsrlr, .vnsra, .vfunl, .vfunr])
  | 0x23 => (0, [.vmac, .vmacs, .vdot2, .vdot2s, .vdot4, .vdot4s])
  | 0x24 => if mn < 8 then (0, [.vceq, .vcne, .vclt, .vcle, .vcgt, .vcge]) else (8, [.mand, .mor, .mxor, .mnot])
  | 0x25 => (6, [.vmerge, .vmv])
  | 0x27 => (0, [.vfadd, .vfsub, .vfmul, .vfdiv, .vfsqrt, .vfmin, .vfmax, .vfabs, .vfneg, .vfsgnj])
  | 0x28 => (0, [.vfma, .vfms, .vfnma, .vfnms])
  | 0x29 => (0, [.vcvt, .vcvtz])
  | 0x2A => (0, [.vquant, .vdeq])
  | 0x38 => (0, [.gcvt, .gadd, .gsub, .gscale, .gsettag, .gtagof])
  | _ => (0, [])

/-- The vector operands of a body's instruction are registers of its `n` streams, or registers of masks, types and scales where the entry names
those; no mask but m0, no chain bit, no form 0b11. -/
def crelaOperands (n maj mn : Nat) (o : WV) : Bool :=
  let stream := fun (r : BitVec 5) => decide (r.toNat < n)
  o.msk == 0 && !o.ca && (maj == 0x24 || stream o.vd) && ((maj == 0x24 && decide (8 ≤ mn)) || stream o.va) &&
    match o.src with
    | .vec vb cb => !cb && ((maj == 0x24 && decide (8 ≤ mn)) || maj == 0x29 || maj == 0x2A || stream vb)
    | .scal _ | .imm _ => true
    | .queue _ => false

/-- A head with its tail is one that a Crela body may hold with `n` streams: a native encoding, without a sequencer flag. -/
def crelaHead (n : Nat) (h : BitVec 16) (t : BitVec 64) : Bool :=
  let maj := (h.extractLsb' 8 6).toNat
  let mn := (h.extractLsb' 0 8).toNat
  let row := crelaTable maj mn
  match (tailKind maj mn).bind fun k => splitTail k (h.extractLsb' 14 2).toNat t with
  | none => false
  | some (f, w) =>
    SeqFlag.dec f == some .none &&
      if maj = 0x20 then fieldsOk (if mn = 0 then .vsetvl (W4.dec w) else .vsettype (W4.dec w))
      else
        match WV.dec w, (if mn < row.1 then none else row.2[mn - row.1]?) with
        | some o, some i => fieldsOk (i o) && crelaOperands n maj mn o
        | _, _ => false

/-- The rules of a Crela kernel (R459). -/
def crelaOk (k : CrelaKernel) : Bool :=
  decide (k.streams.length ≤ 16) && (k.streams.all fun d => descBad d.2 == none) && k.body.all fun h => crelaHead k.streams.length h.1 h.2

/-- Whether the native code is what runs (R461): the manifest names this generation. -/
def runsNative (f : CodexFile) : Bool := hasSection f 2 && f.manifest.all fun r => r.generation == Config.generation

/-! ## Relocations (R167, R457) -/

/-- The images as relocations change them: code, data, manifest records. -/
structure Images where
  code : List Byte
  data : List Byte
  records : List ManifestRecord
  deriving DecidableEq, Repr

/-- Bytes put over a byte string. -/
def patch (l : List Byte) (off : Nat) (bs : List Byte) : List Byte := l.take off ++ bs ++ l.drop (off + bs.length)

/-- Writes a limm's value into the line that holds its head (R118, R167): none when the place is no limm head. -/
def patchLimm (code : List Byte) (off : Nat) (v : Int) : Option (List Byte) :=
  let base := off / 64 * 64
  match lineHeads (lineOf ((code.drop base).take 64)) with
  | .error _ => none
  | .ok hs =>
    let i := off % 64 / 2
    match hs[i]? with
    | none => none
    | some (h, t) =>
      if off % 2 ≠ 0 ∨ h.extractLsb' 8 6 ≠ 0x09 then none
      else
        let used := (hs.take (i + 1)).foldl (fun a x => a + tailLen (x.1.extractLsb' 14 2).toNat) 0
        let imm := BitVec.ofInt 55 v
        let t' : BitVec 64 := imm.extractLsb' 23 32 ++ t.extractLsb' 23 9 ++ imm.extractLsb' 0 23
        some (patch code (base + 2 * (32 - used)) (natLe 8 t'.toNat))

/-- The FROM word at a byte offset of the manifest section: of a folio list entry of some record, or none. -/
def patchFrom (l : List ManifestRecord) (off : Nat) (v : Word) : Option (List ManifestRecord) :=
  let holds := fun (r : ManifestRecord) => decide (r.foliosAt ≤ off ∧ off < r.foliosAt + 16 * r.folios.length) && (off - r.foliosAt) % 16 == 0
  if l.any holds then
    some (updWhere l holds fun r => { r with folios := r.folios.modify ((off - r.foliosAt) / 16) fun p => (v, p.2) })
  else none

/-- Applies one relocation (R457); none refuses the load. -/
def relocate (f : CodexFile) (m : Images) (x : Word × Word) : Option Images :=
  let off := (x.1.extractLsb' 32 32).toNat
  let base := (x.1.extractLsb' 0 2).toNat
  let v : Int := (if base = 1 then f.codeBase.toNat else f.dataBase.toNat) + x.2.toInt
  if x.1.extractLsb' 4 28 ≠ 0 ∨ base = 0 ∨ base = 3 then none
  else
    match (x.1.extractLsb' 2 2).toNat with
    | 0 =>
      if m.code.length ≤ off ∨ v < -(2 ^ 54) ∨ 2 ^ 54 ≤ v then none
      else (patchLimm m.code off v).map fun c => { m with code := c }
    | 1 => if m.data.length < off + 8 then none else some { m with data := patch m.data off (natLe 8 (truncInt v 64)) }
    | 2 => (patchFrom m.records off (BitVec.ofInt 64 v)).map fun r => { m with records := r }
    | _ => none

/-- The relocation entries of a section's bytes, two words each. -/
def relocsOf : Nat → List Byte → List (Word × Word)
  | 0, _ => []
  | n + 1, bs => (BitVec.ofNat 64 (leNat (bs.take 8)), BitVec.ofNat 64 (leNat (slice bs 8 8))) :: relocsOf n (bs.drop 16)

/-- Applies every relocation. -/
def relocateAll (f : CodexFile) : List (Word × Word) → Images → Option Images
  | [], m => some m
  | x :: r, m => (relocate f m x).bind (relocateAll f r)

/-! ## The load (R96, R458) -/

/-- The records with FLIST naming their lists, which lie one after the other from an address on, and the bytes of the lists. -/
def placeLists : List ManifestRecord → Word → List (List Word) × List Byte
  | [], _ => ([], [])
  | r :: rest, a =>
    let bytes := folioListBytes r.folios
    let q := placeLists rest (a + BitVec.ofNat 64 bytes.length)
    (r.descriptor.set 4 a :: q.1, bytes ++ q.2)

/-- Maps frames at an address on a package and writes bytes there. -/
def placeBytes (s : State) (part pkg : Nat) (va : Word) (rights : Nat) (frames tables : List Nat) (bs : List Byte) : State :=
  let page := va.toNat / 2 ^ 16 * 2 ^ 16
  let s1 := mapPages part pkg (fun f => leafWord f rights) (frames.mapIdx fun i f => (page + 2 ^ 16 * i, f)) tables s
  let cell := fun (i : Nat) (b : Byte) =>
    let a := va.toNat - page + i
    (frames[a / 2 ^ 16]?).map fun f => (f + a % 2 ^ 16, b)
  (engineWrite s1 pkg ((bs.mapIdx cell).filterMap id)).1

/-- The alignment of an image (R96): 64, or the largest that an `.align` of its section names. -/
def imageAlign (f : CodexFile) (kind : Nat) : Nat := ((sectionsOf f kind).map CodexSection.align).foldl max 64

/-- The checks of R458 in their order, with the key store of the package that the codex arrives at: the images as relocated, or none when the load
is refused. -/
def codexImages (s : State) (f : CodexFile) : Option Images :=
  let good := (bootOf s f.pkg).keys.any fun k => Config.sm2Verify k (Config.sm3 (signedBytes f)) (sectionBytes f 8)
  if good = false ∨ codexSectionsOk f = false ∨ !(f.manifest.all fun r => recordStands (sectionBytes f 5) r && recordOk r) ∨ !(f.crela.all crelaOk) ∨
      (f.crela.isEmpty = false ∧ hasSection f 4 = false) ∨ (runsNative f = false ∧ hasSection f 4 = false) ∨
      f.codeBase.toNat % imageAlign f 2 ≠ 0 ∨ f.dataBase.toNat % imageAlign f 3 ≠ 0 ∨ f.listBase.toNat % 16 ≠ 0 then none
  else
    relocateAll f (relocsOf ((sectionBytes f 6).length / 16) (sectionBytes f 6))
      { code := sectionBytes f 2, data := sectionBytes f 3, records := f.manifest }

/-- The packages of a partition. -/
def partPkgs (p : Partition) : List Nat := ((dieList p).map (· / 8)).dedup

/-- A codex is loaded for a partition (R458): measured into M2 of its packages before it runs (R464), its data and folio lists placed on every
package, its code to be mapped on first use, its control program started on the control cluster. The native code of Crela kernels is the one
translation that this Horsil release makes of them for this generation (R460, R461). -/
def loadCodex (p : Partition) (f : CodexFile) (m : Images) (s : State) : State :=
  let lists := placeLists m.records f.listBase
  let place := fun (a : State) (x : CodexPlace) =>
    placeBytes (placeBytes a p.slot x.pkg f.dataBase 3 x.dataFrames x.tables m.data) p.slot x.pkg f.listBase 1 x.listFrames x.tables lists.2
  let s1 := f.places.foldl place ((partPkgs p).foldl (fun a k => updBoot a k fun b => b.measure 2 f.bytes) s)
  let c : Codex :=
    { part := p.slot, codeBase := f.codeBase, dataBase := f.dataBase,
      code := if runsNative f then m.code else Config.translateCrela (sectionBytes f 4),
      file := if runsNative f then sectionBytes f 2 else [], hashes := sectionBytes f 7, records := lists.1, control := sectionBytes f 1,
      launches := [] }
  { s1 with codices := s1.codices ++ [c] }

/-- Whether frames hold `n` bytes of a partition from an address of a package on (R25, R153). -/
def framesHold (s : State) (p : Partition) (pkg : Nat) (va : Word) (n : Nat) (frames : List Nat) (write : Bool) : Bool :=
  let page := va.toNat / 2 ^ 16 * 2 ^ 16
  (n == 0 || decide (va.toNat - page + n ≤ 2 ^ 16 * frames.length)) &&
    (frames.mapIdx fun i f => frameOk s p pkg (page + 2 ^ 16 * i) f (2 ^ 16) write).all id

/-- Whether the places that Horsil brings hold the data image and the folio lists on every package of the partition (R155). -/
def placesOk (s : State) (p : Partition) (f : CodexFile) (m : Images) : Bool :=
  let lists := (placeLists m.records f.listBase).2.length
  ((partPkgs p).all fun k => f.places.any fun x => x.pkg == k) &&
    f.places.all fun x => framesHold s p x.pkg f.dataBase m.data.length x.dataFrames true && framesHold s p x.pkg f.listBase lists x.listFrames false

/-- Horsil takes a codex for a partition or not: the status of its load, and the state it leaves. -/
def admitCodex (part : Nat) (f : CodexFile) (s : State) : Nat × State :=
  match partOf s part with
  | none => (4, s)
  | some p =>
    match (if p.ended then none else codexImages s f) with
    | none => (4, s)
    | some m => if placesOk s p f m then (0, loadCodex p f m s) else (3, s)

/-- A codex arrives at Horsil. -/
def takeCodex (part : Nat) (f : CodexFile) (s : State) : Host.Outcome State Fault Refusal :=
  if horsilRuns s f.pkg = false then happening s
  else
    let r := admitCodex part f s
    reply r.1 0 r.2

/-- CODEX_LOAD (R456 to R461). -/
def execCodexLoad (part : Nat) (f : CodexFile) (s : State) : Host.Outcome State Fault Refusal := takeCodex part f s

end Sys2Proof.Machine
end

