-- ==== Sys2Proof/Machine/Partitions.lean ====
section
/-! DEFINITION. Partitions: their creation and the units they reserve (R25, R26, R152, R155, R318). -/

namespace Sys2Proof.Machine

/-- The units that the living partitions but one have reserved on a path. -/
def unitsOthers (s : State) (part : Nat) (x : Path) : Nat :=
  (s.parts.filter fun p => p.slot != part && !p.ended).foldl (fun a p => a + unitsOn p x) 0

/-- The world root (R318): live, generation 0, the identity, no parent. -/
def worldRoot : NodeRec where
  nchild := 0
  rev := 0
  state := 1
  gen := 0
  parent := 0
  q := [0x3FF0000000000000, 0, 0, 0]
  t := [0, 0, 0]
  split := List.replicate 8 splitEmpty

/-- The catalogue of a new partition: node 0 the world root, every other node free (R318). -/
def startCatalogue (s : State) (p : PartitionSpec) : State :=
  hardWrite (clearRange s p.catBase (128 * p.catSize)) p.catBase (worldRoot.enc.map (natLe 8)).flatten

/-- A partition's share of memory (R25, R153): whole aligned GiB of one HBM stack, below Horsil's bytes from 89 GiB on, or of one
channel group of the second tier. -/
def shareOk (x : Nat × Nat) : Bool :=
  let last := x.1 + x.2 * 2 ^ 30 - 1
  x.1 % 2 ^ 30 == 0 && decide (0 < x.2) && decide (last < 2 ^ 52) && populated x.1 && populated last &&
    (if field x.1 43 42 = 0 then field x.1 51 37 == field last 51 37 && decide (field last 36 0 < 89 * 2 ^ 30)
     else field x.1 43 42 == 1 && field x.1 51 38 == field last 51 38)

/-- Two ranges of GiB units share a byte. -/
def sharesMeet (x y : Nat × Nat) : Bool := decide (x.1 < y.1 + y.2 * 2 ^ 30 ∧ y.1 < x.1 + x.2 * 2 ^ 30)

/-- The catalogue's place (R25, R318): 2^10 to 2^24 records in HBM of a package of the partition, aligned, inside one of its shares, where no
other partition's memory is. -/
def catalogueOk (p : PartitionSpec) : Bool :=
  let last := p.catBase + 128 * p.catSize - 1
  ((List.range 15).any fun i => p.catSize == 2 ^ (10 + i)) && (p.quads.any fun q => q / 96 == p.catPkg) && p.catBase % 128 == 0 &&
    decide (last < 2 ^ 52) && field p.catBase 51 44 == p.catPkg && field p.catBase 43 42 == 0 &&
    p.shares.any fun x => decide (x.1 ≤ p.catBase ∧ last < x.1 + x.2 * 2 ^ 30)

/-- A translation root on every package with quads of the partition (R155): a frame for a table of level 4 that is nobody else's. -/
def rootsOk (s : State) (p : PartitionSpec) : Bool :=
  (p.quads.all fun q => (assoc p.roots (q / 96)).isSome) &&
    p.roots.all fun r => tableOk s r.1 r.2 4096 && s.parts.all fun o => o.ended || o.roots.all fun x => x.2 != r.2

/-- A private area for every slot of the partition's quads (R152), none across another. -/
def stacksOk (p : PartitionSpec) : Bool :=
  let slots := (p.quads.map fun q => (List.range 32).map fun i => q * 32 + i).flatten.filter fun i => decide (i % 8 < slotsOf (i / 8))
  (slots.all fun i => p.stackTops.any fun x => x.1 == i) && (p.stackTops.all fun x => slots.contains x.1 && canonical (x.2 - 1)) &&
    decide (0 < p.stackSize) &&
    ((p.stackTops.mapIdx fun i x => (p.stackTops.drop (i + 1)).all fun y =>
      decide (areaEnd x.2 + p.stackSize ≤ areaEnd y.2 ∨ areaEnd y.2 + p.stackSize ≤ areaEnd x.2)).all id)

/-- What Horsil can grant a partition (R22, R25, R152, R153, R155, R318): a number that no partition has had (log 28), whose slot is free on
each of its packages; whole quads of packages 0 to 255 that are nobody else's; shares of memory of nobody else; roots; a catalogue; private
areas for slots of its quads. -/
def partitionOk (s : State) (p : PartitionSpec) : Bool :=
  let living := s.parts.filter fun o => !o.ended
  (s.parts.all fun o => o.slot != p.slot) && !p.quads.isEmpty && p.quads.dedup.length == p.quads.length &&
    (p.quads.all fun q => decide (q < 256 * 96) && living.all fun o =>
      !o.quads.contains q && (o.slot % 64 != p.slot % 64 || o.quads.all fun k => k / 96 != q / 96)) &&
    (p.shares.all shareOk) && ((p.shares.mapIdx fun i x => (p.shares.drop (i + 1)).all fun y => !sharesMeet x y).all id) &&
    (p.shares.all fun x => (p.quads.any fun q => q / 96 == field x.1 51 44) && living.all fun o => o.shares.all fun y => !sharesMeet x y) &&
    catalogueOk p && rootsOk s p && stacksOk p

/-- Whether a partition's reservations keep every path within 64 units (R26). -/
def unitsOk (s : State) (part : Nat) (us : List (Path × Nat)) : Bool :=
  us.all fun u => decide (unitsOthers s part u.1 + (us.filter fun v => v.1 == u.1).foldl (fun a v => a + v.2) 0 ≤ 64)

/-- PARTITION_CREATE (R25, R26, R318); a reservation that does not fit is refused with a status. -/
def execPartitionCreate (p : PartitionSpec) (s : State) : Host.Outcome State Fault Refusal :=
  if (p.quads.all fun q => horsilRuns s (q / 96)) = false then happening s
  else if partitionOk s p = false then reply 2 0 s
  else if unitsOk s p.slot p.units = false then reply 4 7 s
  else
    let q : Partition :=
      { slot := p.slot, quads := p.quads, roots := p.roots, shares := p.shares, units := p.units, catPkg := p.catPkg,
        catBase := p.catBase, catSize := p.catSize, tc := 0, guards := [], stackTops := p.stackTops, stackSize := p.stackSize,
        resume := [], ended := false }
    reply 0 0 (startCatalogue { s with parts := s.parts ++ [q] } p)

/-- The package of a shared path. -/
def pathPkg : Path → Nat
  | .bridle p _ _ | .stack p _ | .second p _ | .cxl p _ | .spar p _ _ | .fabric p _ => p

/-- PARTITION_RESIZE (R26). -/
def execPartitionResize (part : Nat) (path : Path) (units : Nat) (s : State) : Host.Outcome State Fault Refusal :=
  if horsilRuns s (pathPkg path) = false then happening s
  else if partLives s part = false then reply 2 0 s
  else if 64 < unitsOthers s part path + units then reply 4 7 s
  else
    reply 0 0 { s with parts := updWhere s.parts (fun p => p.slot == part) fun p =>
      { p with units := (path, units) :: p.units.filter fun u => u.1 != path } }

end Sys2Proof.Machine
end

