-- ==== Sys2Proof/Machine/Preempt.lean ====
section
/-! DEFINITION. Pre-emption and resumption of a team (R63, R450 to R454). -/

namespace Sys2Proof.Machine

/-- The mates of a thread: its team, or itself alone (R63, R450). -/
def teamMate (t x : Thread) : Bool :=
  x.uid == t.uid || (t.team != 0 && x.team == t.team && x.launch == t.launch && !t.spawned && !x.spawned)

def TStatus.live : TStatus → Bool
  | .running | .pageFault _ _ | .halted => true
  | .free | .ending _ _ _ _ => false

/-! ## Saving -/

/-- The thread's takes at pre-emption (R425, R454): one that no shelf has served is cancelled and will be issued again; the results of one
that has been served are saved: in the registers when the thread stands at its ptake, else with the take, for the ptake to find when a
handler has returned to it. -/
def settleTake (s : State) : State :=
  let mine := (s.pools.map fun p => (p.takes.filter fun k => k.uid == s.t.uid).map fun k => (p, k)).flatten
  mine.foldl (fun a x =>
    match x.2.served with
    | none => endTake a x.1 x.2.id
    | some e =>
      match (accessHead a).bind fun h => LE.dec h.2 with
      | some o =>
        if a.t.pc = x.2.pc then
          let a1 := { endTake a x.1 x.2.id with stalled := false }
          afterAccess a1 (advance (takeResult o e.key e.payload (poolStatus 0 false) a1))
        else a
      | none => a) s

/-- The thread stops (R450, R454): its take settles, its matrix queue drains, its stores are published at .pod. -/
def stopThread (s : State) : State := (publish (drainMatrix (settleTake s)) 5).updT fun t => { t with mwait := 0 }

/-- A stream binding as it is saved: a load's chunk is read again at resume (R452). -/
def Binding.kept (b : Binding) : Binding := if b.store then b else { b with filled := false, landed := 0, bad := none, geom := 0, retags := [] }

/-- What the save keeps of a thread (R451, R452): registers without their vdirty bit read as zero, stream bindings will be issued
again, folio bytes travel with the folios. -/
def Thread.kept (t : Thread) : Thread :=
  let v := Vector.ofFn fun (i : Fin 32) => if t.ctl.vdirty.getLsbD i.val then t.v[i.val] else 0
  let lanes := fun (r : LaneRun) => { r with binds := r.binds.map Binding.kept }
  { t with
    v := v
    binds := t.binds.map Binding.kept
    lanes := t.lanes.map lanes
    laneHeld := t.laneHeld.map lanes
    snap := t.snap.filter (fun c => decide (c.1 < folioKeys))
    snapSeq := t.snapSeq.filter (fun c => decide (c.1 < folioKeys))
    own := t.own.filter (fun o => decide (o.key < folioKeys)) }

/-- A size in whole units of 64 bytes. -/
def in64 (n : Nat) : Nat := (n + 63) / 64 * 64

/-- The size of the area that a thread is saved into: R451's sections in their order, each 64-byte aligned. -/
def Thread.areaSize (t : Thread) (folios : List FolioEntry) : Nat :=
  let when_ := fun (b : Bool) (n : Nat) => if b then n else 0
  let image := t.vq ++ t.xdec ++ t.image ++ t.imageDec
  64 + 256 + 256 + 7 * 1024 + 1024 + ((List.range 32).filter fun i => t.ctl.vdirty.getLsbD i).length * in64 1032 + 384 +
    when_ (t.replay.isSome || t.replayHeld.isSome || t.seq != SeqConf.start) 512 + in64 (32 * t.binds.length) +
    when_ (t.lanes.isSome || t.laneHeld.isSome) 512 + when_ (!image.isEmpty) (64 * image.length + 64) +
    when_ t.munit.isSome (64 * 1024 + 64) +
    ((folios.filter fun e => e.state == .ready).map fun e => e.sizek * 1024 + 64).foldl (· + ·) 0

/-- A folio entry as it is saved: a ready one with its bytes, a filling one to fill again (R451, R452). It is released, so what a view
delivered is forgotten (R412). -/
def savedFolio (s : State) (e : FolioEntry) : FolioEntry :=
  match e.state with
  | .ready => { e with view := none, data := some ((List.range e.size).map fun i => s.home.read (e.key i)) }
  | .empty | .filling | .draining => { e with view := none, data := none, bad := none }

/-- A thread is saved into an area, which is guarded from then on, and its slot freed: its bindings to folio entries go, and its place in
a matrix unit. -/
def saveThread (area : Word) (s : State) : State :=
  let t := s.t
  let mine := s.folios.filter fun e => e.core == t.core && e.owners.contains t.uid && e.state != .draining
  let sv : Saved := { th := t.kept, quad := quadOf t.core, folios := mine.map (savedFolio s), area := area }
  let g : Guard :=
    { pkg := pkgOf t.core, base := area.toNat, size := t.areaSize mine, owner := t.part, handle := areaHandle t.uid }
  let s1 := mine.foldl (fun a e =>
    let rest := e.owners.filter fun u => u != t.uid
    if rest.isEmpty then dropFolio a e.core e.index else updFolio a e.core e.index fun x => { x with owners := rest }) s
  let parts := updWhere s1.parts (fun p => p.slot == t.part) fun p => { p with guards := g :: p.guards }
  { releaseMatrix { s1 with parts := parts } t.uid with t := Thread.blank, saved := s1.saved ++ [sv] }

/-- The threads of a team are saved one after the other, into areas that follow each other. -/
def saveTeam : List Nat → Word → State → State
  | [], _, s => s
  | u :: r, area, s =>
    let s1 := asThread s u (saveThread area)
    let used := ((s1.parts.map Partition.guards).flatten.find? fun g => g.handle == areaHandle u).map Guard.size
    saveTeam r (area + BitVec.ofNat 64 (used.getD 0)) s1

/-- A thread leaves its slot for good: a free record of a parked thread goes. -/
def dropBlanks (s : State) : State := { s with parked := s.parked.filter fun t => t.status != .free }

/-- Whether a thread's pdrain waits for a boundary (R432). -/
def drainsPool (s : State) (uid : Nat) : Bool := s.pools.any fun p => p.drainers.any fun d => d.uid == uid && d.removed.isNone

/-- PREEMPT (R450): the team of a thread is stopped, then saved thread by thread into areas from `area` on, which Horsil
reserves at a multiple of 64. Accepted engine commands and pool operations complete first. A suspended member is not in a slot: it is left out of
the save, and its record may be dispatched alone (log 29, DESIGN CHOICE: R63 and R450 do not say what becomes of it). -/
def execPreempt (uid : Nat) (area : Word) (s : State) : Host.Outcome State Fault Refusal :=
  match (allThreads s).find? fun t => t.uid == uid && t.status.live with
  | none => happening s
  | some t =>
    if canonical area = false ∨ area.toNat % 64 ≠ 0 then happening s
    else
      let team := ((allThreads s).filter fun x => x.status.live && teamMate t x).map Thread.uid
      if team.any fun u => hasCommands s u || hasPuts s u || drainsPool s u then goto { s with stalled := true }
      else happening (dropBlanks (saveTeam team area (team.foldl (fun a u => asThread a u stopThread) s)))

/-! ## Resuming (R452, R453) -/

/-- The spec of a saved folio entry. -/
def FolioEntry.spec (e : FolioEntry) : FolioSpec :=
  { src := e.src, sizek := e.sizek, basek := e.basek, drain := e.drain, keep := e.keep, space := e.space }

/-- Whether a core can take the saved threads of one team core index: of their kind, with their slots free, room for their folios
and, for those in matrix mode, places in its unit. -/
def coreTakes (s : State) (core : Nat) (vs : List Saved) : Bool :=
  let held := (vs.filter fun v => v.th.munit.isSome).length
  (vs.all fun v =>
    isVCore core == isVCore v.th.core && (freeSlots s core).contains v.th.slot &&
      foliosFit s core v.th.launch v.th.team v.th.uid (((vs.map Saved.folios).flatten.map FolioEntry.spec).dedup)) &&
    decide ((s.granted.filter fun g => g.1 == core).length + held ≤ 2)

/-- The cores for team core indices, in ascending quad positions: index and core. -/
def assignCores (s : State) (vs : List Saved) : List Nat → List Nat → Option (List (Nat × Nat))
  | [], _ => some []
  | k :: ks, cores =>
    match cores.dropWhile fun c => !coreTakes s c (vs.filter fun v => v.th.tci == k) with
    | [] => none
    | c :: r => (assignCores s vs ks r).map fun l => (k, c) :: l

/-- Brings back a saved folio entry under handle `h`: an entry that a mate has brought back is shared (R357, R453), a ready one
gets its bytes, a filling one fills again. -/
def restoreFolio (h : Nat) (e : FolioEntry) (s : State) : State :=
  let core := s.t.core
  match (coreFolios s core).find? fun x =>
    x.same e.spec && (x.state == .filling || x.state == .ready) && x.owners.any fun u => u != s.t.uid && teamHere s u with
  | some x =>
    setHandle (seeFolio (updFolio s core x.index fun y => { y with owners := s.t.uid :: y.owners }) x) h (some x.index)
  | none =>
    let s1 := makeRoom { s with folios := s.folios.filter fun x => !(x.core == core && x.retained && x.meets e.spec) } core
    match freeIndex s1 core with
    | none => setHandle s1 h none
    | some i =>
      let e1 := { e with core := core, index := i, owners := [s.t.uid] }
      match e.data with
      | some bs =>
        let s2 := landFill { s1 with folios := { e1 with data := none } :: s1.folios } { e1 with data := none } bs
        setHandle (updFolio s2 core i fun x => { x with clean := e.clean }) h (some i)
      | none => setHandle (startFill s1 e1) h (some i)

/-- A thread goes on in its new slot: its first snapshot there is taken at .core, its folios come back, the chain caches of its
core and of its die are empty (R328, R453). -/
def resumeSaved (v : Saved) (s : State) : State :=
  let s1 := snapshot { s with chains := s.chains.filter fun c => c.1 != s.t.core && c.1 != dieChain (dieOf s.t.core) } 1
  (List.range v.th.handles.length).foldl (fun a h =>
    match v.th.handles.getD h none with
    | none => a
    | some i => match v.folios.find? fun e => e.index == i with
      | some e => restoreFolio h e a
      | none => setHandle a h none) s1

/-- A saved thread takes its slot on a core. -/
def placeSaved (s : State) (core : Nat) (v : Saved) : State :=
  let s1 := { freeArea s v.th.uid with
    saved := s.saved.erase v
    granted := if v.th.munit.isSome then s.granted ++ [(core, v.th.uid)] else s.granted }
  placeThread s1 { v.th with core := core } (resumeSaved v)

/-- PREEMPT_RESUME (R453): a saved team resumes on a quad of its partition on its package that can take it. -/
def execPreemptResume (saved quad : Nat) (s : State) : Host.Outcome State Fault Refusal :=
  match s.saved.find? fun v => v.th.uid == saved with
  | none => happening s
  | some v =>
    let team := s.saved.filter fun x => teamMate v.th x.th
    let tcis := ((team.map fun x => x.th.tci).dedup).mergeSort fun a b => decide (a ≤ b)
    let mine := match partOf s v.th.part with
      | some p => p.quads.contains quad
      | none => false
    if mine = false ∨ quad / 96 ≠ v.quad / 96 then happening s
    else
      match assignCores s team tcis ((List.range 4).map (quad * 4 + ·)) with
      | none => happening s
      | some l => happening (team.foldl (fun a x => placeSaved a ((assoc l x.th.tci).getD 0) x) s)

end Sys2Proof.Machine
end

