-- ==== Sys2Proof/Machine/Scalar.lean ====
section
/-! DEFINITION. Scalar integer instructions, immediates and addresses (R163 to R168). None of them traps or sets a flag. -/

namespace Sys2Proof.Machine

/-- sx(a) of R164. -/
def sx (a : Word) : Int := a.toInt

/-- A truth value as a register value. -/
def bit (b : Bool) : Word := if b then 1 else 0

/-- A result as the register stores it: trunc(value, 64) (R164). -/
def truncW (x : Int) : Word := BitVec.ofInt 64 x

/-! ## The division helpers of R165 -/

def tq (x y : Int) : Int :=
  let q : Int := ((x.natAbs / y.natAbs : Nat) : Int)
  if x * y < 0 then -q else q

def sdivW (a b : Word) : Word :=
  if b = 0 then truncW (-1)
  else if sx a = -(2 ^ 63) ∧ sx b = -1 then truncW (-(2 ^ 63))
  else truncW (tq (sx a) (sx b))

def sremW (a b : Word) : Word :=
  if b = 0 then a
  else if sx a = -(2 ^ 63) ∧ sx b = -1 then 0
  else truncW (sx a - sx b * tq (sx a) (sx b))

def udivW (a b : Word) : Word := if b = 0 then BitVec.allOnes 64 else BitVec.ofNat 64 (a.toNat / b.toNat)

def uremW (a b : Word) : Word := if b = 0 then a else BitVec.ofNat 64 (a.toNat - b.toNat * (a.toNat / b.toNat))

/-! ## Bit counts of R165 -/

def popcW (a : Word) : Word := BitVec.ofNat 64 ((List.range 64).countP fun i => a.getLsbD i)

def clzW (a : Word) : Word := BitVec.ofNat 64 (if a = 0 then 64 else 63 - a.toNat.log2)

def ctzW (a : Word) : Word := BitVec.ofNat 64 (((List.range 64).find? fun i => a.getLsbD i).getD 64)

/-! ## Forms -/

/-- `op sd, sa, sb` of R165. -/
def intOp (f : Word → Word → Word) (o : Q3) (s : State) : Host.Outcome State Fault Refusal :=
  accessOp [o.fa, o.fb] (fun s => .ok (setS s o.fd (f (getS s o.fa) (getS s o.fb)))) s

/-- `op sd, sa, #imm` of R166, with k = sext(IMM18, 18). -/
def immOp (f : Word → Int → Word) (o : WI) (s : State) : Host.Outcome State Fault Refusal :=
  accessOp [o.fa] (fun s => .ok (setS s o.fd (f (getS s o.fa) o.imm.toInt))) s

/-- `op sd, sa, #imm` of R166, with k = IMM18[5:0]. -/
def shiftOp (f : Word → Nat → Word) (o : WI) (s : State) : Host.Outcome State Fault Refusal :=
  accessOp [o.fa] (fun s => .ok (setS s o.fd (f (getS s o.fa) (o.imm.extractLsb' 0 6).toNat))) s

/-! ## Integer register operations (R165) -/

def execAdd (o : Q3) (s : State) := intOp (fun a b => a + b) o s
def execSub (o : Q3) (s : State) := intOp (fun a b => a - b) o s
def execAnd (o : Q3) (s : State) := intOp (fun a b => a &&& b) o s
def execOr (o : Q3) (s : State) := intOp (fun a b => a ||| b) o s
def execXor (o : Q3) (s : State) := intOp (fun a b => a ^^^ b) o s
def execSll (o : Q3) (s : State) := intOp (fun a b => a <<< (b.extractLsb' 0 6).toNat) o s
def execSrl (o : Q3) (s : State) := intOp (fun a b => a >>> (b.extractLsb' 0 6).toNat) o s
def execSra (o : Q3) (s : State) := intOp (fun a b => a.sshiftRight (b.extractLsb' 0 6).toNat) o s
def execSlt (o : Q3) (s : State) := intOp (fun a b => bit (decide (sx a < sx b))) o s
def execSltn (o : Q3) (s : State) := intOp (fun a b => bit (decide (a.toNat < b.toNat))) o s
def execMul (o : Q3) (s : State) := intOp (fun a b => a * b) o s
def execMulh (o : Q3) (s : State) := intOp (fun a b => truncW (sx a * sx b / 2 ^ 64)) o s
def execMulhn (o : Q3) (s : State) := intOp (fun a b => BitVec.ofNat 64 (a.toNat * b.toNat / 2 ^ 64)) o s
def execDiv (o : Q3) (s : State) := intOp sdivW o s
def execDivn (o : Q3) (s : State) := intOp udivW o s
def execRem (o : Q3) (s : State) := intOp sremW o s
def execRemn (o : Q3) (s : State) := intOp uremW o s
def execMin (o : Q3) (s : State) := intOp (fun a b => if sx a ≤ sx b then a else b) o s
def execMax (o : Q3) (s : State) := intOp (fun a b => if sx a ≤ sx b then b else a) o s
def execMinn (o : Q3) (s : State) := intOp (fun a b => if a.toNat ≤ b.toNat then a else b) o s
def execMaxn (o : Q3) (s : State) := intOp (fun a b => if a.toNat ≤ b.toNat then b else a) o s
def execPopc (o : Q3) (s : State) := intOp (fun a _ => popcW a) o s
def execClz (o : Q3) (s : State) := intOp (fun a _ => clzW a) o s
def execCtz (o : Q3) (s : State) := intOp (fun a _ => ctzW a) o s

/-! ## Immediates and addresses (R166 to R168) -/

def execAddi (o : WI) (s : State) := immOp (fun a k => truncW (a.toNat + k)) o s
def execAndi (o : WI) (s : State) := immOp (fun a k => a &&& truncW k) o s
def execOri (o : WI) (s : State) := immOp (fun a k => a ||| truncW k) o s
def execXori (o : WI) (s : State) := immOp (fun a k => a ^^^ truncW k) o s
def execSlli (o : WI) (s : State) := shiftOp (fun a k => a <<< k) o s
def execSrli (o : WI) (s : State) := shiftOp (fun a k => a >>> k) o s
def execSrai (o : WI) (s : State) := shiftOp (fun a k => a.sshiftRight k) o s
def execSlti (o : WI) (s : State) := immOp (fun a k => bit (decide (sx a < k))) o s
def execSltni (o : WI) (s : State) := immOp (fun a k => bit (decide (a.toNat < (truncW k).toNat))) o s

/-- `limm sd, #imm` (R167). -/
def execLimm (o : LI) (s : State) : Host.Outcome State Fault Refusal :=
  accessOp [] (fun s => .ok (setS s o.fd (o.imm.signExtend 64))) s

/-- `pcaddr sd, target` (R168). -/
def execPcaddr (o : WJ) (s : State) : Host.Outcome State Fault Refusal :=
  accessOp [] (fun s => .ok (setS s o.fd (relTarget (curPc s) o.ld.toInt o.hd.toNat))) s

end Sys2Proof.Machine
end

