-- ==== Sys2Proof/Machine/ScalarFp.lean ====
section
/-! DEFINITION. Scalar floating point and fcvt (R172 to R176): execute-stream instructions on s registers. None traps. -/

namespace Sys2Proof.Machine

/-- The format of a scalar floating-point form: fp32 in the low half of a register, or fp64 (R172). -/
def scalarFmt (dbl : Bool) : FloatFmt := if dbl then fmt64 else fmt32

/-- An operand's pattern (R172). -/
def scalarIn (dbl : Bool) (w : Word) : Nat := if dbl then w.toNat else w.toNat % 2 ^ 32

/-- Writes a result and merges its flags (R172, R173). -/
def scalarOut (s : State) (fd : BitVec 5) (r : Nat × Fl) : State := raise (setS s fd (BitVec.ofNat 64 r.1)) r.2

/-- Major 0x03 (R174): `f` maps format, rounding mode and the two patterns to the result. -/
def fpOp (f : FloatFmt → Nat → Nat → Nat → Nat × Fl) (dbl : Bool) (o : Q3) (s : State) : Host.Outcome State Fault Refusal :=
  executeOp [o.fa, o.fb] .ignore (fun s =>
    .ok (scalarOut s o.fd
      (f (scalarFmt dbl) (frmMode s) (scalarIn dbl (getS s o.fa)) (scalarIn dbl (getS s o.fb))))) s

/-- Major 0x04 (R175): `f` from the format, the mode and the three values. -/
def fmaOp (f : FloatFmt → Nat → FVal → FVal → FVal → Nat × Fl) (o : W4) (s : State) : Host.Outcome State Fault Refusal :=
  executeOp [o.fa, o.fb, o.fc] .ignore (fun s =>
    let d := o.ty == 0x0D
    let fm := scalarFmt d
    let x := fun (r : BitVec 5) => fm.value (scalarIn d (getS s r))
    .ok (scalarOut s o.fd (f fm (frmMode s) (x o.fa) (x o.fb) (x o.fc)))) s

/-- A comparison's integer result (R39, R174). -/
def cmpResult (k : Nat) (f : FloatFmt) (a b : Nat) : Nat × Fl :=
  let r := fCompare k (f.value a) (f.value b)
  (if r.1 then 1 else 0, r.2)

def execFadd (dbl : Bool) (o : Q3) (s : State) := fpOp (fun f m a b => fAdd f m false (f.value a) (f.value b)) dbl o s
def execFsub (dbl : Bool) (o : Q3) (s : State) := fpOp (fun f m a b => fAdd f m false (f.value a) (f.value b).neg) dbl o s
def execFmul (dbl : Bool) (o : Q3) (s : State) := fpOp (fun f m a b => fMul f m false (f.value a) (f.value b)) dbl o s
def execFdiv (dbl : Bool) (o : Q3) (s : State) := fpOp (fun f m a b => fDiv f m false (f.value a) (f.value b)) dbl o s
def execFsqrt (dbl : Bool) (o : Q3) (s : State) := fpOp (fun f m a _ => fSqrt f m false (f.value a)) dbl o s
def execFmin (dbl : Bool) (o : Q3) (s : State) := fpOp (fun f _ a b => fMinMax f false a b) dbl o s
def execFmax (dbl : Bool) (o : Q3) (s : State) := fpOp (fun f _ a b => fMinMax f true a b) dbl o s
def execFeq (dbl : Bool) (o : Q3) (s : State) := fpOp (fun f _ a b => cmpResult 0 f a b) dbl o s
def execFlt (dbl : Bool) (o : Q3) (s : State) := fpOp (fun f _ a b => cmpResult 2 f a b) dbl o s
def execFle (dbl : Bool) (o : Q3) (s : State) := fpOp (fun f _ a b => cmpResult 3 f a b) dbl o s

/-- `fsgnj` (R174): a with its sign bit replaced by b's. -/
def signFrom (f : FloatFmt) (a b : Nat) : Nat := a % f.signBit + b / f.signBit * f.signBit

def execFsgnj (dbl : Bool) (o : Q3) (s : State) := fpOp (fun f _ a b => (signFrom f a b, 0)) dbl o s

def execFmadd (o : W4) (s : State) := fmaOp (fun f m a b c => fFma f m false a b c) o s
def execFmsub (o : W4) (s : State) := fmaOp (fun f m a b c => fFma f m false a b c.neg) o s
def execFnmadd (o : W4) (s : State) := fmaOp (fun f m a b c => fFma f m false a.neg b c.neg) o s
def execFnmsub (o : W4) (s : State) := fmaOp (fun f m a b c => fFma f m false a.neg b c) o s

/-- The conversion of R176 with the destination type td and the source type ts, as the register's new value. -/
def scalarConvert (td ts md x : Nat) : Nat × Fl :=
  let w := typeWidth td
  if isInt td then
    let r : Int × Fl :=
      if isInt ts then (if isSigned td then satS (readInt ts x) w else satU (readInt ts x) w)
      else fToInt (isSigned td) w md ((fmtOf ts).value x)
    (truncInt r.1 64, r.2)
  else convertElem td ts md false x

/-- `fcvt.td.ts sd, sa` (R176). -/
def execFcvt (o : W4) (s : State) : Host.Outcome State Fault Refusal :=
  executeOp [o.fa] .ignore (fun s =>
    let ts := o.fc.toNat
    .ok (scalarOut s o.fd
      (scalarConvert o.ty.toNat ts (frmMode s) ((getS s o.fa).toNat % 2 ^ typeWidth ts)))) s

end Sys2Proof.Machine
end

