-- ==== Sys2Proof/Machine/Startup.lean ====
section
/-! DEFINITION. The start of a package and its boot record, loss of power, the host mailbox and windows, control programs' accesses, quotes
(R20, R462, R464 to R468). -/

namespace Sys2Proof.Machine

/-! ## The steps of a start (R464, R465) -/

/-- The units of a step before the last: one, or each spar link, CXL port, NVMe root port, Ethernet port. -/
def stepUnits (step : Nat) : Nat :=
  match step with
  | 4 => 16
  | 5 | 7 => 4
  | 9 => 2
  | _ => 1

/-- The rates or slots that a unit of a step can use: its first choice and its alternatives. -/
def stepSettings (step : Nat) : Nat :=
  match step with
  | 1 | 2 | 4 | 8 => 3
  | 6 | 9 => 2
  | _ => 1

/-- Whether a step needs a unit that succeeds; step 10 is required per codex. -/
def stepRequired (step : Nat) : Bool := !(step == 4 || step == 5 || step == 6 || step == 9)

/-- The register that a step's image extends. -/
def stepRegister (step : Nat) : Option Nat :=
  match step with
  | 1 => some 0
  | 8 => some 1
  | _ => none

/-- The results of a step's units in the record of one start. -/
def unitsAt (l : List BootEntry) (step : Nat) : List UnitResult := ((l.find? fun e => e.step == step).map BootEntry.units).getD []

/-- The record of the present start. -/
def Boot.present (b : Boot) : List BootEntry := b.record.getLastD []

/-- The last result in the record of the unit that a start is at. -/
def lastResult (b : Boot) : Option UnitResult :=
  b.record.reverse.findSome? fun l => (unitsAt l b.step)[b.unit]?

/-- What a start does with a unit: it runs with a setting, or has none left. -/
def stepSetting (b : Boot) : Option Nat :=
  let n := match lastResult b with
    | none => 0
    | some e => if e.ok then e.setting else e.setting + 1
  if n < stepSettings b.step then some n else none

/-- An entry as its 16 bytes: the step and the number of its units, then 4 bits a unit, the setting and whether it succeeded (log 26, DESIGN
CHOICE: the spec does not lay the entry out). -/
def BootEntry.bytes (e : BootEntry) : List Byte :=
  natLe 8 (e.step + 256 * e.units.length) ++
    natLe 8 (e.units.foldr (fun u a => min u.setting 7 + (if u.ok then 8 else 0) + 16 * a) 0)

/-- A unit's result goes into its step's entry of the present start; an entry has room for 16 units. -/
def Boot.note (b : Boot) (r : UnitResult) : Boot :=
  let l := b.present
  let e : BootEntry := { step := b.step, units := (unitsAt l b.step ++ [r]).take 16 }
  { b with record := b.record.dropLast ++ [(l.filter fun x => x.step != b.step) ++ [e]] }

/-- The start stops and reports its record over the host port if it trained, else over Ethernet (R465). -/
def Boot.stop (b : Boot) : Boot :=
  { b with running := false, stopped := true, report := some ((unitsAt b.present 6).any UnitResult.ok) }

/-- The next unit; after the last, the next step, or the stop of a start whose required step has no unit that succeeded. -/
def Boot.next (b : Boot) : Boot :=
  if b.unit + 1 < stepUnits b.step then { b with unit := b.unit + 1 }
  else if stepRequired b.step && !((unitsAt b.present b.step).any UnitResult.ok) then b.stop
  else { b with step := b.step + 1, unit := 0 }

/-- Whether a unit's work came out well: its image, if its step loads one, bears the root key's signature. -/
def stepWorks (step : Nat) (o : StartOutcome) : Bool :=
  o.ok && ((stepRegister step).isNone || Config.sm2Verify Config.rootKey (Config.sm3 o.image) o.signature)

/-- One unit of a step before the last runs, or is skipped when it has no setting left; its result is in the record before anything else begins. -/
def runUnit (b : Boot) (o : StartOutcome) : Boot :=
  match stepSetting b with
  | none => (({ b with skipped := b.skipped ++ [(b.step, b.unit)] } : Boot).note { setting := stepSettings b.step, ok := false }).next
  | some k =>
    let ok := stepWorks b.step o
    let b1 := match ok, stepRegister b.step with
      | true, some r => b.measure r o.image
      | _, _ => b
    let first := ok && b.step == 7 && !((unitsAt b.present 7).any UnitResult.ok)
    (({ b1 with nvme := if first then b.unit else b.nvme } : Boot).note { setting := k, ok := ok }).next

/-- One codex of step 10 is loaded, or skipped when it failed at an earlier start: its result is in the record before the next begins, and a
required one that fails stops the start. -/
def runCodex (pkg : Nat) (c : StartCodex) (s : State) : State :=
  let k := stepSetting (bootOf s pkg)
  let r := if k.isSome then admitCodex c.part c.file s else (4, s)
  updBoot r.2 pkg fun b =>
    let b1 := b.note { setting := k.getD 1, ok := r.1 == 0 }
    if r.1 ≠ 0 ∧ c.required then b1.stop else { b1 with unit := b1.unit + 1 }

/-- What a start leaves of its own and the earlier record for units it did not come to: each start keeps one entry a step. -/
def closeRecord (earlier present : List BootEntry) : List BootEntry :=
  (List.range 11).filterMap fun k =>
    let u := unitsAt present k
    let us := u ++ (unitsAt earlier k).drop u.length
    if us.isEmpty then none else some { step := k, units := us }

/-- The next start of a package: what its reset leaves, with the boot record in flash and the sealed key store. -/
def Boot.restart (b : Boot) : Boot :=
  let done := b.record.dropLast
  let l := done ++ [closeRecord (done.getLastD []) b.present, []]
  { Boot.start with record := l.drop (l.length - 8), keys := b.keys, secrets := b.secrets }

/-- A step in progress reads failed (R465, R468). -/
def Boot.cut (b : Boot) : Boot :=
  if b.running then b.note { setting := (stepSetting b).getD (stepSettings b.step), ok := false } else b

/-- The machine when power comes back: every package at its reset, with its boot record and its key store. -/
def newStart (s : State) : State :=
  { State.reset with
    fresh := s.fresh
    agenda := s.agenda
    boots := s.boots.map fun x => (x.1, x.2.cut.restart) }

/-- PACKAGE_START (R464, R465): the next unit of a package's running start, with how its work came out; after a start that stopped, the
next start begins and changes nothing but the package's own start (log 26, DESIGN CHOICE: the spec does not say what it leaves of partitions
that codices of step 10 were loaded for). -/
def execPackageStart (o : StartOutcome) (s : State) : Host.Outcome State Fault Refusal :=
  let b := bootOf s o.pkg
  if b.running = false then happening (if b.stopped then updBoot s o.pkg Boot.restart else s)
  else if b.step < 10 then happening (updBoot s o.pkg fun b => runUnit b o)
  else
    match o.codex with
    | some c => happening (runCodex o.pkg c s)
    | none => happening (updBoot s o.pkg fun b => { b with running := false })

/-- POWER_LOSS (R465, R468). -/
def execPowerLoss (s : State) : Host.Outcome State Fault Refusal := happening (newStart s)

/-! ## Control programs' accesses (R20) -/

/-- The keys of bytes that a control program stores to (R20), or the class of the first fault. -/
def controlKeys (w : Who) (va : Word) : Nat → Nat → State → Except Nat (List Nat) × State
  | 0, _, s => (.ok [], s)
  | n + 1, j, s =>
    match translate s w .store (va + BitVec.ofNat 64 j) with
    | .fault c s1 => (.error c, s1)
    | .ok k s1 =>
      match controlKeys w va n (j + 1) (fillBlock s1 k) with
      | (.ok ks, s2) => (.ok (k :: ks), s2)
      | (.error c, s2) => (.error c, s2)

/-- A load of up to 8 bytes for a partition through the cache of a die. A byte
that cannot be read, or is damaged, answers with the class of R435 (log 33, DESIGN CHOICE). -/
def loadFor (w : Who) (va : Word) (size : Nat) (s : State) : Host.Outcome State Fault Refusal :=
  if partLives s w.part = false then reply 0x05 0 s
  else
    match dieReadBytes w va (min size 8) 0 s with
    | (.error e, s1) => reply e 0 s1
    | (.ok bs, s1) => reply 0 (BitVec.ofNat 64 (leNat bs)) s1

/-- A store of bytes for a partition: it stands at the home at once, published at .pod
(log 33, DESIGN CHOICE: the spec gives control programs and the host no scopes). -/
def storeFor (w : Who) (va : Word) (bytes : List Byte) (s : State) : Host.Outcome State Fault Refusal :=
  if partLives s w.part = false then reply 0x05 0 s
  else
    match controlKeys w va bytes.length 0 s with
    | (.error e, s1) => reply e 0 s1
    | (.ok ks, s1) => reply 0 0 (engineWrite s1 w.pkg (ks.zip bytes)).1

/-- A control program's load, through the cache of its core's die, which is the die's point of coherence (R16, R20). -/
def controlLoad (c : Call) (size : Nat) (s : State) : Host.Outcome State Fault Refusal := loadFor (Call.who c) c.a0 size s

/-- A control program's store through the cache of its core's die (R20). -/
def controlStore (c : Call) (s : State) : Host.Outcome State Fault Refusal := storeFor (Call.who c) c.a0 c.bytes s

/-! ## The host port (R467) -/

/-- The host endpoint trained in the present start, and Horsil is there to serve it. -/
def hostPort (s : State) (pkg : Nat) : Bool := horsilRuns s pkg && (unitsAt (bootOf s pkg).present 6).any UnitResult.ok

/-- The bytes of BAR0. -/
def mailboxSize : Nat := 2 ^ 16

/-- The way into memory of a package's host, whose endpoint stands at die 0. -/
def hostWho (part pkg : Nat) : Who := { part := part, pkg := pkg, core := none, die := pkg * 8 }

/-- The window of the host that holds bytes of an access; the host reaches no other memory of a partition. -/
def windowFor (s : State) (pkg index off n : Nat) (write : Bool) : Option HostWindow :=
  ((bootOf s pkg).windows[index]?).filter fun w => decide (off + n ≤ w.size) && (w.write || !write)

/-- What comes through a package's host port, or Horsil does for it (R467). -/
def hostRequest (r : MailboxRequest) (s : State) : Host.Outcome State Fault Refusal :=
  match r with
  | .codex part f => takeCodex part f s
  | .service n c => callService n c s
  | .controlLoad c size => controlLoad c size s
  | .controlStore c => controlStore c s
  | .barRead pkg off size =>
    if off + size ≤ mailboxSize then reply 0 (BitVec.ofNat 64 (leNat ((bootOf s pkg).mailbox.readN (min size 8) off))) s else reply 2 0 s
  | .barWrite pkg off bytes =>
    if off + bytes.length ≤ mailboxSize then
      happening (updBoot s pkg fun b => { b with mailbox := (bytes.mapIdx fun i x => (off + i, x)).foldl (fun m c => m.write c.1 c.2) b.mailbox })
    else reply 2 0 s
  | .openWindow pkg w =>
    if partLives s w.part && w.size != 0 && rangeMapped s (hostWho w.part pkg) (if w.write then .store else .load) w.va w.size then
      reply 0 (BitVec.ofNat 64 (bootOf s pkg).windows.length) (updBoot s pkg fun b => { b with windows := b.windows ++ [w] })
    else reply 2 0 s
  | .closeWindow pkg index => reply 0 0 (updBoot s pkg fun b => { b with windows := b.windows.modify index fun w => { w with size := 0 } })
  | .hostLoad pkg index off size =>
    match windowFor s pkg index off size false with
    | none => reply 5 0 s
    | some w => loadFor (hostWho w.part pkg) (w.va + BitVec.ofNat 64 off) size s
  | .hostStore pkg index off bytes =>
    match windowFor s pkg index off bytes.length true with
    | none => reply 5 0 s
    | some w => storeFor (hostWho w.part pkg) (w.va + BitVec.ofNat 64 off) bytes s
  | .seal pkg x => happening (updBoot s pkg fun b => { b with secrets := b.secrets ++ [{ secret := x, m := b.m.toList.take 3 }] })
  | .unseal pkg index =>
    match ((bootOf s pkg).secrets[index]?).filter fun x => x.m == (bootOf s pkg).m.toList.take 3 with
    | none => reply 5 0 s
    | some x => reply 0 0 (updBoot s pkg fun b => { b with released := b.released ++ [x.secret] })

/-- Whether what a request needs is there: the host port of its package, or Horsil alone for its own work and that of control programs. -/
def requestReady (r : MailboxRequest) (s : State) : Bool :=
  match r with
  | .codex _ f => hostPort s f.pkg
  | .service _ c => hostPort s c.pkg
  | .controlLoad c _ => horsilRuns s c.pkg
  | .controlStore c => horsilRuns s c.pkg
  | .barRead pkg _ _ | .barWrite pkg _ _ | .hostLoad pkg _ _ _ | .hostStore pkg _ _ _ => hostPort s pkg
  | .openWindow pkg _ | .closeWindow pkg _ | .seal pkg _ | .unseal pkg _ => horsilRuns s pkg

/-- HOST_MAILBOX_REQUEST (R462, R467): a request comes through the host port, or a control program accesses memory (R20). -/
def execHostMailboxRequest (r : MailboxRequest) (s : State) : Host.Outcome State Fault Refusal :=
  if requestReady r s then hostRequest r s else happening s

/-- QUOTE_REQUEST (R466): a verifier's quote reflects the log as it stands. -/
def execQuoteRequest (q : QuoteAsk) (s : State) : Host.Outcome State Fault Refusal :=
  if horsilRuns s q.pkg = false then happening s
  else happening (updBoot s q.pkg fun b => { b with quotes := b.quotes ++ [quoteBytes q.pkg (natLe 32 q.nonce.toNat) b] })

end Sys2Proof.Machine
end

