-- ==== Sys2Proof/Machine/Sync.lean ====
section
/-! DEFINITION. Phase boundaries, fences and barriers (R225 to R229). -/

namespace Sys2Proof.Machine

/-- `phase.s` (R226): every older instruction completes, the thread's stores are published at s, a new snapshot is taken. -/
def execPhase (sc : Scope) (s : State) : Host.Outcome State Fault Refusal :=
  bothOp (fun s => .ok (snapshot (publish (drainMatrix s) sc.code) sc.code)) s

/-- `fence.s` (R227): older atomics have performed and older engine commands have been accepted or refused when it issues; it
publishes no store and takes no snapshot. -/
def execFence (_sc : Scope) (s : State) : Host.Outcome State Fault Refusal := bothOp (fun s => .ok (drainMatrix s)) s

/-! ## Barriers (R228) -/

/-- The thread that runs a node of a launch's node table, if it has started and not completed. -/
def nodeThread (s : State) (num idx : Nat) : Option Thread :=
  (everyThread s).find? fun t => t.uid != 0 && t.launch == num && !t.spawned && t.node == idx

/-- Whether a node takes part in the barrier of a scope that thread `t` joins (R228). -/
def partakes (s : State) (sc : Scope) (t : Thread) (n : Node) : Bool :=
  let mate := t.team != 0 && n.team == t.team
  match sc with
  | .lane => false
  | .core => mate && (match nodeThread s t.launch n.index with
      | some x => x.tci == t.tci
      | none => false)
  | .quad => mate
  | .die => n.die == dieOf t.core
  | .pkg => n.die / 8 == pkgOf t.core
  | .pod => true

/-- Whether a participant has executed its k-th barrier of the scope or has completed. -/
def hasJoined (s : State) (sc : Scope) (num k : Nat) (n : Node) : Bool :=
  n.state == .done || (match nodeThread s num n.index with
    | some x => decide (k ≤ x.barCount.getD sc.code 0)
    | none => false)

/-- Whether the current thread's latest barrier of the scope completes (R228). A spawned node and a thread without a team, at
.core and .quad, are alone. -/
def barrierDone (s : State) (sc : Scope) : Bool :=
  if s.t.spawned then true
  else
    match launchOf s s.t.launch with
    | none => true
    | some l =>
      let k := s.t.barCount.getD sc.code 0
      l.nodes.all fun n => n.index == s.t.node || !partakes s sc s.t n || hasJoined s sc l.num k n

/-- The arrival at the barrier, once, and the wait for the others. -/
def joinBarrier (sc : Scope) (s : State) : Res :=
  let s1 := if s.t.arrived = some sc then s
    else (drainMatrix s).updT fun t =>
      { t with arrived := some sc, barCount := t.barCount.setIfInBounds sc.code (t.barCount.getD sc.code 0 + 1) }
  if barrierDone s1 sc then .ok (s1.updT fun t => { t with arrived := none }) else .stall s1

/-- `bar.s` (R228, R229): the thread waits in its slot. -/
def execBar (sc : Scope) (s : State) : Host.Outcome State Fault Refusal := bothOp (joinBarrier sc) s

/-- BARRIER_COMPLETE (R228): the barrier at which the current thread has arrived completes, when every participant has. -/
def execBarrierComplete (sc : Scope) (s : State) : Host.Outcome State Fault Refusal :=
  if s.t.arrived = some sc ∧ barrierDone s sc then
    happening (advance (s.updT fun t => { t with arrived := none }))
  else happening s

end Sys2Proof.Machine
end

