-- ==== Sys2Proof/Machine/VectorFp.lean ====
section
/-! DEFINITION. Vector floating-point arithmetic and FMA (R257 to R260). -/

namespace Sys2Proof.Machine

/-- An instruction on the values of TY: `f` from format, mode, vtype.SAT and the values of va, the second source and old vd. -/
def fpVec (f : FloatFmt → Nat → Bool → FVal → FVal → FVal → Nat × Fl) (o : WV) (s : State) : Host.Outcome State Fault Refusal :=
  vecOp true (fun s1 ty a b d =>
    let fm := fmtOf ty
    f fm (frmMode s1) (vtSat s1) (fm.value a) (fm.value b) (fm.value d)) o s

/-- An instruction on the bit patterns of TY (R38, R40). -/
def fpBits (f : FloatFmt → Nat → Nat → Nat × Fl) (o : WV) (s : State) : Host.Outcome State Fault Refusal :=
  vecOp true (fun _ ty a b _ => f (fmtOf ty) a b) o s

def execVfadd (o : WV) (s : State) := fpVec (fun f m t a b _ => fAdd f m t a b) o s
def execVfsub (o : WV) (s : State) := fpVec (fun f m t a b _ => fAdd f m t a b.neg) o s
def execVfmul (o : WV) (s : State) := fpVec (fun f m t a b _ => fMul f m t a b) o s
def execVfdiv (o : WV) (s : State) := fpVec (fun f m t a b _ => fDiv f m t a b) o s
def execVfsqrt (o : WV) (s : State) := fpVec (fun f m t a _ _ => fSqrt f m t a) (aloneSrc o) s
def execVfmin (o : WV) (s : State) := fpBits (fun f a b => fMinMax f false a b) o s
def execVfmax (o : WV) (s : State) := fpBits (fun f a b => fMinMax f true a b) o s
def execVfabs (o : WV) (s : State) := fpBits (fun f a _ => (a % f.signBit, 0)) (aloneSrc o) s
def execVfneg (o : WV) (s : State) := fpBits (fun f a _ => (a ^^^ f.signBit, 0)) (aloneSrc o) s
def execVfsgnj (o : WV) (s : State) := fpBits (fun f a b => (a % f.signBit + b / f.signBit * f.signBit, 0)) o s

def execVfma (o : WV) (s : State) := fpVec (fun f m t a b c => fFma f m t a b c) o s
def execVfms (o : WV) (s : State) := fpVec (fun f m t a b c => fFma f m t a b c.neg) o s
def execVfnma (o : WV) (s : State) := fpVec (fun f m t a b c => fFma f m t a.neg b c.neg) o s
def execVfnms (o : WV) (s : State) := fpVec (fun f m t a b c => fFma f m t a.neg b c) o s

end Sys2Proof.Machine
end

