-- ==== Sys2Proof/Machine/Dispatch.lean ====
section
/-! DEFINITION. The dispatch of every instruction and every machine step to its meaning, one arm per constructor of `Instr`. -/

namespace Sys2Proof.Machine

def exec (i : Instr) (s : State) : Host.Outcome State Fault Refusal :=
  match i with
  | .svc o => Sys2Proof.Machine.execSvc o s
  | .mfc o => Sys2Proof.Machine.execMfc o s
  | .mtc o => Sys2Proof.Machine.execMtc o s
  | .mtcTpc o => Sys2Proof.Machine.execMtcTpc o s
  | .mtcVtype o => Sys2Proof.Machine.execMtcVtype o s
  | .mtcVl o => Sys2Proof.Machine.execMtcVl o s
  | .mtcFrm o => Sys2Proof.Machine.execMtcFrm o s
  | .mtcPbnd o => Sys2Proof.Machine.execMtcPbnd o s
  | .dqput o => Sys2Proof.Machine.execDqput o s
  | .dqget o => Sys2Proof.Machine.execDqget o s
  | .xqput o => Sys2Proof.Machine.execXqput o s
  | .xqget o => Sys2Proof.Machine.execXqget o s
  | .bqput o => Sys2Proof.Machine.execBqput o s
  | .phase sc => Sys2Proof.Machine.execPhase sc s
  | .fence sc => Sys2Proof.Machine.execFence sc s
  | .bar sc => Sys2Proof.Machine.execBar sc s
  | .add o => Sys2Proof.Machine.execAdd o s
  | .sub o => Sys2Proof.Machine.execSub o s
  | .and o => Sys2Proof.Machine.execAnd o s
  | .or o => Sys2Proof.Machine.execOr o s
  | .xor o => Sys2Proof.Machine.execXor o s
  | .sll o => Sys2Proof.Machine.execSll o s
  | .srl o => Sys2Proof.Machine.execSrl o s
  | .sra o => Sys2Proof.Machine.execSra o s
  | .slt o => Sys2Proof.Machine.execSlt o s
  | .sltn o => Sys2Proof.Machine.execSltn o s
  | .mul o => Sys2Proof.Machine.execMul o s
  | .mulh o => Sys2Proof.Machine.execMulh o s
  | .mulhn o => Sys2Proof.Machine.execMulhn o s
  | .div o => Sys2Proof.Machine.execDiv o s
  | .divn o => Sys2Proof.Machine.execDivn o s
  | .rem o => Sys2Proof.Machine.execRem o s
  | .remn o => Sys2Proof.Machine.execRemn o s
  | .min o => Sys2Proof.Machine.execMin o s
  | .max o => Sys2Proof.Machine.execMax o s
  | .minn o => Sys2Proof.Machine.execMinn o s
  | .maxn o => Sys2Proof.Machine.execMaxn o s
  | .popc o => Sys2Proof.Machine.execPopc o s
  | .clz o => Sys2Proof.Machine.execClz o s
  | .ctz o => Sys2Proof.Machine.execCtz o s
  | .fadd dbl o => Sys2Proof.Machine.execFadd dbl o s
  | .fsub dbl o => Sys2Proof.Machine.execFsub dbl o s
  | .fmul dbl o => Sys2Proof.Machine.execFmul dbl o s
  | .fdiv dbl o => Sys2Proof.Machine.execFdiv dbl o s
  | .fsqrt dbl o => Sys2Proof.Machine.execFsqrt dbl o s
  | .fmin dbl o => Sys2Proof.Machine.execFmin dbl o s
  | .fmax dbl o => Sys2Proof.Machine.execFmax dbl o s
  | .feq dbl o => Sys2Proof.Machine.execFeq dbl o s
  | .flt dbl o => Sys2Proof.Machine.execFlt dbl o s
  | .fle dbl o => Sys2Proof.Machine.execFle dbl o s
  | .fsgnj dbl o => Sys2Proof.Machine.execFsgnj dbl o s
  | .fmadd o => Sys2Proof.Machine.execFmadd o s
  | .fmsub o => Sys2Proof.Machine.execFmsub o s
  | .fnmadd o => Sys2Proof.Machine.execFnmadd o s
  | .fnmsub o => Sys2Proof.Machine.execFnmsub o s
  | .fcvt o => Sys2Proof.Machine.execFcvt o s
  | .nspawn o => Sys2Proof.Machine.execNspawn o s
  | .nspawnW o => Sys2Proof.Machine.execNspawnW o s
  | .addi o => Sys2Proof.Machine.execAddi o s
  | .andi o => Sys2Proof.Machine.execAndi o s
  | .ori o => Sys2Proof.Machine.execOri o s
  | .xori o => Sys2Proof.Machine.execXori o s
  | .slli o => Sys2Proof.Machine.execSlli o s
  | .srli o => Sys2Proof.Machine.execSrli o s
  | .srai o => Sys2Proof.Machine.execSrai o s
  | .slti o => Sys2Proof.Machine.execSlti o s
  | .sltni o => Sys2Proof.Machine.execSltni o s
  | .limm o => Sys2Proof.Machine.execLimm o s
  | .pcaddr o => Sys2Proof.Machine.execPcaddr o s
  | .beq o => Sys2Proof.Machine.execBeq o s
  | .bne o => Sys2Proof.Machine.execBne o s
  | .blt o => Sys2Proof.Machine.execBlt o s
  | .bge o => Sys2Proof.Machine.execBge o s
  | .bltn o => Sys2Proof.Machine.execBltn o s
  | .bgen o => Sys2Proof.Machine.execBgen o s
  | .jal o => Sys2Proof.Machine.execJal o s
  | .jalr o => Sys2Proof.Machine.execJalr o s
  | .bqx o => Sys2Proof.Machine.execBqx o s
  | .seqlev o => Sys2Proof.Machine.execSeqlev o s
  | .seqbind o => Sys2Proof.Machine.execSeqbind o s
  | .seqstride o => Sys2Proof.Machine.execSeqstride o s
  | .seqrun o => Sys2Proof.Machine.execSeqrun o s
  | .seqhalt o => Sys2Proof.Machine.execSeqhalt o s
  | .ldS8 o => Sys2Proof.Machine.execLdS8 o s
  | .ldS16 o => Sys2Proof.Machine.execLdS16 o s
  | .ldS32 o => Sys2Proof.Machine.execLdS32 o s
  | .ldS64 o => Sys2Proof.Machine.execLdS64 o s
  | .ldN8 o => Sys2Proof.Machine.execLdN8 o s
  | .ldN16 o => Sys2Proof.Machine.execLdN16 o s
  | .ldN32 o => Sys2Proof.Machine.execLdN32 o s
  | .stN8 o => Sys2Proof.Machine.execStN8 o s
  | .stN16 o => Sys2Proof.Machine.execStN16 o s
  | .stN32 o => Sys2Proof.Machine.execStN32 o s
  | .stN64 o => Sys2Proof.Machine.execStN64 o s
  | .ldq o => Sys2Proof.Machine.execLdq o s
  | .atswap o => Sys2Proof.Machine.execAtswap o s
  | .atadd o => Sys2Proof.Machine.execAtadd o s
  | .atand o => Sys2Proof.Machine.execAtand o s
  | .ator o => Sys2Proof.Machine.execAtor o s
  | .atxor o => Sys2Proof.Machine.execAtxor o s
  | .atmin o => Sys2Proof.Machine.execAtmin o s
  | .atmax o => Sys2Proof.Machine.execAtmax o s
  | .atminn o => Sys2Proof.Machine.execAtminn o s
  | .atmaxn o => Sys2Proof.Machine.execAtmaxn o s
  | .atcas o => Sys2Proof.Machine.execAtcas o s
  | .vstream o => Sys2Proof.Machine.execVstream o s
  | .vstreamSt o => Sys2Proof.Machine.execVstreamSt o s
  | .vsunbind o => Sys2Proof.Machine.execVsunbind o s
  | .vld o => Sys2Proof.Machine.execVld o s
  | .vst o => Sys2Proof.Machine.execVst o s
  | .vlds o => Sys2Proof.Machine.execVlds o s
  | .vsts o => Sys2Proof.Machine.execVsts o s
  | .vldx o => Sys2Proof.Machine.execVldx o s
  | .vstx o => Sys2Proof.Machine.execVstx o s
  | .vldu o => Sys2Proof.Machine.execVldu o s
  | .vstu o => Sys2Proof.Machine.execVstu o s
  | .vldbp o => Sys2Proof.Machine.execVldbp o s
  | .vstbp o => Sys2Proof.Machine.execVstbp o s
  | .sldsc o => Sys2Proof.Machine.execSldsc o s
  | .sstsc o => Sys2Proof.Machine.execSstsc o s
  | .vspill o => Sys2Proof.Machine.execVspill o s
  | .vfill o => Sys2Proof.Machine.execVfill o s
  | .vldf o => Sys2Proof.Machine.execVldf o s
  | .vstf o => Sys2Proof.Machine.execVstf o s
  | .folbind o => Sys2Proof.Machine.execFolbind o s
  | .folrel o => Sys2Proof.Machine.execFolrel o s
  | .folfill o => Sys2Proof.Machine.execFolfill o s
  | .foldrain o => Sys2Proof.Machine.execFoldrain o s
  | .vldView o => Sys2Proof.Machine.execVldView o s
  | .vregView o => Sys2Proof.Machine.execVregView o s
  | .vdropView o => Sys2Proof.Machine.execVdropView o s
  | .vwaitView o => Sys2Proof.Machine.execVwaitView o s
  | .vsetvl o => Sys2Proof.Machine.execVsetvl o s
  | .vsettype o => Sys2Proof.Machine.execVsettype o s
  | .vadd o => Sys2Proof.Machine.execVadd o s
  | .vsub o => Sys2Proof.Machine.execVsub o s
  | .vrsub o => Sys2Proof.Machine.execVrsub o s
  | .vmul o => Sys2Proof.Machine.execVmul o s
  | .vmulh o => Sys2Proof.Machine.execVmulh o s
  | .vmin o => Sys2Proof.Machine.execVmin o s
  | .vmax o => Sys2Proof.Machine.execVmax o s
  | .vand o => Sys2Proof.Machine.execVand o s
  | .vor o => Sys2Proof.Machine.execVor o s
  | .vxor o => Sys2Proof.Machine.execVxor o s
  | .vadds o => Sys2Proof.Machine.execVadds o s
  | .vsubs o => Sys2Proof.Machine.execVsubs o s
  | .vabs o => Sys2Proof.Machine.execVabs o s
  | .vavg o => Sys2Proof.Machine.execVavg o s
  | .vsll o => Sys2Proof.Machine.execVsll o s
  | .vsrl o => Sys2Proof.Machine.execVsrl o s
  | .vsra o => Sys2Proof.Machine.execVsra o s
  | .vsrar o => Sys2Proof.Machine.execVsrar o s
  | .vsrlr o => Sys2Proof.Machine.execVsrlr o s
  | .vnsra o => Sys2Proof.Machine.execVnsra o s
  | .vfunl o => Sys2Proof.Machine.execVfunl o s
  | .vfunr o => Sys2Proof.Machine.execVfunr o s
  | .vmac o => Sys2Proof.Machine.execVmac o s
  | .vmacs o => Sys2Proof.Machine.execVmacs o s
  | .vdot2 o => Sys2Proof.Machine.execVdot2 o s
  | .vdot2s o => Sys2Proof.Machine.execVdot2s o s
  | .vdot4 o => Sys2Proof.Machine.execVdot4 o s
  | .vdot4s o => Sys2Proof.Machine.execVdot4s o s
  | .vceq o => Sys2Proof.Machine.execVceq o s
  | .vcne o => Sys2Proof.Machine.execVcne o s
  | .vclt o => Sys2Proof.Machine.execVclt o s
  | .vcle o => Sys2Proof.Machine.execVcle o s
  | .vcgt o => Sys2Proof.Machine.execVcgt o s
  | .vcge o => Sys2Proof.Machine.execVcge o s
  | .mand o => Sys2Proof.Machine.execMand o s
  | .mor o => Sys2Proof.Machine.execMor o s
  | .mxor o => Sys2Proof.Machine.execMxor o s
  | .mnot o => Sys2Proof.Machine.execMnot o s
  | .mpopc o => Sys2Proof.Machine.execMpopc o s
  | .vslup o => Sys2Proof.Machine.execVslup o s
  | .vsldn o => Sys2Proof.Machine.execVsldn o s
  | .vcompress o => Sys2Proof.Machine.execVcompress o s
  | .vexpand o => Sys2Proof.Machine.execVexpand o s
  | .viota o => Sys2Proof.Machine.execViota o s
  | .vgather o => Sys2Proof.Machine.execVgather o s
  | .vmerge o => Sys2Proof.Machine.execVmerge o s
  | .vmv o => Sys2Proof.Machine.execVmv o s
  | .vredsum o => Sys2Proof.Machine.execVredsum o s
  | .vredsums o => Sys2Proof.Machine.execVredsums o s
  | .vredmax o => Sys2Proof.Machine.execVredmax o s
  | .vredmin o => Sys2Proof.Machine.execVredmin o s
  | .vredand o => Sys2Proof.Machine.execVredand o s
  | .vredor o => Sys2Proof.Machine.execVredor o s
  | .vredxor o => Sys2Proof.Machine.execVredxor o s
  | .vscan o => Sys2Proof.Machine.execVscan o s
  | .vfadd o => Sys2Proof.Machine.execVfadd o s
  | .vfsub o => Sys2Proof.Machine.execVfsub o s
  | .vfmul o => Sys2Proof.Machine.execVfmul o s
  | .vfdiv o => Sys2Proof.Machine.execVfdiv o s
  | .vfsqrt o => Sys2Proof.Machine.execVfsqrt o s
  | .vfmin o => Sys2Proof.Machine.execVfmin o s
  | .vfmax o => Sys2Proof.Machine.execVfmax o s
  | .vfabs o => Sys2Proof.Machine.execVfabs o s
  | .vfneg o => Sys2Proof.Machine.execVfneg o s
  | .vfsgnj o => Sys2Proof.Machine.execVfsgnj o s
  | .vfma o => Sys2Proof.Machine.execVfma o s
  | .vfms o => Sys2Proof.Machine.execVfms o s
  | .vfnma o => Sys2Proof.Machine.execVfnma o s
  | .vfnms o => Sys2Proof.Machine.execVfnms o s
  | .vcvt o => Sys2Proof.Machine.execVcvt o s
  | .vcvtz o => Sys2Proof.Machine.execVcvtz o s
  | .vquant o => Sys2Proof.Machine.execVquant o s
  | .vdeq o => Sys2Proof.Machine.execVdeq o s
  | .vfredsum o => Sys2Proof.Machine.execVfredsum o s
  | .vfredmax o => Sys2Proof.Machine.execVfredmax o s
  | .vfredmin o => Sys2Proof.Machine.execVfredmin o s
  | .vfscan o => Sys2Proof.Machine.execVfscan o s
  | .vfred2 o => Sys2Proof.Machine.execVfred2 o s
  | .vblk o => Sys2Proof.Machine.execVblk o s
  | .lfetch o => Sys2Proof.Machine.execLfetch o s
  | .mmode o => Sys2Proof.Machine.execMmode o s
  | .mexit o => Sys2Proof.Machine.execMexit o s
  | .tcfg o => Sys2Proof.Machine.execTcfg o s
  | .trel o => Sys2Proof.Machine.execTrel o s
  | .tmvr o => Sys2Proof.Machine.execTmvr o s
  | .tmvc o => Sys2Proof.Machine.execTmvc o s
  | .tld o => Sys2Proof.Machine.execTld o s
  | .tst o => Sys2Proof.Machine.execTst o s
  | .mop o => Sys2Proof.Machine.execMop o s
  | .mopsp o => Sys2Proof.Machine.execMopsp o s
  | .mopneg o => Sys2Proof.Machine.execMopneg o s
  | .accmv o => Sys2Proof.Machine.execAccmv o s
  | .accPeek o => Sys2Proof.Machine.execAccPeek o s
  | .acczero o => Sys2Proof.Machine.execAcczero o s
  | .accsp o => Sys2Proof.Machine.execAccsp o s
  | .accfl o => Sys2Proof.Machine.execAccfl o s
  | .gcvt o => Sys2Proof.Machine.execGcvt o s
  | .gadd o => Sys2Proof.Machine.execGadd o s
  | .gsub o => Sys2Proof.Machine.execGsub o s
  | .gscale o => Sys2Proof.Machine.execGscale o s
  | .gsettag o => Sys2Proof.Machine.execGsettag o s
  | .gtagof o => Sys2Proof.Machine.execGtagof o s
  | .fnew o => Sys2Proof.Machine.execFnew o s
  | .fmove o => Sys2Proof.Machine.execFmove o s
  | .fsplit o => Sys2Proof.Machine.execFsplit o s
  | .fdel o => Sys2Proof.Machine.execFdel o s
  | .fdelAdopt o => Sys2Proof.Machine.execFdelAdopt o s
  | .fdelFwd o => Sys2Proof.Machine.execFdelFwd o s
  | .freclaim o => Sys2Proof.Machine.execFreclaim o s
  | .fread o => Sys2Proof.Machine.execFread o s
  | .xcopy o => Sys2Proof.Machine.execXcopy o s
  | .xput o => Sys2Proof.Machine.execXput o s
  | .xputW o => Sys2Proof.Machine.execXputW o s
  | .xreduce o => Sys2Proof.Machine.execXreduce o s
  | .xcopyView o => Sys2Proof.Machine.execXcopyView o s
  | .zenc o => Sys2Proof.Machine.execZenc o s
  | .zdec o => Sys2Proof.Machine.execZdec o s
  | .cbinit o => Sys2Proof.Machine.execCbinit o s
  | .cbarrive o => Sys2Proof.Machine.execCbarrive o s
  | .cbwait o => Sys2Proof.Machine.execCbwait o s
  | .cbtest o => Sys2Proof.Machine.execCbtest o s
  | .pput o => Sys2Proof.Machine.execPput o s
  | .ptake o => Sys2Proof.Machine.execPtake o s
  | .ptakeW o => Sys2Proof.Machine.execPtakeW o s
  | .pbnd o => Sys2Proof.Machine.execPbnd o s
  | .pstat o => Sys2Proof.Machine.execPstat o s
  | .pdrain o => Sys2Proof.Machine.execPdrain o s
  | .nop => Sys2Proof.Machine.execNop s
  | .nend => Sys2Proof.Machine.execNend s
  | .tret => Sys2Proof.Machine.execTret s
  | .brk => Sys2Proof.Machine.execBrk s
  | .vjoin => Sys2Proof.Machine.execVjoin s
  | .lstop => Sys2Proof.Machine.execLstop s
  | .barrierComplete sc => Sys2Proof.Machine.execBarrierComplete sc s
  | .spawnQueueMade die => Sys2Proof.Machine.execSpawnQueueMade die s
  | .lineEntry => Sys2Proof.Machine.execLineEntry s
  | .streamChunkFill vd => Sys2Proof.Machine.execStreamChunkFill vd s
  | .streamEgLanded vd eg => Sys2Proof.Machine.execStreamEgLanded vd eg s
  | .folioFillComplete core entry => Sys2Proof.Machine.execFolioFillComplete core entry s
  | .folioFillFault core entry => Sys2Proof.Machine.execFolioFillFault core entry s
  | .folioDrainComplete core entry => Sys2Proof.Machine.execFolioDrainComplete core entry s
  | .laneFault g tr => Sys2Proof.Machine.execLaneFault g tr s
  | .sliceIssue pkg core => Sys2Proof.Machine.execSliceIssue pkg core s
  | .mmodeGrant core => Sys2Proof.Machine.execMmodeGrant core s
  | .matrixQueueComplete => Sys2Proof.Machine.execMatrixQueueComplete s
  | .xcopyComplete cmd => Sys2Proof.Machine.execXcopyComplete cmd s
  | .putWaitAccept cont => Sys2Proof.Machine.execPutWaitAccept cont s
  | .putSourceRead cmd => Sys2Proof.Machine.execPutSourceRead cmd s
  | .putPacketLand cmd size => Sys2Proof.Machine.execPutPacketLand cmd size s
  | .putComplete cmd => Sys2Proof.Machine.execPutComplete cmd s
  | .collectiveForm part key => Sys2Proof.Machine.execCollectiveForm part key s
  | .zcodecComplete cmd => Sys2Proof.Machine.execZcodecComplete cmd s
  | .cbFlipObserved cont => Sys2Proof.Machine.execCbFlipObserved cont s
  | .roundBoundary pkg => Sys2Proof.Machine.execRoundBoundary pkg s
  | .poolSteal steal => Sys2Proof.Machine.execPoolSteal steal s
  | .poolPutWake part pool => Sys2Proof.Machine.execPoolPutWake part pool s
  | .dispatch die => Sys2Proof.Machine.execDispatch die s
  | .priorityAging die => Sys2Proof.Machine.execPriorityAging die s
  | .resumeListPost die => Sys2Proof.Machine.execResumeListPost die s
  | .resumeListTake die => Sys2Proof.Machine.execResumeListTake die s
  | .continuationReady cont => Sys2Proof.Machine.execContinuationReady cont s
  | .crossDieEdge launch node => Sys2Proof.Machine.execCrossDieEdge launch node s
  | .queueStallTimeout => Sys2Proof.Machine.execQueueStallTimeout s
  | .trapEntry tr => Sys2Proof.Machine.execTrapEntry tr s
  | .pageFaultService grant => Sys2Proof.Machine.execPageFaultService grant s
  | .laneReexecute lane eg check => Sys2Proof.Machine.execLaneReexecute lane eg check s
  | .scrub finding => Sys2Proof.Machine.execScrub finding s
  | .dieCacheEvict die line => Sys2Proof.Machine.execDieCacheEvict die line s
  | .tlbShootdown part pkg => Sys2Proof.Machine.execTlbShootdown part pkg s
  | .pageMigration part pkg va newPa => Sys2Proof.Machine.execPageMigration part pkg va newPa s
  | .pageSwitch part pkg va => Sys2Proof.Machine.execPageSwitch part pkg va s
  | .viewRefreshRead die => Sys2Proof.Machine.execViewRefreshRead die s
  | .viewRefreshPublish die => Sys2Proof.Machine.execViewRefreshPublish die s
  | .pathArbitration path demands => Sys2Proof.Machine.execPathArbitration path demands s
  | .preempt uid area => Sys2Proof.Machine.execPreempt uid area s
  | .preemptResume saved quad => Sys2Proof.Machine.execPreemptResume saved quad s
  | .nodeEnded core slot => Sys2Proof.Machine.execNodeEnded core slot s
  | .codePageHashFail part pkg va => Sys2Proof.Machine.execCodePageHashFail part pkg va s
  | .tetherPeerEnd part => Sys2Proof.Machine.execTetherPeerEnd part s
  | .version c => Sys2Proof.Machine.execVersion c s
  | .launch c => Sys2Proof.Machine.execLaunch c s
  | .waitForLaunch c => Sys2Proof.Machine.execWaitForLaunch c s
  | .poolCreate c => Sys2Proof.Machine.execPoolCreate c s
  | .poolEnd c => Sys2Proof.Machine.execPoolEnd c s
  | .tetherGrant c => Sys2Proof.Machine.execTetherGrant c s
  | .tetherRevoke c => Sys2Proof.Machine.execTetherRevoke c s
  | .mapMemory c => Sys2Proof.Machine.execMapMemory c s
  | .unmap c => Sys2Proof.Machine.execUnmap c s
  | .log c => Sys2Proof.Machine.execLog c s
  | .attestationQuote c => Sys2Proof.Machine.execAttestationQuote c s
  | .enrolSigningKey c => Sys2Proof.Machine.execEnrolSigningKey c s
  | .clearBootRecordAlternatives c => Sys2Proof.Machine.execClearBootRecordAlternatives c s
  | .unknownService n c => Sys2Proof.Machine.execUnknownService n c s
  | .codexLoad part f => Sys2Proof.Machine.execCodexLoad part f s
  | .hostMailboxRequest r => Sys2Proof.Machine.execHostMailboxRequest r s
  | .quoteRequest nonce => Sys2Proof.Machine.execQuoteRequest nonce s
  | .packageStart o => Sys2Proof.Machine.execPackageStart o s
  | .powerLoss => Sys2Proof.Machine.execPowerLoss s
  | .xcopyViewComplete cmd => Sys2Proof.Machine.execXcopyViewComplete cmd s
  | .partitionCreate p => Sys2Proof.Machine.execPartitionCreate p s
  | .partitionResize part path units => Sys2Proof.Machine.execPartitionResize part path units s
  | .debugStep => Sys2Proof.Machine.execDebugStep s

end Sys2Proof.Machine
end

