-- ==== Sys2Proof/Machine/Cycle.lean ====
section
/-! DEFINITION. What moves next, and one step of the machine (R81, R82, R85, R122, R141; log 3): a happening the agenda names, the
running thread's next instruction, or a happening that the state makes due; and how an instruction is put where the machine fetches. -/

namespace Sys2Proof.Machine

/-- Goes on with the next state of an outcome. -/
def andThen (r : Host.Outcome State Fault Refusal) (f : State → Host.Outcome State Fault Refusal) : Host.Outcome State Fault Refusal :=
  match r with
  | .next s => f s
  | .fault x => .fault x
  | .refused x => .refused x

/-- Goes on where what came before had to wait. -/
def ifStalled (r : Host.Outcome State Fault Refusal) (f : State → Host.Outcome State Fault Refusal) : Host.Outcome State Fault Refusal :=
  andThen r fun s => if s.stalled then f s else .next s

/-! ## What the state makes due -/

/-- The happenings of the current thread's units: posted matrix work, bound streams, a barrier it has joined, a queue stall. -/
noncomputable def threadDue (s : State) : List Instr :=
  (if s.t.mq.isEmpty then [] else [.matrixQueueComplete]) ++
    (s.t.binds.filterMap fun b => if b.store || b.filled then none else some (.streamChunkFill (BitVec.ofNat 5 b.vd))) ++
    (match s.t.arrived with
      | some sc => [.barrierComplete sc]
      | none => []) ++ [.queueStallTimeout]

/-- The happenings of folios and matrix units. -/
noncomputable def coreDue (s : State) : List Instr :=
  (s.folios.filterMap fun e => match e.state with
    | .filling => some (if e.bad.isSome then .folioFillFault e.core e.index else .folioFillComplete e.core e.index)
    | .draining => some (.folioDrainComplete e.core e.index)
    | .ready | .empty => none) ++
    (((allThreads s).filter fun t => t.mwait != 0).map Thread.core).dedup.map .mmodeGrant

/-- The happenings of a command. -/
noncomputable def commandDue (c : Cmd) : List Instr :=
  match c.kind with
  | .xcopy => [.xcopyComplete c.id]
  | .xcopyView => [.xcopyViewComplete c.id]
  | .zenc | .zdec => [.zcodecComplete c.id]
  | .xput => [.putSourceRead c.id, .putPacketLand c.id 4096, .putComplete c.id]
  | .xreduce => []

/-- The happenings of the engines. -/
noncomputable def engineDue (s : State) : List Instr :=
  (s.cmds.map commandDue).flatten ++ s.colls.map (fun x => .collectiveForm x.part x.key) ++
    ((s.views.map fun v => (v.copies.map fun c => c.blocks.map Block.die).flatten).flatten.dedup.map fun d =>
      [.viewRefreshRead d, .viewRefreshPublish d]).flatten

/-- The happenings of continuations and schedulers. -/
noncomputable def schedulerDue (s : State) : List Instr :=
  let dies := (s.ready.map Ready.die).dedup
  (s.conts.map fun c => [.putWaitAccept c.id, .cbFlipObserved c.id, .continuationReady c.id]).flatten ++
    ((s.spawnQueue.filterMap fun id => (spawnOf s id).map Spawn.die).dedup.map .spawnQueueMade) ++
    ((s.launches.map fun l => l.nodes.filterMap fun n =>
      if n.state = .waiting ∧ 0 < n.crossLeft then some (.crossDieEdge l.num n.index) else none).flatten) ++
    (dies.map fun d => [.dispatch d, .priorityAging d, .resumeListPost d]).flatten ++
    ((s.parts.map fun p => if p.resume.isEmpty then [] else dieList p).flatten.dedup.map .resumeListTake)

/-- A pool whose next boundary can change something. -/
def Pool.pends (p : Pool) : Bool :=
  !p.moving.isEmpty || !p.takes.isEmpty || p.held || (p.shelves.any fun x => !x.puts.isEmpty) || (p.drainers.any fun d => d.removed.isNone) ||
    (!p.waiters.isEmpty && p.closed)

/-- The happenings of pools. -/
noncomputable def poolDue (s : State) : List Instr :=
  (s.pools.map fun p => p.takes.map (fun k => .poolSteal k.id) ++ (if p.waiters.isEmpty then [] else [.poolPutWake p.part p.num])).flatten ++
    ((s.pools.filter Pool.pends).map Pool.pkg).dedup.map .roundBoundary

/-- Whether a thread has something to run. -/
def TStatus.runs : TStatus → Bool
  | .running | .ending _ _ _ _ => true
  | .free | .pageFault _ _ | .halted => false

/-- Horsil's last resort, when no thread can run: it delivers the faults of pages that nobody maps. -/
noncomputable def horsilDue (s : State) : List Instr :=
  if (allThreads s).any fun t => t.status.runs then [] else [.pageFaultService none]

/-- Every happening that may be due. -/
noncomputable def due (s : State) : List Instr :=
  threadDue s ++ coreDue s ++ engineDue s ++ schedulerDue s ++ poolDue s ++ horsilDue s

/-- The state that a happening leaves, when it changes anything. -/
def changes (s : State) (i : Instr) : Option State :=
  match exec i s with
  | .next s1 => if s1 = { s with stalled := false } then none else some s1
  | .fault _ | .refused _ => none

/-- At most one happening that is due, in turn; completion entries that found no free slot are written as slots free (R378). -/
noncomputable def background (s : State) : State :=
  let l := due s
  let k := s.cycle % max 1 l.length
  flushAll (((l.drop k ++ l.take k).findSome? (changes s)).getD s)

/-- One fabric cycle passes; die caches hold no more than they can (R16). -/
def tick (s : State) : State := { evictOver s with cycle := s.cycle + 1, stalled := false }

/-- Something due happens, and the turn passes to the next thread that can run. -/
noncomputable def rest (s : State) : State := tick (switchTo (background s) fun t => t.status.runs)

/-! ## The current thread -/

/-- A step that has nothing to do. -/
def waits (s : State) : Host.Outcome State Fault Refusal := .next { s with stalled := true }

/-- Runs an entry that stands as the running instruction. -/
noncomputable def runEntry (e : XEntry) (s : State) : Host.Outcome State Fault Refusal :=
  match decode e.head e.tail with
  | some (i, _) => exec i s
  | none => executeOp [] .ignore illegal s

/-- One instruction of a lane thread (R84, R273). -/
noncomputable def stepLane (l : Lane) (s : State) : Host.Outcome State Fault Refusal :=
  match beginLane l s with
  | none => .next { laneEnd s l.g with stalled := false }
  | some (e, s1) => andThen (runEntry e s1) fun s2 => .next (endLane l.g s s2)

/-- The lane threads' turn: the lowest one's instruction, or under the debugger one of each (R87). -/
noncomputable def stepLanes (s : State) : Host.Outcome State Fault Refusal :=
  match runningLanes s with
  | [] => waits s
  | l :: r => if s.t.stepping then r.foldl (fun a x => andThen a (stepLane x)) (stepLane l s) else stepLane l s

/-- The vector queue's turn: its oldest instruction (R79). -/
noncomputable def stepHead (s : State) : Host.Outcome State Fault Refusal :=
  match beginHead s with
  | none => waits s
  | some (e, s1) => andThen (runEntry e s1) fun s2 => .next (endHead s.t.uid e s2)

/-- The decoded execute-stream instructions' turn to enter the vector queue. -/
noncomputable def stepEnter (s : State) : Host.Outcome State Fault Refusal :=
  let legal := match s.t.xdec with
    | e :: _ => (decode e.head e.tail).isSome
    | [] => false
  match enterQueue legal s with
  | some s1 => .next { s1 with stalled := false }
  | none => waits s

/-- The access stream has passed an instruction, unless it waits or has returned from a trap, where the count of RPC stands again (R438). -/
def passedOne (s0 s : State) : State :=
  if s.stalled ∨ s.t.uid ≠ s0.t.uid ∨ (s0.t.ctl.inh ∧ s.t.ctl.inh = false) then s else s.updT fun t => { t with decodes := s0.t.decodes + 1 }

/-- The access stream's instruction at the PC, in its entered line. -/
noncomputable def runAccess (s0 : State) : Host.Outcome State Fault Refusal :=
  let s := beginPass s0
  match accessHead s with
  | none => waits s
  | some (h, t) =>
    match decode h t with
    | none =>
      let r := match descWords h with
        | some n => illegalCommand n t s
        | none => illegalHead h s
      andThen r fun s1 => .next (afterAccess s (passedOne s s1))
    | some (i, fl) => if flagRuns s fl then andThen (exec i s) fun s1 => .next (afterAccess s (passedOne s s1)) else .next (skipHead s)

/-- The access stream's turn: it enters the line of its PC when it has to (R120), then runs the instruction. -/
noncomputable def stepAccess (s : State) : Host.Outcome State Fault Refusal :=
  if entered s then runAccess s
  else
    match enterOwn s with
    | .ok s1 => if entered s1 then runAccess s1 else .next { s1 with stalled := false }
    | .trap t s1 => .next (finish (.trap t s1) s)
    | .stall s1 => .next (finish (.stall s1) s)

/-- Whether the thread has run an instruction, or trapped: a queued one has run when it has committed, not when it was queued (R87). -/
def ranOne (s0 s : State) : Bool :=
  s.t.ctl.vcommit != s0.t.ctl.vcommit || s.t.ctl.inh != s0.t.ctl.inh || (s0.t.lanes.isSome && s.t.lanes != s0.t.lanes) ||
    (s.t.decodes != s0.t.decodes && decide (s.t.xdec.length ≤ s0.t.xdec.length))

/-- A thread that the debugger lets run one instruction halts after it (R87). -/
def afterStep (s0 s : State) : State :=
  if s0.t.stepping ∧ s.t.uid = s0.t.uid ∧ s.t.status = .running ∧ s.stalled = false ∧ ranOne s0 s then
    s.updT fun t => { t with status := .halted, stepping := false }
  else s

/-- The current thread's turn: lane threads, the vector queue, its entry, the access stream, in this order; where all wait,
something that is due happens. -/
noncomputable def stepThread (s : State) : Host.Outcome State Fault Refusal :=
  let r := ifStalled (ifStalled (ifStalled (stepLanes s) stepHead) stepEnter) stepAccess
  andThen r fun s1 => if s1.stalled then .next (rest s1) else .next (tick (afterStep s s1))

/-! ## The machine's step -/

/-- How often the turn passes on although the current thread can go on. -/
def turnLength : Nat := 256

/-- What the work of a start step of the current thread's package comes to when nothing from outside says so. -/
noncomputable def startOutcome (s : State) : StartOutcome :=
  let pkg := pkgOf s.t.core
  let b := bootOf s pkg
  { pkg := pkg, ok := Config.startOk pkg b.step b.unit, image := (Config.startImage pkg b.step).1, signature := (Config.startImage pkg b.step).2,
    codex := none }

/-- Without an agenda: the start of the current thread's package goes on, or the threads run. -/
noncomputable def stepOwn (s : State) : Host.Outcome State Fault Refusal :=
  let b := bootOf s (pkgOf s.t.core)
  if b.stopped then .fault (.startStopped b.step)
  else if b.running then exec (.packageStart (startOutcome s)) s
  else
    match s.t.status with
    | .running => if s.cycle % turnLength = turnLength - 1 then .next (rest s) else stepThread s
    | .ending _ _ _ _ => ifStalled (.next (completeNode s)) fun s1 => .next (rest s1)
    | .free | .pageFault _ _ | .halted => .next (rest s)

/-- One step: the agenda's first entry when there is one. A happening that has to wait goes behind the others while something else
that is due happens. -/
noncomputable def cycleStep (s : State) : Host.Outcome State Fault Refusal :=
  match s.agenda with
  | .event i :: r => ifStalled (exec i { s with agenda := r, stalled := false }) fun s1 => .next (rest { s1 with agenda := s1.agenda ++ [.event i] })
  | .thread core slot :: r =>
    .next { switchTo { s with agenda := r } (fun t => t.core == core && t.slot == slot && t.status != .free) with stalled := false }
  | [] => stepOwn s

/-! ## Placing an instruction -/

/-- Where `placeLine` puts a line: its virtual and physical address, in HBM of the thread's package. -/
def placeVa : Nat := 2 ^ 16
def placePa (core : Nat) : Nat := pkgOf core * 2 ^ 44 + 2 ^ 16

/-- The state with a line of code where the current thread fetches next (R116, R120): mapped for its core, with no older work of
the thread, no start and no agenda before it. -/
def placeLine (s : State) (line : Line) : State :=
  let core := s.t.core
  let pa := placePa core
  let bytes := (line.map fun h => natLe 2 h.toNat).flatten
  let e : TlbEntry :=
    { part := s.t.part, pkg := pkgOf core, va := placeVa, size := 16, pa := pa, r := false, w := false, x := true, z := false, dirty := false }
  let covers := fun (g : Guard) => g.pkg == pkgOf core && decide (g.base < placeVa + 64 ∧ placeVa < g.base + g.size)
  let open_ := fun (p : Partition) => if p.slot = s.t.part then { p with guards := p.guards.filter fun g => !covers g } else p
  let t := { s.t with
    status := .running, pc := BitVec.ofNat 64 placeVa, line := none, vq := [], xdec := [], xctx := none, dropRun := 0, lanes := none,
    replay := none, flows := false, limit := none, shadow := [], stepping := false }
  { tlbAdd (updBoot s (pkgOf core) fun b => { b with running := false, stopped := false }) core 256 e with
    t := t
    home := (bytes.mapIdx fun i b => (pa + i, b)).foldl (fun m c => m.write c.1 c.2) s.home
    poison := s.poison.filter (fun k => !(decide (pa ≤ k ∧ k < pa + 64)))
    zblocks := s.zblocks.filter (fun z => z.block != pa / 4096)
    badPages := s.badPages.filter (fun b => b != (s.t.part, pkgOf core, placeVa))
    parts := s.parts.map open_
    agenda := []
    cycle := s.cycle / turnLength * turnLength
    stalled := false }

/-- The line that holds an instruction of `nbits` bits, numbered as the opcode table numbers them, and nothing else. -/
def tableLine (nbits w : Nat) : Line :=
  let v := w % 2 ^ nbits
  oneLine (BitVec.ofNat 16 v) (BitVec.ofNat 64 (v >>> 16))

end Sys2Proof.Machine
end

