-- ==== Sys2Proof/Machine/Step.lean ====
section
/-! DEFINITION. The machine's step, and the state in which it fetches a given instruction next. -/

namespace Sys2Proof.Machine

/-- One step of the machine. -/
noncomputable def step (s : State) : Host.Outcome State Fault Refusal := cycleStep s

/-- The state with the instruction of `nbits` bits stored where `step` fetches next. -/
def State.withFetchWord (s : State) (nbits w : Nat) : State := placeLine s (tableLine nbits w)

end Sys2Proof.Machine
end

