-- ==== Sys2Proof/Safety.lean ====
section
/-! DEFINITION. What a safe state is and what a run is, in the terms that statements use. -/

namespace Sys2Proof.Machine

/-- Every memory of the state is in its one canonical form: the bytes at home and each thread's snapshot, resident, suspended or
pre-empted. -/
def State.memoryOk (s : State) : Bool :=
  s.home.wf && (s.t.snap.wf && s.parked.all fun t => t.snap.wf) && (s.conts.all fun c => c.th.snap.wf) && s.saved.all fun v => v.th.snap.wf

/-- A control-register file whose fields hold what their rules let them hold (R45, R186, R434). -/
def Ctl.ok (c : Ctl) : Bool :=
  decide (c.vl ≤ 8192 ∧ c.vstart < 2 ^ 13 ∧ c.vcommit < 2 ^ 48 ∧ c.tcause < 2 ^ 8 ∧ c.telem < 2 ^ 13) &&
    decide ((c.frm.extractLsb' 0 3).toNat < 4) && c.pbnd.toList.all fun b => decide (1 ≤ b ∧ b ≤ 4096)

/-- The outcome is a next state that meets a condition. -/
def nextWith (r : Host.Outcome State Fault Refusal) (p : State → Prop) : Prop := ∃ s, r = .next s ∧ p s

/-- `n` steps of the machine, stopping at a fault or a refusal. -/
noncomputable def runSteps : Nat → State → Host.Outcome State Fault Refusal
  | 0, s => .next s
  | n + 1, s => andThen (step s) (runSteps n)

/-! ## Terms for what an instruction does -/

/-- No queued execute-stream instruction has still to write one of the registers (R163). -/
def settledFor (rd : List (BitVec 5)) (s : State) : Prop := ∀ r ∈ rd, r ∉ pendingDests s

/-- The running instruction has been passed. -/
def passed (s : State) : State := { advance s with stalled := false }

/-- The outcome of an access-stream instruction whose one effect is a value in an s register. -/
def writesS (s : State) (fd : BitVec 5) (v : Word) : Host.Outcome State Fault Refusal := .next (passed (setS s fd v))

/-- The s register that a scalar integer instruction writes. -/
def scalarDest (i : Instr) : BitVec 5 :=
  match i with
  | .add o | .sub o | .and o | .or o | .xor o | .sll o | .srl o | .sra o | .slt o | .sltn o | .mul o | .mulh o | .mulhn o | .div o
  | .divn o | .rem o | .remn o | .min o | .max o | .minn o | .maxn o | .popc o | .clz o | .ctz o => o.fd
  | .addi p | .andi p | .ori p | .xori p | .slli p | .srli p | .srai p | .slti p | .sltni p => p.fd
  | .limm l => l.fd
  | .pcaddr j => j.fd
  | _ => 0

/-- An execute-stream instruction with a rule for vstart runs now: as a queued or lane instruction whose turn has come, or at once
because nothing older of its stream stands uncommitted and no bqx drops it; no lane threads run, unless it is theirs (R82, R142,
R270, R439). -/
def runsNow (k : StartRule) (s : State) : Prop :=
  (s.t.xctx.isSome = true ∨ (xBusy s = false ∧ s.t.dropRun = 0)) ∧
    (k = .join ∨ s.t.lanes = none ∨ (laneOf s).isSome = true) ∧ (k = .whole → startElem s = 0)

/-- The running execute-stream instruction has committed. -/
def committed (k : StartRule) (s : State) : State := { commitX k s with stalled := false }

/-- The sources and destinations of a vector instruction are available in `s1`: no destination is load-bound, no live mask is
written, posted matrix work that comes first is done and bound chunks have landed without a fault (R136, R218, R299, R300). -/
def sourcesAt (srcs dsts : List Nat) (dm : Option Nat) (s s1 : State) : Prop :=
  writesBound s dsts dm = false ∧
    let p := prepareSources srcs (settleFrame srcs dsts s)
    p.bad = none ∧ s1 = stopAt none p.s

/-- None of the registers is bound to a store stream (R219). -/
def plainDest (dsts : List Nat) (s : State) : Prop := ∀ b ∈ s.t.binds, b.store = true → b.vd ∉ dsts

/-- The outcome of a scalar floating-point instruction: its result in an s register and its flags, at commit (R173). -/
def writesF (s : State) (fd : BitVec 5) (r : Nat × Fl) : Host.Outcome State Fault Refusal :=
  .next (committed .ignore (raise (setS s fd (BitVec.ofNat 64 r.1)) r.2))

/-- A finite value as a rational number; 0 for what is not finite. -/
def FVal.rat (v : FVal) : ℚ :=
  match v with
  | .fin n m e => (if n then -1 else 1) * (m : ℚ) * (2 : ℚ) ^ e
  | .inf _ | .nan _ => 0

/-! ## Terms for vector instructions -/

/-- Element `i` of width `w` of the group of `g` registers from `r` on (R4, R232). -/
def element (s : State) (r g w i : Nat) : Nat := elemAt (getGroup s r g) w i

/-- What a second source of the queue form pops, with the state behind it (R133): a queued instruction popped its value on entering the
vector queue, one that runs at once pops it now. Other forms pop nothing; none while the queue is empty. -/
def popAt (src : Src2) (s : State) : Option (Word × State) :=
  if s.t.xctx.isSome then some (poppedValue s, s) else popQueue (popOf src) s

/-- The second source by its form (R133, R134) as a function of the element, with `p` the popped value: none where a group is
misaligned. -/
def secondSource (src : Src2) (p : Word) (ty g : Nat) (s : State) : Option (Nat → Nat) :=
  match src with
  | .vec vb _ => if vb.toNat % g = 0 then some (fun i => element s vb.toNat g (typeWidth ty) i) else none
  | .scal sb => some (fun _ => (getS s sb).toNat % 2 ^ typeWidth ty)
  | .imm v => some (fun _ => immElem ty v)
  | .queue _ => some (fun _ => p.toNat % 2 ^ typeWidth ty)

/-- What R235 leaves in element `i` of a destination with `n` elements that count: the elements below `start` keep their value
(R439), an active one takes the result, an inactive one is 0 or keeps its value by MP, a tail element is 0 or keeps its value by
TP. A lane thread writes only the elements of its own group that count (R271). -/
def destElem (s : State) (sw n start mk i old x : Nat) : Nat :=
  let counted := if maskOn s mk i then x else if vtMp s then 0 else old
  match laneOf s with
  | none => if i < start then old else if i < n then counted else if vtTp s then 0 else old
  | some g => if i / (256 / sw) = g ∧ start ≤ i ∧ i < n then counted else old

/-- Whether the running instruction acts on element `i`. -/
def acts (s : State) (sw start mk i : Nat) : Bool :=
  (match laneOf s with
    | none => true
    | some g => i / (256 / sw) == g) && decide (start ≤ i) && maskOn s mk i

/-- `f` holds exactly the flags that the acting elements below `n` raise (R46). -/
def orOver (n : Nat) (p : Nat → Bool) (fl : Nat → Fl) (f : Fl) : Prop :=
  ∀ j < 9, f.getLsbD j = true ↔ ∃ i < n, p i = true ∧ (fl i).getLsbD j = true

/-- fflags and sat of `t` are those of `u` OR-ed with raised flags (R46). -/
def raised (u t : State) (f : Fl) : Prop :=
  t.t.ctl.fflags = u.t.ctl.fflags ||| f.extractLsb' 0 6 ∧ t.t.ctl.sat = u.t.ctl.sat ||| f.extractLsb' 6 3

/-- The frame of a vector instruction that has committed: only the registers `dst`, mask register `dm`, flags, vdirty, vstart,
vcommit and the thread's place may differ (live masks of streams excepted). -/
def vecKeeps (dst : List Nat) (dm : Option Nat) (u t : State) : Prop :=
  t.stalled = false ∧ (∀ q, q ∉ dst → getV t q = getV u q) ∧
    ((∀ b ∈ u.t.binds, b.live = 0) → ∀ q, dm ≠ some q → getM t q = getM u q) ∧ t.t.s = u.t.s ∧ t.t.e = u.t.e ∧ t.t.dq = u.t.dq ∧
    t.t.bq = u.t.bq ∧ t.home = u.home ∧ (∀ k, t.t.readByte k = u.t.readByte k) ∧ t.t.ctl.vl = u.t.ctl.vl ∧
    t.t.ctl.vtype = u.t.ctl.vtype ∧ t.t.ctl.frm = u.t.ctl.frm ∧ (laneOf u = none → t.t.ctl.vcommit = (u.t.ctl.vcommit + 1) % 2 ^ 48)

/-- vdirty after the `n` registers from `r` on have been written (R290). -/
def dirtied (u t : State) (r n : Nat) : Prop :=
  ∀ j < 32, t.t.ctl.vdirty.getLsbD j = (u.t.ctl.vdirty.getLsbD j || decide (r ≤ j ∧ j < r + n))

/-- What an element-wise instruction of formats WV and LV does (R235, R236, R46, R439): `gd` and `wd` give the destination's group
and width from the source's, `res` the result and flags of an element from the state, va's, the second source's and the old
destination's element. `sp` is the state behind the pop of a queue form, `u` the one with the sources available. -/
def elementwiseResult (i : Instr) (o : WV) (pre : State → Prop) (usesVa : Bool) (gd wd : Nat → Nat)
    (res : State → Nat → Nat → Nat → Nat × Fl) : Prop :=
  ∀ (s sp u : State) (p : Word) (b : Nat → Nat),
    let g := vtGrp s
    let w := typeWidth o.ty.toNat
    let va := o.va.toNat
    let vd := o.vd.toNat
    let dst := regsOf vd (gd g)
    let n := gd g * 8192 / wd w
    pre s → runsNow .elements s → lengthOk s g w = true → va % g = 0 → vd % gd g = 0 → s.t.ctl.vl ≤ n → popAt o.src s = some (p, sp) →
    sourcesAt ((if usesVa then regsOf va g else []) ++ srcRegs o.src g) dst none sp u →
    secondSource o.src p o.ty.toNat g u = some b → plainDest dst u →
    let vl := u.t.ctl.vl
    let st := startElem u
    let r := fun e => res u (element u va g w e) (b e) (element u vd (gd g) (wd w) e)
    ∃ (t : State) (f : Fl), exec i s = .next t ∧ vecKeeps dst none u t ∧
      (∀ e < n, element t vd (gd g) (wd w) e = if vl = 0 then element u vd (gd g) (wd w) e
        else destElem u w vl st o.msk.toNat e (element u vd (gd g) (wd w) e) ((r e).1 % 2 ^ wd w)) ∧
      orOver vl (acts u w st o.msk.toNat) (fun e => (r e).2) f ∧ raised u t f ∧ (vl ≠ 0 → dirtied u t vd (gd g))

/-- What a permutation does (R250 to R253): `cnt` elements count, from `start` on, under mask `mk`; `res` gives the pattern from
the state, the second source and the element number. No flag is raised. -/
def permResult (i : Instr) (o : WV) (k : StartRule) (usesVa : Bool) (cnt start mk : State → Nat)
    (res : State → (Nat → Nat) → Nat → Nat) : Prop :=
  ∀ (s sp u : State) (p : Word) (b : Nat → Nat),
    let g := vtGrp s
    let w := typeWidth o.ty.toNat
    let va := o.va.toNat
    let vd := o.vd.toNat
    let dst := regsOf vd g
    runsNow k s → lengthOk s g w = true → va % g = 0 → vd % g = 0 → popAt o.src s = some (p, sp) →
    sourcesAt ((if usesVa then regsOf va g else []) ++ srcRegs o.src g) dst none sp u →
    secondSource o.src p o.ty.toNat g u = some b → u.t.ctl.vtype = s.t.ctl.vtype → plainDest dst u →
    ∃ t : State, exec i s = .next t ∧ vecKeeps dst none u t ∧ raised u t 0 ∧
      (∀ e < g * 8192 / w, element t vd g w e = if u.t.ctl.vl = 0 then element u vd g w e
        else destElem u w (cnt u) (start u) (mk u) e (element u vd g w e) (res u b e % 2 ^ w)) ∧
      (u.t.ctl.vl ≠ 0 → dirtied u t vd g)

/-- How many elements below `i` a mask enables, and the `j`-th of those below `n`. -/
def countEnabled (s : State) (mk i : Nat) : Nat := ((List.range i).filter (maskOn s mk)).length
def nthEnabled (s : State) (mk n j : Nat) : Nat := ((List.range n).filter (maskOn s mk)).getD j 0

/-! ## Terms for vector memory instructions -/

/-- The loads of the enabled elements `lo` to `hi` − 1, in ascending order, all succeed: `σ i` is the state before element `i`,
`x i` its value (R203). -/
def loadsTo (load : State → Nat → Got Nat) (act : Nat → Bool) (σ : Nat → State) (x : Nat → Nat) (lo hi : Nat) : Prop :=
  ∀ i, lo ≤ i → i < hi → if act i then load (σ i) i = .ok (x i) (σ (i + 1)) else σ (i + 1) = σ i

/-- The stores of the enabled elements `lo` to `hi` − 1 all succeed: element `i`, of `z` bytes at address `addr i`, aligned to its
size, goes to the bytes from key `k i` on (R203, R204). -/
def storesTo (z : Nat) (addr val : Nat → Nat) (act : Nat → Bool) (σ : Nat → State) (k : Nat → Nat) (lo hi : Nat) : Prop :=
  ∀ i, lo ≤ i → i < hi → if act i then
      ∃ τ, keyOf (σ i) .store (BitVec.ofNat 64 (addr i)) z i = .ok (k i) τ ∧
        σ (i + 1) = τ.updT fun t => t.storeBytes (k i) (k i) (natLe z (val i))
    else σ (i + 1) = σ i

/-- What the stores of elements `lo` to `hi` − 1 make the thread read: the bytes of an element that no later one overwrites, and
every byte that no element covers as before. -/
def storesRead (z : Nat) (val : Nat → Nat) (act : Nat → Bool) (k : Nat → Nat) (lo hi : Nat) (s t : State) : Prop :=
  (∀ i, lo ≤ i → i < hi → act i = true → ∀ j < z, (∀ m, i < m → m < hi → act m = true → k i + j < k m ∨ k m + z ≤ k i + j) →
    t.t.readByte (k i + j) = BitVec.ofNat 8 (val i / 256 ^ j)) ∧
  ∀ a, (∀ i, lo ≤ i → i < hi → act i = true → a < k i ∨ k i + z ≤ a) → t.t.readByte a = s.t.readByte a

/-- What a vector load of elements of width `w` into VD does once its sources and destination stand ready in `s1` (R203, R235):
`load` reads an element. A geometry load (`geo`) has its catalogue on the thread's package (R318). -/
def loadResult (i : Instr) (geo : Prop) (vd mk w : Nat) (srcs : List Nat) (s sp : State) (load : State → Nat → Got Nat) : Prop :=
  ∀ (s1 : State) (σ : Nat → State) (x : Nat → Nat),
    let g := vtGrp sp
    let vl := s1.t.ctl.vl
    let st := startElem s1
    let u := σ (max st vl)
    runsNow .elements s → sp.t.ctl.vl ≤ g * 8192 / w → vd % g = 0 → sourcesAt srcs (regsOf vd g) none sp s1 →
    (geo → (catalogue s1).isSome = true) → σ st = s1 → loadsTo load (maskOn s1 mk) σ x st vl → plainDest (regsOf vd g) u →
    ∃ t : State, exec i s = .next t ∧ vecKeeps (regsOf vd g) none u t ∧ raised u t 0 ∧
      ∀ e < g * 8192 / w, element t vd g w e = if vl = 0 then element u vd g w e
        else destElem u w vl st mk e (element u vd g w e) (x e % 2 ^ w)

/-- What a vector store of VD's elements of width `w` at the addresses `addr` gives does once its sources stand ready in `s1`. -/
def storeResult (i : Instr) (vd mk w : Nat) (srcs : List Nat) (s sp : State) (addr : State → Nat → Word) : Prop :=
  ∀ (s1 : State) (σ : Nat → State) (k : Nat → Nat),
    let g := vtGrp sp
    let vl := s1.t.ctl.vl
    let st := startElem s1
    let u := σ (max st vl)
    let all := regsOf vd g ++ srcs
    runsNow .elements s → sp.t.ctl.vl ≤ g * 8192 / w → vd % g = 0 → sourcesAt all [] none sp s1 → σ st = s1 →
    storesTo (w / 8) (fun e => (addr s1 e).toNat) (element s1 vd g w) (maskOn s1 mk) σ k st vl →
    exec i s = .next (committed .elements (consumeSources all u)) ∧
      storesRead (w / 8) (element s1 vd g w) (maskOn s1 mk) k st vl s1 (committed .elements (consumeSources all u)) ∧
      (∀ q, getV (committed .elements (consumeSources all u)) q = getV u q)

/-! ## Terms for the other units -/

/-- A posted matrix instruction stands last in the queue (R80). -/
def posted (op : MatOp) (s : State) : State := s.updT fun t => { t with mq := t.mq ++ [op] }

/-- A matrix instruction runs now on an M-core with room in its queue (R80, R296). -/
def matrixNow (s : State) : Prop := runsNow .ignore s ∧ isVCore s.t.core = false ∧ s.t.mq.length < 256

/-- Steps 1 to 3 of R375 for a command with a descriptor of `n` words, behind posted matrix stores (R300): it gives the descriptor and the
barrier operand, and leaves `s2`, in which older stores are published. -/
def issuesAt (o : LE) (n : Nat) (s : State) (d : List Word) (cb : Option Word) (s2 : State) : Prop :=
  let s0 := settleMatrix s
  ∃ s1 x : State, (n = 0 ∨ (getS s0 o.fa).toNat % 64 = 0 ∧ conflicts s0 (getS s0 o.fa) (8 * n) false = false) ∧
    loadWords (getS s0 o.fa) n 0 s0 = .ok d s1 ∧
    (o.fc = 0 ∧ cb = none ∧ x = s1 ∨ o.fc ≠ 0 ∧ cb = some (getS x o.fc) ∧ ∃ k, keyOf s1 .store (getS s1 o.fc) 16 0 = .ok k x) ∧
    storesQueued x = false ∧ s2 = publish (drainMatrix x) 4

/-- Step 5 of R375 for a command without BADARG or NOBOUND: BUSY leaves everything as it was; otherwise the command joins its
queue and reserves a completion-queue slot. -/
def acceptsOrBusy (r : Host.Outcome State Fault Refusal) (o : LE) (s2 : State) (c : Cmd) : Prop :=
  (busy s2 c.kind.queue c.chan = true → r = writesS s2 o.fd 1) ∧ (busy s2 c.kind.queue c.chan = false → r = writesS (acceptCmd s2 c) o.fd 0)

/-- A count-barrier instruction reaches its barrier at key `k`, in state `s3`; it publishes no store (R391). -/
def barrierAt (o : LE) (s : State) (k : Nat) (s3 : State) : Prop :=
  conflicts (settleMatrix s) (getS s o.fa) 16 true = false ∧
    keyOf (settleMatrix s) .store (getS s o.fa) 16 0 = .ok k s3 ∧ pointPoisoned s3 5 k 16 = false

/-- A suspended operation has finished with its results, so that CONTINUATION_READY can post its record (R76, R78). -/
def finished (t : State) (cont : Nat) (results : List Word) : Prop :=
  ∀ c ∈ t.conts, c.id = cont → c.waiting = .done ∧ c.results = results

/-- A pool instruction names a pool of its partition on its package (R415). -/
def namesPool (o : LE) (s : State) (p : Pool) : Prop :=
  (getS s o.fa).toNat ≤ 255 ∧ poolOf s s.t.part (getS s o.fa).toNat = some p ∧ p.pkg = pkgOf s.t.core

/-- The elements that a pool holds between boundaries: on its shelves and in flight between them (R414, R418). -/
def standing (p : Pool) : List Elem := (p.shelves.map Shelf.elems).flatten ++ p.moving.map fun m => m.2.2

/-- Horsil's answer to a call: one more reply, status and result, on what the service leaves (R463). -/
def replies (s : State) (st : Nat) (w : Word) : Host.Outcome State Fault Refusal :=
  .next { s with replies := s.replies ++ [(BitVec.ofNat 64 st, w)], fresh := s.fresh + 1, stalled := false }

/-- The address of the level 0 entry that a page's leaf would take, when it is not valid yet and valid pointers lead to it from `table`
(R156, R157). -/
def freeLeaf (m : Memory) (pkg va : Nat) : List Nat → Nat → Option Nat
  | [], _ => none
  | l :: ls, table =>
    let a := table + 8 * levelIndex l va
    let e := leNat (m.readN 8 a)
    if field a 51 44 ≠ pkg ∨ populated a = false then none
    else if l = 0 then (if field e 0 0 = 0 then some a else none)
    else if field e 0 0 = 1 ∧ field e 1 1 = 0 ∧ field e 63 52 = 0 ∧ pointerOk l e = true then freeLeaf m pkg va ls (field e 51 8 * 256)
    else none

/-- What a die finds in its package's copy of a launch packet: a result number of R463, none for a good one. -/
def dieFinds (s : State) (part : Nat) (x : Nat × Option Packet) : Option Nat :=
  packetResult s { part := part, pkg := x.1 / 8, core := none, die := x.1 } x.2

/-- The register number of a second source, 0 for a form without one. -/
def srcReg (src : Src2) : Nat :=
  match src with
  | .vec v _ => v.toNat
  | .scal _ | .imm _ | .queue _ => 0

/-- What a geometry instruction does when every element it acts on succeeds (R331 to R333): `ev` gives an element's result and
the resolved sources that are written back. -/
def geomResult (i : Instr) (o : WV) (gb : Nat → Nat) (wb : Nat) (usesB : Bool)
    (ev : State → (Nat → Option NodeRec) → Nat → Nat → Option (Nat × Option Nat × Option Nat)) : Prop :=
  ∀ (s s1 : State) (p : Partition) (y : Nat → Nat × Option Nat × Option Nat),
    let g := vtGrp s
    let va := o.va.toNat
    let vd := o.vd.toNat
    let vb := srcReg o.src
    let mk := o.msk.toNat
    let vl := s1.t.ctl.vl
    let st := startElem s1
    runsNow .elements s → catalogue s1 = some p → lengthOk s g 128 = true → va % g = 0 → vd % g = 0 → (usesB = true → vb % gb g = 0) →
    sourcesAt (regsOf va g ++ if usesB then regsOf vb (gb g) else []) (regsOf vd g) none s s1 → s1.poison = [] →
    plainDest (regsOf vd g) s1 →
    (∀ e < vl, acts s1 128 st mk e = true → ev s1 (nodeSeen s1 p) (element s1 va g 128 e) (element s1 vb (gb g) wb e) = some (y e)) →
    ∃ u t : State, exec i s = .next t ∧ vecKeeps (regsOf vd g) none u t ∧ raised u t 0 ∧ u.home = s1.home ∧ u.t.s = s1.t.s ∧
      u.t.m = s1.t.m ∧ (∀ k, u.t.readByte k = s1.t.readByte k) ∧
      (∀ q : Nat, q ∉ regsOf va g → q ∉ regsOf vb (gb g) → getV u q = getV s1 q) ∧
      (s1.t.binds = [] → ∀ e < g * 64, element u va g 128 e = if e < vl ∧ acts s1 128 st mk e = true then ((y e).2.1.getD (element s1 va g 128 e))
        else element s1 va g 128 e) ∧
      ∀ e < g * 64, element t vd g 128 e = if vl = 0 then element u vd g 128 e
        else destElem u 128 vl st mk e (element u vd g 128 e) ((y e).1 % 2 ^ 128)

/-- A frame event that changes records (R337): with `ok` the records `recs` are written at the event's scope and sd gets
`result`. -/
def eventDoes (i : Instr) (o : W4) (s s2 : State) (p : Partition) (ok : Prop) (result : Word) (recs : List (Nat × NodeRec)) : Prop :=
  ok → exec i s = .next (committed .ignore (setS (recs.foldl (putNode o.sc.toNat p) s2) o.fd result))

/-- A node operand that is live and of its generation (R337). -/
def liveNode (p : Partition) (w : Word) (n : NodeRec) : Prop := nodeIdx w < p.catSize ∧ n.state = 1 ∧ n.gen = nodeGen w

end Sys2Proof.Machine
end

