-- ==== Sys2Proof/Certificates/Slice0/Obligations.lean ====
section
/-! DEFINITION. The statements about the model, one definition each. -/

open Sys2Proof Sys2Proof.Machine

/-- R163, R132: a read of s0 gives 0 and a write to it is lost; any other register holds what was last written to it. R163: when the writer is an execute-stream instruction, the reader waits until the value is written. The wait is the model's
flag `stalled`; nothing else changes. -/
def Obligations.ScalarRegistersAndWaits : Prop :=
  (    ∀ (s : State) (r q : BitVec 5) (v : Word),
      getS s 0 = 0 ∧ (setS s 0 v).t.s = s.t.s ∧
        (s.t.xctx = none → r ≠ 0 → getS (setS s r v) q = if q = r then v else getS s q)) ∧
  (    ∀ (o : Q3) (p : WI) (b : WB) (s : State),
      (o.fa ∈ pendingDests s →
        exec (.add o) s = .next { s with stalled := true } ∧ exec (.jalr o) s = .next { s with stalled := true } ∧
        exec (.dqput o) s = .next { s with stalled := true } ∧ exec (.bqput o) s = .next { s with stalled := true }) ∧
      (p.fa ∈ pendingDests s →
        exec (.addi p) s = .next { s with stalled := true } ∧ exec (.ldS64 p) s = .next { s with stalled := true } ∧
        exec (.ldq p) s = .next { s with stalled := true }) ∧
      (p.fd ∈ pendingDests s → exec (.stN64 p) s = .next { s with stalled := true }) ∧
      (b.fb ∈ pendingDests s → exec (.beq b) s = .next { s with stalled := true }))

/-- R165: format Q3 and the table of results; products, quotients and shifts are computed exactly on integers and written mod 2^64 (R164),
division rounds toward zero and has the two corners of `sdiv` and `srem`. -/
def Obligations.ScalarIntegerResults : Prop :=
  (∀ (o : Q3) (s : State), settledFor [o.fa, o.fb] s →
    let a := getS s o.fa
    let b := getS s o.fb
    let sh := b.toNat % 64
    exec (.add o) s = writesS s o.fd (BitVec.ofNat 64 (a.toNat + b.toNat)) ∧
    exec (.sub o) s = writesS s o.fd (BitVec.ofInt 64 ((a.toNat : Int) - b.toNat)) ∧
    exec (.and o) s = writesS s o.fd (a &&& b) ∧
    exec (.or o) s = writesS s o.fd (a ||| b) ∧
    exec (.xor o) s = writesS s o.fd (a ^^^ b) ∧
    exec (.sll o) s = writesS s o.fd (BitVec.ofNat 64 (a.toNat * 2 ^ sh)) ∧
    exec (.srl o) s = writesS s o.fd (BitVec.ofNat 64 (a.toNat / 2 ^ sh)) ∧
    exec (.sra o) s = writesS s o.fd (BitVec.ofInt 64 (a.toInt / (2 ^ sh : Nat))) ∧
    exec (.slt o) s = writesS s o.fd (if a.toInt < b.toInt then 1 else 0) ∧
    exec (.sltn o) s = writesS s o.fd (if a.toNat < b.toNat then 1 else 0) ∧
    exec (.mul o) s = writesS s o.fd (BitVec.ofNat 64 (a.toNat * b.toNat)) ∧
    exec (.mulh o) s = writesS s o.fd (BitVec.ofInt 64 (a.toInt * b.toInt / 2 ^ 64)) ∧
    exec (.mulhn o) s = writesS s o.fd (BitVec.ofNat 64 (a.toNat * b.toNat / 2 ^ 64)) ∧
    exec (.div o) s = writesS s o.fd (BitVec.ofInt 64 (if b = 0 then -1 else a.toInt.tdiv b.toInt)) ∧
    exec (.divn o) s = writesS s o.fd (BitVec.ofNat 64 (if b = 0 then 2 ^ 64 - 1 else a.toNat / b.toNat)) ∧
    exec (.rem o) s = writesS s o.fd (BitVec.ofInt 64 (if b = 0 then a.toInt else a.toInt.tmod b.toInt)) ∧
    exec (.remn o) s = writesS s o.fd (BitVec.ofNat 64 (if b = 0 then a.toNat else a.toNat % b.toNat)) ∧
    exec (.min o) s = writesS s o.fd (BitVec.ofInt 64 (min a.toInt b.toInt)) ∧
    exec (.max o) s = writesS s o.fd (BitVec.ofInt 64 (max a.toInt b.toInt)) ∧
    exec (.minn o) s = writesS s o.fd (BitVec.ofNat 64 (min a.toNat b.toNat)) ∧
    exec (.maxn o) s = writesS s o.fd (BitVec.ofNat 64 (max a.toNat b.toNat)) ∧
    exec (.popc o) s = writesS s o.fd (BitVec.ofNat 64 ((List.range 64).filter fun i => a.getLsbD i).length) ∧
    (a = 0 → exec (.clz o) s = writesS s o.fd 64 ∧ exec (.ctz o) s = writesS s o.fd 64) ∧
    (∀ n < 64, a.getLsbD n = true →
      ((∀ j < 64, n < j → a.getLsbD j = false) → exec (.clz o) s = writesS s o.fd (BitVec.ofNat 64 (63 - n))) ∧
      ((∀ j < n, a.getLsbD j = false) → exec (.ctz o) s = writesS s o.fd (BitVec.ofNat 64 n)))) ∧
  (∀ o : Q3, (wf (.popc o) = decide (o.fb = 0)) ∧ (wf (.clz o) = decide (o.fb = 0)) ∧ (wf (.ctz o) = decide (o.fb = 0))) ∧
  (∀ (w : BitVec 64) (mn : Nat), mn ≤ 0x17 → w.getLsbD 15 = true → build 0x02 mn w = none) ∧
  (∀ (w : BitVec 64) (mn : Nat) (i : Instr), mn ≤ 0x17 → build 0x02 mn w = some i →
    (encode i .none).map Prod.fst = some (BitVec.ofNat 16 (0x4200 + mn))) ∧
  (∀ (o : Q3) (i : Instr) (mn : Nat) (h : BitVec 16) (w : BitVec 64),
    (i, mn) ∈ [(Instr.add o, 0x00), (.sub o, 0x01), (.and o, 0x02), (.or o, 0x03), (.xor o, 0x04), (.sll o, 0x05), (.srl o, 0x06),
      (.sra o, 0x07), (.slt o, 0x08), (.sltn o, 0x09), (.mul o, 0x0A), (.mulh o, 0x0B), (.mulhn o, 0x0C), (.div o, 0x0D),
      (.divn o, 0x0E), (.rem o, 0x0F), (.remn o, 0x10), (.min o, 0x11), (.max o, 0x12), (.minn o, 0x13), (.maxn o, 0x14),
      (.popc o, 0x15), (.clz o, 0x16), (.ctz o, 0x17)] →
    encode i .none = some (h, w) →
    h = BitVec.ofNat 16 (0x4200 + mn) ∧ w.extractLsb' 10 5 = o.fd ∧ w.extractLsb' 5 5 = o.fa ∧ w.extractLsb' 0 5 = o.fb)

/-- R166 to R168. -/
def Obligations.ScalarImmediateResults : Prop :=
  (∀ (o : WI) (s : State), settledFor [o.fa] s →
    let a := getS s o.fa
    let k := o.imm.toInt
    let sh := o.imm.toNat % 64
    exec (.addi o) s = writesS s o.fd (BitVec.ofInt 64 (a.toInt + k)) ∧
    exec (.andi o) s = writesS s o.fd (a &&& o.imm.signExtend 64) ∧
    exec (.ori o) s = writesS s o.fd (a ||| o.imm.signExtend 64) ∧
    exec (.xori o) s = writesS s o.fd (a ^^^ o.imm.signExtend 64) ∧
    exec (.slli o) s = writesS s o.fd (BitVec.ofNat 64 (a.toNat * 2 ^ sh)) ∧
    exec (.srli o) s = writesS s o.fd (BitVec.ofNat 64 (a.toNat / 2 ^ sh)) ∧
    exec (.srai o) s = writesS s o.fd (BitVec.ofInt 64 (a.toInt / (2 ^ sh : Nat))) ∧
    exec (.slti o) s = writesS s o.fd (if a.toInt < k then 1 else 0) ∧
    exec (.sltni o) s = writesS s o.fd (if (a.toNat : Int) < k % 2 ^ 64 then 1 else 0)) ∧
  (∀ (o : LI) (s : State), exec (.limm o) s = writesS s o.fd (BitVec.ofInt 64 o.imm.toInt)) ∧
  (∀ (o : WJ) (s : State),
    let line := (curPc s).toNat / 64 * 64
    exec (.pcaddr o) s = writesS s o.fd (BitVec.ofInt 64 ((line : Int) + o.ld.toInt * 64 + 2 * o.hd.toNat)))

/-- The frame of the operations of R165 to R168: of the whole machine only the destination s register, the thread's PC (or its
lane's place), the marks on queued instructions whose write of that register it overtakes (R163) and the model's own `stalled` may differ; one
that waits changes nothing else. -/
def Obligations.ScalarIntegerFrame : Prop :=
  ∀ (o : Q3) (p : WI) (l : LI) (j : WJ) (i : Instr) (s t : State),
    i ∈ [.add o, .sub o, .and o, .or o, .xor o, .sll o, .srl o, .sra o, .slt o, .sltn o, .mul o, .mulh o, .mulhn o, .div o, .divn o,
      .rem o, .remn o, .min o, .max o, .minn o, .maxn o, .popc o, .clz o, .ctz o, .addi p, .andi p, .ori p, .xori p, .slli p,
      .srli p, .srai p, .slti p, .sltni p, .limm l, .pcaddr j] →
    exec i s = .next t →
    t = { s with
      stalled := t.stalled
      t := { s.t with s := t.t.s, pc := t.t.pc, vq := t.t.vq, xdec := t.t.xdec, lanes := t.t.lanes } } ∧
    (∀ r : BitVec 5, r ≠ scalarDest i → getS t r = getS s r) ∧ (∀ k, t.t.readByte k = s.t.readByte k) ∧
    (t.stalled = true → t = { s with stalled := true }) ∧
    (t.stalled = false →
      let marked := fun (e : XEntry) => if s.t.xctx = none ∧ e.dest = some (scalarDest i) then { e with dead := true } else e
      t.t.vq = s.t.vq.map marked ∧ t.t.xdec = s.t.xdec.map marked ∧ t.t.pc = (if s.t.xctx = none then pcAfter s else s.t.pc) ∧
      t.t.lanes = match laneOf s with
        | some g => (laneNext s g).t.lanes
        | none => s.t.lanes)

/-- R169 to R171 with R122 and R123. The target is taken as it stands: only the entry of its line checks it. R122. A line begins at a multiple of 64, and head i stands at line + 2 × i. -/
def Obligations.BranchesJumpsAndNextPc : Prop :=
  (    (∀ (o : WB) (s : State), settledFor [o.fa, o.fb] s →
      let a := getS s o.fa
      let b := getS s o.fb
      let target := BitVec.ofInt 64 ((s.t.pc.toNat / 64 * 64 : Nat) + o.ld.toInt * 64 + 2 * o.hd.toNat)
      let go := fun (taken : Prop) [Decidable taken] =>
        (Host.Outcome.next (if taken then { jumpTo s target with stalled := false } else passed s) : Host.Outcome State Fault Refusal)
      exec (.beq o) s = go (a = b) ∧ exec (.bne o) s = go (a ≠ b) ∧
      exec (.blt o) s = go (a.toInt < b.toInt) ∧ exec (.bge o) s = go (b.toInt ≤ a.toInt) ∧
      exec (.bltn o) s = go (a.toNat < b.toNat) ∧ exec (.bgen o) s = go (b.toNat ≤ a.toNat)) ∧
    (∀ (o : Q3) (s : State), settledFor [o.fa] s →
      exec (.jalr o) s = .next { jumpTo (setS s o.fd (pcAfter s)) (getS s o.fa) with stalled := false })) ∧
  (    ∀ (pc : Word) (l : Line) (hs : List (BitVec 16 × BitVec 64)), lineHeads l = .ok hs → pc.toNat % 2 = 0 → pc.toNat + 64 < 2 ^ 64 →
      (nextPc pc l).toNat = if pc.toNat % 64 / 2 + 1 < hs.length then pc.toNat + 2 else pc.toNat / 64 * 64 + 64)

/-- The per-instruction statements reach a run through this one (R82, R119, R122). R79, R82, R133, and log 3 for the agenda: which work a step takes up before the access stream's. -/
def Obligations.StepRunsDecoded : Prop :=
  (    ∀ (s : State) (h : BitVec 16) (tl : BitVec 64) (i : Instr) (fl : SeqFlag),
      (bootOf s (pkgOf s.t.core)).stopped = false → (bootOf s (pkgOf s.t.core)).running = false → s.agenda = [] → s.t.status = .running →
      s.cycle % turnLength ≠ turnLength - 1 →
      runningLanes s = [] → s.t.vq = [] → s.t.xdec = [] → entered s = true →
      let b := beginPass { s with stalled := true }
      accessHead b = some (h, tl) → decode h tl = some (i, fl) → flagRuns b fl = true →
      wf i = true ∧
      step s = andThen (exec i b) fun s1 =>
        let s2 := afterAccess b (passedOne b s1)
        if s2.stalled then .next (rest s2) else .next (tick (afterStep s s2))) ∧
  (    (∀ (s s1 : State) (i : Instr) (r : List Turn), s.agenda = .event i :: r →
      exec i { s with agenda := r, stalled := false } = .next s1 → s1.stalled = false → step s = .next s1) ∧
    (∀ (s s1 : State) (e : XEntry) (r : List XEntry) (i : Instr) (fl : SeqFlag),
      (bootOf s (pkgOf s.t.core)).stopped = false → (bootOf s (pkgOf s.t.core)).running = false → s.agenda = [] → s.t.status = .running →
      s.cycle % turnLength ≠ turnLength - 1 →
      runningLanes s = [] → s.t.vq = e :: r → decode e.head e.tail = some (i, fl) →
      exec i { s with stalled := true, t := { s.t with vq := r, xctx := some { entry := e, lane := none } } } = .next s1 →
      s1.stalled = false → step s = .next (tick (afterStep s (endHead s.t.uid e s1)))))

/-- R185 to R188. R186. An access-side register is written by the access stream, an execute-side one at its place in the execute stream
(R187); fflags and sat behind the posted matrix work, which may write control registers of its own. cpart as the partition's number modulo 64 is log 28 (DEDUCED). -/
def Obligations.ControlRegisters : Prop :=
  (    (∀ (o : QC) (s : State), executeSide o.crn.toNat = false → exec (.mfc o) s = writesS s o.fd (readCr s.t o.crn.toNat)) ∧
    (∀ (o : QC) (s : State), executeSide o.crn.toNat = true → xBusy s = true → ∃ t, exec (.mfc o) s = .next t ∧ t = { s with stalled := true }) ∧
    (∀ (o : QC) (s : State), executeSide o.crn.toNat = true → xBusy s = false →
      let s1 := if o.crn = 0x011 ∨ o.crn = 0x012 ∨ o.crn = 0x002 then drainMatrix s else s
      exec (.mfc o) s = writesS s1 o.fd (readCr s1.t o.crn.toNat)) ∧
    (∀ t : Thread,
      readCr t 0x045 = BitVec.ofNat 64 ((if t.ctl.inh then 1 else 0) + (if t.ctl.seqt then 2 else 0) + (if t.ctl.qimg then 4 else 0)) ∧
      readCr t 0x060 = BitVec.ofNat 64 (t.core % 384) ∧ readCr t 0x061 = BitVec.ofNat 64 (t.core % 384 / 4) ∧
      readCr t 0x062 = BitVec.ofNat 64 (t.core % 384 / 48) ∧ readCr t 0x063 = BitVec.ofNat 64 (t.core / 384) ∧
      readCr t 0x065 = BitVec.ofNat 64 (t.part % 64) ∧
      (t.replay = none → t.replayHeld = none → ∀ k < 6, readCr t (0x070 + k) = 0) ∧
      (∀ r, t.replay = some r → ∀ k < 6, readCr t (0x070 + k) = BitVec.ofNat 64 (r.idx.getD k 0)) ∧
      (t.munit = none → readCr t 0x002 = 0))) ∧
  (    ∀ (o : QC) (s : State),
      let v := getS s o.fd
      let keeps := fun (t : State) (l : List Nat) => ∀ c, c ∉ l → c ≠ 0x005 → readCr t.t c = readCr s.t c
      let ready := if executeSide o.crn.toNat then runsNow .ignore s else settledFor [o.fd] s
      (wf (.mtc o) = true → o.crn ≠ 0x011 → o.crn ≠ 0x012 → ready → ∃ t, exec (.mtc o) s = .next t ∧ t.stalled = false ∧ keeps t [o.crn.toNat] ∧
        readCr t.t o.crn.toNat =
          if o.crn = 0x003 ∨ o.crn = 0x043 then v &&& 0x1FFF else if o.crn = 0x004 then v &&& 0xFFFFFFFF
          else if o.crn = 0x020 ∨ o.crn = 0x022 then v &&& 0xFFFFFFFF else if o.crn = 0x021 then v &&& 0xF7FFFFFFF
          else if o.crn = 0x023 then 0 else if o.crn = 0x040 then v &&& 0xFF
          else if o.crn = 0x051 then v &&& 0x7FFFFFFFFFFFFFFF else v) ∧
      (o.crn = 0x011 ∨ o.crn = 0x012 → runsNow .ignore s → ∃ t, exec (.mtc o) s = .next t ∧ t.stalled = false ∧
        (∀ c, c ≠ o.crn.toNat → c ≠ 0x005 → readCr t.t c = readCr (drainMatrix s).t c) ∧
        readCr t.t o.crn.toNat = getS (drainMatrix s) o.fd &&& (if o.crn = 0x011 then 0x3F else 0x7)) ∧
      (o.crn = 0x041 → settledFor [o.fd] s → ∃ t, exec (.mtcTpc o) s = .next t ∧ t.stalled = false ∧ keeps t [0x041, 0x045, 0x070, 0x071, 0x072, 0x073, 0x074, 0x075] ∧
        readCr t.t 0x041 = v ∧ t.t.ctl.seqt = false ∧ t.t.ctl.qimg = false ∧ t.t.ctl.inh = s.t.ctl.inh) ∧
      (o.crn = 0x000 → runsNow .ignore s → ∃ t, exec (.mtcVtype o) s = .next t ∧ t.stalled = false ∧ keeps t [0x000, 0x001] ∧
        readCr t.t 0x000 = v &&& 0xFF1F ∧ t.t.ctl.vl = min s.t.ctl.vl (vlMaxOf (v &&& 0xFF1F))) ∧
      (o.crn = 0x001 → runsNow .ignore s → ∃ t, exec (.mtcVl o) s = .next t ∧ t.stalled = false ∧ keeps t [0x001] ∧
        t.t.ctl.vl = min v.toNat (vlMaxOf s.t.ctl.vtype)) ∧
      (o.crn = 0x010 → runsNow .ignore s → ∃ t, exec (.mtcFrm o) s = .next t ∧ t.stalled = false ∧ keeps t [0x010] ∧
        readCr t.t 0x010 = (v &&& 0x18) + (if (v &&& 7).toNat < 4 then v &&& 7 else 0)) ∧
      (∀ k < 4, o.crn.toNat = 0x030 + k → settledFor [o.fd] s → ∃ t, exec (.mtcPbnd o) s = .next t ∧ t.stalled = false ∧
        keeps t [0x030 + k] ∧ (readCr t.t (0x030 + k)).toNat = if v.toNat = 0 then 1 else if 4096 < v.toNat then 4096 else v.toNat))

/-- R83, R142, R177, R179, R180. R178. An execute-stream instruction that has to wait stands in the queue of those not yet executed (`enqueue`),
and a bqx without its bit does not leave it. `sp` is the state behind xqget's pop: a queued one popped its value on entering the vector queue.
`s1` is the state in which the source register is available, or the destination free of older matrix work (R136, R218, R299). -/
def Obligations.QueuesBetweenStreams : Prop :=
  (    (∀ (o : Q3) (s : State), settledFor [o.fa] s → o.fd.toNat < 4 →
      let q := s.t.dq.getD o.fd.toNat []
      exec (.dqput o) s = .next (if q.length < 8 then passed (s.updT fun t => { t with dq := t.dq.setIfInBounds o.fd.toNat (q ++ [getS s o.fa]) })
        else { s with stalled := true })) ∧
    (∀ (o : Q3) (s : State),
      (s.t.dq.getD o.fa.toNat [] = [] → exec (.dqget o) s = .next { s with stalled := true }) ∧
      ∀ v r, s.t.dq.getD o.fa.toNat [] = v :: r →
        exec (.dqget o) s = writesS (s.updT fun t => { t with dq := t.dq.setIfInBounds o.fa.toNat r }) o.fd v) ∧
    (∀ (o : QN) (s : State), xBusy s = false → s.t.dropRun = 0 → s.t.xctx = none → s.t.lanes = none → ∀ b r, s.t.bq = b :: r →
      exec (.bqx o) s = .next (passed (s.updT fun t => { t with bq := r, dropRun := if b then o.cnt.toNat else 0 }))) ∧
    (∀ (o : QN) (d : WV) (s : State), xBusy s = false → s.t.xctx = none → 0 < s.t.dropRun →
      let t := passed (s.updT fun t => { t with dropRun := t.dropRun - 1 })
      exec (.bqx o) s = .next t ∧ exec (.vadd d) s = .next t) ∧
    (∀ (o : QN) (s : State), s.t.xctx = none → s.t.lanes = none → (xBusy s = true ∨ s.t.dropRun = 0 ∧ s.t.bq = []) →
      exec (.bqx o) s = .next (enqueue s)) ∧
    (∀ (s : State) (e : XEntry) (r : List XEntry), s.t.xdec = e :: r → e.isBqx = true → s.t.dropRun = 0 → afterVblk s = false → s.t.bq = [] →
      enterQueue true s = none)) ∧
  (    (∀ (o : Q3) (s : State), runsNow .ignore s → 8 ≤ (s.t.dq.getD o.fd.toNat []).length →
      exec (.xqput o) s = .next (if s.t.xctx.isSome then { s with stalled := true } else enqueue s)) ∧
    (∀ (o : Q3) (s : State), runsNow .ignore s → s.t.xctx = none → s.t.dq.getD o.fa.toNat [] = [] → exec (.xqget o) s = .next (enqueue s)) ∧
    (∀ (o : Q3) (s s1 : State), runsNow .ignore s → sourcesAt [o.fa.toNat] [] none s s1 → o.fd.toNat < 4 → o.fb.toNat < 128 →
      (s.t.dq.getD o.fd.toNat []).length < 8 → (s1.t.dq.getD o.fd.toNat []).length < 8 →
      exec (.xqput o) s = .next (committed .ignore (consumeSources [o.fa.toNat] (s1.updT fun t =>
        { t with dq := t.dq.setIfInBounds o.fd.toNat (t.dq.getD o.fd.toNat [] ++ [(getV s1 o.fa.toNat).extractLsb' (64 * o.fb.toNat) 64]) })))) ∧
    (∀ (o : Q3) (s sp s1 : State) (v : Word), runsNow .ignore s →
      (if s.t.xctx.isSome then v = poppedValue s ∧ sp = s
        else s.t.dq.getD o.fa.toNat [] = v :: sp.t.dq.getD o.fa.toNat [] ∧
          sp = s.updT fun t => { t with dq := t.dq.setIfInBounds o.fa.toNat (sp.t.dq.getD o.fa.toNat []) }) →
      sourcesAt [] [o.fd.toNat] none sp s1 → plainDest [o.fd.toNat] s1 → o.fb.toNat < 128 →
      ∃ t, exec (.xqget o) s = .next t ∧ t.stalled = false ∧ t.t.dq = s1.t.dq ∧
        (∀ i < 8192, (getV t o.fd.toNat).getLsbD i =
          if i / 64 = o.fb.toNat then v.getLsbD (i % 64) else (getV s1 o.fd.toNat).getLsbD i) ∧
        (∀ q : Nat, q ≠ o.fd.toNat → getV t q = getV s1 q) ∧ t.t.ctl.vdirty = s1.t.ctl.vdirty ||| (1#32 <<< o.fd.toNat)))

/-- R189 and R190, for the classes of R435 that reach the thread. SEQ, the held replay and the image are those of the trapping
instruction's place (R184, R438); while an image replays, the modes become those of the access stream's place (R440). That a dropped run and lane threads are held is log 18
(DEDUCED). -/
def Obligations.TrapEntry : Prop :=
  ∀ (tr : Trap) (s : State), handlerClass tr.cls = true → s.t.xctx.bind XCtx.lane = none →
    let t := takeTrap tr s
    (s.t.ctl.tvec ≠ 0 → s.t.ctl.inh = false →
      t.t.ctl.tcause = tr.cls ∧ t.t.ctl.tval = tr.tval ∧ t.t.ctl.telem = tr.telem ∧ t.t.ctl.tpc = curPc s ∧
      t.t.ctl.inh = true ∧ t.t.ctl.seqt = (passHere s).isSome ∧ t.t.replay = none ∧ t.t.replayHeld = passHere s ∧
      t.t.dropRun = 0 ∧ t.t.dropHeld = s.t.dropRun ∧ t.t.laneHeld = s.t.lanes ∧ t.t.ctl.qimg = !t.t.image.isEmpty ∧ t.t.vq = [] ∧ t.t.xdec = [] ∧ t.t.pc = s.t.ctl.tvec ∧
      (∀ c, s.t.xctx = some c → t.t.image = if decodedPast s c.entry then c.entry :: s.t.vq else []) ∧
      (s.t.xctx = none → t.t.image = []) ∧
      t.t.s = s.t.s ∧ t.t.v = s.t.v ∧ t.t.m = s.t.m ∧ t.t.e = s.t.e ∧ t.t.dq = s.t.dq ∧ t.t.bq = s.t.bq ∧
      t.t.ctl.fflags = s.t.ctl.fflags ∧ t.t.ctl.sat = s.t.ctl.sat ∧ t.t.ctl.env = s.t.shadow.getLast?.getD s.t.ctl.env ∧
      { t with t := s.t } = s ∧ ∀ k, t.t.readByte k = s.t.readByte k) ∧
    (s.t.ctl.tvec = 0 ∨ s.t.ctl.inh = true →
      (∃ u a, t.t.status = .ending 1 tr.cls u a) ∧ t.t.vq = [] ∧ t.t.xdec = [] ∧ t.t.s = s.t.s ∧ t.t.v = s.t.v ∧ { t with t := s.t } = s)

/-- R191 and R440. With a queue image the access stream goes on where it stood when the trap was taken, behind the replayed image
that begins with the instruction at tpc. R192 and R194. That the held run of a bqx goes on and the image comes back unchanged is log 18
(DEDUCED). -/
def Obligations.TrapReturnNopAndBreakpoint : Prop :=
  (    ∀ s : State,
      (xBusy s = true → exec .tret s = .next { s with stalled := true }) ∧
      (xBusy s = false → s.t.ctl.inh = true → ∃ t, exec .tret s = .next t ∧ t.stalled = false ∧
        t.t.ctl.inh = false ∧ t.t.ctl.seqt = false ∧ t.t.ctl.qimg = false ∧
        let d := drainMatrix s
        (d.t.ctl.qimg = false → t.t.pc = d.t.ctl.tpc ∧ t.t.line = none ∧ t.t.vq = d.t.vq) ∧
        (d.t.ctl.qimg = true → t.t.pc = d.t.rpc ∧ t.t.vq = d.t.image.map (fun e => { e with image := e.image + 1 }) ∧
          t.t.xdec = d.t.imageDec.map (fun e => { e with image := e.image + 1 }) ∧ t.t.replay = d.t.rpcReplay ∧
          t.t.ctl.env = d.t.imageEnv.head?.getD d.t.ctl.env) ∧
        (d.t.ctl.qimg = false → t.t.replay = if d.t.ctl.seqt then d.t.replayHeld else none) ∧ t.t.dropRun = d.t.dropHeld ∧ t.t.s = d.t.s ∧ t.t.v = d.t.v ∧ t.home = d.home) ∧
      (xBusy s = false → s.t.ctl.inh = false → exec .tret s = .next { takeTrap (mkTrap 0x01 ((curHead s).1.setWidth 64)) s with stalled := false })) ∧
  (    ∀ s : State,
      exec .nop s = .next (passed s) ∧
      (xBusy s = true → exec .brk s = .next { s with stalled := true }) ∧
      (xBusy s = false → (advance (drainMatrix s)).t.xctx = none → (advance (drainMatrix s)).t.ctl.tvec ≠ 0 →
        (advance (drainMatrix s)).t.ctl.inh = false →
        ∃ t, exec .brk s = .next t ∧ t.stalled = false ∧ t.t.ctl.tcause = 0x0F ∧ t.t.ctl.tval = 0 ∧
          t.t.ctl.tpc = (advance (drainMatrix s)).t.pc ∧ t.t.pc = (advance (drainMatrix s)).t.ctl.tvec ∧ t.t.ctl.inh = true))

/-- R181, R182, and the rule of R190 for SEQ = 1. R183. In the first pass every index is 0, so the bound registers hold their bases. -/
def Obligations.SequencerConfigurationAndRun : Prop :=
  (    ∀ (o : W4) (s : State), settledFor [o.fa] s →
      let bad := fun (v : Word) =>
        (Host.Outcome.next (finish (.trap (mkTrap 0x01 v) s) s) : Host.Outcome State Fault Refusal)
      (s.t.ctl.seqt = true → ∀ i ∈ [Instr.seqlev o, .seqbind o, .seqstride o, .seqhalt o], exec i s = bad ((curHead s).1.setWidth 64)) ∧
      (s.t.ctl.seqt = false →
        (2 ^ 32 ≤ (getS s o.fa).toNat → exec (.seqlev o) s = bad (getS s o.fa)) ∧
        ((getS s o.fa).toNat < 2 ^ 32 → o.fc.toNat < 6 → ∃ q, exec (.seqlev o) s = .next (passed (s.updT fun t => { t with seq := q })) ∧
          q.binds = s.t.seq.binds ∧ q.strides = s.t.seq.strides ∧
          ∀ k < 6, q.counts.getD k 0 = if k = o.fc.toNat then (getS s o.fa).toNat else s.t.seq.counts.getD k 0) ∧
        (o.fc.toNat < 8 → ∃ q, exec (.seqbind o) s = .next (passed (s.updT fun t => { t with seq := q })) ∧
          q.counts = s.t.seq.counts ∧ q.strides = s.t.seq.strides ∧
          ∀ j < 8, q.binds.getD j none = if j = o.fc.toNat then some o.fa
            else if s.t.seq.binds.getD j none = some o.fa then none else s.t.seq.binds.getD j none) ∧
        (o.fc.toNat < 6 → o.fb.toNat < 8 → ∃ q, exec (.seqstride o) s = .next (passed (s.updT fun t => { t with seq := q })) ∧
          q.counts = s.t.seq.counts ∧ q.binds = s.t.seq.binds ∧
          ∀ k < 6, ∀ j < 8, (q.strides.getD k (Vector.replicate 8 0)).getD j 0 =
            if k = o.fc.toNat ∧ j = o.fb.toNat then (getS s o.fa).toInt else (s.t.seq.strides.getD k (Vector.replicate 8 0)).getD j 0) ∧
        exec (.seqhalt o) s = .next (passed (s.updT fun t => { t with seq := SeqConf.start })))) ∧
  (    ∀ (o : W4) (s s1 : State) (p : Word) (ps : List Word) (endPc : Word),
      (∀ r ∈ s.t.seq.binds.toList.filterMap id, r ∉ pendingDests s) → s.t.ctl.seqt = false →
      (let pc := pcAfter s
       collectBody (2 ^ 60) (o.fd.toNat + 1) 0 pc (if pc &&& ~~~(63 : Word) = s.t.pc &&& ~~~(63 : Word) then s.t.line.map Prod.snd else none) true [] s
         = .ok (p :: ps) endPc s1) →
      ((∃ k < o.fc.toNat, k < 6 ∧ s1.t.seq.counts.getD k 1 = 0) →
        exec (.seqrun o) s = .next { flowTo s1 endPc with stalled := false }) ∧
      (o.fc.toNat ≤ 6 → (∀ k < o.fc.toNat, s1.t.seq.counts.getD k 1 ≠ 0) → ∃ t r, exec (.seqrun o) s = .next t ∧ t.stalled = false ∧
        t.t.pc = p ∧ t.t.replay = some r ∧ r.body = p :: ps ∧ r.endPc = endPc ∧ r.levels = o.fc.toNat ∧ r.pos = 0 ∧
        (∀ k < 6, r.idx.getD k 0 = 0) ∧ (s1.t.xctx = none → ∀ q : BitVec 5, getS t q = getS s1 q) ∧
        ∀ j < 8, ∀ x, s1.t.seq.binds.getD j none = some x → r.bases.getD j 0 = getS s1 x))

/-- R226 and R227. The home holds a byte with its place in the coherence order (R367). R228 and R229. -/
def Obligations.PhasesFencesAndBarriers : Prop :=
  (    ∀ (sc : Scope) (s : State), xBusy s = false → s.t.xctx = none →
      let d := drainMatrix s
      (∃ t, exec (.phase sc) s = .next t ∧ t = passed (snapshot (publish d sc.code) sc.code) ∧
        (4 ≤ sc.code → d.narrow = [] → d.home.wf = true → (d.t.own.map OwnWrite.key).Nodup →
          (∀ w ∈ d.t.own, w.seq = 0 ∧ w.scope = 0 ∧ d.homeSeq.get w.key ≤ d.pubs) → ∀ w ∈ d.t.own, (publish d sc.code).home.read w.key = w.val) ∧
        t.t.s = d.t.s ∧ t.t.v = d.t.v ∧ t.t.m = d.t.m ∧ t.t.ctl = d.t.ctl) ∧
      exec (.fence sc) s = .next (passed d) ∧ (passed d).t.own = d.t.own ∧ (passed d).t.snap = d.t.snap ∧ (passed d).home = d.home) ∧
  (    ∀ (sc : Scope) (s : State),
      (xBusy s = false → s.t.arrived ≠ some sc →
        let j := (drainMatrix s).updT fun t => { t with arrived := some sc, barCount := t.barCount.setIfInBounds sc.code (t.barCount.getD sc.code 0 + 1) }
        (barrierDone j sc = true → exec (.bar sc) s = .next (passed (j.updT fun t => { t with arrived := none }))) ∧
        (barrierDone j sc = false → exec (.bar sc) s = .next { j with stalled := true })) ∧
      (xBusy s = false → s.t.arrived = some sc → barrierDone s sc = true →
        exec (.bar sc) s = .next (passed (s.updT fun t => { t with arrived := none }))) ∧
      (s.t.arrived = some sc → barrierDone s sc = true →
        exec (.barrierComplete sc) s = .next (passed (s.updT fun t => { t with arrived := none }))) ∧
      (s.t.arrived ≠ some sc ∨ barrierDone s sc = false → exec (.barrierComplete sc) s = .next { s with stalled := false }) ∧
      (s.t.spawned = true → barrierDone s sc = true))

/-- R119 to R122, at the happening that enters a line. The faults are those of the fetch itself, or Line Format (class 0x02). -/
def Obligations.LineEntryChecks : Prop :=
  ∀ s : State, entered s = false → xBusy s = false → s.t.xctx = none →
    (s.t.pc.getLsbD 0 = true → exec .lineEntry s = .next { takeTrap (mkTrap 0x02 0x20) s with stalled := false }) ∧
    (s.t.pc.getLsbD 0 = false → ∀ l s1, fetchLine s (s.t.pc &&& ~~~(63 : Word)) = .ok l s1 →
      (∀ k, lineHeads l = .error k → exec .lineEntry s = .next { takeTrap (mkTrap 0x02 (BitVec.ofNat 64 k)) s1 with stalled := false }) ∧
      ∀ hs, lineHeads l = .ok hs →
        let i := s.t.pc.toNat % 64 / 2
        (hs.length ≤ i → (sequential s = false ∨ i ≠ 0) →
          exec .lineEntry s = .next { takeTrap (mkTrap 0x02 (BitVec.ofNat 64 i)) s1 with stalled := false }) ∧
        (i < hs.length → exec .lineEntry s = .next { s1.updT (fun t => { t with line := some (s.t.pc &&& ~~~(63 : Word), l), flows := false }) with stalled := false }) ∧
        (hs = [] → i = 0 → sequential s = true →
          exec .lineEntry s = .next { s1.updT (fun t => { t with line := some (s.t.pc, l), pc := s.t.pc + 64, flows := false }) with stalled := false }))

/-- R172 to R176, over the arithmetic that RoundingCorrect and RoundingExactAndSpecialValues speak of. -/
def Obligations.ScalarFloatResults : Prop :=
  (∀ (d : Bool) (o : Q3) (s : State), runsNow .ignore s →
    let f := if d then fmt64 else fmt32
    let a := if d then (getS s o.fa).toNat else (getS s o.fa).toNat % 2 ^ 32
    let b := if d then (getS s o.fb).toNat else (getS s o.fb).toNat % 2 ^ 32
    let sg := if d then 2 ^ 63 else 2 ^ 31
    exec (.fadd d o) s = writesF s o.fd (fAdd f (frmMode s) false (f.value a) (f.value b)) ∧
    exec (.fsub d o) s = writesF s o.fd (fAdd f (frmMode s) false (f.value a) (f.value b).neg) ∧
    exec (.fmul d o) s = writesF s o.fd (fMul f (frmMode s) false (f.value a) (f.value b)) ∧
    exec (.fdiv d o) s = writesF s o.fd (fDiv f (frmMode s) false (f.value a) (f.value b)) ∧
    exec (.fsqrt d o) s = writesF s o.fd (fSqrt f (frmMode s) false (f.value a)) ∧
    exec (.fmin d o) s = writesF s o.fd (fMinMax f false a b) ∧
    exec (.fmax d o) s = writesF s o.fd (fMinMax f true a b) ∧
    exec (.feq d o) s = writesF s o.fd (if (fCompare 0 (f.value a) (f.value b)).1 then 1 else 0, (fCompare 0 (f.value a) (f.value b)).2) ∧
    exec (.flt d o) s = writesF s o.fd (if (fCompare 2 (f.value a) (f.value b)).1 then 1 else 0, (fCompare 2 (f.value a) (f.value b)).2) ∧
    exec (.fle d o) s = writesF s o.fd (if (fCompare 3 (f.value a) (f.value b)).1 then 1 else 0, (fCompare 3 (f.value a) (f.value b)).2) ∧
    exec (.fsgnj d o) s = writesF s o.fd (if b < sg then a % sg else a % sg + sg, 0)) ∧
  (∀ (o : W4) (s : State), runsNow .ignore s → o.ty = 0x0C ∨ o.ty = 0x0D →
    let f := if o.ty = 0x0D then fmt64 else fmt32
    let x := fun (r : BitVec 5) => f.value (if o.ty = 0x0D then (getS s r).toNat else (getS s r).toNat % 2 ^ 32)
    exec (.fmadd o) s = writesF s o.fd (fFma f (frmMode s) false (x o.fa) (x o.fb) (x o.fc)) ∧
    exec (.fmsub o) s = writesF s o.fd (fFma f (frmMode s) false (x o.fa) (x o.fb) (x o.fc).neg) ∧
    exec (.fnmadd o) s = writesF s o.fd (fFma f (frmMode s) false (x o.fa).neg (x o.fb) (x o.fc).neg) ∧
    exec (.fnmsub o) s = writesF s o.fd (fFma f (frmMode s) false (x o.fa).neg (x o.fb) (x o.fc))) ∧
  (∀ (o : W4) (s : State), runsNow .ignore s →
    let td := o.ty.toNat
    let ts := o.fc.toNat
    let w := typeWidth td
    let x := (getS s o.fa).toNat % 2 ^ typeWidth ts
    let clamp := fun (v : Int) => if td ≤ 3 then max (-2 ^ (w - 1)) (min v (2 ^ (w - 1) - 1)) else max 0 (min v (2 ^ w - 1))
    (td ≤ 7 → ts ≤ 7 → let v := readInt ts x
      exec (.fcvt o) s = writesF s o.fd (truncInt (clamp v) 64, if clamp v = v then 0 else flISAT)) ∧
    (td ≤ 7 → 8 ≤ ts → ts ≤ 0x0D → let r := fToInt (td ≤ 3) w (frmMode s) ((fmtOf ts).value x)
      exec (.fcvt o) s = writesF s o.fd (truncInt r.1 64, r.2)) ∧
    (8 ≤ td → td ≤ 0x0D → ts ≤ 7 → exec (.fcvt o) s = writesF s o.fd (fOfInt (fmtOf td) (frmMode s) false (readInt ts x))) ∧
    (8 ≤ td → td ≤ 0x0D → 8 ≤ ts → ts ≤ 0x0D →
      exec (.fcvt o) s = writesF s o.fd (if td = ts ∧ ((fmtOf ts).value x).isNan = false then (x, 0)
        else fConvert (fmtOf td) (frmMode s) false ((fmtOf ts).value x))))

/-- R41, over exact rational values: sign × mantissa × 2^exponent. -/
def Obligations.RoundingCorrect : Prop :=
  ∀ f ∈ [fmt64, fmt32, fmt16, fmtB16, fmtE5, fmtE4], ∀ (md : Nat) (sat neg : Bool) (m : Nat) (e : Int), md < 4 →
    let r := f.round md sat neg m e
    r.2 &&& flOF = 0 →
    let x := (FVal.fin neg m e).rat
    let v := (f.value r.1).rat
    let finite := fun p => ∃ n' m' e', f.value p = FVal.fin n' m' e'
    (∃ m' e', f.value r.1 = .fin neg m' e') ∧
    (md = 0 → ∀ p, finite p → |v - x| ≤ |(f.value p).rat - x| ∧
      ((f.value p).rat ≠ v → |(f.value p).rat - x| = |v - x| → r.1 % 2 = 0)) ∧
    (md = 1 → |v| ≤ |x| ∧ ∀ p, finite p → |(f.value p).rat| ≤ |x| → |(f.value p).rat| ≤ |v|) ∧
    (md = 2 → x ≤ v ∧ ∀ p, finite p → x ≤ (f.value p).rat → v ≤ (f.value p).rat) ∧
    (md = 3 → v ≤ x ∧ ∀ p, finite p → (f.value p).rat ≤ x → (f.value p).rat ≤ v) ∧
    (r.2 &&& flNX = 0 ↔ v = x)

/-- R36, R39 and R41: subnormals are delivered as results, and no format flushes to zero. R38, R40 and the flags column of R174. -/
def Obligations.RoundingExactAndSpecialValues : Prop :=
  (    ∀ f ∈ [fmt64, fmt32, fmt16, fmtB16, fmtE5, fmtE4], ∀ (md : Nat) (sat : Bool) (p : Nat) (n : Bool) (m : Nat) (e : Int),
      p < 2 ^ (1 + f.ebits + f.fbits) → f.value p = .fin n m e → f.round md sat n m e = (p, 0)) ∧
  (    ∀ (f : FloatFmt) (md : Nat) (sat : Bool) (a b : FVal),
      (a.isNan = true ∨ b.isNan = true → ∀ r ∈ [fAdd f md sat a b, fMul f md sat a b, fDiv f md sat a b],
        r = (f.qnan, if a.isSnan || b.isSnan then flNV else 0)) ∧
      (a.isNan = true → fSqrt f md sat a = (f.qnan, if a.isSnan then flNV else 0)) ∧
      (∀ n, fAdd f md sat (.inf n) (.inf !n) = (f.qnan, flNV) ∧ fAdd f md sat (.inf n) (.inf n) = (f.infinity n, 0)) ∧
      (∀ n k e, fMul f md sat (.inf n) (.fin k 0 e) = (f.qnan, flNV) ∧ fMul f md sat (.fin k 0 e) (.inf n) = (f.qnan, flNV)) ∧
      (∀ n k e e', fDiv f md sat (.fin n 0 e) (.fin k 0 e') = (f.qnan, flNV) ∧ fDiv f md sat (.inf n) (.inf k) = (f.qnan, flNV)) ∧
      (∀ n k m e e', m ≠ 0 → fDiv f md sat (.fin n m e) (.fin k 0 e') = (f.infinity (n != k), flDZ)) ∧
      (∀ m e, m ≠ 0 → fSqrt f md sat (.fin true m e) = (f.qnan, flNV)) ∧
      (∀ n e, fSqrt f md sat (.fin n 0 e) = (f.sign n, 0)) ∧
      (∀ n m e, m ≠ 0 → fAdd f md sat (.fin n m e) (.fin (!n) m e) = (f.sign (decide (md = 3)), 0)) ∧
      (∀ n e e', fAdd f md sat (.fin n 0 e) (.fin (!n) 0 e') = (f.sign (decide (md = 3)), 0) ∧
        fAdd f md sat (.fin n 0 e) (.fin n 0 e') = (f.sign n, 0)) ∧
      (∀ k n e, fFma f md sat (.inf n) (.fin k 0 e) (.nan false) = (f.qnan, flNV)))

/-- R202, R206, R208. `s1` has posted matrix accesses completed (R300); `k` is the byte key that translation gives. -/
def Obligations.ScalarLoadResults : Prop :=
  ∀ (o : WI) (s s2 : State) (n k : Nat),
    let va := getS s o.fa + o.imm.signExtend 64
    let s1 := settleMatrix s
    settledFor [o.fa] s → conflicts s1 va n false = false → keyOf s1 .load va n 0 = .ok k s2 → poisoned s2 k n = false →
    let x := leNat (s2.t.readBytes n k)
    (n = 1 → exec (.ldS8 o) s = writesS s2 o.fd ((BitVec.ofNat 8 x).signExtend 64) ∧ exec (.ldN8 o) s = writesS s2 o.fd (BitVec.ofNat 64 x)) ∧
    (n = 2 → exec (.ldS16 o) s = writesS s2 o.fd ((BitVec.ofNat 16 x).signExtend 64) ∧ exec (.ldN16 o) s = writesS s2 o.fd (BitVec.ofNat 64 x)) ∧
    (n = 4 → exec (.ldS32 o) s = writesS s2 o.fd ((BitVec.ofNat 32 x).signExtend 64) ∧ exec (.ldN32 o) s = writesS s2 o.fd (BitVec.ofNat 64 x)) ∧
    (n = 8 → exec (.ldS64 o) s = writesS s2 o.fd (BitVec.ofNat 64 x) ∧
      ((s.t.dq.getD o.fd.toNat []).length < 8 → exec (.ldq o) s = .next (passed (s2.updT fun t =>
        { t with dq := t.dq.setIfInBounds o.fd.toNat (t.dq.getD o.fd.toNat [] ++ [BitVec.ofNat 64 x]) }))) ∧
      (8 ≤ (s.t.dq.getD o.fd.toNat []).length → exec (.ldq o) s = .next { s with stalled := true }))

/-- R204 and R206, with the frame of a store: only the bytes from key `k` on change. -/
def Obligations.ScalarStoreResults : Prop :=
  ∀ (o : WI) (i : Instr) (s s2 : State) (n k : Nat), (i, n) ∈ [(Instr.stN8 o, 1), (.stN16 o, 2), (.stN32 o, 4), (.stN64 o, 8)] →
    let va := getS s o.fa + o.imm.signExtend 64
    let s1 := settleMatrix s
    settledFor [o.fa, o.fd] s → conflicts s1 va n true = false → keyOf s1 .store va n 0 = .ok k s2 →
    ∃ t, exec i s = .next t ∧ t.stalled = false ∧
      (∀ j < n, t.t.readByte (k + j) = (getS s o.fd).extractLsb' (8 * j) 8) ∧
      (∀ a, a < k ∨ k + n ≤ a → t.t.readByte a = s2.t.readByte a) ∧
      t = { s2 with
        stalled := false
        t := { s2.t with own := t.t.own, pc := (passed s2).t.pc, lanes := (passed s2).t.lanes } } ∧
      s2.t = s1.t

/-- R202 in the order canonical, aligned, no byte that a view's guard holds (R402), translated. `takes` is the outcome of taking the trap: taken at once when no queued work is
older, else a wait for that work (R141). -/
def Obligations.ScalarAccessFaults : Prop :=
  ∀ (o : WI) (i : Instr) (s : State) (n : Nat) (acc : Access),
    (i, n, acc) ∈ [(Instr.ldS8 o, 1, .load), (.ldS16 o, 2, .load), (.ldS32 o, 4, .load), (.ldS64 o, 8, .load), (.ldN8 o, 1, .load),
      (.ldN16 o, 2, .load), (.ldN32 o, 4, .load), (.stN8 o, 1, .store), (.stN16 o, 2, .store), (.stN32 o, 4, .store),
      (.stN64 o, 8, .store)] →
    let va := getS s o.fa + o.imm.signExtend 64
    let s1 := settleMatrix s
    let takes := fun (c : Nat) (s2 : State) =>
      exec i s = .next (finish (.trap { cls := c, tval := va, telem := 0, va := true } s2) s)
    settledFor [o.fa, o.fd] s → conflicts s1 va n (acc = .store) = false →
    (canonical va = false → takes 0x04 s1) ∧
    (canonical va = true → va.toNat % n ≠ 0 → takes 0x03 s1) ∧
    (canonical va = true → va.toNat % n = 0 → guardedIn s1 s1.t.part (pkgOf s1.t.core) va.toNat n ≠ none → takes 0x04 s1) ∧
    (∀ c s2, canonical va = true → va.toNat % n = 0 → guardedIn s1 s1.t.part (pkgOf s1.t.core) va.toNat n = none →
      translate s1 (me s1) acc va = .fault c s2 → takes c s2 ∧ (c = 0x04 ∨ c = 0x05))

/-- R154 to R158 and R402. That the core's TLB answers first, then the die's, then a walk is log 10 (DESIGN CHOICE). -/
def Obligations.TranslationRules : Prop :=
  ∀ (s : State) (w : Who) (c : Nat) (acc : Access) (va : Word), w.core = some c →
    let a := va.toNat % 2 ^ 57
    let found := fun (p : Nat) => (tlbEntries s p).find? fun e => e.hits w.part w.pkg a
    (canonical va = true ↔ ∀ b, 57 ≤ b → b < 64 → va.getLsbD b = va.getLsbD 56) ∧
    (canonical va = false → translate s w acc va = .fault 0x04 s) ∧
    (guarded s w.part w.pkg va = true → translate s w acc va = .fault 0x04 s) ∧
    (canonical va = true → guarded s w.part w.pkg va = false →
      (∀ e, found c = some e →
        (e.allows acc = false → translate s w acc va = .fault 0x04 s) ∧
        (e.allows acc = true → (acc = .store → e.dirty = true) →
          let pa := e.pa + a % 2 ^ e.size
          translate s w acc va = if pa / 2 ^ 44 % 2 ^ 8 = w.pkg ∧ populated pa = true then .ok pa s else .fault 0x04 s)) ∧
      (found c = none → found (dieTlb w.die) = none →
        (walk s w.part w.pkg a = .pageFault → translate s w acc va = .fault 0x05 s) ∧
        (walk s w.part w.pkg a = .protection → translate s w acc va = .fault 0x04 s)))

/-- R222 and R223. `w` is the width in bits; `old` the value at the point of the scope after the thread's own older stores to the bytes
have been published at it, each store whole (R352). R223 and R369: `wf` and the bound on places are invariants of runs; without them an arbitrary list of cells could hide a write. -/
def Obligations.AtomicResults : Prop :=
  (    ∀ (o : W4) (s : State), settledFor [o.fa, o.fb, o.fc] s → o.ty ∈ [2#5, 3, 6, 7] →
      let w := if o.ty = 2 ∨ o.ty = 6 then 32 else 64
      let n := w / 8
      let a := getS s o.fa
      let s1 := settleMatrix s
      let b := (getS s o.fb).toNat % 2 ^ w
      let c := (getS s o.fc).toNat % 2 ^ w
      let sg := fun (x : Nat) => if x % 2 ^ w < 2 ^ (w - 1) then ((x % 2 ^ w : Nat) : Int) else (x % 2 ^ w : Nat) - (2 ^ w : Nat)
      let done := fun (s2 : State) (sc k : Nat) (f : Nat → Nat) =>
        let r := performAtomic s2 sc k n f
        writesS r.2 o.fd (if o.ty.toNat ≤ 3 then BitVec.ofInt 64 (sg r.1) else BitVec.ofNat 64 r.1)
      let all := fun (run : (Nat → Nat) → Host.Outcome State Fault Refusal) =>
        exec (.atswap o) s = run (fun _ => b) ∧ exec (.atadd o) s = run (fun v => (v + b) % 2 ^ w) ∧
        exec (.atand o) s = run (fun v => (v &&& b) % 2 ^ w) ∧ exec (.ator o) s = run (fun v => (v ||| b) % 2 ^ w) ∧
        exec (.atxor o) s = run (fun v => (v ^^^ b) % 2 ^ w) ∧
        (o.ty.toNat ≤ 3 → exec (.atmin o) s = run (fun v => (if sg v ≤ sg b then v else b) % 2 ^ w) ∧
          exec (.atmax o) s = run (fun v => (if sg v ≤ sg b then b else v) % 2 ^ w)) ∧
        exec (.atminn o) s = run (fun v => min v b % 2 ^ w) ∧ exec (.atmaxn o) s = run (fun v => max v b % 2 ^ w) ∧
        exec (.atcas o) s = run (fun v => (if v = c then b else v) % 2 ^ w)
      (∀ k s2, 2 ≤ o.sc.toNat → conflicts s1 a n true = false → keyOf s1 .store a n 0 = .ok k s2 → pointPoisoned s2 o.sc.toNat k n = false →
        all (done s2 o.sc.toNat k)) ∧
      (∀ fo, o.sc = 1 → a.toNat < 2 ^ 26 → nameFolio s1 (a.toNat / 2 ^ 22 % 16) = .ready fo → fo.space ≠ 0 →
        a.toNat % 2 ^ 22 + n ≤ fo.size → a.toNat % 2 ^ 22 % n = 0 → folioQueued s1 (a.toNat / 2 ^ 22 % 16) = false →
        pointPoisoned s1 1 (fo.key (a.toNat % 2 ^ 22)) n = false →
        all (done (soilFolio s1 fo) 1 (fo.key (a.toNat % 2 ^ 22)))) ∧
      (o.sc = 1 → 2 ^ 26 ≤ a.toNat → exec (.atadd o) s = .next (finish (.trap { cls := 0x04, tval := a, telem := 0, va := false } s1) s)) ∧
      (o.sc ≠ 1 → conflicts s1 a n true = false → canonical a = true → a.toNat % n ≠ 0 →
        exec (.atadd o) s = .next (finish (.trap { cls := 0x03, tval := a, telem := 0, va := true } s1) s))) ∧
  (    ∀ (s : State) (scope key n : Nat) (f : Nat → Nat), 1 ≤ scope → scope ≤ 5 → s.home.wf = true →
      (∀ k, s.homeSeq.get k ≤ s.pubs) → (∀ x ∈ s.narrow, x.seq ≤ s.pubs) → (∀ w ∈ s.t.own, w.seq ≤ s.pubs) →
      let p := publishIf s scope fun o => (s.t.unitsIn key n).contains o.unit
      let r := performAtomic s scope key n f
      r.1 = leNat (atomicGet p scope n key) ∧
      (∀ j < n, pointRead r.2 s.t.core s.t.part scope (key + j) = BitVec.ofNat 8 (f r.1 / 256 ^ j) ∧
        r.2.t.readByte (key + j) = BitVec.ofNat 8 (f r.1 / 256 ^ j)))

/-- R33 to R35. -/
def Obligations.IntegerDelivery : Prop :=
  (∀ (ty w : Nat) (x : Int), 0 < w →
    deliver ty x w false = (truncInt x w, 0) ∧
    (ty ≤ 3 → let y := max (-2 ^ (w - 1)) (min x (2 ^ (w - 1) - 1)); deliver ty x w true = (truncInt y w, if y = x then 0 else flISAT)) ∧
    (3 < ty → let y := max 0 (min x (2 ^ w - 1)); deliver ty x w true = (truncInt y w, if y = x then 0 else flISAT))) ∧
  (∀ (x : Int) (n : Nat), 0 < n →
    (rshiftRound x n 0 = (x + 2 ^ (n - 1)) / 2 ^ n) ∧
    (let q := rshiftRound x n 1
     2 * |x - q * 2 ^ n| ≤ 2 ^ n ∧ (2 * |x - q * 2 ^ n| = 2 ^ n → q % 2 = 0)) ∧
    (rshiftRound x n 2 = x / 2 ^ n) ∧
    (rshiftRound x n 3 = if x % 2 ^ n = 0 then x / 2 ^ n else if x / 2 ^ n % 2 = 0 then x / 2 ^ n + 1 else x / 2 ^ n)) ∧
  ∀ (ty x : Nat), (ty ≤ 3 → readInt ty x = (BitVec.ofNat (typeWidth ty) x).toInt) ∧ (3 < ty → readInt ty x = (x % 2 ^ typeWidth ty : Nat))

/-- R241, R242 and R244 with the frame of R235; every form of the second source (R133, R134) and lane threads (R271) are covered. -/
def Obligations.VectorIntegerResults : Prop :=
  ∀ o : WV,
    let ty := o.ty.toNat
    let w := typeWidth ty
    let v := readInt ty
    let plain := fun (i : Instr) (p : WV) (f : State → Nat → Nat → Nat → Nat × Fl) => elementwiseResult i p (fun _ => True) true id id f
    plain (.vadd o) o (fun u a b _ => deliver ty (v a + v b) w (vtSat u)) ∧
    plain (.vsub o) o (fun u a b _ => deliver ty (v a - v b) w (vtSat u)) ∧
    plain (.vrsub o) o (fun u a b _ => deliver ty (v b - v a) w (vtSat u)) ∧
    plain (.vmul o) o (fun u a b _ => deliver ty (v a * v b) w (vtSat u)) ∧
    plain (.vmulh o) o (fun _ a b _ => (truncInt (v a * v b / 2 ^ w) w, 0)) ∧
    plain (.vmin o) o (fun _ a b _ => (truncInt (min (v a) (v b)) w, 0)) ∧
    plain (.vmax o) o (fun _ a b _ => (truncInt (max (v a) (v b)) w, 0)) ∧
    plain (.vand o) o (fun _ a b _ => (a &&& b, 0)) ∧
    plain (.vor o) o (fun _ a b _ => (a ||| b, 0)) ∧
    plain (.vxor o) o (fun _ a b _ => (a ^^^ b, 0)) ∧
    plain (.vadds o) o (fun _ a b _ => deliver ty (v a + v b) w true) ∧
    plain (.vsubs o) o (fun _ a b _ => deliver ty (v a - v b) w true) ∧
    plain (.vabs o) (aloneSrc o) (fun u a _ _ => deliver ty |v a| w (vtSat u)) ∧
    plain (.vavg o) o (fun u a b _ => (truncInt (rshiftRound (v a + v b) 1 (irm u)) w, 0)) ∧
    plain (.vsll o) o (fun u a b _ => deliver ty (v a * 2 ^ (b % w)) w (vtSat u)) ∧
    plain (.vsrl o) o (fun _ a b _ => (a / 2 ^ (b % w), 0)) ∧
    plain (.vsra o) o (fun _ a b _ => (truncInt (sextNat a w / 2 ^ (b % w)) w, 0)) ∧
    plain (.vsrar o) o (fun u a b _ => (truncInt (rshiftRound (sextNat a w) (b % w) (irm u)) w, 0)) ∧
    plain (.vsrlr o) o (fun u a b _ => (truncInt (rshiftRound a (b % w) (irm u)) w, 0)) ∧
    plain (.vfunl o) o (fun _ a b d => ((a * 2 ^ w + d) * 2 ^ (b % w) / 2 ^ w, 0)) ∧
    plain (.vfunr o) o (fun _ a b d => ((a * 2 ^ w + d) / 2 ^ (b % w), 0))

/-- R243, R245, R246. That vdot's vstart and count are in destination elements, and n_d of vmac and vmacs by their own widths, is log 19
(DESIGN CHOICE). -/
def Obligations.VectorWidthChangingResults : Prop :=
  ∀ o : WV,
    let ty := o.ty.toNat
    let w := typeWidth ty
    let v := readInt ty
    let wide := fun (k x : Nat) => if ty ≤ 3 then sextNat x k else ((x % 2 ^ k : Nat) : Int)
    elementwiseResult (.vnsra o) o (fun _ => True) true (fun g => max 1 (g / 2)) (fun x => x / 2)
      (fun u a b _ => deliver ty (rshiftRound (v a) (b % w) (irm u)) (w / 2) true) ∧
    elementwiseResult (.vmac o) o (fun s => vtGrp s ≠ 8) true (fun g => 2 * g) (fun x => 2 * x)
      (fun u a b d => deliver ty (wide (2 * w) d + v a * v b) (2 * w) (vtSat u)) ∧
    elementwiseResult (.vmacs o) o (fun s => vtGrp s ≠ 8) true (fun g => 2 * g) (fun x => 2 * x)
      (fun _ a b d => deliver ty (wide (2 * w) d + v a * v b) (2 * w) true) ∧
    ∀ (n : Nat) (i : Instr) (always : Bool), (n, i, always) ∈ [(2, Instr.vdot2 o, false), (2, .vdot2s o, true), (4, .vdot4 o, false), (4, .vdot4s o, true)] →
      ∀ (s sp u : State) (p : Word) (b : Nat → Nat),
        let g := vtGrp s
        let va := o.va.toNat
        let vd := o.vd.toNat
        runsNow .elements s → lengthOk s g w = true → va % g = 0 → vd % g = 0 → popAt o.src s = some (p, sp) →
        sourcesAt (regsOf va g ++ srcRegs o.src g) (regsOf vd g) none sp u → secondSource o.src p ty g u = some b →
        plainDest (regsOf vd g) u →
        let vl := u.t.ctl.vl
        let cnt := (vl + n - 1) / n
        let prod := fun e => if e < vl then v (element u va g w e) * v (b e) else 0
        let sum := fun e => wide (n * w) (element u vd g (n * w) e) + ((List.range n).map fun j => prod (n * e + j)).sum
        let r := fun e => deliver ty (sum e) (n * w) (always || vtSat u)
        ∃ (t : State) (f : Fl), exec i s = .next t ∧ vecKeeps (regsOf vd g) none u t ∧
          (∀ e < g * 8192 / (n * w), element t vd g (n * w) e = if vl = 0 then element u vd g (n * w) e
            else destElem u (n * w) cnt (startElem u) o.msk.toNat e (element u vd g (n * w) e) ((r e).1 % 2 ^ (n * w))) ∧
          orOver cnt (acts u (n * w) (startElem u) o.msk.toNat) (fun e => (r e).2) f ∧ raised u t f

/-- R258 to R260, over the arithmetic that RoundingCorrect and RoundingExactAndSpecialValues speak of. -/
def Obligations.VectorFloatResults : Prop :=
  ∀ o : WV,
    let f := fmtOf o.ty.toNat
    let x := f.value
    let plain := fun (i : Instr) (p : WV) (h : State → Nat → Nat → Nat → Nat × Fl) => elementwiseResult i p (fun _ => True) true id id h
    plain (.vfadd o) o (fun u a b _ => fAdd f (frmMode u) (vtSat u) (x a) (x b)) ∧
    plain (.vfsub o) o (fun u a b _ => fAdd f (frmMode u) (vtSat u) (x a) (x b).neg) ∧
    plain (.vfmul o) o (fun u a b _ => fMul f (frmMode u) (vtSat u) (x a) (x b)) ∧
    plain (.vfdiv o) o (fun u a b _ => fDiv f (frmMode u) (vtSat u) (x a) (x b)) ∧
    plain (.vfsqrt o) (aloneSrc o) (fun u a _ _ => fSqrt f (frmMode u) (vtSat u) (x a)) ∧
    plain (.vfmin o) o (fun _ a b _ => fMinMax f false a b) ∧
    plain (.vfmax o) o (fun _ a b _ => fMinMax f true a b) ∧
    plain (.vfabs o) (aloneSrc o) (fun _ a _ _ => (a % f.signBit, 0)) ∧
    plain (.vfneg o) (aloneSrc o) (fun _ a _ _ => (a ^^^ f.signBit, 0)) ∧
    plain (.vfsgnj o) o (fun _ a b _ => (a % f.signBit + b / f.signBit * f.signBit, 0)) ∧
    plain (.vfma o) o (fun u a b d => fFma f (frmMode u) (vtSat u) (x a) (x b) (x d)) ∧
    plain (.vfms o) o (fun u a b d => fFma f (frmMode u) (vtSat u) (x a) (x b) (x d).neg) ∧
    plain (.vfnma o) o (fun u a b d => fFma f (frmMode u) (vtSat u) (x a).neg (x b) (x d).neg) ∧
    plain (.vfnms o) o (fun u a b d => fFma f (frmMode u) (vtSat u) (x a).neg (x b) (x d))

/-- R247 to R249. m0 is never a destination (R132). mpopc's vd as one register, of any number, is log 19 (DESIGN CHOICE). -/
def Obligations.VectorCompareAndMaskResults : Prop :=
  (∀ (o : WV) (i : Instr) (k : Nat), (k, i) ∈ [(0, Instr.vceq o), (1, .vcne o), (2, .vclt o), (3, .vcle o), (4, .vcgt o), (5, .vcge o)] →
    ∀ (s sp u : State) (p : Word) (b : Nat → Nat),
      let ty := o.ty.toNat
      let w := typeWidth ty
      let g := vtGrp s
      let va := o.va.toNat
      let md := o.vd.toNat
      runsNow .elements s → lengthOk s g w = true → va % g = 0 → 1 ≤ md → md < 8 → popAt o.src s = some (p, sp) →
      sourcesAt (regsOf va g ++ srcRegs o.src g) [] (some md) sp u → secondSource o.src p ty g u = some b →
      let vl := u.t.ctl.vl
      let x := fun e => readInt ty (element u va g w e)
      let y := fun e => readInt ty (b e)
      let rel := fun (p q : Int) => match k with
        | 0 => decide (p = q)
        | 1 => decide (p ≠ q)
        | 2 => decide (p < q)
        | 3 => decide (p ≤ q)
        | 4 => decide (q < p)
        | _ => decide (q ≤ p)
      let r := fun e => if ty ≤ 7 then (rel (x e) (y e), (0 : Fl))
        else fCompare k ((fmtOf ty).value (element u va g w e)) ((fmtOf ty).value (b e))
      ∃ (t : State) (f : Fl), exec i s = .next t ∧ vecKeeps [] (some md) u t ∧
        ((∀ bd ∈ u.t.binds, bd.live ≠ md) → ∀ e < 8192, ((getM t md).getLsbD e).toNat = if vl = 0 then ((getM u md).getLsbD e).toNat
          else destElem u w vl (startElem u) o.msk.toNat e ((getM u md).getLsbD e).toNat (r e).1.toNat) ∧
        orOver vl (acts u w (startElem u) o.msk.toNat) (fun e => (r e).2) f ∧ raised u t f) ∧
  (∀ (o : WV) (i : Instr) (f : Bool → Bool → Bool), (i, f) ∈ [(Instr.mand o, fun a b => a && b), (.mor o, fun a b => a || b),
      (.mxor o, fun a b => a != b), (.mnot o, fun a _ => !a)] →
    ∀ s u : State,
      let md := o.vd.toNat
      let w := typeWidth (vtType u)
      let mb := match o.src with
        | .vec vb _ => vb.toNat
        | .scal _ | .imm _ | .queue _ => 0
      runsNow .elements s → 1 ≤ md → md < 8 → sourcesAt [] [] (some md) s u →
      ∃ t : State, exec i s = .next t ∧ vecKeeps [] (some md) u t ∧ raised u t 0 ∧
        ((∀ bd ∈ u.t.binds, bd.live ≠ md) → ∀ e < 8192, ((getM t md).getLsbD e).toNat =
          if u.t.ctl.vl = 0 then ((getM u md).getLsbD e).toNat
          else destElem u w u.t.ctl.vl (startElem u) 0 e ((getM u md).getLsbD e).toNat
            (f ((getM u o.va.toNat).getLsbD e) ((getM u mb).getLsbD e)).toNat)) ∧
  (∀ (o : WV) (s u : State), runsNow .whole s → sourcesAt [] [o.vd.toNat] none s u → plainDest [o.vd.toNat] u →
    ∃ t : State, exec (.mpopc o) s = .next t ∧ vecKeeps [o.vd.toNat] none u t ∧ raised u t 0 ∧ dirtied u t o.vd.toNat 1 ∧
      (getV t o.vd.toNat).extractLsb' 0 64 = BitVec.ofNat 64
        ((List.range u.t.ctl.vl).filter fun e => (getM u o.va.toNat).getLsbD e && maskOn u o.msk.toNat e).length ∧
      (getV t o.vd.toNat).extractLsb' 64 8128 = (getV u o.vd.toNat).extractLsb' 64 8128)

/-- R250 to R253. -/
def Obligations.VectorPermutationResults : Prop :=
  ∀ o : WV,
    let w := typeWidth o.ty.toNat
    let mk := o.msk.toNat
    let vl := fun (u : State) => u.t.ctl.vl
    let a := fun (u : State) e => element u o.va.toNat (vtGrp u) w e
    let d := fun (u : State) e => element u o.vd.toNat (vtGrp u) w e
    let off := fun (u : State) (b : Nat → Nat) => min (vl u) (match o.src with
      | .vec vb _ => (getV u vb.toNat).toNat % 2 ^ 64
      | .scal _ | .imm _ | .queue _ => b 0)
    permResult (.vslup o) o .whole true vl (fun _ => 0) (fun _ => mk)
      (fun u b e => if off u b ≤ e then a u (e - off u b) else d u (vl u - off u b + e)) ∧
    permResult (.vsldn o) o .whole true vl (fun _ => 0) (fun _ => mk)
      (fun u b e => if e + off u b < vl u then a u (e + off u b) else d u (e + off u b - vl u)) ∧
    permResult (.vcompress o) (aloneSrc o) .whole true (fun u => countEnabled u mk (vl u)) (fun _ => 0) (fun _ => 0)
      (fun u _ e => a u (nthEnabled u mk (vl u) e)) ∧
    permResult (.vexpand o) (aloneSrc o) .whole true vl (fun _ => 0) (fun _ => mk) (fun u _ e => a u (countEnabled u mk e)) ∧
    permResult (.viota o) (aloneSrc o) .whole false vl (fun _ => 0) (fun _ => 0) (fun u _ e => countEnabled u mk e) ∧
    permResult (.vgather o) o .elements true vl startElem (fun _ => mk)
      (fun u b e => if b e % 2 ^ 64 < vl u then a u (b e % 2 ^ 64) else 0) ∧
    permResult (.vmerge o) o .elements true vl startElem (fun _ => 0) (fun u b e => if maskOn u mk e then b e else a u e) ∧
    permResult (.vmv o) o .elements false vl startElem (fun _ => mk) (fun _ b e => b e)

/-- R52 and R53: absent leaves pass the other through; the shape of the tree matters only to operations that round or saturate. -/
def Obligations.TreeOfAnAssociativeOperation : Prop :=
  ∀ (op : Nat → Nat → Nat) (start : Nat) (leaves : List (Option Nat)), (∀ x y z, op (op x y) z = op x (op y z)) →
    (leaves.length ≤ 2 ^ 24 → reduce (fun x y => (op x y, (0 : Fl))) start leaves = ((leaves.filterMap id).foldl op start, 0)) ∧
    ∀ n, n ≤ leaves.length → n ≤ 8192 →
      scanAt (fun x y => (op x y, (0 : Fl))) start leaves n = (((leaves.take n).filterMap id).foldl op start, 0)

/-- R254, R255, R266 to R268. -/
def Obligations.VectorReductionResults : Prop :=
  ∀ o : WV,
    let ty := o.ty.toNat
    let w := typeWidth ty
    let fm := fmtOf ty
    let va := o.va.toNat
    let vd := o.vd.toNat
    let mk := o.msk.toNat
    let leaves := fun (u : State) (g n : Nat) => (List.range n).map fun e => if maskOn u mk e then some (element u va g w e) else none
    let add := fun (sat : Bool) x y => deliver ty (readInt ty x + readInt ty y) w sat
    let fadd := fun (u : State) x y => fAdd fm (frmMode u) (vtSat u) (fm.value x) (fm.value y)
    (∀ (i : Instr) (op : State → Nat → Nat → Nat × Fl), (i, op) ∈ [(Instr.vredsum o, fun u => add (vtSat u)), (.vredsums o, fun _ => add true),
        (.vredmax o, fun _ x y => (truncInt (max (readInt ty x) (readInt ty y)) w, 0)),
        (.vredmin o, fun _ x y => (truncInt (min (readInt ty x) (readInt ty y)) w, 0)),
        (.vredand o, fun _ x y => (x &&& y, 0)), (.vredor o, fun _ x y => (x ||| y, 0)), (.vredxor o, fun _ x y => (x ^^^ y, 0)),
        (.vfredsum o, fadd), (.vfredmax o, fun _ => fMinMax fm true), (.vfredmin o, fun _ => fMinMax fm false)] →
      ∀ (s sp u : State) (p : Word) (b : Nat → Nat),
        let g := vtGrp s
        runsNow .whole s → lengthOk s g w = true → va % g = 0 → vd % g = 0 → popAt o.src s = some (p, sp) →
        sourcesAt (regsOf va g ++ srcRegs o.src g) (regsOf vd g) none sp u → secondSource o.src p ty g u = some b →
        plainDest (regsOf vd g) u →
        let r := reduce (op u) (b 0) (leaves u g u.t.ctl.vl)
        ∃ t : State, exec i s = .next t ∧ vecKeeps [vd] none u t ∧ raised u t r.2 ∧ dirtied u t vd 1 ∧
          ∀ e < 8192 / w, element t vd 1 w e = if e = 0 then r.1 % 2 ^ w else element u vd 1 w e) ∧
    (∀ (i : Instr) (op : State → Nat → Nat → Nat × Fl), (i, op) ∈ [(Instr.vscan o, fun u => add (vtSat u)), (.vfscan o, fadd)] →
      ∀ (s sp u : State) (p : Word) (b : Nat → Nat),
        let g := vtGrp s
        runsNow .whole s → lengthOk s g w = true → va % g = 0 → vd % g = 0 → popAt o.src s = some (p, sp) →
        sourcesAt (regsOf va g ++ srcRegs o.src g) (regsOf vd g) none sp u → secondSource o.src p ty g u = some b →
        u.t.ctl.vtype = s.t.ctl.vtype → plainDest (regsOf vd g) u →
        let vl := u.t.ctl.vl
        let r := fun e => scanAt (op u) (b 0) (leaves u g vl) (e + 1)
        ∃ (t : State) (f : Fl), exec i s = .next t ∧ vecKeeps (regsOf vd g) none u t ∧
          orOver vl (fun e => maskOn u mk e) (fun e => (r e).2) f ∧ raised u t f ∧
          ∀ e < g * 8192 / w, element t vd g w e = if vl = 0 then element u vd g w e
            else destElem u w vl 0 mk e (element u vd g w e) ((r e).1 % 2 ^ w)) ∧
    (∀ s u : State,
      let g := vtGrp s
      let vb := match o.src with
        | .vec vb _ => vb.toNat
        | .scal _ | .imm _ | .queue _ => 0
      runsNow .whole s → lengthOk s g w = true → va % g = 0 → vb % g = 0 → vd % g = 0 →
      sourcesAt (regsOf va g ++ regsOf vb g) (regsOf vd g) none s u → plainDest (regsOf vd g) u →
      let pairs := (List.range u.t.ctl.vl).map fun e =>
        if maskOn u mk e then some (element u va g w e, element u vb g w e) else none
      let r := reduce (pairAdd fm) (element u vd 1 w 0, element u vd 1 w 1) pairs
      ∃ t : State, exec (.vfred2 o) s = .next t ∧ vecKeeps [vd] none u t ∧ raised u t r.2 ∧
        ∀ e < 8192 / w, element t vd 1 w e = if e = 0 then r.1.1 % 2 ^ w else if e = 1 then r.1.2 % 2 ^ w else element u vd 1 w e)

/-- R261, R262, R264, R265 with R49 to R51. R50 with the ranges of R47 and R48. -/
def Obligations.VectorConversionResults : Prop :=
  (    (∀ (o : WV) (i : Instr) (gs ws gd wd : Nat) (f : State → Nat → Nat → Nat × Fl) (s u : State),
      let td := o.ty.toNat
      let ts := match o.src with
        | .vec vb _ => vb.toNat
        | .scal _ | .imm _ | .queue _ => 0
      let g := vtGrp s
      let m := td - 0x10 + 2
      (i, gs, ws, gd, wd, f) ∈
        [(Instr.vcvt o, g, typeWidth ts, max 1 (g * typeWidth td / typeWidth ts), typeWidth td, fun u _ x => convertElem td ts (frmMode u) (vtSat u) x),
         (.vcvtz o, g, typeWidth ts, max 1 (g * typeWidth td / typeWidth ts), typeWidth td, fun u _ x => convertElem td ts 1 (vtSat u) x),
         (.vdeq o, max 1 (g * 8 / typeWidth (vtType s)), 8, g, typeWidth (vtType s),
            fun u e x => dequant m (vtType s) (frmMode u) (vtSat u) (scaleOf u ts e) x)] →
      (i = .vdeq o → isFp (vtType s) = true ∧ scaleFits s ts = true) →
      (i ≠ .vdeq o → g * typeWidth td / typeWidth ts ≤ 8) →
      runsNow (if i = .vdeq o then .whole else .elements) s → lengthOk s gs ws = true → o.va.toNat % gs = 0 → o.vd.toNat % gd = 0 →
      s.t.ctl.vl ≤ gd * 8192 / wd → sourcesAt (regsOf o.va.toNat gs) (regsOf o.vd.toNat gd) none s u → plainDest (regsOf o.vd.toNat gd) u →
      let vl := u.t.ctl.vl
      let r := fun e => f u e (element u o.va.toNat gs ws e)
      ∃ (t : State) (fl : Fl), exec i s = .next t ∧ vecKeeps (regsOf o.vd.toNat gd) none u t ∧
        (∀ e < gd * 8192 / wd, element t o.vd.toNat gd wd e = if vl = 0 then element u o.vd.toNat gd wd e
          else destElem u ws vl (startElem u) o.msk.toNat e (element u o.vd.toNat gd wd e) ((r e).1 % 2 ^ wd)) ∧
        orOver vl (acts u ws (startElem u) o.msk.toNat) (fun e => (r e).2) fl ∧ raised u t fl) ∧
    (∀ (o : WV) (s u : State),
      let ts := vtType s
      let w := typeWidth ts
      let m := o.ty.toNat - 0x10 + 2
      let g := vtGrp s
      let gb := max 1 (g * 8 / w)
      let va := o.va.toNat
      let vd := o.vd.toNat
      let k := match o.src with
        | .vec vb _ => vb.toNat
        | .scal _ | .imm _ | .queue _ => 0
      isFp ts = true → runsNow .whole s → lengthOk s g w = true → va % g = 0 → vd % gb = 0 → scaleFits s k = true →
      sourcesAt (regsOf va g) (regsOf vd gb) none s u → u.t.ctl.vtype = s.t.ctl.vtype → u.t.ctl.vl = s.t.ctl.vl → plainDest (regsOf vd gb) u →
      let n := 2 ^ (vtBl u + 3)
      let vl := u.t.ctl.vl
      let on := fun e => decide (e < vl) && maskOn u o.msk.toNat e
      ∃ t : State, exec (.vquant o) s = .next t ∧ t.stalled = false ∧ t.t.s = u.t.s ∧ t.home = u.home ∧
        (∀ q, q ∉ regsOf vd gb → getV t q = getV u q) ∧
        ∀ j, j * n < gb * 1024 → j / 64 + k < 16 →
          let es := ((List.range n).map (j * n + ·)).filter on
          let q := quantise m (es.map fun e => (fmtOf ts).value (element u va g w e))
          (es = [] → elemAt (getE t (k + j / 64)).toNat 8 (j % 64) = elemAt (getE u (k + j / 64)).toNat 8 (j % 64) ∧
            ∀ e, j * n ≤ e → e < j * n + n → element t vd gb 8 e = element u vd gb 8 e) ∧
          (es ≠ [] → elemAt (getE t (k + j / 64)).toNat 8 (j % 64) = q.1 % 256 ∧
            (∀ p < es.length, element t vd gb 8 (es.getD p 0) = truncInt (q.2.1.getD p 0) 8) ∧
            ∀ e, j * n ≤ e → e < j * n + n → on e = false → element t vd gb 8 e = 0))) ∧
  (    ∀ (m : Nat) (xs : List FVal), 2 ≤ m → m ≤ 8 →
      let q := quantise m xs
      q.2.1.length = xs.length ∧
      ((∃ x ∈ xs, x.isNan = true ∨ ∃ n, x = .inf n) → q.1 = 255 ∧ (∀ v ∈ q.2.1, v = 0) ∧ q.2.2 = flNV ||| flPZ) ∧
      ((∀ x ∈ xs, ∃ n e, x = .fin n 0 e) → q.1 = 0 ∧ (∀ v ∈ q.2.1, v = 0) ∧ q.2.2 = 0) ∧
      ((∀ x ∈ xs, ∃ n k e, x = .fin n k e) → q.1 ≤ 254 ∧ ∀ v ∈ q.2.1, |v| ≤ 2 ^ (m - 1) - 1))

/-- R239 and R240 with R232's largest vl: GRP registers of 8192 bits hold GRP × 8192 / w elements. R218, R232, R233, R276. The trap is taken
in a queued instruction's place or with no older work of the stream, behind the pop of a queue form (R133); in a lane thread it stops that
thread (R275). That a binding of a group holds all its registers, and a slide's vb is a group, is log 19 (DESIGN CHOICE). -/
def Obligations.VectorLengthTypeAndIllegal : Prop :=
  (    ∀ (o : W4) (s : State), runsNow .ignore s →
      let largest := fun (vt : Word) => 2 ^ (vt.toNat / 2 ^ 10 % 4) * 8192 / typeWidth (vt.toNat % 32)
      (typeValid (s.t.ctl.vtype.toNat % 32) = true →
        exec (.vsetvl o) s = .next (committed .ignore (setModes s fun e => { e with vl := min (getS s o.fa).toNat (vlMaxOf e.vtype) })) ∧
          vlMaxOf s.t.ctl.vtype = largest s.t.ctl.vtype) ∧
      (typeValid (s.t.ctl.vtype.toNat % 32) = false →
        exec (.vsetvl o) s = .next { takeTrap (mkTrap 0x01 ((curHead s).1.setWidth 64)) (stopAt none s) with stalled := false }) ∧
      (typeValid o.ty.toNat = true → o.fa.toNat < 4 → o.fb.toNat < 4 → o.fd.toNat < 16 → ∃ t, exec (.vsettype o) s = .next t ∧ t.stalled = false ∧
        let vt := BitVec.ofNat 64 (o.fd.toNat * 2 ^ 12 + o.fa.toNat * 2 ^ 10 + o.fb.toNat * 2 ^ 8 + o.ty.toNat)
        t.t.ctl.vtype = vt ∧ t.t.ctl.vl = min s.t.ctl.vl (largest vt))) ∧
  (    ∀ (o : WV) (i : Instr) (s : State),
      let g := vtGrp s
      let w := typeWidth o.ty.toNat
      i ∈ [Instr.vadd o, .vsub o, .vmul o, .vand o, .vsll o, .vfunl o, .vfadd o, .vfmul o, .vfma o, .vslup o, .vgather o, .vmerge o, .vredsum o,
        .vredand o, .vfredsum o, .vscan o] →
      runsNow .elements s → (i ∈ [.vslup o, .vredsum o, .vredand o, .vfredsum o, .vscan o] → startElem s = 0) →
      (lengthOk s g w = false ∨ o.va.toNat % g ≠ 0 ∨ o.vd.toNat % g ≠ 0 ∨ (∃ vb cb, o.src = .vec vb cb ∧ vb.toNat % g ≠ 0) ∨
        ∃ b ∈ s.t.binds, (b.store = false ∨ (laneOf s).isSome = true) ∧ ∃ j < b.regs, b.vd + j ∈ regsOf o.vd.toNat g) →
      ∀ (sp : State) (p : Word), popAt o.src s = some (p, sp) →
      exec i s = .next { takeTrap (mkTrap 0x01 ((curHead s).1.setWidth 64)) (stopAt none sp) with stalled := false })

/-- R203, R209, R210, R215. `a` is the base register, in the state after posted matrix accesses (R300). -/
def Obligations.VectorLoadResults : Prop :=
  (∀ (o : WM) (s : State),
    let sp := settleMatrix s
    let w := typeWidth o.ty.toNat
    let a := getS sp o.sa
    let at_ := fun (addr : State → Nat → Word) (x : State) e => loadOne o.ty.toNat (addr x e) x e
    loadResult (.vld o) (o.ty = 0x0E) o.vd.toNat o.msk.toNat w [] s sp (at_ fun _ e => a + BitVec.ofNat 64 (e * (w / 8))) ∧
    loadResult (.vlds o) (o.ty = 0x0E) o.vd.toNat o.msk.toNat w [] s sp (at_ fun _ e => a + BitVec.ofInt 64 (e * (getS sp o.xb).toInt)) ∧
    (o.xb.toNat % vtGrp sp = 0 → loadResult (.vldx o) (o.ty = 0x0E) o.vd.toNat o.msk.toNat w (regsOf o.xb.toNat (vtGrp sp)) s sp
      (at_ fun x e => getS x o.sa + BitVec.ofNat 64 (element x o.xb.toNat (vtGrp x) w e % 2 ^ 64)))) ∧
  (∀ (o : LF) (s : State) (f : FolioEntry),
    let sp := settleMatrix s
    let w := typeWidth o.wm.ty.toNat
    let z := w / 8
    let off := fun (e : Nat) => (o.foff.toNat : Int) + (getS sp o.wm.sa).toInt + e * (if o.wm.xb = 0 then (z : Int) else (getS sp o.wm.xb).toInt)
    nameFolio sp o.fh.toNat = .ready f → f.space ≠ 0 → o.wm.ty ≠ 0x0E → sp.poison = [] →
    (∀ e < sp.t.ctl.vl, 0 ≤ off e ∧ off e + z ≤ f.size ∧ off e % z = 0) →
    loadResult (.vldf o) False o.wm.vd.toNat o.wm.msk.toNat (8 * z) [] s sp
      fun x e => if x.poison = [] ∧ 0 ≤ off e ∧ off e + z ≤ f.size ∧ off e % z = 0 then .ok (leNat (x.t.readBytes z (f.key (off e).toNat))) x
        else .bad (mkTrap 0 0) x)

/-- R203, R204, R209, R210, R215 and the frame of a store. -/
def Obligations.VectorStoreResults : Prop :=
  (∀ (o : WM) (s : State),
    let sp := settleMatrix s
    let w := typeWidth o.ty.toNat
    let a := getS sp o.sa
    storeResult (.vst o) o.vd.toNat o.msk.toNat w [] s sp (fun _ e => a + BitVec.ofNat 64 (e * (w / 8))) ∧
    storeResult (.vsts o) o.vd.toNat o.msk.toNat w [] s sp (fun _ e => a + BitVec.ofInt 64 (e * (getS sp o.xb).toInt)) ∧
    (o.xb.toNat % vtGrp sp = 0 → storeResult (.vstx o) o.vd.toNat o.msk.toNat w (regsOf o.xb.toNat (vtGrp sp)) s sp
      (fun x e => getS x o.sa + BitVec.ofNat 64 (element x o.xb.toNat (vtGrp x) w e % 2 ^ 64)))) ∧
  (∀ (o : LF) (s s1 : State) (f : FolioEntry),
    let sp := settleMatrix s
    let z := typeWidth o.wm.ty.toNat / 8
    let g := vtGrp sp
    let vd := o.wm.vd.toNat
    let mk := o.wm.msk.toNat
    let off := fun (e : Nat) => (o.foff.toNat : Int) + (getS sp o.wm.sa).toInt + e * (if o.wm.xb = 0 then (z : Int) else (getS sp o.wm.xb).toInt)
    nameFolio sp o.fh.toNat = .ready f → f.space = 1 → (∀ e < s1.t.ctl.vl, 0 ≤ off e ∧ off e + z ≤ f.size ∧ off e % z = 0) →
    runsNow .elements s → sp.t.ctl.vl ≤ g * 8192 / (8 * z) → vd % g = 0 → sourcesAt (regsOf vd g) [] none sp s1 →
    let st := startElem s1
    let vl := s1.t.ctl.vl
    ∃ t : State, exec (.vstf o) s = .next t ∧ t.stalled = false ∧ t.t.v = s1.t.v ∧
      storesRead z (element s1 vd g (8 * z)) (maskOn s1 mk) (fun e => f.key (off e).toNat) st vl s1 t ∧
      ((∃ e, st ≤ e ∧ e < vl ∧ maskOn s1 mk e = true) → ∀ x ∈ t.folios, x.core = f.core → x.index = f.index → x.clean = false ∧ x.view = none))

/-- R203, R438 and R439: the fault is precise to the element. -/
def Obligations.VectorMemoryFault : Prop :=
  ∀ (o : WM) (s s1 s2 : State) (σ : Nat → State) (x k : Nat → Nat) (n : Nat) (tr : Trap),
    let sp := settleMatrix s
    let w := typeWidth o.ty.toNat
    let a := getS sp o.sa
    let addr := fun (e : Nat) => a + BitVec.ofNat 64 (e * (w / 8))
    let g := vtGrp sp
    let vd := o.vd.toNat
    let mk := o.msk.toNat
    let st := startElem s1
    runsNow .elements s → laneOf s = none → sp.t.ctl.vl ≤ g * 8192 / w → vd % g = 0 → σ st = s1 → st ≤ n → n < s1.t.ctl.vl →
    maskOn s1 mk n = true → s2.t.ctl.inh = false → laneOf s2 = none → tr.cls ≠ 0x01 → tr.telem = n →
    ((o.ty = 0x0E → (catalogue s1).isSome = true) → sourcesAt [] (regsOf vd g) none sp s1 → plainDest (regsOf vd g) s2 → loadsTo (fun y e => loadOne o.ty.toNat (addr e) y e) (maskOn s1 mk) σ x st n →
      loadOne o.ty.toNat (addr n) (σ n) n = .bad tr s2 →
      ∃ v : State, exec (.vld o) s = .next { takeTrap tr v with stalled := false } ∧ v.t.ctl.vstart = n ∧ v.home = s2.home ∧
        ∀ e < g * 8192 / w, element v vd g w e = if st ≤ e ∧ e < n ∧ maskOn s1 mk e = true then x e % 2 ^ w else element s2 vd g w e) ∧
    (sourcesAt (regsOf vd g) [] none sp s1 → storesTo (w / 8) (fun e => (addr e).toNat) (element s1 vd g w) (maskOn s1 mk) σ k st n →
      storeOne o.ty.toNat (addr n) (σ n) n (element s1 vd g w n) = .bad tr s2 →
      (∃ v : State, exec (.vst o) s = .next { takeTrap tr v with stalled := false } ∧ v.t.ctl.vstart = n ∧ v.home = s2.home ∧
        v.t.own = s2.t.own ∧ v.t.snap = s2.t.snap ∧ v.t.v = s2.t.v) ∧
      storesRead (w / 8) (element s1 vd g w) (maskOn s1 mk) k st n s1 (σ n))

/-- R212: byte j of the string belongs to element floor(j / z), and mask bit j enables byte j. -/
def Obligations.VectorByteResults : Prop :=
  ∀ (o : WM) (s s1 : State) (σ : Nat → State) (x k : Nat → Nat),
    let sp := settleMatrix s
    let z := typeWidth o.ty.toNat / 8
    let g := vtGrp sp
    let vd := o.vd.toNat
    let mk := o.msk.toNat
    let a := getS sp o.sa
    let lo := startElem s1 * z
    let hi := s1.t.ctl.vl * z
    let u := σ (max lo hi)
    runsNow .elements s → sp.t.ctl.vl ≤ g * 8192 / (8 * z) → vd % g = 0 → σ lo = s1 →
    (sourcesAt [] (regsOf vd g) none sp s1 → plainDest (regsOf vd g) u →
      loadsTo (fun y j => loadAt y (a + BitVec.ofNat 64 j) 1 1 (j / z)) (maskOn s1 mk) σ x lo hi →
      ∃ t : State, exec (.vldu o) s = .next t ∧ vecKeeps (regsOf vd g) none u t ∧ raised u t 0 ∧
        ∀ e < g * 1024, element t vd g 8 e = if hi = 0 ∨ e < lo then element u vd g 8 e
          else if e < hi then (if maskOn s1 mk e then x e % 256 else element u vd g 8 e)
          else if vtTp s1 then 0 else element u vd g 8 e) ∧
    (sourcesAt (regsOf vd g) [] none sp s1 →
      (∀ j, lo ≤ j → j < hi → if maskOn s1 mk j then keyOf (σ j) .store (a + BitVec.ofNat 64 j) 1 (j / z) = .ok (k j) (σ (j + 1)) else σ (j + 1) = σ j) →
      (∀ i j, lo ≤ i → i < j → j < hi → maskOn s1 mk i = true → maskOn s1 mk j = true → k i ≠ k j) →
      ∃ t : State, exec (.vstu o) s = .next t ∧ t.stalled = false ∧ (∀ q, getV t q = getV u q) ∧ t.home = u.home ∧
        storesRead 1 (element s1 vd g 8) (maskOn s1 mk) k lo hi u t)

/-- R160 and R213. -/
def Obligations.BitPlaneResults : Prop :=
  (∀ (o : WM) (s s1 : State) (byte : Nat → Nat → Nat),
    let sp := settleMatrix s
    let m := o.ty.toNat - 0x10 + 2
    let g := vtGrp sp
    let vd := o.vd.toNat
    let a := getS sp o.sa
    let vl := s1.t.ctl.vl
    let st := startElem s1
    let mant := fun (e : Nat) => ((List.range m).map fun j => if (byte e j).testBit (e % 8) then 2 ^ j else 0).sum
    runsNow .elements s → sp.t.ctl.vl ≤ g * 1024 → vd % g = 0 → sourcesAt [] (regsOf vd g) none sp s1 →
    (∀ e, st ≤ e → e < vl → maskOn s1 o.msk.toNat e = true → canonical a = true ∧ a.toNat % 32 = 0 ∧ ∀ j < m,
      loadAt s1 (a + BitVec.ofNat 64 (e / 256 * (32 * m) + 32 * j + e % 256 / 8)) 1 1 e = .ok (byte e j) s1) →
    plainDest (regsOf vd g) s1 →
    ∃ t : State, exec (.vldbp o) s = .next t ∧ vecKeeps (regsOf vd g) none s1 t ∧
      ∀ e < g * 1024, element t vd g 8 e = if vl = 0 then element s1 vd g 8 e
        else destElem s1 8 vl st o.msk.toNat e (element s1 vd g 8 e) (truncInt (sextNat (mant e) m) 8)) ∧
  (∀ (o : WM) (s s1 : State) (σ τ : Nat → State),
    let sp := settleMatrix s
    let m := o.ty.toNat - 0x10 + 2
    let g := vtGrp sp
    let vd := o.vd.toNat
    let a := getS sp o.sa
    let vl := s1.t.ctl.vl
    let st := startElem s1
    let top := (vl + 255) / 256 * 256
    runsNow .elements s → sp.t.ctl.vl ≤ g * 1024 → vd % g = 0 → sourcesAt (regsOf vd g) [] none sp s1 → σ st = s1 →
    (∀ e, st ≤ e → e < vl → if maskOn s1 o.msk.toNat e then storePlanes a m (σ e) e (element s1 vd g 8 e) = .ok () (σ (e + 1)) else σ (e + 1) = σ e) →
    τ vl = σ (max st vl) → (∀ e, vl ≤ e → e < top → storePlanes a m (τ e) e 0 = .ok () (τ (e + 1))) →
    exec (.vstbp o) s = .next (committed .elements (consumeSources (regsOf vd g) (τ top)))) ∧
  (∀ (s s1 s2 : State) (a : Word) (m e v : Nat) (ks : List Nat),
    checkStores e ((List.range m).map (planeAddr a m e)) s = .ok ks s1 → ks.Nodup → storePlanes a m s e v = .ok () s2 →
    (∀ j < m, ∀ b < 8, (s2.t.readByte (ks.getD j 0)).getLsbD b =
      if b = e % 8 then v.testBit j else (s1.t.readByte (ks.getD j 0)).getLsbD b) ∧
    ∀ p, p ∉ ks → s2.t.readByte p = s1.t.readByte p)

/-- R214, R277 to R279, from element 0 for the scale moves. -/
def Obligations.ScaleAndSpillResults : Prop :=
  (∀ (o : WM) (s : State) (σ : Nat → State) (x : Nat → Nat),
    let sp := settleMatrix s
    let k := o.vd.toNat
    let n := scaleBlocks sp
    let addr := fun (j : Nat) => getS sp o.sa + BitVec.ofInt 64 (j * (getS sp o.xb).toInt)
    runsNow .elements s → scaleFits sp k = true → startElem sp = 0 → σ 0 = sp →
    ((∀ j < n, ∃ y, loadAt (σ j) (addr j) 1 1 (j * 2 ^ (vtBl sp + 3)) = .ok (x j) y ∧ σ (j + 1) = setScale y k j (x j)) →
      exec (.sldsc o) s = .next (committed .elements (σ n)) ∧
      (sp.t.ctl.vl ≤ 8192 → ∀ j < n, elemAt (getE (σ n) (k + j / 64)).toNat 8 (j % 64) = x j % 256)) ∧
    ((∀ j < n, storeAt (σ j) (addr j) 1 1 (j * 2 ^ (vtBl sp + 3)) (elemAt (getE sp (k + j / 64)).toNat 8 (j % 64)) = .ok () (σ (j + 1))) →
      exec (.sstsc o) s = .next (committed .elements (σ n)))) ∧
  (∀ (o : WM) (s s1 s2 : State),
    let sp := settleMatrix s
    let a := getS sp o.sa
    runsNow .whole s → a.toNat % 8 = 0 →
    (∀ ks, sourcesAt [o.vd.toNat] [] none sp s1 → checkStores 0 (byteAddrs a 1032) s1 = .ok ks s2 →
      exec (.vspill o) s = .next (committed .whole (consumeSources [o.vd.toNat] (storeKeys s2 ks (spillSlot (getV s2 o.vd.toNat)))))) ∧
    (∀ bs x, (∀ b ∈ sp.t.binds, o.vd.toNat < b.vd ∨ b.vd + b.regs ≤ o.vd.toNat) → sourcesAt [] [o.vd.toNat] none sp s1 → plainDest [o.vd.toNat] s2 → loadBytesAt (fun _ => 0) a 1032 0 s1 = .ok bs s2 →
      fillSlot bs = some x →
      ∃ t : State, exec (.vfill o) s = .next t ∧ vecKeeps [o.vd.toNat] none s2 t ∧ getV t o.vd.toNat = x ∧ dirtied s2 t o.vd.toNat 1)) ∧
  ∀ v : VReg, (spillSlot v).length = 1032 ∧ fillSlot (spillSlot v) = some v

/-- R216 to R220. That a binding made with GRP above 1 has all the registers of its group is log 19 (DESIGN CHOICE). -/
def Obligations.StreamBindings : Prop :=
  (∀ (o : WM) (s s2 : State) (d : List Word) (store : Bool),
    let i := if store then Instr.vstreamSt o else .vstream o
    let a := getS s o.sa
    settledFor [o.sa] s → xBusy s = false → a.toNat % 64 = 0 → loadWords a 16 0 (settleMatrix s) = .ok d s2 →
    let s3 := unbind s2 o.vd.toNat
    let ty := (d.getD 0 0).toNat % 32
    (o.xb.toNat < 8 → descBad d = none → 0 < s3.t.ctl.vl → s3.t.binds.length < 8 → o.vd.toNat % vtGrp s3 = 0 →
      (o.xb = 0 ∨ ∀ b ∈ s3.t.binds, b.live ≠ o.xb.toNat) → streamTypeOk store ty (vtType s3) = true →
      ∃ t b, exec i s = .next t ∧ t.stalled = false ∧ t.t.binds = b :: s3.t.binds ∧ t.t.v = (settleRegs s3 (regsOf o.vd.toNat b.regs)).t.v ∧ b.vd = o.vd.toNat ∧ b.store = store ∧ b.desc = d ∧
        b.c = s3.t.ctl.vl ∧ b.q = 0 ∧ b.live = o.xb.toNat ∧ b.filled = false ∧
        (o.xb ≠ 0 → ∀ e < 8192, (getM t o.xb.toNat).getLsbD e = decide (e < min b.c b.total))) ∧
    (∀ v, o.xb.toNat < 8 → descBad d = some v → exec i s = .next { takeTrap (mkTrap 0x01 (v.getD ((curHead s).1.setWidth 64))) s3 with stalled := false })) ∧
  (∀ (o : WM) (s : State), xBusy s = false →
    exec (.vsunbind o) s = .next (passed (s.updT fun t => { t with binds := t.binds.filter fun b => b.vd != o.vd.toNat }))) ∧
  (∀ (vd : BitVec 5) (s : State) (b : Binding), xBusy s = false →
    (s.t.binds.find? fun b => b.vd == vd.toNat && !b.store && !b.filled) = some b →
    exec (.streamChunkFill vd) s = .next { fillChunk (settleMatrix (settleRegs s (regsOf b.vd b.regs))) b with stalled := false }) ∧
  (∀ (vd : BitVec 5) (eg : Nat) (s : State), eg < 32 →
    ∃ t, exec (.streamEgLanded vd eg) s = .next t ∧ t.stalled = false ∧ t.t.v = s.t.v ∧ t.home = s.home ∧
      t.t.binds.map Binding.landed = s.t.binds.map fun b =>
        if b.vd = vd.toNat ∧ b.filled = true ∧ (∀ p, b.bad = some p → eg < p.1 / (256 / typeWidth b.ety)) then b.landed ||| (1#32 <<< eg) else b.landed)

/-- R270 to R276, R81, R443. -/
def Obligations.LaneThreads : Prop :=
  (∀ (o : WJ) (s s1 : State) (l : Line), runsNow .whole s → vtGrp s = 1 → typeValid (vtType s) = true →
    let target := relTarget (curPc s) o.ld.toInt o.hd.toNat
    let epg := 256 / typeWidth (vtType s)
    enterLine s target false true = .ok l s1 →
    ∃ r : LaneRun, exec (.vblk o) s = .next (committed .whole (s1.updT fun t => { t with lanes := some r })) ∧
      r.lanes.map Lane.g = List.range ((s.t.ctl.vl + epg - 1) / epg) ∧ r.read = [] ∧
      (∀ x ∈ r.lanes, x.pc = target ∧ x.line = l ∧ x.status = .running) ∧ (s.t.xctx = none → r.sregs = s.t.s) ∧
      (∀ c, s.t.xctx = some c → r.sregs = c.entry.sregs) ∧ r.env = s1.t.ctl.env ∧ r.binds = s1.t.binds) ∧
  (∀ (o : WL) (s : State) (c : XCtx) (g : Nat), s.t.xctx = some c → c.lane = some g →
    let target := relTarget c.entry.pc o.ld.toInt o.hd.toNat
    let taken := o.msk = 0 ∨ ∃ e < s.t.ctl.vl, e / (256 / typeWidth (vtType s)) = g ∧ (getM s o.msk.toNat).getLsbD e = true
    (taken → ∀ l s1, enterLine s target false true = .ok l s1 →
      ∃ t, exec (.lfetch o) s = .next t ∧ t.stalled = false ∧ t.t.v = s1.t.v ∧ t.t.lanes = s1.t.lanes.map fun r =>
        { r with lanes := r.lanes.map fun x => if x.g = g then { x with pc := target, line := l, since := s1.cycle, issued := false } else x }) ∧
    (¬taken → exec (.lfetch o) s = .next { laneNext s g with stalled := false })) ∧
  (∀ (s : State) (g : Nat), laneOf s = some g → ∃ t, exec .lstop s = .next t ∧ t.stalled = false ∧ t.t.v = s.t.v ∧
    t.t.lanes = s.t.lanes.map fun r => { r with lanes := r.lanes.map fun x => if x.g = g then { x with status := .ended } else x }) ∧
  (∀ s : State, runsNow .join s → s.t.lanes = none → exec .vjoin s = .next (committed .join s)) ∧
  (∀ (s : State) (r : LaneRun), runsNow .join s → s.t.lanes = some r → (∀ x ∈ r.lanes, x.status = .ended) →
    let bs := s.t.binds.filter fun b => r.read.contains b.vd && r.binds.any fun u => u.sameAs b
    let n := (bs.map fun b => b.retagged 0 b.c).sum
    let s1 := s.updT fun t => { t with lanes := none }
    exec .vjoin s = .next (committed .join (bs.foldl (fun a b => beginChunk a { b with q := b.q + 1 }) (if n = 0 then s1 else countRetags s1 n)))) ∧
  (∀ (s : State) (r : LaneRun) (pre post : List Lane) (l : Lane) (tr : Trap) (tpc : Word) (held : Bool), runsNow .join s →
    s.t.lanes = some r → r.lanes = pre ++ l :: post → l.status = .faulted tr tpc held → (∀ x ∈ pre, x.status = .ended) →
    (∀ x ∈ post, x.status ≠ .running ∧ ∀ a b c, x.status = .faulted a b c → a.cls ≠ 0x05) → tr.cls ≠ 0x05 → tr.cls ≠ 0x02 →
    let s1 := if 0x07 ≤ tr.cls ∧ tr.cls ≤ 0x0A then s.updC fun c => { c with tgeom1 := l.geom } else s
    exec .vjoin s = .next { takeTrap { tr with telem := l.g }
      (stopAt none (s1.updT fun t => { t with lanes := some { r with lanes := [{ l with status := .running }] } })) with stalled := false }) ∧
  (∀ (s : State) (r : LaneRun) (l : Lane) (tr : Trap), s.t.lanes = some r →
    (r.lanes.find? fun x => x.g == l.g && x.isRunning) = some l → tr.cls = 0x01 ∨ tr.cls = 0x02 ∨ (0x07 ≤ tr.cls ∧ tr.cls ≤ 0x0A) →
    ∃ t, exec (.laneFault l.g tr) s = .next t ∧ t.stalled = false ∧ t.t.v = s.t.v ∧ t.t.xctx = none ∧
      t.t.lanes = some { r with lanes := r.lanes.map fun x => if x.g = l.g then
        { x with status := .faulted tr l.pc (decide (tr.cls ≠ 0x02)), geom := s.t.ctl.tgeom1 } else x }) ∧
  (∀ (s : State) (lane eg elem : Nat) (sampled : Bool), s.t.status = .running →
    let logged := fun (t : State) (ev : Nat) =>
      ∃ e : ErrEntry, t.errLog.getLast? = some e ∧ e.die = dieOf s.t.core ∧ (e.word0.extractLsb' 48 8).toNat = ev
    (∃ t, exec (.laneReexecute lane eg ⟨sampled, true, elem⟩) s = .next t ∧ t.stalled = false ∧ t.t = s.t ∧ t.home = s.home ∧
      logged t (if sampled then 3 else 2)) ∧
    (s.t.vq = [] → s.t.xdec = [] → s.t.xctx = none → runningLanes s = [] → ∃ t u, exec (.laneReexecute lane eg ⟨sampled, false, elem⟩) s = .next t ∧ t.stalled = false ∧
      t.t.status = .ending 1 (if sampled then 0x11 else 0x12) u 0 ∧ t.home = s.home ∧ logged t (if sampled then 3 else 4))) ∧
  (∀ (pkg core : Nat) (s : State), ∃ t, exec (.sliceIssue pkg core) s = .next t ∧ t.stalled = false ∧ t.home = s.home ∧ t.t.v = s.t.v ∧
    t.t.s = s.t.s ∧ t.t.vq.map XEntry.head = s.t.vq.map XEntry.head ∧
    let c := t.issued
    let cands := (((allThreads s).filter fun t => t.core == pkg * 384 + core && t.status != .free).map fun t =>
      threadSlices s.cycle { t with vq := restWaits s.cycle [] t.weighed }).flatten
    (cands = [] → c = none) ∧ ∀ y ∈ cands, ∃ x ∈ cands, c = some x ∧
      let late := fun (a : Slice) => if 64 ≤ a.waited then a.waited else 0
      late y < late x ∨ (late y = late x ∧ (x.remaining < y.remaining ∨ (x.remaining = y.remaining ∧
        (x.age < y.age ∨ (x.age = y.age ∧ x.slot ≤ y.slot))))))

/-- R69, R74, R76, R78, R195 to R201, R437. `sx` is the state after the record checks of the .w form. -/
def Obligations.SpawnAndNodeEnd : Prop :=
  (∀ (o : W4) (w : Bool) (s sx s1 : State) (ks : List Nat) (d : List Word),
    let i := if w then Instr.nspawnW o else .nspawn o
    let s0 := drainMatrix sx
    let n := (getS s0 o.fb).toNat
    let cb := d.getD 2 0
    let w3 := d.getD 3 0
    let badDesc := cb.toNat % 16 ≠ 0 ∨ w3.extractLsb' 32 32 ≠ 0 ∨ w3.extractLsb' 26 2 = 3 ∨ w3.extractLsb' 0 26 ≠ 0
    (if w then suspendCheck s = .ok ks sx else sx = s) → xBusy s = false → xBusy sx = false → (getS s0 o.fa).toNat % 32 = 0 →
    loadWords (getS s0 o.fa) 4 0 s0 = .ok d s1 → typeValid (vtType s1) = true → n ≤ vlMaxOf s1.t.ctl.vtype →
    (badDesc → exec i s = writesS s1 o.fd 2) ∧
    ∀ (k : Nat) (s2 : State), ¬badDesc → keyOf s1 .store cb 16 0 = .ok k s2 → pointPoisoned s2 5 k 16 = false →
      let s3 := publish s2 3
      let sp : Spawn :=
        { part := s3.t.part, launch := s3.t.launch, die := dieOf s3.t.core, pc := d.getD 0 0, arg := d.getD 1 0, cb := cb,
          prio := (w3.extractLsb' 28 4).toNat, kind := (w3.extractLsb' 26 2).toNat, vtype := s3.t.ctl.vtype, vl := n, desc := getS s0 o.fa }
      (n = 0 → ∃ t, exec i s = writesS t o.fd 0 ∧ t.ready = s3.ready ∧
        t.home = (decrement (publishIf s3 5 fun w => (s3.t.unitsIn k 16).contains w.unit) (me s3) k 1 []).2.home) ∧
      (n ≠ 0 → spawnCount s3 sp.die sp.part < 1024 → exec i s = writesS (makeSpawn s3 sp) o.fd 0 ∧
        ∃ r, (makeSpawn s3 sp).ready = s3.ready ++ [r] ∧ r.work = .spawned sp ∧ r.die = sp.die ∧ r.part = sp.part ∧ r.prio = sp.prio ∧
          spawnCount (makeSpawn s3 sp) sp.die sp.part = spawnCount s3 sp.die sp.part + 1) ∧
      (n ≠ 0 → 1024 ≤ spawnCount s3 sp.die sp.part → w = false → exec i s = writesS s3 o.fd 1) ∧
      (n ≠ 0 → 1024 ≤ spawnCount s3 sp.die sp.part → w = true → (releaseUnkept (drainMatrix s3)).1 = none →
        ∃ t c, exec i s = .next t ∧ t.stalled = false ∧ t.t = Thread.blank ∧ t.conts = s3.conts ++ [c] ∧ c.waiting = .spawn sp ∧
          c.dests = [o.fd] ∧ c.id = s3.nextCont ∧ t.spawnQueue = s3.spawnQueue ++ [c.id])) ∧
  (∀ (s : State) (die id : Nat) (sp : Spawn) (pre post : List Nat), s.spawnQueue = pre ++ id :: post →
    (∀ j ∈ pre, ∀ x, spawnOf s j = some x → x.die ≠ die ∨ 1024 ≤ spawnCount s die x.part) →
    spawnOf s id = some sp → sp.die = die → spawnCount s die sp.part < 1024 →
    ∃ t r, exec (.spawnQueueMade die) s = .next t ∧ t.stalled = false ∧ t.t = s.t ∧ t.ready = s.ready ++ [r] ∧ r.work = .spawned sp ∧
      t.spawnQueue = s.spawnQueue.filter (· != id) ∧ spawnCount t die sp.part = spawnCount s die sp.part + 1 ∧ finished t id [0]) ∧
  (∀ (s : State) (cont : Nat) (c : Cont), contOf s cont = some c → c.waiting = .done → (∀ r ∈ s.ready, r.work ≠ .resume cont) →
    findThread s c.th.uid = none →
    ∃ t r, exec (.continuationReady cont) s = .next t ∧ t.t = s.t ∧ t.ready = s.ready ++ [r] ∧ r.work = .resume cont ∧
      r.die = dieOf c.th.core ∧ r.part = c.th.part ∧ r.prio = c.th.prio) ∧
  (∀ s : State, xBusy s = false → hasCommands s s.t.uid = false → hasPuts s s.t.uid = false →
    draining (releaseDrains (drainMatrix { s.updT fun t => { t with status := .ending 0 0 0 0 } with stalled := false })) = false →
    ∃ t, exec .nend s = .next t ∧ t.stalled = false ∧ t.t = Thread.blank ∧ (∀ g ∈ t.granted, g.2 ≠ s.t.uid) ∧
      (s.t.spawned = false → ∀ n, nodeOf t s.t.launch s.t.node = some n → n.state = .done)) ∧
  (∀ s : State, s.t.status = .running →
    ∃ t e, exec (.nodeEnded s.t.core s.t.slot) s = .next t ∧ t.stalled = false ∧ t.t.status = .ending 1 0x14 0 0 ∧ t.t.vq = [] ∧ t.t.xdec = [] ∧
      t.t.s = s.t.s ∧ t.home = s.home ∧ t.errLog.getLast? = some e ∧ e.die = dieOf s.t.core ∧ e.word0.extractLsb' 56 8 = 0x14)

/-- R145 to R150, R221, R357, R469. `s1` is the state after posted matrix accesses. That folfill writes back before it reads and a release fixes
what its drain writes is log 20 (DEDUCED). -/
def Obligations.FolioInstructions : Prop :=
  (∀ (o : W4) (s s2 : State) (e : FolioEntry) (keys : List Nat),
    let s1 := settleMatrix s
    let h := o.fc.toNat
    folioQueued s1 h = false → handleEntry s1 h = some e → e.state = .ready ∨ e.state = .filling →
    let drains := e.state = .ready ∧ e.drain = true
    (if drains ∧ ∀ u ∈ e.owners, u = s1.t.uid then checkDrain s1 e = .ok keys s2 else keys = [] ∧ s2 = s1) →
    (exec (.folrel o) s = .next (passed (setHandle (releaseFolio s2 e o.sc.toNat keys) h none))) ∧
    (fillWaits s1 e.src e.sizek = false →
      (¬drains → exec (.folfill o) s = .next (passed (startFill s1 e))) ∧
      ∀ ks s3, drains → checkDrain s1 e = .ok ks s3 →
        exec (.folfill o) s = .next (passed (startFill (writeBack s3 s3.t.uid e (folioBytes s3 e) (ks.map some) 5) e))) ∧
    (∀ ks s3, e.state = .ready → e.src ≠ 0 → checkDrain s1 e = .ok ks s3 →
      exec (.foldrain o) s = .next (passed (writeBack s3 s3.t.uid e (folioBytes s3 e) (ks.map some) o.sc.toNat)))) ∧
  (∀ (o : W4) (s : State), folioQueued (settleMatrix s) o.fc.toNat = false → handleEntry (settleMatrix s) o.fc.toNat = none → xBusy s = false →
    let t := Host.Outcome.next ({ takeTrap (unboundTrap o.fc.toNat 0) (settleMatrix s) with stalled := false } : State)
    exec (.folrel o) s = t ∧ exec (.folfill o) s = t ∧ exec (.foldrain o) s = t) ∧
  (∀ (s : State) (e : FolioEntry) (sc : Nat) (ks : List Nat), folioAt s e.core e.index = some e →
    folioAt (releaseFolio s e sc ks) e.core e.index =
      (if ∃ u ∈ e.owners, u ≠ s.t.uid then some { e with owners := e.owners.filter (· != s.t.uid) }
      else if e.state = .filling then none
      else if e.state = .ready then
        (if e.drain then some { e with state := .draining, view := none, scope := sc, pages := ks, data := some (folioBytes s e) }
          else if e.clean then some { e with owners := [], view := none } else none)
      else some e) ∧
    ∀ c i, (c, i) ≠ (e.core, e.index) → folioAt (releaseFolio s e sc ks) c i = folioAt s c i) ∧
  (∀ (s : State) (e : FolioEntry),
    (∃ x, folioAt (startFill s e) e.core e.index = some x ∧ x.state = .filling ∧ x.view = none ∧ x.owners = e.owners ∧ x.src = e.src ∧
      (e.src = 0 → x.data = some (List.replicate e.size 0))) ∧
    ∀ c i, (c, i) ≠ (e.core, e.index) → folioAt (startFill s e) c i = folioAt s c i) ∧
  (∀ (o : W4) (s s2 : State) (ws : List Word),
    let h := o.fc.toNat
    let a := getS s o.fa
    let f := FolioSpec.dec (ws.getD 0 0) (ws.getD 1 0)
    settledFor [o.fa] s → folioQueued (settleMatrix s) h = false → h < s.t.handles.length → a.toNat % 16 = 0 →
    conflicts (settleMatrix s) a 16 false = false → loadWords a 2 0 (settleMatrix s) = .ok ws s2 →
    specOk (ws.getD 0 0) (ws.getD 1 0) = true → specFits s2.t.core f = true → fillWaits s2 f.src f.sizek = false →
    freeIndex s2 s2.t.core ≠ none →
    (handleEntry s2 h = none ∧ ∀ x ∈ coreFolios s2 s2.t.core, x.meets f = false) ∨
      (∃ e, handleEntry s2 h = some e ∧ e.owners = [s2.t.uid] ∧ e.drain = false ∧ e.state = .ready ∧
        ∀ x ∈ coreFolios s2 s2.t.core, x ≠ e → x.meets f = false) →
    ∃ t i x, exec (.folbind o) s = .next t ∧ t.stalled = false ∧ t.t.handles.getD h none = some i ∧ folioAt t s2.t.core i = some x ∧
      x.state = .filling ∧ x.owners = [s2.t.uid] ∧ x.src = (ws.getD 0 0).toNat ∧ x.space = f.space ∧ x.basek = f.basek ∧
      x.sizek = f.sizek ∧ x.drain = f.drain ∧ x.keep = f.keep) ∧
  (∀ (s : State) (core entry : Nat) (e : FolioEntry) (bs : List Byte), folioAt s core entry = some e → e.state = .filling →
    e.data = some bs → s.home.wf = true → (∀ i < bs.length, s.homeSeq.get (e.key i) ≤ s.pubs + 1) →
    ∃ t, exec (.folioFillComplete core entry) s = .next t ∧ t.stalled = false ∧
      folioAt t core entry = some { e with state := .ready, clean := true, data := none } ∧ (∀ i < bs.length, t.home.read (e.key i) = bs.getD i 0) ∧
      ∀ k, (k < e.key 0 ∨ e.key 0 + bs.length ≤ k) → (∀ z ∈ s.zblocks, z.block ≠ k / 4096) → t.home.read k = s.home.read k) ∧
  (∀ (s : State) (core entry c a : Nat) (e : FolioEntry), folioAt s core entry = some e → e.state = .filling → e.bad = some (c, a) →
    ∃ t, exec (.folioFillFault core entry) s = .next t ∧ t.stalled = false ∧ folioAt t core entry = none ∧ (s.saved = [] → t.home = s.home) ∧
      (∀ k ∈ t.conts, k.th.uid ∉ e.owners) ∧
      (s.t.uid ∈ e.owners → s.t.status = .running → t.t.status = .ending 1 c 0 (a % 2 ^ 57)) ∧ (s.t.uid ∉ e.owners → t.t = s.t)) ∧
  (∀ (s : State) (core entry : Nat) (e : FolioEntry), folioAt s core entry = some e → e.state = .draining →
    ∃ t, exec (.folioDrainComplete core entry) s = .next t ∧ t.stalled = false ∧ folioAt t core entry = none ∧
      (∀ c i, (c, i) ≠ (core, entry) → folioAt t c i = folioAt s c i) ∧
      ((finishDrain s e).1 = none → t.t = (finishDrain s e).2.t) ∧
      ∀ c a, (finishDrain s e).1 = some (c, a) → s.t.uid ∈ e.owners → (finishDrain s e).2.t.uid = s.t.uid →
        ∀ x y z, (finishDrain s e).2.t.status = .ending 0 x y z → t.t.status = .ending 1 c 0 a)

/-- R80 and R293 to R315: what each instruction checks, and what it posts. `c` is the state that the checks use. -/
def Obligations.MatrixPosting : Prop :=
  (∀ (o : WX) (s : State), matrixNow s → s.t.mchk = none → s.t.mexiting = false →
    ((holders s s.t.core).contains s.t.uid = true → exec (.mmode o) s = .next (committed .ignore
      ((posted (.mmode o.ty.toNat) s).updT fun t => { t with mchk := some (MatCheck.start o.ty.toNat), mwait := 0 }))) ∧
    ((holders s s.t.core).contains s.t.uid = false → (holders s s.t.core).length < 2 → s.t.status = .running →
      (∀ t ∈ s.parked, t.core = s.t.core → t.mwait = 0) →
      ∃ t, exec (.mmode o) s = .next t ∧ t.granted = s.granted ++ [(s.t.core, s.t.uid)] ∧ t.t.mq = s.t.mq ++ [.mmode o.ty.toNat] ∧
        t.t.mchk = some (MatCheck.start o.ty.toNat) ∧ t.t.v = s.t.v) ∧
    ((holders s s.t.core).contains s.t.uid = false → 2 ≤ (holders s s.t.core).length → s.t.xctx.isSome = true →
      ∃ t, exec (.mmode o) s = .next t ∧ t.stalled = true ∧ t.granted = s.granted ∧ t.t.mchk = none)) ∧
  (∀ (core : Nat) (s : State), (holders s core).length < 2 →
    (nextWaiter s core = none → exec (.mmodeGrant core) s = .next { s with stalled := false }) ∧
    ∀ w, nextWaiter s core = some w → ∃ t, exec (.mmodeGrant core) s = .next t ∧ t.granted = s.granted ++ [(core, w.uid)]) ∧
  (∀ (o : WX) (s : State), matrixNow s →
    exec (.mexit o) s = .next (committed .ignore (if s.t.mchk = none then s
      else (posted .mexit s).updT fun t => { t with mchk := none, mexiting := true }))) ∧
  (∀ (o : WX) (s : State) (c : MatCheck), matrixNow s → s.t.mchk = some c →
    let sk := getS s o.sk
    let ta := o.ta.toNat
    let posts := fun (i : Instr) (op : MatOp) => exec i s = .next (committed .ignore (posted op s))
    let retile := fun (x : Option TileShape) (a : State) => a.updT fun t =>
      { t with mchk := t.mchk.map fun k => { k with tiles := k.tiles.setIfInBounds ta x } }
    (sk &&& 0x7F7F = sk → modeTy o.ty.toNat = true → shapeOk o.ty.toNat (sk.toNat % 128) (sk.toNat / 256) = true →
      let sh : TileShape := { ty := o.ty.toNat, nr := sk.toNat % 128, nc := sk.toNat / 256 }
      exec (.tcfg o) s = .next (committed .ignore (retile (some sh) (posted (.tcfg ta sh) s)))) ∧
    (sk &&& 0x7F7F ≠ sk ∨ modeTy o.ty.toNat = false ∨ shapeOk o.ty.toNat (sk.toNat % 128) (sk.toNat / 256) = false →
      exec (.tcfg o) s = .next { takeTrap (mkTrap 0x01 sk) (stopAt none s) with stalled := false }) ∧
    exec (.trel o) s = .next (committed .ignore (retile none (posted (.trel ta) s))) ∧
    posts (.acczero o) (.acczero o.ad.toNat) ∧
    (∀ x y : TileShape, c.tiles.getD ta none = some x → c.tiles.getD o.tb.toNat none = some y → o.ty.toNat = c.mtype → x.ty = c.mtype →
      y.ty = c.mtype → x.nr ≤ mvlOf c.mtype → y.nc ≤ mvlOf c.mtype → (isBfp c.mtype = true → y.nr = 16) →
      let e := fun (r : BitVec 5) => if isBfp c.mtype then getE s r.toNat else 0
      let mask := (getM s o.msk.toNat).toNat % 2 ^ y.nr
      let kept := ((List.range y.nr).filter fun k => (getM s o.msk.toNat).getLsbD k).length
      (x.nc = y.nr → posts (.mop o) (.mop o.ad.toNat ta o.tb.toNat false none (e o.sk) (e o.vs) (frmMode s)) ∧
        posts (.mopneg o) (.mop o.ad.toNat ta o.tb.toNat true none (e o.sk) (e o.vs) (frmMode s))) ∧
      (x.nc = kept ∨ kept = 0 → posts (.mopsp o) (.mop o.ad.toNat ta o.tb.toNat false (some mask) (e o.sk) (e o.vs) (frmMode s)))) ∧
    (∀ (sh : TileShape) (s1 : State), c.tiles.getD ta none = some sh → tileTypeOk sh.ty o.ty.toNat = true →
      (sk.toNat < sh.nr → sourcesAt [o.vs.toNat] [] none s s1 → s1.t.mq.length < 256 →
        exec (.tmvr o) s = .next (committed .ignore (consumeSources [o.vs.toNat] (posted (.tmvr ta o.ty.toNat sk.toNat s1.t.ctl.vl
          (getV s1 o.vs.toNat) (frmMode s1) (vtSat s1)) s1)))) ∧
      (sk.toNat < sh.nc → sh.nr ≤ 8192 / typeWidth o.ty.toNat → sourcesAt [] [o.vs.toNat] none s s1 → plainDest [o.vs.toNat] s1 →
        s1.t.mq.length < 256 →
        exec (.tmvc o) s = .next (committed .ignore (consumeSources [] (posted (.tmvc o.vs.toNat ta o.ty.toNat sk.toNat (frmMode s) (vtSat s) (vtTp s)) s1))))) ∧
    (∀ (sh : TileShape) (e : FolioEntry), c.tiles.getD ta none = some sh → o.ty.toNat = sh.ty →
      let d := sk.toNat % 2 ^ 22
      let st := rowStride s o.vs sh
      let al := if isBfp sh.ty then rowSize sh else tileWidth sh.ty / 8
      sk.toNat < 2 ^ 26 → nameFolio s (sk.toNat / 2 ^ 22) = .ready e → e.space ≠ 2 → s.poison = [] → d % al = 0 → st % (al : Int) = 0 →
      (∀ r < sh.nr, 0 ≤ (d : Int) + r * st ∧ (d : Int) + r * st + rowSize sh ≤ e.size) → posts (.tld o) (.tld ta (e.key d) st)) ∧
    (∀ (sh : TileShape) (rows : List (List (Nat × Nat))) (s1 : State), c.tiles.getD ta none = some sh → o.ty.toNat = sh.ty →
      storeRows sk (rowStride s o.vs sh) (rowSize sh) (List.range sh.nr) s = .ok rows s1 → s1.t.mq.length < 256 →
      exec (.tst o) s = .next (committed .ignore (posted (.tst ta rows) s1))) ∧
    (∀ s1 : State, sk.toNat < mvlOf c.mtype → 0x0A ≤ o.ty.toNat → o.ty.toNat ≤ 0x0D → mvlOf c.mtype ≤ 8192 / typeWidth o.ty.toNat →
      (sourcesAt [] [o.vs.toNat] none s s1 → plainDest [o.vs.toNat] s1 → s1.t.mq.length < 256 →
        exec (.accmv o) s = .next (committed .ignore (consumeSources [] (posted (.accmv o.vs.toNat o.ad.toNat o.ty.toNat sk.toNat (frmMode s)
          (vtSat s) (vtTp s)) s1)))) ∧
      (s.t.mq = [] → s.t.munit ≠ none → sourcesAt [] [o.vs.toNat] none s s1 → plainDest [o.vs.toNat] s1 →
        ∃ t, exec (.accPeek o) s = .next t ∧ t.stalled = false ∧ (∀ q : Nat, q ≠ o.vs.toNat → getV t q = getV s1 q) ∧
          t.home = s1.home ∧ t.t.mq = s1.t.mq)) ∧
    (∀ (e : FolioEntry), let d := sk.toNat % 2 ^ 22
      let n := mvlOf c.mtype
      let cb := typeWidth (cellTy c.mtype) / 8
      sk.toNat < 2 ^ 26 → nameFolio s (sk.toNat / 2 ^ 22) = .ready e → e.space = 2 → d % cb = 0 → d + n * n * cb ≤ e.size →
      posts (.accsp o) (.accsp o.ad.toNat (e.key d) e.index) ∧
      (s.poison = [] → posts (.accfl o) (.accfl o.ad.toNat (e.key d))))) ∧
  (∀ (o : WX) (s : State), runsNow .ignore s → isVCore s.t.core = true ∨ s.t.mchk = none →
    let bad := Host.Outcome.next ({ takeTrap (mkTrap 0x01 ((curHead s).1.setWidth 64)) (stopAt none s) with stalled := false } : State)
    exec (.tcfg o) s = bad ∧ exec (.trel o) s = bad ∧ exec (.tmvr o) s = bad ∧ exec (.tmvc o) s = bad ∧ exec (.tld o) s = bad ∧
      exec (.tst o) s = bad ∧ exec (.mop o) s = bad ∧ exec (.mopsp o) s = bad ∧ exec (.mopneg o) s = bad ∧ exec (.accmv o) s = bad ∧
      exec (.accPeek o) s = bad ∧ exec (.acczero o) s = bad ∧ exec (.accsp o) s = bad ∧ exec (.accfl o) s = bad)

/-- R298 to R315. `q` is the rest of the queue; `cvt` converts between a vector element and a tile's (R305), a bfpm mantissa as a sign-extended
byte (R48); `keys` are the bytes of each row that tst has checked (R308). -/
def Obligations.MatrixResults : Prop :=
  ∀ (s : State) (op : MatOp) (q : List MatOp), s.t.mq = op :: q →
    ∃ t, exec .matrixQueueComplete s = .next t ∧ t.stalled = false ∧ t.t.mq = q ∧ t.t.s = s.t.s ∧ t.t.m = s.t.m ∧ t.home = s.home ∧
      (∀ ty, op = .mmode ty → ∃ u, t.t.munit = some u ∧ u.mtype = ty ∧ (∀ ad i j, u.cell ad i j = 0) ∧ ∀ k : Nat, u.tiles.getD k none = none) ∧
      (op = .mexit → t.t.munit = none ∧ t.t.mexiting = false ∧ ∀ g ∈ t.granted, g.2 ≠ s.t.uid) ∧
      ∀ u : MatUnit, s.t.munit = some u →
        let n := mvlOf u.mtype
        let w := typeWidth (cellTy u.mtype)
        (∀ (ta : Nat) (sh : TileShape), op = .tcfg ta sh → ta < 4 → ∃ v x, t.t.munit = some v ∧ v.acc = u.acc ∧ v.tiles.getD ta none = some x ∧
          x.shape = sh ∧ (∀ r c, x.get r c = 0) ∧ ∀ k : Nat, k ≠ ta → v.tiles.getD k none = u.tiles.getD k none) ∧
        (∀ ta : Nat, op = .trel ta → ta < 4 → ∃ v, t.t.munit = some v ∧ v.acc = u.acc ∧ v.mtype = u.mtype ∧ v.tiles.getD ta none = none ∧
          ∀ k : Nat, k ≠ ta → v.tiles.getD k none = u.tiles.getD k none) ∧
        (let cvt := fun (td ts frm : Nat) (sat : Bool) (x : Nat) =>
           if isBfp td then (truncInt (bfpMant (td - 0x10 + 2) x) 8, (0 : Fl)) else convertElem td ts frm sat x
         let plane := fun (k m j : Nat) =>
           ((List.range m).map fun i => if (s.t.readByte (k + 32 * i + j / 8)).getLsbD (j % 8) then 2 ^ i else 0).sum
         ∀ (ta : Nat) (x : Tile), ta < 4 → u.tiles.getD ta none = some x → x.shape.nr * x.shape.nc * tileWidth x.shape.ty ≤ 65536 →
          let sh := x.shape
          let tw := tileWidth sh.ty
          let only := fun (f : Nat → Nat → Nat) => ∃ v y, t.t.munit = some v ∧ v.acc = u.acc ∧ v.mtype = u.mtype ∧ v.tiles.getD ta none = some y ∧
            y.shape = sh ∧ (∀ i < sh.nr, ∀ j < sh.nc, y.get i j = f i j) ∧ ∀ k : Nat, k ≠ ta → v.tiles.getD k none = u.tiles.getD k none
          (∀ (ty r vl frm : Nat) (vs : VReg) (sat : Bool), op = .tmvr ta ty r vl vs frm sat → r < sh.nr →
            let c := fun (e : Nat) => cvt sh.ty ty frm sat (elemAt vs.toNat (typeWidth ty) e)
            only (fun i j => if i = r ∧ j < vl then (c j).1 % 2 ^ tw else x.get i j) ∧
            ∃ f : Fl, orOver (min vl sh.nc) (fun _ => true) (fun e => (c e).2) f ∧ raised s t f) ∧
          (∀ (vd ty c frm : Nat) (sat tp : Bool), op = .tmvc vd ta ty c frm sat tp → vd < 32 → sh.nr ≤ 8192 / typeWidth ty →
            let y := fun (r : Nat) => cvt ty sh.ty frm sat (x.get r c)
            t.t.munit = some u ∧ (∀ k : Nat, k ≠ vd → getV t k = getV s k) ∧ dirtied s t vd 1 ∧
            (∀ e < 8192 / typeWidth ty, elemAt (getV t vd).toNat (typeWidth ty) e =
              if e < sh.nr then (y e).1 % 2 ^ typeWidth ty else if tp then 0 else elemAt (getV s vd).toNat (typeWidth ty) e) ∧
            ∃ f : Fl, orOver sh.nr (fun _ => true) (fun e => (y e).2) f ∧ raised s t f) ∧
          (∀ base st : Int, op = .tld ta base st →
            let k := fun (r : Nat) => (base + (r : Int) * st).toNat
            t.t.ctl = s.t.ctl ∧ only fun i j =>
              if isBfp sh.ty then truncInt (bfpMant (sh.ty - 0x10 + 2) (plane (k i) (sh.ty - 0x10 + 2) j)) 8
              else leNat (s.t.readBytes (tw / 8) (k i + j * (tw / 8)))) ∧
          (∀ rows : List (List (Nat × Nat)), op = .tst ta rows → rows.length = sh.nr →
            let keys := fun (r : Nat) => ((rows.getD r []).map fun p => (List.range p.2).map (p.1 + ·)).flatten
            let size := if isBfp sh.ty then 32 * (sh.ty - 0x10 + 2) else sh.nc * (tw / 8)
            (∀ r < sh.nr, (keys r).length = size ∧ (keys r).Nodup) →
            t.t.munit = some u ∧ t.t.v = s.t.v ∧ t.t.ctl = s.t.ctl ∧
            (∀ r < sh.nr, ∀ i < size, (∀ q, r < q → q < sh.nr → (keys r).getD i 0 ∉ keys q) → ∀ b < 8,
              (t.t.readByte ((keys r).getD i 0)).getLsbD b =
                if isBfp sh.ty then decide (i % 32 * 8 + b < sh.nc) && (x.get r (i % 32 * 8 + b)).testBit (i / 32)
                else (x.get r (i / (tw / 8))).testBit (i % (tw / 8) * 8 + b)) ∧
            ∀ a, (∀ r < sh.nr, a ∉ keys r) → t.t.readByte a = s.t.readByte a)) ∧
        (∀ (ad ta tb : Nat) (neg : Bool) (mask : Option Nat) (ea eb : EReg) (frm : Nat) (x y : Tile),
          op = .mop ad ta tb neg mask ea eb frm → ad < 2 → u.tiles.getD ta none = some x → u.tiles.getD tb none = some y →
          let kept := keptPositions mask y.shape.nr
          ∃ v, t.t.munit = some v ∧ v.tiles = u.tiles ∧ v.mtype = u.mtype ∧ (∀ a i j, a ≠ ad → v.cell a i j = u.cell a i j) ∧
            ∀ i < n, ∀ j < n, v.cell ad i j =
              if x.shape.nr ≤ i ∨ y.shape.nc ≤ j then u.cell ad i j
              else if isBfp u.mtype then
                if kept = [] then u.cell ad i j
                else
                  let m := u.mtype - 0x10 + 2
                  let sum := (kept.map fun p => bfpMant m (x.get i p.2) * bfpMant m (y.get p.1 j)).sum
                  (bfpCell u.mtype neg frm (elemAt ea.toNat 8 i) (elemAt eb.toNat 8 j) sum (u.cell ad i j)).1 % 2 ^ w
              else kept.foldl (fun c p => (stepCell u.mtype neg frm (x.get i p.2) (y.get p.1 j) c).1) (u.cell ad i j) % 2 ^ w) ∧
        (∀ ad, op = .acczero ad → ad < 2 → ∃ v, t.t.munit = some v ∧ v.tiles = u.tiles ∧ (∀ i j, v.cell ad i j = 0) ∧
          ∀ a i j, a ≠ ad → v.cell a i j = u.cell a i j) ∧
        (∀ (vd ad ty r frm : Nat) (sat tp : Bool), op = .accmv vd ad ty r frm sat tp → vd < 32 → n ≤ 8192 / typeWidth ty → ty ≤ 0x0E →
          t.t.munit = some u ∧ (∀ k : Nat, k ≠ vd → getV t k = getV s k) ∧ ∀ e < 8192 / typeWidth ty, elemAt (getV t vd).toNat (typeWidth ty) e =
            if e < n then (convertElem ty (cellTy u.mtype) frm sat (u.cell ad r e)).1 % 2 ^ typeWidth ty
            else if tp then 0 else elemAt (getV s vd).toNat (typeWidth ty) e) ∧
        (∀ (ad base entry : Nat), op = .accsp ad base entry → t.t.munit = some u ∧
          ∀ i < n, ∀ j < n, leNat (t.t.readBytes (w / 8) (base + (i * n + j) * (w / 8))) = u.cell ad i j) ∧
        (∀ (ad base : Nat), op = .accfl ad base → ad < 2 → ∃ v, t.t.munit = some v ∧ v.tiles = u.tiles ∧
          ∀ i < n, ∀ j < n, v.cell ad i j = leNat (s.t.readBytes (w / 8) (base + (i * n + j) * (w / 8))))

/-- R324, R326 and R331 to R336. -/
def Obligations.GeometryResults : Prop :=
  let both := fun (rec_ : Nat → Option NodeRec) (a b : Nat) (f : GVal → GVal → Option GVal) =>
    match resolve rec_ (GVal.dec a), resolve rec_ (GVal.dec b) with
    | .ok (x, _), .ok (y, _) => (f x y).map fun z => (z.enc, some x.enc, some y.enc)
    | _, _ => none
  let sum := fun (sub gconv : Bool) (rec_ : Nat → Option NodeRec) (x y : GVal) =>
    let y' := if x.frame = y.frame then some y else if gconv then (convertFrame rec_ y x.frame).toOption else none
    y'.bind fun z =>
      let op := fun (p q : Int) => if sub then p - q else p + q
      let weight : Int := if sub then (z.kind : Int) - x.kind else 2 - (x.kind : Int) - z.kind
      let r := [op x.x z.x, op x.y z.y, op x.z z.z]
      if (weight = 0 ∨ weight = 1) ∧ r.all inS32 = true then
        some { x with kind := (1 - weight).toNat, x := op x.x z.x, y := op x.y z.y, z := op x.z z.z } else none
  ∀ o : WV,
    geomResult (.gcvt o) o id 128 true (fun _ rec_ a b => both rec_ a b fun x y => (convertFrame rec_ x y.frame).toOption) ∧
    geomResult (.gadd o) o id 128 true (fun s rec_ a b => both rec_ a b (sum false (vtGconv s) rec_)) ∧
    geomResult (.gsub o) o id 128 true (fun s rec_ a b => both rec_ a b (sum true (vtGconv s) rec_)) ∧
    geomResult (.gscale o) o (fun g => max 1 (g / 2)) 64 true (fun _ rec_ a b =>
      match resolve rec_ (GVal.dec a), fmt64.value b with
      | .ok (x, _), .fin _ _ _ =>
        let f := fun (p : Int) => ((Dy.ofInt p).mul (Dy.of64 b)).rint
        if inS32 (f x.x) && inS32 (f x.y) && inS32 (f x.z) then some (({ x with x := f x.x, y := f x.y, z := f x.z } : GVal).enc, some x.enc, none)
        else none
      | _, _ => none) ∧
    geomResult (.gsettag o) o id 128 true (fun _ _ a b => some (a % 2 ^ 96 + b / 2 ^ 96 % 2 ^ 32 * 2 ^ 96, none, none)) ∧
    geomResult (.gtagof o) o id 128 false (fun _ rec_ a _ =>
      match resolve rec_ (GVal.dec a) with
      | .ok (x, _) => some (x.enc, some x.enc, none)
      | .error _ => none)

/-- R337 to R344. `s1` is the state after posted matrix accesses, `rec_` the records at the event's scope, `s2` the state after
the transform block or the adoption list has been read. -/
def Obligations.FrameEvents : Prop :=
  ∀ (o : W4) (s s2 : State) (p : Partition), runsNow .ignore s → catalogue s = some p → s.poison = [] →
    let s1 := settleMatrix s
    s1.poison = [] →
    let rec_ := nodeAt s1 p o.sc.toNat
    let a := getS s1 o.fa
    let b := getS s1 o.fb
    let c := nodeIdx (getS s1 o.fc)
    let i := nodeIdx a
    let n := rec_ i
    let par := rec_ n.parent
    let tag := tagWord n.gen i
    let newGen := ((rec_ c).gen + 1) % 128
    let free := c ≠ 0 ∧ c < p.catSize ∧ (rec_ c).state = 0
    (∀ ws : List Word, b.toNat % 64 = 0 → loadWords b 7 0 s1 = .ok ws s2 →
      let q := (ws.take 4).map BitVec.toNat
      let t := (ws.drop 4).map fun w => w.toInt
      eventDoes (.fnew o) o s s2 p (liveNode p a n ∧ free ∧ quatOk q = true ∧ n.nchild < 65535) (tagWord newGen c)
        [(c, { nchild := 0, rev := 0, state := 1, gen := newGen, parent := i, q := q, t := t, split := List.replicate 8 splitEmpty }),
          (i, { n with nchild := n.nchild + 1 })] ∧
      eventDoes (.fmove o) o s s2 p (liveNode p a n ∧ i ≠ 0 ∧ quatOk q = true) tag [(i, { n with q := q, t := t, rev := (n.rev + 1) % 2 ^ 15 })] ∧
      (i < p.catSize → n.state ≠ 1 → exec (.fmove o) s = .next (committed .ignore (setS s2 o.fd 0x8000000000000001))) ∧
      (i < p.catSize → n.state = 1 → n.gen ≠ nodeGen a → exec (.fmove o) s = .next (committed .ignore (setS s2 o.fd 0x8000000000000002)))) ∧
    eventDoes (.fsplit o) o s s1 p (liveNode p a n ∧ i ≠ 0 ∧ free ∧ par.nchild < 65535 ∧ b.toNat < 2 ^ 26 ∧ b.toNat / 2 ^ 24 ≠ 3) (tagWord newGen c)
      [(c, { n with nchild := 0, rev := 0, state := 1, gen := newGen, split := List.replicate 8 splitEmpty }),
        (i, { n with gen := (n.gen + 1) % 128,
                     split := n.split.set (n.gen % 8) (n.gen * 2 ^ 57 + newGen * 2 ^ 50 + c * 2 ^ 26 + b.toNat) }),
        (n.parent, { par with nchild := par.nchild + 1 })] ∧
    eventDoes (.fdel o) o s s1 p (liveNode p a n ∧ i ≠ 0 ∧ n.nchild = 0) tag
      [(i, { n with state := 2 }), (n.parent, { par with nchild := par.nchild - 1 })] ∧
    eventDoes (.fdelFwd o) o s s1 p (liveNode p a n ∧ i ≠ 0 ∧ n.nchild = 0) tag
      [(i, { n with state := 2, gen := (n.gen + 1) % 128,
                    split := n.split.set (n.gen % 8) (n.gen * 2 ^ 57 + par.gen * 2 ^ 50 + n.parent * 2 ^ 26 + (3 * 2 ^ 24 + 2 ^ 23)) }),
        (n.parent, { par with nchild := par.nchild - 1 })] ∧
    (i < p.catSize → n.state ≠ 1 → exec (.fdel o) s = .next (committed .ignore (setS s1 o.fd 0x8000000000000001))) ∧
    (i = 0 → liveNode p a n → exec (.fdel o) s = .next (committed .ignore (setS s1 o.fd 0x8000000000000003))) ∧
    (∀ ids : List Nat, b.toNat % 4 = 0 → (getS s1 o.fc).toNat = n.nchild → n.nchild ≤ 4096 → loadIndices b n.nchild 0 s1 = .ok ids s2 →
      let kids := ids.map fun k => (k, adopted n (rec_ k))
      eventDoes (.fdelAdopt o) o s s2 p (liveNode p a n ∧ i ≠ 0 ∧ ids.Nodup ∧ par.nchild + n.nchild ≤ 65536 ∧
          (∀ k ∈ ids, k ≠ 0 ∧ k < p.catSize ∧ (rec_ k).state = 1 ∧ (rec_ k).parent = i) ∧ ∀ k ∈ kids, k.2.t.all inS64 = true) tag
        (kids ++ [(i, { n with state := 2, nchild := 0 }), (n.parent, { par with nchild := par.nchild + n.nchild - 1 })])) ∧
    eventDoes (.freclaim o) o s s1 p (i < p.catSize ∧ i ≠ 0 ∧ n.gen = nodeGen a ∧ n.state = 2 ∧ n.nchild = 0) tag
      [(i, { n with state := 0, split := List.replicate 8 splitEmpty })] ∧
    (∀ ks : List Nat, b.toNat % 128 = 0 → checkStores 0 (byteAddrs b 128) s1 = .ok ks s2 →
      (i < p.catSize → s2.poison = [] →
        exec (.fread o) s = .next (committed .ignore (setS (storeKeys s2 ks (s2.t.readBytes 128 (nodeKey p i))) o.fd 0))) ∧
      (p.catSize ≤ i → exec (.fread o) s = .next (committed .ignore (setS s2 o.fd 0x800000000000000A))))

/-- R291, R375 to R388, R412. `s2` is the state after steps 1 to 3 of R375. A waiting put's status 6 on a revoked tether, and puts that land one
after the other, are log 21 (DEDUCED). -/
def Obligations.EngineCommands : Prop :=
  (∀ (o : LE) (s s2 : State) (d : List Word) (cb : Option Word), settledFor [o.fa, o.fb, o.fc] s →
    (issuesAt o 24 s d cb s2 →
      let c := CopyDesc.dec d
      let src := refEntry s2 c.sfol c.sbase
      let dst := refEntry s2 c.dfol c.dbase
      src.1.isFilling = false → dst.1.isFilling = false →
      (copyOk d = false ∨ src.2 = false ∨ dst.2 = false → exec (.xcopy o) s = writesS s2 o.fd 2) ∧
      (copyOk d = true → src.2 = true → dst.2 = true →
        acceptsOrBusy (exec (.xcopy o) s) o s2 { newCmd s2 .xcopy d cb with folS := src.1.index, folD := dst.1.index })) ∧
    (issuesAt o 0 s d cb s2 → (getS s o.fa).toNat % 4096 = 0 → (getS s o.fb).toNat % 4096 = 0 →
      let n := o.imm.toNat % 2 ^ 12 + 1
      let codec := fun (i : Instr) (k : CmdKind) (x y : Nat) =>
        (bytesMeet (getS s o.fa) x (getS s o.fb) y = true → exec i s = writesS s2 o.fd 2) ∧
        (bytesMeet (getS s o.fa) x (getS s o.fb) y = false →
          acceptsOrBusy (exec i s) o s2 { newCmd s2 k [] cb with arg0 := getS s o.fa, arg1 := getS s o.fb, count := n })
      codec (.zenc o) .zenc (4096 * n) (4097 * n) ∧ codec (.zdec o) .zdec (4097 * n) (4096 * n)) ∧
    (issuesAt o 8 s d cb s2 →
      (reduceOk d = false → exec (.xreduce o) s = writesS s2 o.fd 2) ∧
      (reduceOk d = true → busy s2 2 0 = true → exec (.xreduce o) s = writesS s2 o.fd 1) ∧
      (reduceOk d = true → busy s2 2 0 = false →
        exec (.xreduce o) s = writesS (joinCollective (acceptCmd s2 (newCmd s2 .xreduce d cb)) (newCmd s2 .xreduce d cb)) o.fd 0) ∧
      (namedView s2 s2.t.part (ViewCopy.dec d).tid (ViewCopy.dec d).handle = none → exec (.xcopyView o) s = writesS s2 o.fd 2) ∧
      (∀ v, namedView s2 s2.t.part (ViewCopy.dec d).tid (ViewCopy.dec d).handle = some v → viewCopyOk d v = true →
        (ViewCopy.dec d).dfol = false → (ViewCopy.dec d).cfol = false →
        acceptsOrBusy (exec (.xcopyView o) s) o s2 { newCmd s2 .xcopyView d cb with
          peer := v.part, arg0 := BitVec.ofNat 64 (ViewCopy.dec d).handle, needs := ((masterOf s2 v).map (nObs s2.t)).getD 0 }) ∧
      (putDest s2 d = none → exec (.xput o) s = writesS s2 o.fd 2) ∧
      ∀ x, putDest s2 d = some x →
        let c := newPut s2 d cb x
        let far := noBound s2 (dieOf s2.t.core) x.1 x.2.1 (rangeProbes c.arg0 c.count ++ if (d.getD 0 0).getLsbD 0 then [c.arg1] else [])
        (far = true → exec (.xput o) s = writesS s2 o.fd 3) ∧ (far = false → acceptsOrBusy (exec (.xput o) s) o s2 c))) ∧
  (∀ (o : LE) (s sx s2 : State) (ks : List Nat) (d : List Word) (cb : Option Word) (x : Nat × Nat × Word × Word),
    settledFor [o.fa, o.fc] s → suspendCheck s = .ok ks sx → issuesAt o 8 sx d cb s2 → putDest s2 d = some x →
    let c := newPut s2 d cb x
    noBound s2 (dieOf s2.t.core) x.1 x.2.1 (rangeProbes c.arg0 c.count ++ if (d.getD 0 0).getLsbD 0 then [c.arg1] else []) = false →
    (busy s2 1 c.chan = false → exec (.xputW o) s = writesS (acceptCmd s2 c) o.fd 0) ∧
    (busy s2 1 c.chan = true → xBusy s2 = false → (releaseUnkept (drainMatrix s2)).1 = none →
      ∃ t k, exec (.xputW o) s = .next t ∧ t.stalled = false ∧ t.t = Thread.blank ∧ t.conts = s2.conts ++ [k] ∧ k.waiting = .put c.id ∧
        k.dests = [o.fd] ∧ t.cmds = s2.cmds ++ [{ c with waitingSlot := true }] ∧ t.nextCmd = s2.nextCmd + 1)) ∧
  (∀ (s : State) (c : Cmd), (acceptCmd s c).cmds = s.cmds ++ [c] ∧ (acceptCmd s c).nextCmd = s.nextCmd + 1 ∧ (acceptCmd s c).t = s.t ∧
    ∀ l, launchOf s c.launch = some l → ∃ m, launchOf (acceptCmd s c) c.launch = some m ∧ m.reserved = l.reserved + 1) ∧
  (∀ (s : State) (id : Nat) (c : Cmd), cmdOf s id = some c → isOldest s c = true →
    let gone := fun (i : Instr) => ∃ t, exec i s = .next t ∧ t.stalled = false ∧ t.t = s.t ∧ t.cmds = s.cmds.filter fun x => x.id != c.id
    (c.kind = .xcopy →
      let d := CopyDesc.dec c.desc
      let r := copyLoop c d (product d.extents) 0 { written := [], fl := 0, bad := none } s
      landedBy s (r.1.written.map Prod.fst) = false → gone (.xcopyComplete id) ∧
        exec (.xcopyComplete id) s = .next { copyEnd c d r.1 r.2 with stalled := false }) ∧
    (c.kind = .zenc ∨ c.kind = .zdec →
      landedBy s ((codecLoop c (s.pubs + 1) c.count 0 { s with pubs := s.pubs + 1 }).1.1.map Prod.fst) = false → gone (.zcodecComplete id)) ∧
    (c.kind = .xput → c.srcRead = true → c.status ≠ 0 ∨ c.carry.length = c.bytes.length → gone (.putComplete id)) ∧
    (c.kind = .xcopyView → ∀ v m, (s.views.find? fun v => v.part == c.peer && v.handle == (ViewCopy.dec c.desc).handle) = some v →
      masterOf s v = some m →
      let d := ViewCopy.dec c.desc
      let k := readable s v m c.part c.core
      let r := imageReads v m d k c.needs d.cnt d.j0
      let run := viewRun c v m d k r.1 r.2.join s
      (viewHeld s c v d = true → gone (.xcopyViewComplete id)) ∧
      (viewHeld s c v d = false → r.2 ≠ some none → landedBy s (run.kvs.map Prod.fst) = false →
        exec (.xcopyViewComplete id) s = .next { viewEnd c v d run with stalled := false } ∧ gone (.xcopyViewComplete id)))) ∧
  (∀ (s : State) (id : Nat) (c : Cmd), cmdOf s id = some c → c.kind = .xput → c.waitingSlot = false →
    (c.srcRead = false → ∃ t, exec (.putSourceRead id) s = .next t ∧ t.stalled = false ∧ t.t = s.t ∧ ∃ k, cmdOf t id = some k ∧ k.srcRead = true ∧
      ((engineReadBytes c.who (c.desc.getD 1 0) c.count 0 s).2.1 = none → k.bytes = (engineReadBytes c.who (c.desc.getD 1 0) c.count 0 s).1 ∧ k.status = c.status)) ∧
    (∀ size, c.srcRead = true → c.status = 0 → c.carry.length < c.bytes.length → landsNow s c = true → peerEnded s c = false →
      ∃ t k, exec (.putPacketLand id size) s = .next t ∧ t.stalled = false ∧ t.t = s.t ∧ cmdOf t id = some k ∧
        let n := min (max 1 size) (c.bytes.length - c.carry.length)
        (engineKeys c.destWho (c.arg0 + BitVec.ofNat 64 c.carry.length) n 0 s).2.1 = none →
          k.status = 0 ∧ k.carry.map (fun b => b.2.2) = c.carry.map (fun b => b.2.2) ++ (c.bytes.drop c.carry.length).take n)) ∧
  (∀ (s : State) (cont id : Nat) (k : Cont) (c : Cmd), contOf s cont = some k → k.waiting = .put id → cmdOf s id = some c →
    (∀ x ∈ s.cmds, x.waitingSlot = true → x.sameChannel c = true → c.id ≤ x.id) → queued s c.uid 1 c.chan < 16 →
    cqHasSlot s c.launch = true →
    ∃ t, exec (.putWaitAccept cont) s = .next t ∧ t.stalled = false ∧ t.t = s.t ∧ finished t cont [0] ∧
      ∃ x, cmdOf t id = some x ∧ x = { c with waitingSlot := false, status := if tetherGone s c then 6 else 0 }) ∧
  (∀ (s : State) (part : Nat) (key : Word) (x : Collective), (s.colls.find? fun y => y.part == part && y.key == key) = some x →
    let np := field x.word0 47 32 + 1
    (∀ p < np, ∃ id c, assoc x.arrivals p = some id ∧ cmdOf s id = some c) →
    let cs := (List.range np).filterMap fun p => (assoc x.arrivals p).bind (cmdOf s)
    let r := readContribs cs { s with colls := s.colls.filter fun y => !(y.part == part && y.key == key) }
    let v := reduced (ReduceDesc.dec (cs.headD (newCmd s .xreduce [] none)).desc) (r.1.map Prod.fst) (r.2.fresh * 2 ^ 64)
    (∀ c ∈ cs, resultWaits v s c = false) →
    ∃ t, exec (.collectiveForm part key) s = .next t ∧ t.stalled = false ∧ t.t = s.t ∧ t.colls = s.colls.filter fun y => !(y.part == part && y.key == key))

/-- R389 to R392, R395. `w0` is word 0 as an atomic of the thread at .pod reads it (R369). -/
def Obligations.CountBarrierResults : Prop :=
  (∀ w0 w1 d : Nat, w0 < 2 ^ 64 → w1 < 2 ^ 64 →
    let rem := w0 % 2 ^ 48
    let x := (cbStep w0 w1 d).1
    (rem = 0 → cbStep w0 w1 d = (w0, false, false)) ∧
    (0 < rem → d < rem → cbStep w0 w1 d = (w0 / 2 ^ 62 * 2 ^ 62 + (rem - d), true, false)) ∧
    (0 < rem → rem ≤ d → (cbStep w0 w1 d).2 = (true, true) ∧ x % 2 ^ 48 = w1 % 2 ^ 48 ∧ x.testBit 63 = !w0.testBit 63 ∧
      x.testBit 62 = (w0.testBit 62 || decide (rem < d)) ∧ x / 2 ^ 48 % 2 ^ 14 = 0)) ∧
  (∀ (o : LE) (s s3 : State) (k : Nat), settledFor [o.fa, o.fb, o.fc] s → barrierAt o s k s3 →
    let b := getS s o.fb
    let w0 := cbWord s3 (me s3) k
    (b ≠ 0 → b.toNat < 2 ^ 48 → (getS s o.fc).toNat < 2 ^ 48 → exec (.cbinit o) s = .next (passed (atomicPut .atomic s3 5 k
      (natLe 8 ((if w0.testBit 63 then 2 ^ 63 else 0) + (getS s3 o.fb).toNat) ++ natLe 8 (getS s3 o.fc).toNat)))) ∧
    (b.toNat < 2 ^ 48 → let r := decrement s3 (me s3) k (getS s3 o.fb).toNat []
      exec (.cbarrive o) s = writesS (if r.1 then ownAtomic r.2 k 8 else r.2) o.fd (BitVec.ofNat 64 w0)) ∧
    exec (.cbtest o) s = writesS (if w0.testBit 63 = (getS s3 o.fb).getLsbD 0 then s3 else acquireBarrier s3 k) o.fd (BitVec.ofNat 64 w0) ∧
    (w0.testBit 63 ≠ b.getLsbD 0 → o.imm = 0 → exec (.cbwait o) s = writesS (acquireBarrier s3 k) o.fd (BitVec.ofNat 64 w0)) ∧
    (w0.testBit 63 = b.getLsbD 0 → o.imm = 0 → exec (.cbwait o) s = .next { s3 with stalled := true }) ∧
    (∀ ks s4, o.imm ≠ 0 → suspendCheck s3 = .ok ks s4 → xBusy s4 = false →
      (w0.testBit 63 ≠ b.getLsbD 0 → exec (.cbwait o) s = writesS (acquireBarrier s4 k) o.fd (BitVec.ofNat 64 (cbWord s4 (me s4) k))) ∧
      (w0.testBit 63 = b.getLsbD 0 → (releaseUnkept (drainMatrix s4)).1 = none →
        ∃ t c, exec (.cbwait o) s = .next t ∧ t.stalled = false ∧ t.t = Thread.blank ∧ t.conts = s4.conts ++ [c] ∧
          c.waiting = .barrier (getS s o.fa) (b.getLsbD 0) ∧ c.dests = [o.fd]))) ∧
  (∀ (o : LE) (s : State), settledFor [o.fa, o.fb, o.fc] s → xBusy s = false → 2 ^ 48 ≤ (getS s o.fb).toNat →
    exec (.cbarrive o) s = .next { takeTrap (mkTrap 0x01 (getS s o.fb)) s with stalled := false }) ∧
  (∀ (o : LE) (s : State), settledFor [o.fa, o.fb, o.fc] s → xBusy s = false →
    getS s o.fb = 0 ∨ 2 ^ 48 ≤ (getS s o.fb).toNat ∨ 2 ^ 48 ≤ (getS s o.fc).toNat →
    exec (.cbinit o) s = .next { takeTrap (mkTrap 0x01 (getS s o.fb)) s with stalled := false }) ∧
  (∀ (s s1 : State) (cont k : Nat) (c : Cont) (a : Word) (ph : Bool), contOf s cont = some c → c.waiting = .barrier a ph →
    let w := asked c.th
    barrierKey s w a = (.ok k, s1) → (cbWord s1 w k).testBit 63 ≠ ph →
    ∃ t, exec (.cbFlipObserved cont) s = .next t ∧ t.stalled = false ∧ t.t = s1.t ∧ finished t cont [BitVec.ofNat 64 (flipWord s1 w k)] ∧
      ∀ f, assoc s1.flips k = some f → f.testBit 63 = (cbWord s1 w k).testBit 63 → flipWord s1 w k = f)

/-- R401 to R411. In the clauses of vwait.view `fresh` is a block's freshness (R404) and `meets` the policy (R407, R410). The order in which a
die's engine takes blocks of several views and copies is log 22 (DEDUCED), that it leaves blocks which cannot land is log 16 (DEDUCED). -/
def Obligations.ViewResults : Prop :=
  (∀ (o : W4) (s s2 : State) (d : List Word), settledFor [o.fa] s → xBusy s = false →
    let s1 := publish (drainMatrix s) 4
    (getS s1 o.fa).toNat % 64 = 0 → loadWords (getS s1 o.fa) 8 0 s1 = .ok d s2 →
    (∀ c, registerCheck d s2 = .error c → exec (.vregView o) s = writesS s2 o.fd (BitVec.ofNat 64 (2 ^ 63 + c))) ∧
    ∀ x pas, registerCheck d s2 = .ok (x, pas) →
      exec (.vregView o) s = writesS (register d x pas s2).2 o.fd (BitVec.ofNat 64 (register d x pas s2).1) ∧
      ∃ v, (register d x pas s2).2.views = s2.views ++ [v] ∧ v.part = s2.t.part ∧ v.handle = (register d x pas s2).1 ∧ v.desc = d ∧
        v.fflags = 0 ∧ v.sat = 0 ∧ ∀ c ∈ v.copies, c.blocks.length = pas.length ∧ ∀ b ∈ c.blocks, b.state = .stale) ∧
  (∀ (o : WM) (s s1 : State) (v : View) (m : Master) (c : Copy) (x : Nat → Nat),
    let a := getS s o.sa
    let j := (getS s o.xb).toNat
    let w := typeWidth o.ty.toNat
    let g := vtGrp s
    let vd := o.vd.toNat
    let vl := s1.t.ctl.vl
    let st := startElem s1
    runsNow .elements s → readReserved a = false → namedView s s.t.part (readTid a) (readHandle a) = some v → masterOf s v = some m →
    vtType s = o.ty.toNat → v.ty = o.ty.toNat → isBfp o.ty.toNat = false → readable s v m s.t.part s.t.core = some c →
    s.t.ctl.vl ≤ g * 8192 / w → vd % g = 0 → sourcesAt [] (regsOf vd g) none s s1 → plainDest (regsOf vd g) s1 →
    (∀ i < vl, maskOn s o.msk.toNat i = true → viewElem s a m (some c) (j + i) i = .ok (x i)) → s1.t.m = s.t.m → vl = s.t.ctl.vl →
    ∃ t, exec (.vldView o) s = .next t ∧ vecKeeps (regsOf vd g) none s1 t ∧
      ∀ e < g * 8192 / w, element t vd g w e = if vl = 0 then element s1 vd g w e
        else destElem s1 w vl st o.msk.toNat e (element s1 vd g w e) (x e % 2 ^ w)) ∧
  (∀ (o : WM) (s s1 : State) (v : View) (m : Master) (c : Copy) (x : Nat → Nat),
    let a := getS s o.sa
    let j := (getS s o.xb).toNat
    let g := vtGrp s
    let vd := o.vd.toNat
    let mk := o.msk.toNat
    let vl := s1.t.ctl.vl
    let st := startElem s1
    let len := 2 ^ (vtBl s + 3)
    let act := fun (e : Nat) => st ≤ e ∧ e < vl ∧ maskOn s mk e = true
    runsNow .elements s → laneOf s = none → readReserved a = false → namedView s s.t.part (readTid a) (readHandle a) = some v →
    masterOf s v = some m → vtType s = o.ty.toNat → v.ty = o.ty.toNat → isBfp o.ty.toNat = true → v.axis = 0 → v.blc = vtBl s → j % len = 0 →
    scaleFits s (readK a) = true → readable s v m s.t.part s.t.core = some c → s.t.ctl.vl ≤ g * 1024 → vd % g = 0 →
    sourcesAt [] (regsOf vd g) none s s1 → plainDest (regsOf vd g) s1 →
    (∀ i < vl, maskOn s mk i = true → viewElem s a m (some c) (j + i) i = .ok (x i)) → s1.t.m = s.t.m → vl = s.t.ctl.vl →
    s1.t.ctl.vtype = s.t.ctl.vtype →
    ∃ t, exec (.vldView o) s = .next t ∧ t.stalled = false ∧ (∀ q, q ∉ regsOf vd g → getV t q = getV s1 q) ∧ t.t.s = s1.t.s ∧ t.home = s1.home ∧
      (∀ e < g * 1024, element t vd g 8 e = if vl = 0 then element s1 vd g 8 e
        else destElem s1 8 vl st mk e (element s1 vd g 8 e) (x e % 256)) ∧
      ∀ q, readK a + q / 64 < 16 →
        (∀ e, act e → e / len = q → (∀ y, e < y → act y → y / len ≠ q) → elemAt (getE t (readK a + q / 64)).toNat 8 (q % 64) =
          (if m.total ≤ j + e then 0 else c.scale v m (j + e)) % 256) ∧
        ((∀ e, act e → e / len ≠ q) →
          elemAt (getE t (readK a + q / 64)).toNat 8 (q % 64) = elemAt (getE s1 (readK a + q / 64)).toNat 8 (q % 64))) ∧
  (∀ (s : State) (a : Word) (m : Master) (c : Copy) (b : Block) (x i : Nat), x < m.total → c.blocks[x / m.perBlock]? = some b →
    b.state ≠ .faulted →
    let obs := nObs s.t m
    let f := if b.state = .fresh then m.pc else b.f
    (readPol a = 2 ∨ obs ≤ f ∨ (readPol a = 1 ∧ obs - readN a ≤ f) → readPol a < 4 → viewElem s a m (some c) x i = .ok (c.elem m x)) ∧
    (f < obs → readPol a = 0 → viewElem s a m (some c) x i = .error none) ∧
    (f < obs → readPol a = 3 → ∃ tr, viewElem s a m (some c) x i = .error (some tr) ∧ tr.cls = 0x0C ∧ tr.telem = i)) ∧
  (∀ (o : W4) (s : State), settledFor [o.fa, o.fb] s → readReserved (getS s o.fa) = false →
    (o.fc = 0 → (∀ w, viewWait s s.t (getS s o.fa) (getS s o.fb) = some w → exec (.vwaitView o) s = writesS s o.fd w) ∧
      (viewWait s s.t (getS s o.fa) (getS s o.fb) = none → exec (.vwaitView o) s = .next { s with stalled := true })) ∧
    ∀ ks s1, o.fc ≠ 0 → suspendCheck s = .ok ks s1 →
      (∀ w, viewWait s s.t (getS s o.fa) (getS s o.fb) = some w → exec (.vwaitView o) s = writesS s1 o.fd w) ∧
      (viewWait s s.t (getS s o.fa) (getS s o.fb) = none → xBusy s1 = false → (releaseUnkept (drainMatrix s1)).1 = none →
        ∃ t c, exec (.vwaitView o) s = .next t ∧ t.stalled = false ∧ t.t = Thread.blank ∧ t.conts = s1.conts ++ [c] ∧
          c.waiting = .view (getS s o.fa) (getS s o.fb) ∧ c.dests = [o.fd])) ∧
  (∀ (s : State) (th : Thread) (a b : Word),
    (namedView s th.part (readTid a) (readHandle a) = none → viewWait s th a b = some 0x8000000000000009) ∧
    ∀ (v : View) (m : Master), namedView s th.part (readTid a) (readHandle a) = some v → masterOf s v = some m →
      (readable s v m th.part th.core = none → viewWait s th a b = some 0x8000000000000009) ∧
      ∀ c : Copy, readable s v m th.part th.core = some c →
        let named := ((List.range c.blocks.length).filter fun i =>
          b == 0 || decide (b.toNat % 2 ^ 24 ≤ i ∧ i < b.toNat % 2 ^ 24 + b.toNat / 2 ^ 24 % 2 ^ 24)).filterMap fun i => c.blocks[i]?
        let fresh := fun (k : Block) => if k.state = .fresh then m.pc else k.f
        let meets := fun (k : Block) => readPol a = 2 ∨ nObs th m ≤ fresh k ∨ (readPol a = 1 ∧ nObs th m - readN a ≤ fresh k)
        let word := fun (f : Nat) => BitVec.ofNat 64 (f + v.fflags.toNat * 2 ^ 48 + v.sat.toNat * 2 ^ 54)
        (named = [] → m.pc < 2 ^ 48 → viewWait s th a b = some (word m.pc)) ∧
        ((∃ k ∈ named, k.state = .faulted) → viewWait s th a b = some 0x8000000000000009) ∧
        ((∀ k ∈ named, k.state ≠ .faulted) → (∃ k ∈ named, ¬meets k) → viewWait s th a b = none) ∧
        ((∀ k ∈ named, k.state ≠ .faulted ∧ meets k) → ∀ k ∈ named, (∀ y ∈ named, fresh k ≤ fresh y) → fresh k < 2 ^ 48 →
          viewWait s th a b = some (word (fresh k)))) ∧
  (∀ (o : W4) (s : State), settledFor [o.fa] s → (getS s o.fa).toNat < 2 ^ 16 →
    ((∀ v ∈ s.views, ¬(v.part = s.t.part ∧ v.handle = (getS s o.fa).toNat)) → exec (.vdropView o) s = writesS s o.fd 0x8000000000000008) ∧
    ∀ v, (s.views.find? fun v => v.part == s.t.part && v.handle == (getS s o.fa).toNat) = some v →
      (∀ c ∈ v.copies, ∀ b ∈ c.blocks, b.state ≠ .refreshing) → (∀ c ∈ s.cmds, c.kind ≠ .xcopyView) →
      ∃ t, exec (.vdropView o) s = writesS t o.fd 0 ∧ (∀ x ∈ t.views, ¬(x.part = v.part ∧ x.handle = v.handle)) ∧ t.t = s.t ∧
        ∀ p ∈ t.parts, ∀ q ∈ p.guards, ¬(q.owner = v.part ∧ q.handle = v.handle)) ∧
  (∀ (s : State) (die : Nat) (r : BlockRef) (v : View) (b : Block) (m : Master),
    dieBlocks s die (fun _ b => b.state == .refreshing) = [] → (dieBlocks s die fun v b => b.state == .stale && v.lands s).head? = some r →
    blockOfRef s r = some (v, b) → masterOf s v = some m → s.poison = [] → s.zblocks = [] →
    ∃ t v' k, exec (.viewRefreshRead die) s = .next t ∧ t.stalled = false ∧ t.t = s.t ∧ t.home = s.home ∧ blockOfRef t r = some (v', k) ∧
      k.state = .refreshing ∧ k.marked = false ∧ k.c = m.pc ∧ k.elems = b.elems ∧ k.nextElems = (derive v m ((List.range
        (min m.perBlock (m.total - m.perBlock * r.block))).map fun i => leNat (s.home.readN m.zm (m.blockPa.getD r.block 0 + i * m.zm)))).1) ∧
  (∀ (s : State) (die : Nat) (r : BlockRef) (v : View) (b : Block),
    (dieBlocks s die fun _ b => b.state == .refreshing).head? = some r → blockOfRef s r = some (v, b) → v.lands s = true →
    ∃ t v' k, exec (.viewRefreshPublish die) s = .next t ∧ t.stalled = false ∧ t.t = s.t ∧ blockOfRef t r = some (v', k) ∧
      k.state = (if b.marked then .stale else .fresh) ∧ k.f = b.c ∧ k.marked = false ∧ k.elems = b.nextElems ∧ k.scales = b.nextScales)

/-- R415 to R432. -/
def Obligations.PoolResults : Prop :=
  (∀ (o : LE) (s : State), settledFor [o.fa, o.fb, o.fc] s → xBusy s = false → (∀ p, ¬namesPool o s p) →
    let bad := Host.Outcome.next ({ takeTrap (mkTrap 0x0D (getS s o.fa)) s with stalled := false } : State)
    exec (.pput o) s = bad ∧ exec (.ptake o) s = bad ∧ exec (.ptakeW o) s = bad ∧ exec (.pstat o) s = bad ∧ exec (.pdrain o) s = bad) ∧
  (∀ (o : LE) (s : State) (p0 p : Pool), settledFor [o.fa, o.fb, o.fc] s → namesPool o s p0 → storesQueued s = false →
    let s1 := publish (drainMatrix s) 4
    poolOf s1 s1.t.part (getS s1 o.fa).toNat = some p →
    let mine : Nat := (s1.pools.map fun q => (q.shelves.map fun x => (x.puts.filter fun y => y.uid == s1.t.uid).length).sum).sum
    let die := dieOf s1.t.core
    let put : Shelf → Shelf := fun x =>
      { x with puts := x.puts ++ [{ uid := s1.t.uid, key := (getS s1 o.fb).toNat, payload := (getS s1 o.fc).toNat, seq := x.accepted }]
               accepted := x.accepted + 1 }
    exec (.pput o) s =
      if p.cap ≤ p.size then writesS s1 o.fd 2
      else if 16 ≤ mine then writesS s1 o.fd 3
      else if p.closed then writesS s1 o.fd 4
      else if poolNoBound s1 p then writesS s1 o.fd 5
      else writesS (updPool s1 p.part p.num fun q => q.updShelf die put) o.fd 0) ∧
  (∀ (o : LE) (s : State) (p : Pool), settledFor [o.fa] s → namesPool o s p → poolNoBound s p = false →
    (∀ x ∈ p.shelves, ∀ y ∈ x.puts, y.uid ≠ s.t.uid) → (∀ k ∈ p.takes, k.uid ≠ s.t.uid) →
    let bound := s.t.ctl.pbnd.toList.getD (o.imm.toNat % 4) 64
    let die := dieOf s.t.core
    (∀ e forced, localServe p die bound = some (e, forced) →
      ∃ t, exec (.ptake o) s = .next t ∧ t.stalled = false ∧ t.t = (passed (setS (setS (setS s o.fb (BitVec.ofNat 64 e.key)) o.fd
          (BitVec.ofNat 64 e.payload)) o.fc (if forced then 256 else 0))).t ∧
        (∀ q ∈ t.pools, q.part = p.part → q.num = p.num → ∀ x ∈ q.shelves, x.die = die → ∀ y ∈ x.elems, y.order ≠ e.order) ∧
        (∀ q, partOf s p.part = some q → ∃ r, partOf t p.part = some r ∧ r.tc = (q.tc + 1) % 2 ^ 48)) ∧
    (localServe p die bound = none → p.emptyRun = false → ∃ t, exec (.ptake o) s = .next t ∧ t.stalled = true ∧ t.t.s = s.t.s ∧ t.t.pc = s.t.pc)) ∧
  (∀ (o : LE) (s : State) (p : Pool) (k : PoolTake), settledFor [o.fa] s → namesPool o s p →
    (p.takes.find? fun k => k.uid == s.t.uid && k.pc == s.t.pc) = some k →
    k.served = none → localServe p k.frm k.bound = none → p.emptyRun = true → k.since < boundaryOf s p.pkg →
    exec (.ptake o) s = .next (passed (takeResult o 0 0 (if p.closed then 4 else 1) (endTake s p k.id))) ∧
    ∀ ks s1, suspendCheck s = .ok ks s1 → xBusy s1 = false → s1.t = s.t → s1.boundary = s.boundary →
      (p.closed = true → exec (.ptakeW o) s = .next (passed (takeResult o 0 0 4 (endTake s1 p k.id)))) ∧
      (p.closed = false → (releaseUnkept (drainMatrix (endTake s1 p k.id))).1 = none →
        ∃ t c, exec (.ptakeW o) s = .next t ∧ t.stalled = false ∧ t.t = Thread.blank ∧ t.conts = s1.conts ++ [c] ∧ c.waiting = .take p.num ∧
          c.dests = [o.fb, o.fd, o.fc] ∧ ∀ q ∈ t.pools, q.part = p.part → q.num = p.num → c.id ∈ q.waiters)) ∧
  (∀ (o : LE) (s : State), settledFor [o.fa] s →
    (1 ≤ (getS s o.fa).toNat → (getS s o.fa).toNat ≤ 4096 →
      exec (.pbnd o) s = .next (passed (s.updC fun c => { c with pbnd := c.pbnd.setIfInBounds (o.imm.toNat % 4) (getS s o.fa).toNat }))) ∧
    ∀ p, namesPool o s p →
      let m := o.imm.toNat % 4
      let mine := dieOf s.t.core
      let named := (p.shelves.map fun x => if x.die = mine then x.elems else x.now.lowest).flatten
      let s1 := publish (drainMatrix s) 4
      let waits := fun (d : PoolDrain) => d.uid == s.t.uid && d.pc == s.t.pc
      (∃ q : Nat, exec (.pstat o) s = writesS s o.fd (BitVec.ofNat 64 q) ∧
        (m = 0 → q = (p.shelves.map fun x =>
          if x.die = mine then x.elems.length + (p.moving.filter fun y => y.1 == mine).length else x.now.count).sum) ∧
        (m = 1 → q = (p.shelves.map fun x => x.now.pseq).sum % 2 ^ 48) ∧
        (m = 2 → (p.shelfOf mine = none → q = p.tcAt % 2 ^ 48) ∧ ∀ x, p.shelfOf mine = some x → q = (p.tcAt + x.takes) % 2 ^ 48) ∧
        (m = 3 → (named = [] → q = 2 ^ 64 - 1) ∧ (named ≠ [] → ∃ e ∈ named, q = e.key ∧ ∀ y ∈ named, e.key ≤ y.key))) ∧
      (∀ d, m = 1 → p.drainers.find? waits = some d →
        (d.removed = none → exec (.pdrain o) s = .next { s with stalled := true }) ∧
        ∀ n, d.removed = some n → exec (.pdrain o) s = writesS (updPool s p.part p.num fun q =>
          { q with drainers := q.drainers.filter fun d => !waits d }) o.fd (BitVec.ofNat 64 n)) ∧
      (m ≠ 1 ∨ p.drainers.find? waits = none → storesQueued s = false →
        (poolNoBound s1 p = true → exec (.pdrain o) s = writesS s1 o.fd 5) ∧
        (poolNoBound s1 p = false → m ≠ 1 →
          exec (.pdrain o) s = writesS (updPool s1 p.part p.num fun q => { q with closed := m != 2 }) o.fd 0) ∧
        (poolNoBound s1 p = false → m = 1 → ∃ t, exec (.pdrain o) s = .next t ∧ t.stalled = true ∧ t.t = s1.t ∧
          ∀ q, poolOf s1 p.part p.num = some q → poolOf t p.part p.num = some { q with
            closed := true, drainers := q.drainers ++ [{ uid := s1.t.uid, pc := s1.t.pc, removed := none }] }))) ∧
  (∀ (pkg : Nat) (s : State), ∃ t, exec (.roundBoundary pkg) s = .next t ∧ t.stalled = false ∧ t.t = s.t ∧ t.home = s.home ∧
    boundaryOf t pkg = boundaryOf s pkg + 1 ∧ ∀ q ≠ pkg, boundaryOf t q = boundaryOf s q) ∧
  (∀ (pkg : Nat) (s : State) (p : Pool), p ∈ s.pools → p.pkg = pkg → (s.pools.map fun q => (q.part, q.num)).Nodup →
    (∀ q ∈ s.pools, q.pkg = pkg → q.waiters = []) → (p.shelves.map Shelf.die).Nodup → (∀ x ∈ p.shelves, (x.puts.map Put.seq).Nodup) →
    (∀ d ∈ p.drainers, d.removed ≠ none) → (p.held = true ∨ ∀ k ∈ p.takes, k.bound ≠ 1 ∨ k.served ≠ none) →
    (∀ y ∈ standing p, y.order.1 < boundaryOf s pkg) →
    ∃ t q, exec (.roundBoundary pkg) s = .next t ∧ poolOf t p.part p.num = some q ∧ (∀ x ∈ q.shelves, x.puts = []) ∧
      ∀ x ∈ p.shelves, ∀ u ∈ x.puts,
        { key := u.key, payload := u.payload, order := (boundaryOf s pkg, x.die, u.seq), stamp := tcOf s p.part } ∈ standing q) ∧
  (∀ (s : State) (b die : Nat) (p q : Pool) (u : Put), poolOf s q.part q.num = some p → p.waiters = [] →
    linearise b die s q u = updPool s p.part p.num fun y => y.updShelf die fun x =>
      { x with elems := x.elems ++ [{ key := u.key, payload := u.payload, order := (b, die, u.seq), stamp := tcOf s p.part }]
               pseq := (x.pseq + 1) % 2 ^ 48 }) ∧
  (∀ (s : State) (id die : Nat) (p : Pool) (k : PoolTake) (x : Shelf) (h : Elem),
    (s.pools.find? fun p => p.takes.any fun k => k.id == id) = some p → (p.takes.find? fun k => k.id == id) = some k → k.served = none →
    k.tried ≤ boundaryOf s p.pkg → localServe p k.frm k.bound = none → stealTarget p = some die → p.shelfOf die = some x →
    lowestElem x.elems = some h → p.est die h < k.bound →
    ∃ t, exec (.poolSteal id) s = .next t ∧ t.stalled = false ∧ t.t = s.t ∧
      (∀ q ∈ t.pools, q.part = p.part → q.num = p.num → ∀ y ∈ q.takes, y.id = id → y.served = some h) ∧
      ∀ q, partOf s p.part = some q → ∃ r, partOf t p.part = some r ∧ r.tc = (q.tc + 1) % 2 ^ 48) ∧
  (∀ (s : State) (part num w : Nat) (r : List Nat) (p : Pool) (e : Elem), poolOf s part num = some p → p.waiters = w :: r →
    lowestElem (p.shelves.map Shelf.elems).flatten = some e →
    ∃ t, exec (.poolPutWake part num) s = .next t ∧ t.stalled = false ∧ t.t = s.t ∧
      finished t w [BitVec.ofNat 64 e.key, BitVec.ofNat 64 e.payload, 0])

/-- R193, R463. The results that R463 does not state are free values (log 4). Tether directions and TIDs, the layout of rights, a certificate's
length and which settings a cleared record takes are log 25 (DEDUCED, DESIGN CHOICE). -/
def Obligations.HorsilServices : Prop :=
  (∀ (c : Call) (s : State), exec (.version c) s = replies s 0 Config.horsilRelease) ∧
  (∀ (n : BitVec 16) (c : Call) (s : State), knownService n.toNat = false → exec (.unknownService n c) s = replies s 1 0) ∧
  (∀ (c : Call) (s : State) (p : Partition), partOf s c.part = some p → p.ended = false →
    ∃ (t : State) (st : Nat) (w : Word), exec (.launch c) s = replies t st w ∧ t.t = s.t ∧ t.replies = s.replies ∧
      (st = 0 → w = BitVec.ofNat 64 s.nextLaunch ∧ t.nextLaunch = s.nextLaunch + 1 ∧
        ∃ l ∈ t.launches, l.num = s.nextLaunch ∧ l.part = c.part ∧ l.finished = false) ∧
      (st ≠ 0 → st = 4 ∧ 1 ≤ w.toNat ∧ w.toNat ≤ 7 ∧ t.launches = s.launches)) ∧
  (∀ (c : Call) (s : State) (l : Launch), launchOf s c.a0.toNat = some l → l.part = c.part →
    exec (.waitForLaunch c) s = if launchOver l then replies s 0 (Config.freeWord s.fresh) else .next { s with stalled := true }) ∧
  (∀ (c : Call) (s : State) (p : Partition), partOf s c.part = some p → c.a0.toNat ≤ 255 → poolOf s c.part c.a0.toNat = none →
    0 < c.a1.toNat → c.a1.toNat ≤ 2 ^ 32 → c.a2 = 0 ∨ (64 ≤ c.a2.toNat ∧ c.a2.toNat ≤ 2 ^ 24) → (∃ d ∈ dieList p, d / 8 = c.pkg) →
    ∃ (t : State) (q : Pool) (w : Word), exec (.poolCreate c) s = replies t 0 w ∧ t.t = s.t ∧ t.pools = s.pools ++ [q] ∧ q.part = c.part ∧
      q.num = c.a0.toNat ∧ q.cap = c.a1.toNat ∧ q.limit = (if c.a2 = 0 then 4096 else c.a2.toNat) ∧ q.closed = false ∧
      q.shelves.map Shelf.die = (dieList p).filter (fun d => d / 8 == c.pkg) ∧ ∀ x ∈ q.shelves, x.elems = [] ∧ x.puts = []) ∧
  (∀ (c : Call) (s : State) (p : Pool), poolOf s c.part c.a0.toNat = some p → ∃ (t : State) (w : Word),
    exec (.poolEnd c) s = replies t 0 w ∧ t.t = s.t ∧ t.pools = s.pools.filter fun q => !(q.part == c.part && q.num == c.a0.toNat)) ∧
  (∀ (c : Call) (s : State) (a b : Nat), partLives s c.part = true → partLives s c.a0.toNat = true → c.a0.toNat ≠ c.part → c.a1 ≠ 0 →
    c.a2 = 0 → freeTid s c.part = some a → freeTid s c.a0.toNat = some b →
    let pkg := c.frames.getD 0 0
    let base := c.frames.getD 1 0
    rangeMapped s { part := c.a0.toNat, pkg := pkg, core := none, die := pkg * 8 } .store (BitVec.ofNat 64 base) c.a1.toNat = true →
    let x : Tether := { sender := c.part, senderTid := a, receiver := c.a0.toNat, receiverTid := b, pkg := pkg, base := base,
                        size := c.a1.toNat, revoked := false, ended := false }
    exec (.tetherGrant c) s = replies { s with tethers := s.tethers ++ [x] } 0 (BitVec.ofNat 64 a)) ∧
  (∀ (c : Call) (s : State), (∃ x ∈ s.tethers, x.revoked = false ∧ x.sender = c.part ∧ x.senderTid = c.a0.toNat) →
    ∃ (t : State) (w : Word), exec (.tetherRevoke c) s = replies t 0 w ∧ t.t = s.t ∧
      ∀ x ∈ t.tethers, (x.sender = c.part ∧ x.senderTid = c.a0.toNat) ∨ (x.receiver = c.part ∧ x.receiverTid = c.a0.toNat) → x.revoked = true) ∧
  (∀ (c : Call) (s : State), partLives s c.part = true → pagesOk c.a0 c.a1.toNat = true → rightsOk c.a2.toNat = true → c.a3.toNat ≤ 2 →
    touchesQueue s c c.a1.toNat = false → (∀ va ∈ rangePages c.a0 c.a1.toNat, leafOf s c.part c.pkg (BitVec.ofNat 64 va) = none) →
    (rangePages c.a0 c.a1.toNat).length ≤ c.frames.length →
    (∀ f ∈ c.frames, f % 2 ^ 16 = 0 ∧ field f 51 44 = c.pkg ∧ field f 43 42 = c.a3.toNat ∧ populated f = true) →
    ∃ (t : State) (st : Nat) (w : Word), exec (.mapMemory c) s = replies t st w ∧ t.t = s.t ∧
      (st = 0 ∧ (∀ x ∈ (rangePages c.a0 c.a1.toNat).zip c.frames, ∃ at_ e size, leafOf t c.part c.pkg (BitVec.ofNat 64 x.1) =
        some (at_, e, x.2, size)) ∨ st = 3 ∧ t = s)) ∧
  (∀ (c : Call) (s : State), partLives s c.part = true → pagesOk c.a0 c.a1.toNat = true → touchesQueue s c c.a1.toNat = false →
    (∀ va ∈ rangePages c.a0 c.a1.toNat, ∃ at_ e, walk s c.part c.pkg va = .leaf at_ e 0) →
    ∃ (t : State) (w : Word), exec (.unmap c) s = replies t 0 w ∧ t.t = s.t ∧
      ∀ x ∈ t.tlbs, ∀ e ∈ x.entries, ¬(e.part = c.part ∧ e.pkg = c.pkg)) ∧
  (∀ (c : Call) (s s1 : State) (bs : List Byte), c.a1.toNat ≤ 4096 → hardRead (Call.who c) c.a0 c.a1.toNat s = (some bs, s1) →
    exec (.log c) s = replies { s1 with hlog := s1.hlog ++ bs } 0 (Config.freeWord s1.fresh)) ∧
  (∀ (c : Call) (s s1 s2 : State) (nonce : List Byte) (ks : List Nat), hardRead (Call.who c) c.a0 32 s = (some nonce, s1) →
    let q := quoteBytes c.pkg nonce (bootOf s1 c.pkg)
    engineKeys (Call.who c) c.a1 q.length 0 s1 = (ks, none, s2) →
    exec (.attestationQuote c) s = replies (engineWrite s2 c.pkg (ks.zip q)).1 0 (BitVec.ofNat 64 q.length)) ∧
  (∀ (c : Call) (s s1 : State) (bs : List Byte), hardRead (Call.who c) c.a0 c.bytes.length s = (some bs, s1) →
    let keys := (bootOf s1 c.pkg).keys
    let found := (Config.rootKey :: keys).findSome? fun k => Config.certKey k bs
    (∀ k, found = some k → keys.length < 64 → ∃ t, exec (.enrolSigningKey c) s = replies t 0 (BitVec.ofNat 64 keys.length) ∧ t.t = s1.t ∧
      t.home = s1.home ∧ (bootOf t c.pkg).keys = keys ++ [k] ∧ ∀ q ≠ c.pkg, bootOf t q = bootOf s1 q) ∧
    (found = none → ∃ w, exec (.enrolSigningKey c) s = replies s1 2 w) ∧
    ∀ k, found = some k → 64 ≤ keys.length → ∃ w, exec (.enrolSigningKey c) s = replies s1 3 w) ∧
  (∀ (c : Call) (s : State), ∃ (t : State) (w : Word), exec (.clearBootRecordAlternatives c) s = replies t 0 w ∧ t.t = s.t ∧
    t.home = s.home ∧ (∀ q ≠ c.pkg, bootOf t q = bootOf s q) ∧
    ∀ e ∈ (bootOf t c.pkg).record.flatten, ∀ u ∈ e.units, u.ok = true → u.setting = 0) ∧
  (∀ (o : QI) (s : State), xBusy s = false →
    let s0 := drainMatrix s
    let c : Call := { part := s0.t.part, pkg := pkgOf s0.t.core, core := dieOf s0.t.core % 8 * 2, a0 := getS s0 10, a1 := getS s0 11, a2 := getS s0 12, a3 := getS s0 13,
                      frames := [], tables := [], bytes := [] }
    (knownService o.imm.toNat = true → svcAllowed o.imm.toNat = false →
      exec (.svc o) s = .next (passed (setS (setS { s0 with fresh := s0.fresh + 1 } 10 5) 11 (Config.freeWord s0.fresh)))) ∧
    (o.imm = 0 → exec (.svc o) s = .next (passed (setS (setS { s0 with fresh := s0.fresh + 1 } 10 0) 11 Config.horsilRelease))) ∧
    (knownService o.imm.toNat = false → exec (.svc o) s = .next (passed (setS (setS { s0 with fresh := s0.fresh + 1 } 10 1) 11 0))) ∧
    (∀ a, svcAllowed o.imm.toNat = true → service true o.imm.toNat c s0 = some a →
      exec (.svc o) s = .next (passed (setS (setS { a.s with fresh := a.s.fresh + 1 } 10 (BitVec.ofNat 64 a.status)) 11 (resultWord a)))))

/-- R463's launch with R64 to R69: the header that Horsil reads, the copies that the dies read and what they find decide it. That the completion
queue is on the caller's package is log 24 (DEDUCED). -/
def Obligations.LaunchAcceptedOrRefused : Prop :=
  ∀ (c : Call) (s s1 : State) (p : Partition) (hb : List Byte), partOf s c.part = some p → p.ended = false →
    hardRead (Call.who c) c.a0 64 s = (some hb, s1) →
    let h := wordsOf 8 hb
    let r := readCopies c.part h (dieList p) s1
    let good := r.1.filterMap fun x => x.2.map fun k => (x.1, k)
    (queueOk r.2 (Call.who c) (h.getD 5 0) = true → (∀ x ∈ r.1, dieFinds r.2 c.part x = none) → (∀ l ∈ s.launches, l.num < s.nextLaunch) →
      ∃ t l, exec (.launch c) s = replies t 0 (BitVec.ofNat 64 s.nextLaunch) ∧ t = acceptLaunch c.part c.pkg h good r.2 ∧ t.t = s.t ∧
        t.nextLaunch = s.nextLaunch + 1 ∧ launchOf t s.nextLaunch = some l ∧ l.part = c.part ∧ l.cqPkg = c.pkg ∧ l.edge = h.getD 4 0 ∧
        l.cq = h.getD 5 0 ∧ l.args = h.getD 6 0 ∧ l.finished = false ∧ l.failed = none ∧
        (∀ n ∈ l.nodes, ∃ k, (n.die, k) ∈ good ∧ n.index < k.n ∧ n.desc = k.nodes.getD n.index [] ∧ n.succs = k.succsOf n.index) ∧
        ∀ n ∈ l.nodes, n.left = 0 → n.crossLeft = 0 → n.state = .ready ∧ ∃ q ∈ t.ready, q.work = .node l.num n.index ∧ q.die = n.die) ∧
    (queueOk r.2 (Call.who c) (h.getD 5 0) = true → ∀ x k, x ∈ r.1 → dieFinds r.2 c.part x = some k →
      (∀ y ∈ r.1, ∀ j, dieFinds r.2 c.part y = some j → k ≤ j) → exec (.launch c) s = replies r.2 4 (BitVec.ofNat 64 k)) ∧
    (queueOk r.2 (Call.who c) (h.getD 5 0) = false → exec (.launch c) s = replies r.2 4 1)

/-- R463's map memory with R155 to R157: where the tables on the way exist, every page of the range gets its leaf, and no other byte of
memory changes. The layout of the rights and what the region argument names are log 25 (DEDUCED). -/
def Obligations.MapMemoryCompletes : Prop :=
  ∀ (c : Call) (s : State) (p : Partition) (root : Nat) (ats : List Nat),
    let pages := rangePages c.a0 c.a1.toNat
    partOf s c.part = some p → p.ended = false → assoc p.roots c.pkg = some root → root % 8 = 0 →
    s.home.wf = true → s.zblocks = [] → (∀ x ∈ s.homeSeq, x.2 ≤ s.pubs) →
    pagesOk c.a0 c.a1.toNat = true → rightsOk c.a2.toNat = true → c.a3.toNat ≤ 2 → touchesQueue s c c.a1.toNat = false →
    pages.length ≤ c.frames.length → (∀ f ∈ c.frames, f < 2 ^ 52) →
    framesOk s c pages c.a3.toNat (field c.a2.toNat 1 1 == 1) = true →
    (pages.map fun va => freeLeaf s.home c.pkg va [4, 3, 2, 1, 0] root) = ats.map some → ats.Nodup →
    ∃ (t : State) (w : Word), exec (.mapMemory c) s = replies t 0 w ∧ t.t = s.t ∧ t.parts = s.parts ∧
      (∀ x ∈ pages.zip (ats.zip c.frames), walk t c.part c.pkg x.1 = .leaf x.2.1 (leafWord x.2.2 c.a2.toNat).toNat 0) ∧
      ∀ k, (∀ a ∈ ats, k < a ∨ a + 8 ≤ k) → t.home.read k = s.home.read k

/-- R67 to R72, R78, R83, R435, R436, R443, R446, R447. That QUEUE_STALL_TIMEOUT comes where streams wait, in place of a count of cycles, is log 3
(DESIGN CHOICE); that Horsil's own error is logged at die 0 of the running package is log 31 (DESIGN CHOICE). -/
def Obligations.SchedulerAndFaultEvents : Prop :=
  (∀ (die : Nat) (s t : State) (r : Ready), s.ready = [r] → r.die = die → placeEntry s r = some t →
    exec (.dispatch die) s = .next { t with stalled := false }) ∧
  (∀ (die : Nat) (s : State), (∀ r ∈ s.ready, r.die = die → placeEntry s r = none) → exec (.dispatch die) s = .next { s with stalled := false }) ∧
  (∀ (s : State) (part launch core : Nat) (n : Node) (l : Launch), (∀ x ∈ allThreads s, x.uid ≠ s.nextUid) → n.folios = [] →
    launchOf s launch = some l →
    ∃ th ∈ (startNode s part launch n core).parked, th.uid = s.nextUid ∧ th.core = core ∧ th.slot = (freeSlots s core).headD 0 ∧
      th.status = .running ∧ th.pc = n.word 0 ∧ th.ctl = Ctl.start ∧ th.s.toList.getD 3 0 = n.word 1 ∧
      th.s.toList.getD 4 0 = BitVec.ofNat 64 n.index ∧ th.s.toList.getD 5 0 = l.args ∧ th.s.toList.getD 2 0 = stackTop s part core th.slot) ∧
  (∀ (die : Nat) (s : State), exec (.priorityAging die) s = .next { s with
    ready := s.ready.map (fun r => if r.die = die ∧ 65536 ≤ s.cycle - r.since then { r with aged := true } else r), stalled := false }) ∧
  (∀ (die : Nat) (s : State) (r : Ready) (id : Nat) (p : Partition), r ∈ s.ready → r.work = .resume id → r.die = die → r.listed = false →
    16384 ≤ s.cycle - r.since → (unpinned s r).isSome = true → partOf s r.part = some p →
    ∃ (t : State) (q : Partition), exec (.resumeListPost die) s = .next t ∧ t.stalled = false ∧ t.t = s.t ∧ partOf t r.part = some q ∧
      id ∈ q.resume ∧ ({ r with listed := true } : Ready) ∈ t.ready) ∧
  (∀ (die : Nat) (s : State) (r : Ready) (id : Nat) (ids : List Nat), (s.parts.map Partition.resume).flatten = id :: ids →
    (s.ready.find? fun x => x.work == .resume id && takesListed s die x) = some r →
    exec (.resumeListTake die) s = .next { takeEntry s r with
      ready := (takeEntry s r).ready ++ [{ r with die := die, listed := false, since := s.cycle }], stalled := false }) ∧
  (∀ (launch node k : Nat) (s s1 : State) (l : Launch) (n : Node), launchOf s launch = some l → nodeOf s launch node = some n →
    0 < n.crossLeft → n.state = .waiting → n.left = 0 →
    barrierKey s (dieWho l.part n.die) (edgeAddr l node) = (.ok k, s1) → (cbWord s1 (dieWho l.part n.die) k).testBit 63 = true →
    ∃ t, exec (.crossDieEdge launch node) s = .next t ∧ t.stalled = false ∧ t.t = s1.t ∧
      ∃ r ∈ t.ready, r.work = .node launch node ∧ r.die = n.die) ∧
  (∀ (s : State) (k : Nat) (e : XEntry), s.t.status = .running → accessWaits s = true → hasCommands s s.t.uid = false →
    hasPuts s s.t.uid = false → s.t.mq = [] → runningLanes s = [] → queueWait s = some (k, e) → s.t.ctl.tvec ≠ 0 → s.t.ctl.inh = false →
    ∃ t, exec .queueStallTimeout s = .next t ∧ t.stalled = false ∧ t.t.pc = s.t.ctl.tvec ∧ t.t.ctl.tcause = 1 ∧ t.t.ctl.tval = BitVec.ofNat 64 k ∧
      t.t.ctl.telem = 0 ∧ t.t.ctl.tpc = e.pc ∧ t.t.ctl.inh = true) ∧
  (∀ (tr : Trap) (s : State), s.t.status = .running → xBusy s = false → s.t.xctx = none →
    exec (.trapEntry tr) s = .next { takeTrap tr s with stalled := false }) ∧
  (∀ (s : State) (tr : Trap) (g : PageGrant), s.t.status = .pageFault tr false → s.codices = [] →
    exec (.pageFaultService (some g)) s = .next { mapPage s s.t.part (pkgOf s.t.core) (tr.tval.toNat % 2 ^ 57) g with
      t := { (mapPage s s.t.part (pkgOf s.t.core) (tr.tval.toNat % 2 ^ 57) g).t with status := .running }, stalled := false }) ∧
  (∀ (s : State) (tr : Trap), s.t.status = .pageFault tr false → xBusy s = false → s.t.xctx = none →
    exec (.pageFaultService none) s =
      .next { takeTrap { tr with cls := 0x04 } (s.updT fun t => { t with status := .running }) with stalled := false }) ∧
  (∀ (lane eg elem : Nat) (sampled : Bool) (s : State), s.t.status = .running →
    exec (.laneReexecute lane eg ⟨sampled, true, elem⟩) s =
      .next { (logError s (dieOf s.t.core) 0 (if sampled then 0x03 else 0x02) (laneUnit s.t.core (lane % lanesOf s.t.core)) s.t.part 0) with
        stalled := false } ∧
    (s.t.xctx = none → s.t.vq = [] → s.t.xdec = [] → runningLanes s = [] →
      ∃ t u, exec (.laneReexecute lane eg ⟨sampled, false, elem⟩) s = .next t ∧ t.stalled = false ∧
        t.t.status = .ending 1 (if sampled then 0x11 else 0x12) u 0)) ∧
  (∀ (s : State), (∀ (pa len : Nat), ∃ t, exec (.scrub (.memory pa len)) s = .next t ∧ t.stalled = false ∧ t.t = s.t ∧
      ∀ i < len, pa + i ∈ t.poison) ∧
    (∀ (unit addr : Nat) (slot : Option Nat), exec (.scrub (.corrected unit addr slot)) s =
      .next { (logError s (unitDie s unit) 0 0x01 unit (ownerTag s unit addr slot) addr) with stalled := false }) ∧
    (∀ (place index addr : Nat), exec (.scrub (.correctedCache place index addr)) s =
      .next { (logError s (cacheDie place) 0 0x01 0 (cacheOwner s place index) addr) with stalled := false }) ∧
    (∀ (core entry addr : Nat) (e : FolioEntry), folioAt s core entry = some e → exec (.scrub (.correctedFolio core entry addr)) s =
      .next { (logError s (dieOf core) 0 0x01 (laneUnit core 0) e.part addr) with stalled := false }) ∧
    exec (.scrub .horsil) s = .next { (logError s (pkgOf s.t.core * 8) 0 0x05 0 horsilPart 0) with stalled := false }) ∧
  (∀ (s : State) (die cls event unit part addr : Nat), (s.errLog.filter fun x => x.die == die).length < 4096 → cls < 256 → event < 256 →
    ∃ e, (logError s die cls event unit part addr).errLog = s.errLog ++ [e] ∧ e.die = die ∧ e.word0.toNat / 2 ^ 56 = cls ∧
      e.word0.toNat / 2 ^ 48 % 2 ^ 8 = event ∧ e.word0.toNat / 2 ^ 32 % 2 ^ 16 = unit % 2 ^ 16 ∧ e.word1.toNat = addr % 2 ^ 57)

/-- R25 to R27, R87, R158, R366, R386, R397, R449 to R468. Where tables and pages may lie is log 15 (DESIGN CHOICE), how the boot record and a
package's start are held and what power loss leaves log 26 (DEDUCED), what a codex's bytes hold and what Horsil answers to it log 27 (DEDUCED),
REFUSED with 7 for units that do not fit log 28 (DEDUCED), what a control program's access answers and publishes log 33 (DESIGN CHOICE). -/
def Obligations.MachineEvents : Prop :=
  (∀ (die line : Nat) (s : State), ∃ t, exec (.dieCacheEvict die line) s = .next t ∧ t.stalled = false ∧ t.t = s.t ∧
    ∀ n ∈ t.narrow, ¬(n.key / 128 = line ∧ n.die = die)) ∧
  (∀ (part pkg : Nat) (s : State), ∃ t, exec (.tlbShootdown part pkg) s = .next t ∧ t.stalled = false ∧ t.t = s.t ∧ t.home = s.home ∧
    ∀ x ∈ t.tlbs, ∀ e ∈ x.entries, ¬(e.part = part ∧ e.pkg = pkg)) ∧
  (∀ (part pkg newPa at_ e old size : Nat) (va : Word) (s : State), leafOf s part pkg va = some (at_, e, old, size) →
    (moveOk s part pkg (va.toNat / size * size % 2 ^ 57) newPa size old (field e 3 3 == 1) = true → s.moves = [] → exec (.pageMigration part pkg va newPa) s = .next { s with
      moves := [{ part := part, pkg := pkg, va := BitVec.ofNat 64 (va.toNat / size * size), newPa := newPa }], stalled := false }) ∧
    ∀ mv, (s.moves.find? fun m => m.part == part && m.pkg == pkg && m.va.toNat == va.toNat / size * size) = some mv →
      (moveOk { s with moves := s.moves.erase mv } part pkg (mv.va.toNat % 2 ^ 57) mv.newPa size old (field e 3 3 == 1) = false →
        exec (.pageSwitch part pkg va) s = .next { s with moves := s.moves.erase mv, stalled := false }) ∧
      (moveOk { s with moves := s.moves.erase mv } part pkg (mv.va.toNat % 2 ^ 57) mv.newPa size old (field e 3 3 == 1) = true →
      mv.newPa + size ≤ old ∨ old + size ≤ mv.newPa → at_ + 8 ≤ mv.newPa ∨ mv.newPa + size ≤ at_ → s.home.wf = true → s.zblocks = [] →
      (∀ x ∈ allThreads s, x.mq = []) →
      ∃ t, exec (.pageSwitch part pkg va) s = .next t ∧ t.stalled = false ∧ t.moves = s.moves.erase mv ∧
        (∀ x ∈ t.tlbs, ∀ e ∈ x.entries, ¬(e.part = part ∧ e.pkg = pkg)) ∧
        ∀ i < size, (at_ + 8 ≤ old + i ∨ old + i < at_) → t.home.read (mv.newPa + i) = s.home.read (old + i))) ∧
  (∀ (path : Path) (demands : List (Nat × Nat)) (s : State), 
    let units := fun (part : Nat) => ((partOf s part).map fun p => unitsOn p path).getD 0
    let l := arbitrate (demands.map fun d => { part := d.1, demand := d.2, units := units d.1, got := 0 })
    exec (.pathArbitration path demands) s = .next { s with
      arbiter := (path, l.map fun x => (x.part, x.got)) :: s.arbiter.filter (fun a => a.1 != path), stalled := false }) ∧
  (∀ l : List PathShare, (l.map PathShare.part).Nodup → (l.map PathShare.units).sum ≤ 64 →
    (arbitrate l).map PathShare.part = l.map PathShare.part ∧ ((arbitrate l).map PathShare.got).sum ≤ 64 ∧
    ∀ x ∈ arbitrate l, x.got ≤ x.demand ∧ min x.demand x.units ≤ x.got) ∧
  (∀ (area : Word) (s : State), canonical area = true → area.toNat % 64 = 0 → s.t.status.live = true → (∀ x ∈ s.parked, x.status.live = true → teamMate s.t x = false) → s.t.mq = [] →
    hasCommands s s.t.uid = false → hasPuts s s.t.uid = false → drainsPool s s.t.uid = false →
    (∀ p ∈ s.pools, ∀ k ∈ p.takes, k.uid ≠ s.t.uid) →
    ∃ t v, exec (.preempt s.t.uid area) s = .next t ∧ t.stalled = false ∧ t.t = Thread.blank ∧ t.saved = s.saved ++ [v] ∧
      v.th.uid = s.t.uid ∧ v.th.s = s.t.s ∧ v.th.pc = s.t.pc ∧ v.th.ctl = s.t.ctl ∧ v.quad = quadOf s.t.core ∧ v.area = area ∧
      ∀ p ∈ t.parts, p.slot = s.t.part → ∃ g ∈ p.guards, g.pkg = pkgOf s.t.core ∧ g.base = area.toNat ∧ 2048 ≤ g.size) ∧
  (∀ (s : State) (v : Saved) (p : Partition) (quad : Nat) (l : List (Nat × Nat)), s.saved = [v] → (∀ x ∈ allThreads s, x.uid ≠ v.th.uid) →
    partOf s v.th.part = some p → quad ∈ p.quads → quad / 96 = v.quad / 96 →
    assignCores s [v] [v.th.tci] ((List.range 4).map (quad * 4 + ·)) = some l →
    ∃ t th, exec (.preemptResume v.th.uid quad) s = .next t ∧ t.stalled = false ∧ t.saved = [] ∧ th ∈ allThreads t ∧ th.uid = v.th.uid ∧
      th.core = (assoc l v.th.tci).getD 0 ∧ th.slot = v.th.slot ∧ th.s = v.th.s ∧ th.pc = v.th.pc ∧ th.ctl = v.th.ctl) ∧
  (∀ (part pkg : Nat) (va : Word) (s : State), ∃ t, exec (.codePageHashFail part pkg va) s = .next t ∧ t.stalled = false ∧
    (part, pkg, va.toNat / 2 ^ 16 * 2 ^ 16) ∈ t.badPages ∧
    (s.t.status = .running → s.t.uid ≠ 0 → (∃ c ∈ s.codices, c.part = part ∧ c.codeBase.toNat / 2 ^ 16 * 2 ^ 16 ≤ va.toNat / 2 ^ 16 * 2 ^ 16 ∧
      va.toNat / 2 ^ 16 * 2 ^ 16 < c.codeBase.toNat + c.code.length ∧ s.t.launch ∈ c.launches) → t.t.status = .ending 1 0x0E 0 0)) ∧
  (∀ (part : Nat) (s : State), ∃ t, exec (.tetherPeerEnd part) s = .next t ∧ t.stalled = false ∧ (∀ p ∈ t.parts, p.slot = part → p.ended = true) ∧
    ∀ x ∈ t.tethers, x.receiver = part ∨ x.sender = part → x.ended = true) ∧
  (∀ (part : Nat) (f : CodexFile) (s : State), horsilRuns s f.pkg = true →
    (hostPort s f.pkg = true → exec (.hostMailboxRequest (.codex part f)) s = exec (.codexLoad part f) s) ∧
    (partLives s part = false ∨ codexImages s f = none → exec (.codexLoad part f) s = .next { s with replies := s.replies ++ [(4, 0)], stalled := false }) ∧
    ∀ p m, partOf s part = some p → p.ended = false → codexImages s f = some m →
      (placesOk s p f m = false → exec (.codexLoad part f) s = .next { s with replies := s.replies ++ [(3, 0)], stalled := false }) ∧
      (placesOk s p f m = true → ∃ t c, exec (.codexLoad part f) s = .next t ∧ t.stalled = false ∧ t.t = s.t ∧ t.replies = s.replies ++ [(0, 0)] ∧
        t.codices = s.codices ++ [c] ∧ c.part = part ∧ c.codeBase = f.codeBase ∧ c.launches = [] ∧ c.control = sectionBytes f 1 ∧
        ∀ k ∈ partPkgs p, (bootOf t k).mlog = (bootOf s k).mlog ++ [(2, Config.sm3 f.bytes)])) ∧
  (∀ (n : BitVec 16) (c : Call) (s : State), hostPort s c.pkg = true →
    exec (.hostMailboxRequest (.service n.toNat c)) s = exec (.unknownService n c) s) ∧
  (∀ (c : Call) (s s1 : State), horsilRuns s c.pkg = true → partLives s c.part = true →
    (∀ ks, controlKeys (Call.who c) c.a0 c.bytes.length 0 s = (.ok ks, s1) → exec (.hostMailboxRequest (.controlStore c)) s =
      .next { (engineWrite s1 c.pkg (ks.zip c.bytes)).1 with
        replies := (engineWrite s1 c.pkg (ks.zip c.bytes)).1.replies ++ [(0, 0)], stalled := false }) ∧
    ∀ size bs, dieReadBytes (Call.who c) c.a0 (min size 8) 0 s = (.ok bs, s1) →
      exec (.hostMailboxRequest (.controlLoad c size)) s =
        .next { s1 with replies := s1.replies ++ [(0, BitVec.ofNat 64 (leNat bs))], stalled := false }) ∧
  (∀ (q : QuoteAsk) (s : State), horsilRuns s q.pkg = true → ∃ t, exec (.quoteRequest q) s = .next t ∧ t.stalled = false ∧ t.t = s.t ∧
    t.home = s.home ∧ (∀ k ≠ q.pkg, bootOf t k = bootOf s k) ∧ bootOf t q.pkg = { bootOf s q.pkg with
      quotes := (bootOf s q.pkg).quotes ++ [quoteBytes q.pkg (natLe 32 q.nonce.toNat) (bootOf s q.pkg)] }) ∧
  (∀ (p : PartitionSpec) (s : State), (∀ q ∈ p.quads, horsilRuns s (q / 96) = true) → partitionOk s p = true →
    (unitsOk s p.slot p.units = false → exec (.partitionCreate p) s = .next { s with replies := s.replies ++ [(4, 7)], stalled := false }) ∧
    (unitsOk s p.slot p.units = true → ∃ t q, exec (.partitionCreate p) s = .next t ∧ t.stalled = false ∧ t.t = s.t ∧
      t.replies = s.replies ++ [(0, 0)] ∧ partOf t p.slot = some q ∧ q.quads = p.quads ∧ q.roots = p.roots ∧ q.units = p.units ∧
      q.catBase = p.catBase ∧ q.catSize = p.catSize ∧ q.tc = 0 ∧ q.ended = false)) ∧
  (∀ (part units : Nat) (path : Path) (s : State), horsilRuns s (pathPkg path) = true → partLives s part = true →
    (64 < unitsOthers s part path + units →
      exec (.partitionResize part path units) s = .next { s with replies := s.replies ++ [(4, 7)], stalled := false }) ∧
    (unitsOthers s part path + units ≤ 64 → ∃ t q, exec (.partitionResize part path units) s = .next t ∧ t.stalled = false ∧
      t.replies = s.replies ++ [(0, 0)] ∧ partOf t part = some q ∧ unitsOn q path = units)) ∧
  (∀ (o : StartOutcome) (s : State),
    let b := bootOf s o.pkg
    let result := fun (c : Boot) => (unitsAt c.present b.step).getLast?
    (b.running = false → b.stopped = true → ∃ t, exec (.packageStart o) s = .next t ∧ t.stalled = false ∧ t.t = s.t ∧ t.home = s.home ∧
      (∀ k ≠ o.pkg, bootOf t k = bootOf s k) ∧ bootOf t o.pkg = b.restart) ∧
    ∀ k, b.running = true → b.step < 10 → stepSetting b = some k → b.unit = (unitsAt b.present b.step).length → b.unit < stepUnits b.step →
      ∃ t, exec (.packageStart o) s = .next t ∧ t.stalled = false ∧ t.t = s.t ∧ t.home = s.home ∧ (∀ k ≠ o.pkg, bootOf t k = bootOf s k) ∧
        result (bootOf t o.pkg) = some { setting := k, ok := stepWorks b.step o } ∧
        (stepUnits b.step = 1 → stepRequired b.step = true → stepWorks b.step o = false →
          (bootOf t o.pkg).stopped = true ∧ (bootOf t o.pkg).running = false) ∧
        (stepWorks b.step o = true → b.unit + 1 = stepUnits b.step → (bootOf t o.pkg).step = b.step + 1 ∧ (bootOf t o.pkg).unit = 0) ∧
        (∀ r, stepWorks b.step o = true → stepRegister b.step = some r →
          (bootOf t o.pkg).mlog = b.mlog ++ [(r, Config.sm3 o.image)])) ∧
  (∀ s : State, ∃ t, exec .powerLoss s = .next t ∧ t.stalled = false ∧ t.home = [] ∧ t.parts = [] ∧ t.t = Thread.blank ∧
    ∀ x ∈ s.boots, let b := bootOf t x.1
      b.running = true ∧ b.step = 0 ∧ b.keys = (bootOf s x.1).keys ∧ b.secrets = (bootOf s x.1).secrets ∧ b.record.length ≤ 8 ∧
        b.record.getLast? = some []) ∧
  (∀ s : State, (s.t.status = .running → exec .debugStep s = .next { s with t := { s.t with status := .halted, stepping := false }, stalled := false }) ∧
    (s.t.status = .halted → exec .debugStep s = .next { s with t := { s.t with status := .running, stepping := true }, stalled := false }))

/-- R117, R125 to R128, R139, R141. -/
def Obligations.EncodeDecodeRoundTrip : Prop :=
  (∀ (i : Instr) (fl : SeqFlag) (h : BitVec 16) (w : BitVec 64), wf i = true → fl.wf = true → encode i fl = some (h, w) →
    decode h w = some (i, fl)) ∧
  ∀ (h : BitVec 16) (w : BitVec 64) (i : Instr) (fl : SeqFlag), decode h w = some (i, fl) → wf i = true ∧ fl.wf = true

/-- R117 to R119, R126 to R128, R139. The words are numbered as the opcode table numbers them: the head is bits 15 to 0. -/
def Obligations.EncodedWords : Prop :=
  decodeTableWord 16 0x0100 = some .nop ∧
  decodeTableWord 32 0x0C224200 = some (.add { fd := 3, fa := 1, fb := 2 }) ∧
  decodeTableWord 48 0x008800239000 = some (.beq { fa := 1, fb := 2, ld := 1, hd := 3 }) ∧
  decodeTableWord 48 0x020800089803 = some (.ldS64 { fd := 4, fa := 2, imm := 8 }) ∧
  decodeTableWord 48 0x01000443A100 = some (.vadd { ty := 2, ca := false, msk := 0, vd := 1, va := 2, src := .vec 3 false }) ∧
  decodeTableWord 80 0x0000000002800001C900 = some (.limm { fd := 5, imm := 1 }) ∧
  decodeTableWord 80 0x0000000000880300FC00 = some (.xcopy { fd := 1, fa := 2, fb := 0, fc := 3, sc := 0, imm := 0 }) ∧
  decodeTableWord 32 0x00004600 = none ∧ decodeTableWord 48 0x708800239000 = none ∧ decodeTableWord 32 0x8C224200 = none ∧
  ∀ (h : BitVec 16) (w : BitVec 64), h.extractLsb' 8 8 ≠ 0 → w.toNat < 2 ^ (16 * tailLen (h.extractLsb' 14 2).toNat) →
    lineHeads (oneLine h w) = .ok [(h, w)]

/-- R186, R464; logs 1 and 2 for the registers of an unused slot and for unwritten memory. -/
def Obligations.ResetState : Prop :=
  let r := State.reset
  r.memoryOk = true ∧ r.home = [] ∧ (∀ k, let b := bootOf r k
    b.running = true ∧ b.stopped = false ∧ b.step = 0 ∧ b.record = [[]] ∧ b.mlog = [] ∧ b.keys = [] ∧ ∀ i < 8, b.m.toList.getD i 1 = 0) ∧ r.parts = [] ∧ r.tethers = [] ∧ r.launches = [] ∧ r.pools = [] ∧
    r.views = [] ∧ r.cmds = [] ∧ r.errLog = [] ∧ r.t.status = .free ∧ r.parked = [] ∧ r.t.ctl = Ctl.start ∧ Ctl.start.ok = true ∧
    (∀ k < 4, readCr r.t (0x030 + k) = 64) ∧ (∀ c : Nat, c ∉ [0x030, 0x031, 0x032, 0x033] → readCr r.t c = 0) ∧
    ∀ q : BitVec 5, getS r q = 0

/-- The model's own form of memory (log 2), kept by whatever a step does; ResetState says that it holds at reset. -/
def Obligations.MemoryStaysCanonical : Prop :=
  ∀ s t : State, s.memoryOk = true → step s = .next t → t.memoryOk = true

/-- R179. bq holds 16 bits (R79). -/
def Obligations.BqputPushesOneBit : Prop :=
  (∀ o : Q3, wf (.bqput o) = decide (o.fd = 0 ∧ o.fb = 0) ∧ ((encode (.bqput o) .none).map Prod.fst = some 0x4007) ∧
    ∀ h w, encode (.bqput o) .none = some (h, w) → w.extractLsb' 5 5 = o.fa ∧ w.extractLsb' 10 5 = o.fd ∧ w.extractLsb' 0 5 = o.fb) ∧
  ∀ (o : Q3) (s : State), settledFor [o.fa] s →
    (s.t.bq.length < 16 → getS s o.fa ≠ 0 → exec (.bqput o) s = .next (passed (s.updT fun t => { t with bq := t.bq ++ [true] }))) ∧
    (s.t.bq.length < 16 → getS s o.fa = 0 → exec (.bqput o) s = .next (passed (s.updT fun t => { t with bq := t.bq ++ [false] }))) ∧
    (16 ≤ s.t.bq.length → exec (.bqput o) s = .next { s with stalled := true })

/-- R170, with R122 for the next PC and R123 for the target. -/
def Obligations.JalLinksAndJumps : Prop :=
  (∀ o : WJ, ((encode (.jal o) .none).map Prod.fst = some 0x9100) ∧ -131072 ≤ o.ld.toInt ∧ o.ld.toInt ≤ 131071 ∧
    ∀ h w, encode (.jal o) .none = some (h, w) → w.extractLsb' 23 5 = o.fd ∧ w.extractLsb' 5 18 = o.ld ∧ w.extractLsb' 0 5 = o.hd) ∧
  ∀ (o : WJ) (s : State),
    exec (.jal o) s = .next { jumpTo (setS s o.fd (pcAfter s))
      (BitVec.ofInt 64 ((s.t.pc.toNat / 64 * 64 : Nat) + o.ld.toInt * 64 + 2 * o.hd.toNat)) with stalled := false }
end

