-- ==== Sys2Proof/Laws/Encoding.lean ====
section
/-! SUPPORT. The formats read back what they encode (R126): the fields of each format's bits, and one lemma per format that
says which operands the decoder reads from those bits. -/

namespace Sys2Proof

/-- A field of a field. -/
theorem extract_within (w : BitVec 64) (a n b m : Nat) (h : b + m ≤ n) :
    (w.extractLsb' a n).extractLsb' b m = w.extractLsb' (a + b) m := by
  ext i hi
  have : b + i < n := by omega
  simp [BitVec.getElem_extractLsb', this, Nat.add_assoc]

/-- A field inside the low bits of a tail whose low bits are known. -/
theorem extract_low (w : BitVec 64) (n : Nat) (e : BitVec n) (h : w.extractLsb' 0 n = e) (b m : Nat) (hb : b + m ≤ n) :
    w.extractLsb' b m = e.extractLsb' b m := by
  rw [← h, extract_within w 0 n b m hb, Nat.zero_add]

/-- A single bit as a one-bit field. -/
theorem getLsbD_of_extract (w : BitVec 64) (b : Nat) (c : Bool) (h : w.extractLsb' b 1 = BitVec.ofBool c) : w.getLsbD b = c := by
  have h0 := congrArg (fun x : BitVec 1 => x.getLsbD 0) h
  simpa using h0

theorem Q3.enc_z (o : Q3) : o.enc.extractLsb' 15 1 = 0 := by
  ext i hi
  simp only [Q3.enc, BitVec.getElem_extractLsb', BitVec.getLsbD_append]
  interval_cases i <;> simp

theorem Q3.enc_fd (o : Q3) : o.enc.extractLsb' 10 5 = o.fd := by
  ext i hi
  simp only [Q3.enc, BitVec.getElem_extractLsb', BitVec.getLsbD_append]
  interval_cases i <;> simp

theorem Q3.enc_fa (o : Q3) : o.enc.extractLsb' 5 5 = o.fa := by
  ext i hi
  simp only [Q3.enc, BitVec.getElem_extractLsb', BitVec.getLsbD_append]
  interval_cases i <;> simp

theorem Q3.enc_fb (o : Q3) : o.enc.extractLsb' 0 5 = o.fb := by
  ext i hi
  simp only [Q3.enc, BitVec.getElem_extractLsb', BitVec.getLsbD_append]
  interval_cases i <;> simp

theorem QC.enc_fd (o : QC) : o.enc.extractLsb' 11 5 = o.fd := by
  ext i hi
  simp only [QC.enc, BitVec.getElem_extractLsb', BitVec.getLsbD_append]
  interval_cases i <;> simp

theorem QC.enc_crn (o : QC) : o.enc.extractLsb' 0 11 = o.crn := by
  ext i hi
  simp only [QC.enc, BitVec.getElem_extractLsb', BitVec.getLsbD_append]
  interval_cases i <;> simp

theorem QI.enc_imm (o : QI) : o.enc.extractLsb' 0 16 = o.imm := by
  ext i hi
  simp only [QI.enc, BitVec.getElem_extractLsb', BitVec.getLsbD_append]
  interval_cases i <;> simp

theorem QN.enc_z (o : QN) : o.enc.extractLsb' 8 8 = 0 := by
  ext i hi
  simp only [QN.enc, BitVec.getElem_extractLsb', BitVec.getLsbD_append]
  interval_cases i <;> simp

theorem QN.enc_cnt (o : QN) : o.enc.extractLsb' 0 8 = o.cnt := by
  ext i hi
  simp only [QN.enc, BitVec.getElem_extractLsb', BitVec.getLsbD_append]
  interval_cases i <;> simp

theorem W4.enc_fd (o : W4) : o.enc.extractLsb' 23 5 = o.fd := by
  ext i hi
  simp only [W4.enc, BitVec.getElem_extractLsb', BitVec.getLsbD_append]
  interval_cases i <;> simp

theorem W4.enc_fa (o : W4) : o.enc.extractLsb' 18 5 = o.fa := by
  ext i hi
  simp only [W4.enc, BitVec.getElem_extractLsb', BitVec.getLsbD_append]
  interval_cases i <;> simp

theorem W4.enc_fb (o : W4) : o.enc.extractLsb' 13 5 = o.fb := by
  ext i hi
  simp only [W4.enc, BitVec.getElem_extractLsb', BitVec.getLsbD_append]
  interval_cases i <;> simp

theorem W4.enc_fc (o : W4) : o.enc.extractLsb' 8 5 = o.fc := by
  ext i hi
  simp only [W4.enc, BitVec.getElem_extractLsb', BitVec.getLsbD_append]
  interval_cases i <;> simp

theorem W4.enc_ty (o : W4) : o.enc.extractLsb' 3 5 = o.ty := by
  ext i hi
  simp only [W4.enc, BitVec.getElem_extractLsb', BitVec.getLsbD_append]
  interval_cases i <;> simp

theorem W4.enc_sc (o : W4) : o.enc.extractLsb' 0 3 = o.sc := by
  ext i hi
  simp only [W4.enc, BitVec.getElem_extractLsb', BitVec.getLsbD_append]
  interval_cases i <;> simp

theorem WI.enc_fd (o : WI) : o.enc.extractLsb' 23 5 = o.fd := by
  ext i hi
  simp only [WI.enc, BitVec.getElem_extractLsb', BitVec.getLsbD_append]
  interval_cases i <;> simp

theorem WI.enc_fa (o : WI) : o.enc.extractLsb' 18 5 = o.fa := by
  ext i hi
  simp only [WI.enc, BitVec.getElem_extractLsb', BitVec.getLsbD_append]
  interval_cases i <;> simp

theorem WI.enc_imm (o : WI) : o.enc.extractLsb' 0 18 = o.imm := by
  ext i hi
  simp only [WI.enc, BitVec.getElem_extractLsb', BitVec.getLsbD_append]
  interval_cases i <;> simp

theorem WB.enc_fa (o : WB) : o.enc.extractLsb' 23 5 = o.fa := by
  ext i hi
  simp only [WB.enc, BitVec.getElem_extractLsb', BitVec.getLsbD_append]
  interval_cases i <;> simp

theorem WB.enc_fb (o : WB) : o.enc.extractLsb' 18 5 = o.fb := by
  ext i hi
  simp only [WB.enc, BitVec.getElem_extractLsb', BitVec.getLsbD_append]
  interval_cases i <;> simp

theorem WB.enc_ld (o : WB) : o.enc.extractLsb' 5 13 = o.ld := by
  ext i hi
  simp only [WB.enc, BitVec.getElem_extractLsb', BitVec.getLsbD_append]
  interval_cases i <;> simp

theorem WB.enc_hd (o : WB) : o.enc.extractLsb' 0 5 = o.hd := by
  ext i hi
  simp only [WB.enc, BitVec.getElem_extractLsb', BitVec.getLsbD_append]
  interval_cases i <;> simp

theorem WJ.enc_fd (o : WJ) : o.enc.extractLsb' 23 5 = o.fd := by
  ext i hi
  simp only [WJ.enc, BitVec.getElem_extractLsb', BitVec.getLsbD_append]
  interval_cases i <;> simp

theorem WJ.enc_ld (o : WJ) : o.enc.extractLsb' 5 18 = o.ld := by
  ext i hi
  simp only [WJ.enc, BitVec.getElem_extractLsb', BitVec.getLsbD_append]
  interval_cases i <;> simp

theorem WJ.enc_hd (o : WJ) : o.enc.extractLsb' 0 5 = o.hd := by
  ext i hi
  simp only [WJ.enc, BitVec.getElem_extractLsb', BitVec.getLsbD_append]
  interval_cases i <;> simp

theorem WL.enc_z (o : WL) : o.enc.extractLsb' 23 2 = 0 := by
  ext i hi
  simp only [WL.enc, BitVec.getElem_extractLsb', BitVec.getLsbD_append]
  interval_cases i <;> simp

theorem WL.enc_msk (o : WL) : o.enc.extractLsb' 25 3 = o.msk := by
  ext i hi
  simp only [WL.enc, BitVec.getElem_extractLsb', BitVec.getLsbD_append]
  interval_cases i <;> simp

theorem WL.enc_ld (o : WL) : o.enc.extractLsb' 5 18 = o.ld := by
  ext i hi
  simp only [WL.enc, BitVec.getElem_extractLsb', BitVec.getLsbD_append]
  interval_cases i <;> simp

theorem WL.enc_hd (o : WL) : o.enc.extractLsb' 0 5 = o.hd := by
  ext i hi
  simp only [WL.enc, BitVec.getElem_extractLsb', BitVec.getLsbD_append]
  interval_cases i <;> simp

theorem WM.enc_z (o : WM) : o.enc.extractLsb' 15 4 = 0 := by
  ext i hi
  simp only [WM.enc, BitVec.getElem_extractLsb', BitVec.getLsbD_append]
  interval_cases i <;> simp

theorem WM.enc_ty (o : WM) : o.enc.extractLsb' 23 5 = o.ty := by
  ext i hi
  simp only [WM.enc, BitVec.getElem_extractLsb', BitVec.getLsbD_append]
  interval_cases i <;> simp

theorem WM.enc_msk (o : WM) : o.enc.extractLsb' 20 3 = o.msk := by
  ext i hi
  simp only [WM.enc, BitVec.getElem_extractLsb', BitVec.getLsbD_append]
  interval_cases i <;> simp

theorem WM.enc_cv (o : WM) : o.enc.extractLsb' 19 1 = BitVec.ofBool o.cv := by
  ext i hi
  simp only [WM.enc, BitVec.getElem_extractLsb', BitVec.getLsbD_append]
  interval_cases i <;> simp

theorem WM.enc_vd (o : WM) : o.enc.extractLsb' 10 5 = o.vd := by
  ext i hi
  simp only [WM.enc, BitVec.getElem_extractLsb', BitVec.getLsbD_append]
  interval_cases i <;> simp

theorem WM.enc_sa (o : WM) : o.enc.extractLsb' 5 5 = o.sa := by
  ext i hi
  simp only [WM.enc, BitVec.getElem_extractLsb', BitVec.getLsbD_append]
  interval_cases i <;> simp

theorem WM.enc_xb (o : WM) : o.enc.extractLsb' 0 5 = o.xb := by
  ext i hi
  simp only [WM.enc, BitVec.getElem_extractLsb', BitVec.getLsbD_append]
  interval_cases i <;> simp

theorem WX.enc_z (o : WX) : o.enc.extractLsb' 0 4 = 0 := by
  ext i hi
  simp only [WX.enc, BitVec.getElem_extractLsb', BitVec.getLsbD_append]
  interval_cases i <;> simp

theorem WX.enc_ty (o : WX) : o.enc.extractLsb' 23 5 = o.ty := by
  ext i hi
  simp only [WX.enc, BitVec.getElem_extractLsb', BitVec.getLsbD_append]
  interval_cases i <;> simp

theorem WX.enc_ad (o : WX) : o.enc.extractLsb' 22 1 = o.ad := by
  ext i hi
  simp only [WX.enc, BitVec.getElem_extractLsb', BitVec.getLsbD_append]
  interval_cases i <;> simp

theorem WX.enc_ta (o : WX) : o.enc.extractLsb' 20 2 = o.ta := by
  ext i hi
  simp only [WX.enc, BitVec.getElem_extractLsb', BitVec.getLsbD_append]
  interval_cases i <;> simp

theorem WX.enc_tb (o : WX) : o.enc.extractLsb' 18 2 = o.tb := by
  ext i hi
  simp only [WX.enc, BitVec.getElem_extractLsb', BitVec.getLsbD_append]
  interval_cases i <;> simp

theorem WX.enc_vs (o : WX) : o.enc.extractLsb' 13 5 = o.vs := by
  ext i hi
  simp only [WX.enc, BitVec.getElem_extractLsb', BitVec.getLsbD_append]
  interval_cases i <;> simp

theorem WX.enc_sk (o : WX) : o.enc.extractLsb' 8 5 = o.sk := by
  ext i hi
  simp only [WX.enc, BitVec.getElem_extractLsb', BitVec.getLsbD_append]
  interval_cases i <;> simp

theorem WX.enc_msk (o : WX) : o.enc.extractLsb' 5 3 = o.msk := by
  ext i hi
  simp only [WX.enc, BitVec.getElem_extractLsb', BitVec.getLsbD_append]
  interval_cases i <;> simp

theorem WX.enc_cv (o : WX) : o.enc.extractLsb' 4 1 = BitVec.ofBool o.cv := by
  ext i hi
  simp only [WX.enc, BitVec.getElem_extractLsb', BitVec.getLsbD_append]
  interval_cases i <;> simp

theorem WV.enc_z (o : WV) : o.enc.extractLsb' 15 1 = 0 := by
  ext i hi
  simp only [WV.enc, BitVec.getElem_extractLsb', BitVec.getLsbD_append]
  interval_cases i <;> simp

theorem WV.enc_ty (o : WV) : o.enc.extractLsb' 23 5 = o.ty := by
  ext i hi
  simp only [WV.enc, BitVec.getElem_extractLsb', BitVec.getLsbD_append]
  interval_cases i <;> simp

theorem WV.enc_fm (o : WV) : o.enc.extractLsb' 21 2 = o.src.fm := by
  ext i hi
  simp only [WV.enc, BitVec.getElem_extractLsb', BitVec.getLsbD_append]
  interval_cases i <;> simp

theorem WV.enc_ca (o : WV) : o.enc.extractLsb' 20 1 = BitVec.ofBool o.ca := by
  ext i hi
  simp only [WV.enc, BitVec.getElem_extractLsb', BitVec.getLsbD_append]
  interval_cases i <;> simp

theorem WV.enc_cb (o : WV) : o.enc.extractLsb' 19 1 = BitVec.ofBool o.src.cb := by
  ext i hi
  simp only [WV.enc, BitVec.getElem_extractLsb', BitVec.getLsbD_append]
  interval_cases i <;> simp

theorem WV.enc_msk (o : WV) : o.enc.extractLsb' 16 3 = o.msk := by
  ext i hi
  simp only [WV.enc, BitVec.getElem_extractLsb', BitVec.getLsbD_append]
  interval_cases i <;> simp

theorem WV.enc_vd (o : WV) : o.enc.extractLsb' 10 5 = o.vd := by
  ext i hi
  simp only [WV.enc, BitVec.getElem_extractLsb', BitVec.getLsbD_append]
  interval_cases i <;> simp

theorem WV.enc_va (o : WV) : o.enc.extractLsb' 5 5 = o.va := by
  ext i hi
  simp only [WV.enc, BitVec.getElem_extractLsb', BitVec.getLsbD_append]
  interval_cases i <;> simp

theorem WV.enc_vb (o : WV) : o.enc.extractLsb' 0 5 = o.src.vb := by
  ext i hi
  simp only [WV.enc, BitVec.getElem_extractLsb', BitVec.getLsbD_append]
  interval_cases i <;> simp

theorem LE.enc_z (o : LE) : o.enc.extractLsb' 0 5 = 0 := by
  ext i hi
  simp only [LE.enc, BitVec.getElem_extractLsb', BitVec.getLsbD_append]
  interval_cases i <;> simp

theorem LE.enc_fd (o : LE) : o.enc.extractLsb' 23 5 = o.fd := by
  ext i hi
  simp only [LE.enc, BitVec.getElem_extractLsb', BitVec.getLsbD_append]
  interval_cases i <;> simp

theorem LE.enc_fa (o : LE) : o.enc.extractLsb' 18 5 = o.fa := by
  ext i hi
  simp only [LE.enc, BitVec.getElem_extractLsb', BitVec.getLsbD_append]
  interval_cases i <;> simp

theorem LE.enc_fb (o : LE) : o.enc.extractLsb' 13 5 = o.fb := by
  ext i hi
  simp only [LE.enc, BitVec.getElem_extractLsb', BitVec.getLsbD_append]
  interval_cases i <;> simp

theorem LE.enc_fc (o : LE) : o.enc.extractLsb' 8 5 = o.fc := by
  ext i hi
  simp only [LE.enc, BitVec.getElem_extractLsb', BitVec.getLsbD_append]
  interval_cases i <;> simp

theorem LE.enc_sc (o : LE) : o.enc.extractLsb' 5 3 = o.sc := by
  ext i hi
  simp only [LE.enc, BitVec.getElem_extractLsb', BitVec.getLsbD_append]
  interval_cases i <;> simp

theorem QC.dec_of (o : QC) (w : BitVec 64) (h : w.extractLsb' 0 16 = o.enc) : QC.dec w = o := by
  have h_fd := (extract_low w 16 o.enc h 11 5 (by decide)).trans o.enc_fd
  have h_crn := (extract_low w 16 o.enc h 0 11 (by decide)).trans o.enc_crn
  simp only [QC.dec, h_fd, h_crn]

theorem QI.dec_of (o : QI) (w : BitVec 64) (h : w.extractLsb' 0 16 = o.enc) : QI.dec w = o := by
  have h_imm := (extract_low w 16 o.enc h 0 16 (by decide)).trans o.enc_imm
  simp only [QI.dec, h_imm]

theorem W4.dec_of (o : W4) (w : BitVec 64) (h : w.extractLsb' 0 28 = o.enc) : W4.dec w = o := by
  have h_fd := (extract_low w 28 o.enc h 23 5 (by decide)).trans o.enc_fd
  have h_fa := (extract_low w 28 o.enc h 18 5 (by decide)).trans o.enc_fa
  have h_fb := (extract_low w 28 o.enc h 13 5 (by decide)).trans o.enc_fb
  have h_fc := (extract_low w 28 o.enc h 8 5 (by decide)).trans o.enc_fc
  have h_ty := (extract_low w 28 o.enc h 3 5 (by decide)).trans o.enc_ty
  have h_sc := (extract_low w 28 o.enc h 0 3 (by decide)).trans o.enc_sc
  simp only [W4.dec, h_fd, h_fa, h_fb, h_fc, h_ty, h_sc]

theorem WI.dec_of (o : WI) (w : BitVec 64) (h : w.extractLsb' 0 28 = o.enc) : WI.dec w = o := by
  have h_fd := (extract_low w 28 o.enc h 23 5 (by decide)).trans o.enc_fd
  have h_fa := (extract_low w 28 o.enc h 18 5 (by decide)).trans o.enc_fa
  have h_imm := (extract_low w 28 o.enc h 0 18 (by decide)).trans o.enc_imm
  simp only [WI.dec, h_fd, h_fa, h_imm]

theorem WB.dec_of (o : WB) (w : BitVec 64) (h : w.extractLsb' 0 28 = o.enc) : WB.dec w = o := by
  have h_fa := (extract_low w 28 o.enc h 23 5 (by decide)).trans o.enc_fa
  have h_fb := (extract_low w 28 o.enc h 18 5 (by decide)).trans o.enc_fb
  have h_ld := (extract_low w 28 o.enc h 5 13 (by decide)).trans o.enc_ld
  have h_hd := (extract_low w 28 o.enc h 0 5 (by decide)).trans o.enc_hd
  simp only [WB.dec, h_fa, h_fb, h_ld, h_hd]

theorem WJ.dec_of (o : WJ) (w : BitVec 64) (h : w.extractLsb' 0 28 = o.enc) : WJ.dec w = o := by
  have h_fd := (extract_low w 28 o.enc h 23 5 (by decide)).trans o.enc_fd
  have h_ld := (extract_low w 28 o.enc h 5 18 (by decide)).trans o.enc_ld
  have h_hd := (extract_low w 28 o.enc h 0 5 (by decide)).trans o.enc_hd
  simp only [WJ.dec, h_fd, h_ld, h_hd]

theorem Q3.dec_of (o : Q3) (w : BitVec 64) (h : w.extractLsb' 0 16 = o.enc) : Q3.dec w = some o := by
  have h_z := (extract_low w 16 o.enc h 15 1 (by decide)).trans o.enc_z
  have h_fd := (extract_low w 16 o.enc h 10 5 (by decide)).trans o.enc_fd
  have h_fa := (extract_low w 16 o.enc h 5 5 (by decide)).trans o.enc_fa
  have h_fb := (extract_low w 16 o.enc h 0 5 (by decide)).trans o.enc_fb
  simp only [Q3.dec, h_z, h_fd, h_fa, h_fb, if_true]

theorem QN.dec_of (o : QN) (w : BitVec 64) (h : w.extractLsb' 0 16 = o.enc) : QN.dec w = some o := by
  have h_z := (extract_low w 16 o.enc h 8 8 (by decide)).trans o.enc_z
  have h_cnt := (extract_low w 16 o.enc h 0 8 (by decide)).trans o.enc_cnt
  simp only [QN.dec, h_z, h_cnt, if_true]

theorem WL.dec_of (o : WL) (w : BitVec 64) (h : w.extractLsb' 0 28 = o.enc) : WL.dec w = some o := by
  have h_z := (extract_low w 28 o.enc h 23 2 (by decide)).trans o.enc_z
  have h_msk := (extract_low w 28 o.enc h 25 3 (by decide)).trans o.enc_msk
  have h_ld := (extract_low w 28 o.enc h 5 18 (by decide)).trans o.enc_ld
  have h_hd := (extract_low w 28 o.enc h 0 5 (by decide)).trans o.enc_hd
  simp only [WL.dec, h_z, h_msk, h_ld, h_hd, if_true]

theorem WM.dec_of (o : WM) (w : BitVec 64) (h : w.extractLsb' 0 28 = o.enc) : WM.dec w = some o := by
  have h_z := (extract_low w 28 o.enc h 15 4 (by decide)).trans o.enc_z
  have h_ty := (extract_low w 28 o.enc h 23 5 (by decide)).trans o.enc_ty
  have h_msk := (extract_low w 28 o.enc h 20 3 (by decide)).trans o.enc_msk
  have h_cv := (extract_low w 28 o.enc h 19 1 (by decide)).trans o.enc_cv
  have h_vd := (extract_low w 28 o.enc h 10 5 (by decide)).trans o.enc_vd
  have h_sa := (extract_low w 28 o.enc h 5 5 (by decide)).trans o.enc_sa
  have h_xb := (extract_low w 28 o.enc h 0 5 (by decide)).trans o.enc_xb
  have b_cv := getLsbD_of_extract w 19 _ h_cv
  simp only [WM.dec, h_z, h_ty, h_msk, h_vd, h_sa, h_xb, b_cv, if_true]

theorem WX.dec_of (o : WX) (w : BitVec 64) (h : w.extractLsb' 0 28 = o.enc) : WX.dec w = some o := by
  have h_z := (extract_low w 28 o.enc h 0 4 (by decide)).trans o.enc_z
  have h_ty := (extract_low w 28 o.enc h 23 5 (by decide)).trans o.enc_ty
  have h_ad := (extract_low w 28 o.enc h 22 1 (by decide)).trans o.enc_ad
  have h_ta := (extract_low w 28 o.enc h 20 2 (by decide)).trans o.enc_ta
  have h_tb := (extract_low w 28 o.enc h 18 2 (by decide)).trans o.enc_tb
  have h_vs := (extract_low w 28 o.enc h 13 5 (by decide)).trans o.enc_vs
  have h_sk := (extract_low w 28 o.enc h 8 5 (by decide)).trans o.enc_sk
  have h_msk := (extract_low w 28 o.enc h 5 3 (by decide)).trans o.enc_msk
  have h_cv := (extract_low w 28 o.enc h 4 1 (by decide)).trans o.enc_cv
  have b_cv := getLsbD_of_extract w 4 _ h_cv
  simp only [WX.dec, h_z, h_ty, h_ad, h_ta, h_tb, h_vs, h_sk, h_msk, b_cv, if_true]

theorem LE.dec_of (o : LE) (w : BitVec 64) (h : w.extractLsb' 0 28 = o.enc) (hh : w.extractLsb' 32 32 = o.encHigh) :
    LE.dec w = some o := by
  have h_z := (extract_low w 28 o.enc h 0 5 (by decide)).trans o.enc_z
  have h_fd := (extract_low w 28 o.enc h 23 5 (by decide)).trans o.enc_fd
  have h_fa := (extract_low w 28 o.enc h 18 5 (by decide)).trans o.enc_fa
  have h_fb := (extract_low w 28 o.enc h 13 5 (by decide)).trans o.enc_fb
  have h_fc := (extract_low w 28 o.enc h 8 5 (by decide)).trans o.enc_fc
  have h_sc := (extract_low w 28 o.enc h 5 3 (by decide)).trans o.enc_sc
  simp only [LE.dec, hh, LE.encHigh, h_z, h_fd, h_fa, h_fb, h_fc, h_sc, if_true]

theorem LI.dec_of (o : LI) (w : BitVec 64) (h : w.extractLsb' 0 28 = o.enc) (hh : w.extractLsb' 32 32 = o.encHigh) :
    LI.dec w = o := by
  have f1 : o.enc.extractLsb' 23 5 = o.fd := by
    ext i hi
    simp only [LI.enc, BitVec.getElem_extractLsb', BitVec.getLsbD_append]
    interval_cases i <;> simp
  have f2 : o.enc.extractLsb' 0 23 = o.imm.extractLsb' 0 23 := by
    ext i hi
    simp only [LI.enc, BitVec.getElem_extractLsb', BitVec.getLsbD_append]
    interval_cases i <;> simp
  have h1 := (extract_low w 28 o.enc h 23 5 (by decide)).trans f1
  have h2 := (extract_low w 28 o.enc h 0 23 (by decide)).trans f2
  have f3 : (o.imm.extractLsb' 23 32 ++ o.imm.extractLsb' 0 23 : BitVec 55) = o.imm := by
    ext i hi
    simp only [BitVec.getElem_append, BitVec.getElem_extractLsb']
    split
    · simp [BitVec.getLsbD_eq_getElem hi]
    · rw [show 23 + (i - 23) = i by omega, BitVec.getLsbD_eq_getElem hi]
  simp only [LI.dec, h1, h2, hh, LI.encHigh, f3]

theorem LF.dec_of (o : LF) (w : BitVec 64) (h : w.extractLsb' 0 28 = o.enc) (hh : w.extractLsb' 32 32 = o.encHigh) :
    LF.dec w = some o := by
  have g1 : w.extractLsb' 58 6 = o.encHigh.extractLsb' 26 6 := by
    rw [← hh, extract_within w 32 32 26 6 (by decide)]
  have g2 : w.extractLsb' 54 4 = o.encHigh.extractLsb' 22 4 := by
    rw [← hh, extract_within w 32 32 22 4 (by decide)]
  have g3 : w.extractLsb' 32 22 = o.encHigh.extractLsb' 0 22 := by
    rw [← hh, extract_within w 32 32 0 22 (by decide)]
  have f1 : o.encHigh.extractLsb' 26 6 = 0 := by
    ext i hi
    simp only [LF.encHigh, BitVec.getElem_extractLsb', BitVec.getLsbD_append]
    interval_cases i <;> simp
  have f2 : o.encHigh.extractLsb' 22 4 = o.fh := by
    ext i hi
    simp only [LF.encHigh, BitVec.getElem_extractLsb', BitVec.getLsbD_append]
    interval_cases i <;> simp
  have f3 : o.encHigh.extractLsb' 0 22 = o.foff := by
    ext i hi
    simp only [LF.encHigh, BitVec.getElem_extractLsb', BitVec.getLsbD_append]
    interval_cases i <;> simp
  simp only [LF.dec, g1, g2, g3, f1, f2, f3, WM.dec_of o.wm w h, if_true, Option.map_some]

theorem Src2.dec_of (o : WV) (w : BitVec 64) (h : w.extractLsb' 0 28 = o.enc) (hh : w.extractLsb' 32 32 = o.src.imm32) :
    Src2.dec w = some o.src := by
  have h_z := (extract_low w 28 o.enc h 15 1 (by decide)).trans o.enc_z
  have h_ty := (extract_low w 28 o.enc h 23 5 (by decide)).trans o.enc_ty
  have h_fm := (extract_low w 28 o.enc h 21 2 (by decide)).trans o.enc_fm
  have h_ca := (extract_low w 28 o.enc h 20 1 (by decide)).trans o.enc_ca
  have h_cb := (extract_low w 28 o.enc h 19 1 (by decide)).trans o.enc_cb
  have h_msk := (extract_low w 28 o.enc h 16 3 (by decide)).trans o.enc_msk
  have h_vd := (extract_low w 28 o.enc h 10 5 (by decide)).trans o.enc_vd
  have h_va := (extract_low w 28 o.enc h 5 5 (by decide)).trans o.enc_va
  have h_vb := (extract_low w 28 o.enc h 0 5 (by decide)).trans o.enc_vb
  have b_cb := getLsbD_of_extract w 19 _ h_cb
  simp only [Src2.dec, h_fm, h_vb, b_cb, hh]
  cases hs : o.src with
  | vec vb cb => simp [Src2.fm, Src2.vb, Src2.cb]
  | scal sb => simp [Src2.fm, Src2.vb, Src2.cb]
  | imm v => simp [Src2.fm, Src2.vb, Src2.cb, Src2.imm32]
  | queue k => cases k <;> simp [Src2.fm, Src2.vb, Src2.cb]

theorem WV.dec_of (o : WV) (w : BitVec 64) (h : w.extractLsb' 0 28 = o.enc) (hh : w.extractLsb' 32 32 = o.src.imm32) :
    WV.dec w = some o := by
  have h_z := (extract_low w 28 o.enc h 15 1 (by decide)).trans o.enc_z
  have h_ty := (extract_low w 28 o.enc h 23 5 (by decide)).trans o.enc_ty
  have h_fm := (extract_low w 28 o.enc h 21 2 (by decide)).trans o.enc_fm
  have h_ca := (extract_low w 28 o.enc h 20 1 (by decide)).trans o.enc_ca
  have h_cb := (extract_low w 28 o.enc h 19 1 (by decide)).trans o.enc_cb
  have h_msk := (extract_low w 28 o.enc h 16 3 (by decide)).trans o.enc_msk
  have h_vd := (extract_low w 28 o.enc h 10 5 (by decide)).trans o.enc_vd
  have h_va := (extract_low w 28 o.enc h 5 5 (by decide)).trans o.enc_va
  have h_vb := (extract_low w 28 o.enc h 0 5 (by decide)).trans o.enc_vb
  have b_ca := getLsbD_of_extract w 20 _ h_ca
  simp only [WV.dec, Src2.dec_of o w h hh, h_z, h_ty, h_msk, h_vd, h_va, b_ca, if_true, Option.map_some]

end Sys2Proof
end

