-- ==== Sys2Proof/Laws/Memory.lean ====
section
/-! SUPPORT. Memory: a read after a write, and the canonical form, which every operation on memory keeps. -/

namespace Sys2Proof.Machine

/-! ## One memory -/

theorem Memory.wf_cons {k : Nat} {b : Byte} {r : Memory} (h : Memory.wf ((k, b) :: r) = true) :
    b ≠ Memory.unlisted ∧ Memory.above k r = true ∧ Memory.wf r = true := by
  simpa [Memory.wf, and_assoc] using h

theorem Memory.above_of_lt {a k : Nat} (h : a < k) : ∀ {r : Memory}, Memory.above k r = true → Memory.above a r = true
  | [], _ => rfl
  | (j, _) :: _, hr => by
    simp only [Memory.above, decide_eq_true_eq] at hr ⊢
    omega

/-- Nothing is listed at or below a key that every listed key exceeds. -/
theorem Memory.read_of_above {a : Nat} : ∀ {r : Memory}, Memory.above a r = true → ∀ x ≤ a, r.read x = Memory.unlisted
  | [], _, _, _ => rfl
  | (j, _) :: _, hr, x, hx => by
    simp only [Memory.above, decide_eq_true_eq] at hr
    simp only [Memory.read]
    rw [if_neg (by omega), if_pos (by omega)]

/-- A read after a write gives the value written at its key and what stood there everywhere else. -/
theorem Memory.read_write : ∀ (m : Memory), m.wf = true → ∀ (a : Nat) (v : Byte) (x : Nat),
    (m.write a v).read x = if x = a then v else m.read x
  | [], _, a, v, x => by
    unfold Memory.write
    by_cases hv : v = Memory.unlisted
    · rw [if_pos hv]; split <;> simp [Memory.read, hv]
    · rw [if_neg hv]
      simp only [Memory.read]
      split <;> [rfl; (split <;> rfl)]
  | (k, b) :: r, h, a, v, x => by
    obtain ⟨_, hk, hr⟩ := Memory.wf_cons h
    unfold Memory.write
    by_cases hak : a = k
    · subst hak
      rw [if_pos rfl]
      by_cases hv : v = Memory.unlisted
      · rw [if_pos hv]
        by_cases hx : x = a
        · rw [if_pos hx, hx, Memory.read_of_above hk a le_rfl, hv]
        · rw [if_neg hx]
          simp only [Memory.read]
          rw [if_neg hx]
          by_cases hlt : x < a
          · rw [if_pos hlt, Memory.read_of_above hk x hlt.le]
          · rw [if_neg hlt]
      · rw [if_neg hv]
        simp only [Memory.read]
        by_cases hx : x = a
        · rw [if_pos hx, if_pos hx]
        · rw [if_neg hx, if_neg hx, if_neg hx]
    · rw [if_neg hak]
      by_cases hlt : a < k
      · rw [if_pos hlt]
        by_cases hv : v = Memory.unlisted
        · rw [if_pos hv]
          by_cases hx : x = a
          · rw [if_pos hx]
            simp only [Memory.read]
            rw [if_neg (by omega), if_pos (by omega), hv]
          · rw [if_neg hx]
        · rw [if_neg hv]
          simp only [Memory.read]
          by_cases hx : x = a
          · rw [if_pos hx, if_pos hx]
          · rw [if_neg hx, if_neg hx]
            by_cases hxa : x < a
            · rw [if_pos hxa, if_neg (by omega), if_pos (by omega)]
            · rw [if_neg hxa]
      · rw [if_neg hlt]
        simp only [Memory.read]
        by_cases hx : x = a
        · subst hx
          rw [if_neg hak, if_neg hlt, if_pos rfl, Memory.read_write r hr, if_pos rfl]
        · rw [if_neg hx]
          by_cases hxk : x = k
          · rw [if_pos hxk, if_pos hxk]
          · rw [if_neg hxk, if_neg hxk, Memory.read_write r hr, if_neg hx]

theorem Memory.above_write {k a : Nat} {v : Byte} (ha : k < a) : ∀ {m : Memory}, Memory.above k m = true →
    Memory.wf m = true → Memory.above k (m.write a v) = true
  | [], _, _ => by
    unfold Memory.write
    split <;> simp [Memory.above, ha]
  | (j, b) :: r, hm, hw => by
    obtain ⟨_, hj, _⟩ := Memory.wf_cons hw
    have hkj : k < j := by simpa [Memory.above] using hm
    unfold Memory.write
    by_cases h1 : a = j
    · rw [if_pos h1]
      split
      · exact Memory.above_of_lt hkj hj
      · simp [Memory.above, ha]
    · rw [if_neg h1]
      split
      · split <;> simp [Memory.above, ha, hkj]
      · simp [Memory.above, hkj]

/-- A write keeps the canonical form. -/
theorem Memory.write_wf : ∀ (m : Memory), m.wf = true → ∀ (a : Nat) (v : Byte), (m.write a v).wf = true
  | [], _, a, v => by
    unfold Memory.write
    by_cases hv : v = Memory.unlisted
    · rw [if_pos hv]; rfl
    · rw [if_neg hv]; simp [Memory.wf, Memory.above, hv]
  | (k, b) :: r, h, a, v => by
    obtain ⟨hb, hk, hr⟩ := Memory.wf_cons h
    unfold Memory.write
    by_cases hak : a = k
    · subst hak
      rw [if_pos rfl]
      by_cases hv : v = Memory.unlisted
      · rw [if_pos hv]; exact hr
      · rw [if_neg hv]; simp [Memory.wf, hv, hk, hr]
    · rw [if_neg hak]
      by_cases hlt : a < k
      · rw [if_pos hlt]
        by_cases hv : v = Memory.unlisted
        · rw [if_pos hv]; exact h
        · rw [if_neg hv]
          simp only [Memory.wf, Memory.above, Bool.and_eq_true, decide_eq_true_eq]
          exact ⟨⟨hv, hlt⟩, ⟨hb, hk⟩, hr⟩
      · rw [if_neg hlt]
        simp only [Memory.wf, Bool.and_eq_true, decide_eq_true_eq]
        exact ⟨⟨hb, Memory.above_write (by omega) hk hr⟩, Memory.write_wf r hr a v⟩

theorem Memory.above_filter (p : Host.Cell → Bool) {k : Nat} : ∀ {m : Memory}, Memory.above k m = true → Memory.wf m = true →
    Memory.above k (m.filter p) = true
  | [], _, _ => rfl
  | (j, b) :: r, hm, hw => by
    obtain ⟨_, hj, hr⟩ := Memory.wf_cons hw
    have hkj : k < j := by simpa [Memory.above] using hm
    rw [List.filter_cons]
    split
    · simp [Memory.above, hkj]
    · exact Memory.above_filter p (Memory.above_of_lt hkj hj) hr

/-- Leaving cells out keeps the canonical form. -/
theorem Memory.filter_wf (p : Host.Cell → Bool) : ∀ (m : Memory), m.wf = true → Memory.wf (m.filter p) = true
  | [], _ => rfl
  | (k, b) :: r, h => by
    obtain ⟨hb, hk, hr⟩ := Memory.wf_cons h
    rw [List.filter_cons]
    split
    · simp only [Memory.wf, Bool.and_eq_true, decide_eq_true_eq]
      exact ⟨⟨hb, Memory.above_filter p hk hr⟩, Memory.filter_wf p r hr⟩
    · exact Memory.filter_wf p r hr

/-- Writes in a row keep the canonical form. -/
theorem Memory.foldl_write_wf {α : Type} (k : α → Nat) (v : α → Byte) : ∀ (l : List α) (m : Memory), m.wf = true →
    Memory.wf (l.foldl (fun m x => m.write (k x) (v x)) m) = true
  | [], _, h => h
  | x :: r, m, h => Memory.foldl_write_wf k v r _ (Memory.write_wf m h (k x) (v x))

/-! ## The memories of the state -/

/-- What the canonical form of every memory of the state says, memory by memory. -/
theorem State.memoryOk_iff (s : State) : s.memoryOk = true ↔ s.home.wf = true ∧ s.t.snap.wf = true ∧
    (∀ t ∈ s.parked, t.snap.wf = true) ∧ (∀ c ∈ s.conts, c.th.snap.wf = true) ∧ ∀ v ∈ s.saved, v.th.snap.wf = true := by
  simp only [State.memoryOk, Bool.and_eq_true, List.all_eq_true]
  tauto

theorem State.reset_memoryOk : State.reset.memoryOk = true := rfl

/-- A change that leaves every snapshot and writes the home keeps the form. -/
theorem State.memoryOk_home {s u : State} (h : s.memoryOk = true) (hh : u.home.wf = true) (ht : u.t.snap = s.t.snap)
    (hp : u.parked = s.parked) (hc : u.conts = s.conts) (hs : u.saved = s.saved) : u.memoryOk = true := by
  rw [State.memoryOk_iff] at h ⊢
  rw [ht, hp, hc, hs]
  exact ⟨hh, h.2⟩

theorem State.home_wf {s : State} (h : s.memoryOk = true) : s.home.wf = true := ((State.memoryOk_iff s).1 h).1

/-- Something that each step of a fold keeps holds after the fold. -/
theorem foldl_keeps {α β : Type} (P : β → Prop) (f : β → α → β) (h : ∀ b a, P b → P (f b a)) : ∀ (l : List α) (b : β), P b → P (l.foldl f b)
  | [], _, hb => hb
  | a :: r, b, hb => foldl_keeps P f h r _ (h b a hb)

/-- Filling a compressed block leaves all but the home, the poison and the list of compressed blocks. -/
theorem fillBlock_eq (s : State) (k : Nat) : fillBlock s k = { s with
    home := (fillBlock s k).home, poison := (fillBlock s k).poison, zblocks := (fillBlock s k).zblocks } := by
  unfold fillBlock
  split
  · rfl
  · split <;> rfl

theorem fillBlock_wf {s : State} (h : s.home.wf = true) (k : Nat) : (fillBlock s k).home.wf = true := by
  unfold fillBlock
  split
  · exact h
  · split
    · exact foldl_keeps (fun m : Memory => m.wf = true) _ (fun m p hm => Memory.write_wf m hm _ _) _ _ h
    · exact h

/-- Bringing a compressed block back keeps the form. -/
theorem fillBlock_memoryOk {s : State} (h : s.memoryOk = true) (k : Nat) : (fillBlock s k).memoryOk = true := by
  refine State.memoryOk_home h (fillBlock_wf (State.home_wf h) k) ?_ ?_ ?_ ?_ <;> rw [fillBlock_eq]

theorem homeWrite_wf {s : State} (h : s.home.wf = true) (k : Nat) (v : Byte) (q : Nat) : (homeWrite s k v q).home.wf = true := by
  unfold homeWrite
  split
  · exact Memory.write_wf _ (fillBlock_wf h k) k v
  · exact h

/-- A write at the home leaves all but the home, its places, the narrower copies, the poison and the list of compressed blocks. -/
theorem homeWrite_eq (s : State) (k : Nat) (v : Byte) (q : Nat) : homeWrite s k v q = { s with
    home := (homeWrite s k v q).home, homeSeq := (homeWrite s k v q).homeSeq, narrow := (homeWrite s k v q).narrow,
    poison := (homeWrite s k v q).poison, zblocks := (homeWrite s k v q).zblocks } := by
  unfold homeWrite
  split
  · dsimp only
    rw [fillBlock_eq]
  · rfl

theorem homeWrite_memoryOk {s : State} (h : s.memoryOk = true) (k : Nat) (v : Byte) (q : Nat) : (homeWrite s k v q).memoryOk = true := by
  refine State.memoryOk_home h (homeWrite_wf (State.home_wf h) k v q) ?_ ?_ ?_ ?_ <;> rw [homeWrite_eq]

/-- A change of the hardware at the home keeps the form (page-table bits, catalogue records, completion entries). -/
theorem hardWrite_memoryOk {s : State} (h : s.memoryOk = true) (k : Nat) (bs : List Byte) : (hardWrite s k bs).memoryOk = true := by
  unfold hardWrite
  exact foldl_keeps (fun a : State => a.memoryOk = true) _ (fun a p ha => homeWrite_memoryOk ha _ _ _) _ _ h

theorem touchBlocks_memoryOk {s : State} (h : s.memoryOk = true) (m : Master) (bs : List Nat) (f : Block → Block) :
    (touchBlocks s m bs f).memoryOk = true := h

theorem touchMaster_memoryOk {s : State} (h : s.memoryOk = true) (die sc : Nat) (ks : List (Nat × Nat)) (m : Master) :
    (touchMaster die sc ks s m).memoryOk = true := by
  unfold touchMaster
  dsimp only
  split
  · exact h
  · split
    · exact h
    · split <;> exact h

theorem publishMasters_memoryOk {s : State} (h : s.memoryOk = true) (pkg die sc : Nat) (ks : List (Nat × Nat)) :
    (publishMasters s pkg die sc ks).memoryOk = true :=
  foldl_keeps (fun a : State => a.memoryOk = true) _ (fun _ m ha => touchMaster_memoryOk ha die sc ks m) _ _ h

theorem homeChanged_memoryOk {s : State} (h : s.memoryOk = true) (ks : List Nat) : (homeChanged s ks).memoryOk = true := by
  unfold homeChanged
  refine foldl_keeps (fun a : State => a.memoryOk = true) _ (fun a m ha => ?_) _ _ h
  dsimp only
  split <;> exact ha

/-- An engine's write keeps the form. -/
theorem engineWriteAt_memoryOk {s : State} (h : s.memoryOk = true) (pkg sc : Nat) (kvs : List (Nat × Byte)) :
    (engineWriteAt s pkg sc kvs).1.memoryOk = true := by
  unfold engineWriteAt
  split
  · exact h
  · have h1 : ({ s with pubs := s.pubs + 1 } : State).memoryOk = true := h
    exact publishMasters_memoryOk (foldl_keeps (fun a : State => a.memoryOk = true) _ (fun a p ha => homeWrite_memoryOk ha _ _ _) _ _ h1) _ _ _ _

theorem promoteLine_memoryOk {s : State} (h : s.memoryOk = true) (die line : Nat) : (promoteLine s die line).memoryOk = true := by
  unfold promoteLine
  have h1 : ({ s with narrow := s.narrow.filter fun n => !(n.key / 128 == line && n.die == die) } : State).memoryOk = true := h
  exact homeChanged_memoryOk (foldl_keeps (fun a : State => a.memoryOk = true) _ (fun a p ha => homeWrite_memoryOk ha _ _ _) _ _ h1) _

theorem narrowWrite_memoryOk {s : State} (h : s.memoryOk = true) (n : Narrow) : (narrowWrite s n).memoryOk = true := by
  unfold narrowWrite
  dsimp only
  split <;> exact h

theorem pointWrite_memoryOk {s : State} (h : s.memoryOk = true) (core part sc k : Nat) (v : Byte) (u q : Nat) (a : WriteKind) :
    (pointWrite s core part sc k v u q a).memoryOk = true := by
  unfold pointWrite
  split
  · exact homeWrite_memoryOk h _ _ _
  · exact narrowWrite_memoryOk h _

/-- A publication keeps the form. -/
theorem publishIf_memoryOk {s : State} (h : s.memoryOk = true) (sc : Nat) (p : OwnWrite → Bool) : (publishIf s sc p).memoryOk = true := by
  unfold publishIf
  extract_lets hit ws n core seqOf place s1 s2 s3 own
  split
  · exact h
  · have hp : ∀ a o, a.memoryOk = true → (place a o).memoryOk = true := fun a o ha => by
      show State.memoryOk (if 4 ≤ o.scope then a else _) = true
      split
      · exact ha
      · exact pointWrite_memoryOk ha _ _ _ _ _ _ _ _
    have h1 : s1.memoryOk = true := foldl_keeps (fun a : State => a.memoryOk = true) place (fun a o ha => hp a o ha) _ _ h
    have h2 : s2.memoryOk = true := by
      show State.memoryOk (if 4 ≤ sc then _ else s1) = true
      split
      · exact foldl_keeps (fun a : State => a.memoryOk = true) _ (fun a l ha => promoteLine_memoryOk ha _ _) _ _ h1
      · exact h1
    exact publishMasters_memoryOk h2 _ _ _ _

theorem publish_memoryOk {s : State} (h : s.memoryOk = true) (sc : Nat) : (publish s sc).memoryOk = true := publishIf_memoryOk h sc _

theorem snapPut_wf {a : Memory × SeqMap} (h : a.1.wf = true) (k : Nat) (v : Byte) (q : Nat) : (snapPut a k v q).1.wf = true := by
  unfold snapPut
  split
  · exact Memory.write_wf _ h k v
  · exact h

/-- Only the running thread's snapshot changes. -/
theorem State.memoryOk_snap {s u : State} (h : s.memoryOk = true) (hh : u.home = s.home) (ht : u.t.snap.wf = true)
    (hp : u.parked = s.parked) (hc : u.conts = s.conts) (hs : u.saved = s.saved) : u.memoryOk = true := by
  rw [State.memoryOk_iff] at h ⊢
  rw [hh, hp, hc, hs]
  exact ⟨h.1, ht, h.2.2⟩

/-- Taking a snapshot keeps the form. -/
theorem snapshot_memoryOk {s : State} (h : s.memoryOk = true) (sc : Nat) : (snapshot s sc).memoryOk = true := by
  refine State.memoryOk_snap h rfl ?_ rfl rfl rfl
  unfold snapshot
  refine foldl_keeps (fun a : Memory × SeqMap => a.1.wf = true) _ (fun a o ha => ?_) _ _ ?_
  · split
    · exact ha
    · exact snapPut_wf ha _ _ _
  · refine foldl_keeps (fun a : Memory × SeqMap => a.1.wf = true) _ (fun a n ha => ?_) _ _ ?_
    · split
      · exact snapPut_wf ha _ _ _
      · exact ha
    · exact foldl_keeps (fun a : Memory × SeqMap => a.1.wf = true) _ (fun a p ha => snapPut_wf ha _ _ _) _ _ (State.home_wf h)

/-- Acquiring bytes through a count barrier keeps the form. -/
theorem acquireBytes_memoryOk {s : State} (h : s.memoryOk = true) (bs : List (Nat × Nat × Byte)) : (acquireBytes s bs).memoryOk = true := by
  refine State.memoryOk_snap h rfl ?_ rfl rfl rfl
  exact foldl_keeps (fun a : Memory × SeqMap => a.1.wf = true) _ (fun a p ha => snapPut_wf ha _ _ _) _ _ ((State.memoryOk_iff s).1 h).2.1

/-- Two threads with one snapshot are alike for the form. -/
theorem State.memoryOk_updT {s : State} (h : s.memoryOk = true) (f : Thread → Thread) (hf : (f s.t).snap = s.t.snap) :
    (s.updT f).memoryOk = true := State.memoryOk_snap h rfl (by rw [State.updT, hf]; exact ((State.memoryOk_iff s).1 h).2.1) rfl rfl rfl

/-- An atomic's write keeps the form. -/
theorem atomicPut_memoryOk {s : State} (h : s.memoryOk = true) (w : WriteKind) (sc k : Nat) (bs : List Byte) :
    (atomicPut w s sc k bs).memoryOk = true := by
  unfold atomicPut
  have h1 : ({ s with pubs := s.pubs + 1 } : State).memoryOk = true := h
  refine publishMasters_memoryOk (foldl_keeps (fun a : State => a.memoryOk = true) _ (fun a p ha => ?_) _ _ h1) _ _ _ _
  exact pointWrite_memoryOk ha _ _ _ _ _ _ _ _

/-- Filling a range keeps the form. -/
theorem fillRange_memoryOk {s : State} (h : s.memoryOk = true) (b n : Nat) : (fillRange s b n).memoryOk = true :=
  foldl_keeps (fun a : State => a.memoryOk = true) _ (fun _ _ ha => fillBlock_memoryOk ha _) _ _ h

/-- A range that becomes unlisted keeps the form. -/
theorem clearRange_memoryOk {s : State} (h : s.memoryOk = true) (b n : Nat) : (clearRange s b n).memoryOk = true := by
  have h1 := fillRange_memoryOk h b n
  exact State.memoryOk_home h1 (Memory.filter_wf _ _ (State.home_wf h1)) rfl rfl rfl rfl

/-- Seeing a page's leaf keeps the form. -/
theorem notePage_memoryOk {s : State} (h : s.memoryOk = true) (b n : Nat) (z : Bool) : (notePage s b n z).memoryOk = true := by
  unfold notePage
  split
  · exact h
  · show State.memoryOk (if z then s else fillRange s b n) = true
    split
    · exact h
    · exact fillRange_memoryOk h _ _

/-- A page's move keeps a memory canonical. -/
theorem Shift.bytes_wf (m : Shift) {mem : Memory} (h : mem.wf = true) : (m.bytes mem).wf = true := by
  unfold Shift.bytes
  exact foldl_keeps (fun a : Memory => a.wf = true) _ (fun a c ha => Memory.write_wf a ha _ _) _ _ (Memory.filter_wf _ _ h)

/-! ## Bytes of values -/

theorem natLe_length : ∀ (n v : Nat), (natLe n v).length = n
  | 0, _ => rfl
  | n + 1, v => by simp [natLe, natLe_length n]

theorem leNat_natLe : ∀ (n v : Nat), leNat (natLe n v) = v % 256 ^ n
  | 0, v => by simp [leNat, natLe, Nat.mod_one]
  | n + 1, v => by
    simp only [natLe, leNat, leNat_natLe n, BitVec.toNat_ofNat]
    have h : v % 256 ^ (n + 1) = v % 256 + 256 * (v / 256 % 256 ^ n) := by
      rw [Nat.pow_succ, Nat.mul_comm, Nat.mod_mul]
    omega

end Sys2Proof.Machine
end

