-- ==== Sys2Proof/Laws/State.lean ====
section
/-! SUPPORT. Field by field, what the updates of Machine/Ops.lean leave of the state and of the running thread: true by
definition, so that no later proof unfolds a record update. -/

namespace Sys2Proof.Machine

/-! ## The updates of the thread and of its control registers -/

@[simp] theorem State.updT_t (s : State) (f : Thread → Thread) : (s.updT f).t = f s.t := rfl
@[simp] theorem State.updC_ctl (s : State) (f : Ctl → Ctl) : (s.updC f).t.ctl = f s.t.ctl := rfl
@[simp] theorem State.updT_parked (s : State) (f : Thread → Thread) : (s.updT f).parked = s.parked := rfl
@[simp] theorem State.updC_parked (s : State) (f : Ctl → Ctl) : (s.updC f).parked = s.parked := rfl
@[simp] theorem State.updT_home (s : State) (f : Thread → Thread) : (s.updT f).home = s.home := rfl
@[simp] theorem State.updC_home (s : State) (f : Ctl → Ctl) : (s.updC f).home = s.home := rfl
@[simp] theorem State.updT_homeSeq (s : State) (f : Thread → Thread) : (s.updT f).homeSeq = s.homeSeq := rfl
@[simp] theorem State.updC_homeSeq (s : State) (f : Ctl → Ctl) : (s.updC f).homeSeq = s.homeSeq := rfl
@[simp] theorem State.updT_narrow (s : State) (f : Thread → Thread) : (s.updT f).narrow = s.narrow := rfl
@[simp] theorem State.updC_narrow (s : State) (f : Ctl → Ctl) : (s.updC f).narrow = s.narrow := rfl
@[simp] theorem State.updT_pubs (s : State) (f : Thread → Thread) : (s.updT f).pubs = s.pubs := rfl
@[simp] theorem State.updC_pubs (s : State) (f : Ctl → Ctl) : (s.updC f).pubs = s.pubs := rfl
@[simp] theorem State.updT_poison (s : State) (f : Thread → Thread) : (s.updT f).poison = s.poison := rfl
@[simp] theorem State.updC_poison (s : State) (f : Ctl → Ctl) : (s.updC f).poison = s.poison := rfl
@[simp] theorem State.updT_badPages (s : State) (f : Thread → Thread) : (s.updT f).badPages = s.badPages := rfl
@[simp] theorem State.updC_badPages (s : State) (f : Ctl → Ctl) : (s.updC f).badPages = s.badPages := rfl
@[simp] theorem State.updT_zblocks (s : State) (f : Thread → Thread) : (s.updT f).zblocks = s.zblocks := rfl
@[simp] theorem State.updC_zblocks (s : State) (f : Ctl → Ctl) : (s.updC f).zblocks = s.zblocks := rfl
@[simp] theorem State.updT_zpages (s : State) (f : Thread → Thread) : (s.updT f).zpages = s.zpages := rfl
@[simp] theorem State.updC_zpages (s : State) (f : Ctl → Ctl) : (s.updC f).zpages = s.zpages := rfl
@[simp] theorem State.updT_tlbs (s : State) (f : Thread → Thread) : (s.updT f).tlbs = s.tlbs := rfl
@[simp] theorem State.updC_tlbs (s : State) (f : Ctl → Ctl) : (s.updC f).tlbs = s.tlbs := rfl
@[simp] theorem State.updT_folios (s : State) (f : Thread → Thread) : (s.updT f).folios = s.folios := rfl
@[simp] theorem State.updC_folios (s : State) (f : Ctl → Ctl) : (s.updC f).folios = s.folios := rfl
@[simp] theorem State.updT_parts (s : State) (f : Thread → Thread) : (s.updT f).parts = s.parts := rfl
@[simp] theorem State.updC_parts (s : State) (f : Ctl → Ctl) : (s.updC f).parts = s.parts := rfl
@[simp] theorem State.updT_cxl (s : State) (f : Thread → Thread) : (s.updT f).cxl = s.cxl := rfl
@[simp] theorem State.updC_cxl (s : State) (f : Ctl → Ctl) : (s.updC f).cxl = s.cxl := rfl
@[simp] theorem State.updT_tethers (s : State) (f : Thread → Thread) : (s.updT f).tethers = s.tethers := rfl
@[simp] theorem State.updC_tethers (s : State) (f : Ctl → Ctl) : (s.updC f).tethers = s.tethers := rfl
@[simp] theorem State.updT_launches (s : State) (f : Thread → Thread) : (s.updT f).launches = s.launches := rfl
@[simp] theorem State.updC_launches (s : State) (f : Ctl → Ctl) : (s.updC f).launches = s.launches := rfl
@[simp] theorem State.updT_nextLaunch (s : State) (f : Thread → Thread) : (s.updT f).nextLaunch = s.nextLaunch := rfl
@[simp] theorem State.updC_nextLaunch (s : State) (f : Ctl → Ctl) : (s.updC f).nextLaunch = s.nextLaunch := rfl
@[simp] theorem State.updT_nextUid (s : State) (f : Thread → Thread) : (s.updT f).nextUid = s.nextUid := rfl
@[simp] theorem State.updC_nextUid (s : State) (f : Ctl → Ctl) : (s.updC f).nextUid = s.nextUid := rfl
@[simp] theorem State.updT_ready (s : State) (f : Thread → Thread) : (s.updT f).ready = s.ready := rfl
@[simp] theorem State.updC_ready (s : State) (f : Ctl → Ctl) : (s.updC f).ready = s.ready := rfl
@[simp] theorem State.updT_spawnUsed (s : State) (f : Thread → Thread) : (s.updT f).spawnUsed = s.spawnUsed := rfl
@[simp] theorem State.updC_spawnUsed (s : State) (f : Ctl → Ctl) : (s.updC f).spawnUsed = s.spawnUsed := rfl
@[simp] theorem State.updT_spawnQueue (s : State) (f : Thread → Thread) : (s.updT f).spawnQueue = s.spawnQueue := rfl
@[simp] theorem State.updC_spawnQueue (s : State) (f : Ctl → Ctl) : (s.updC f).spawnQueue = s.spawnQueue := rfl
@[simp] theorem State.updT_conts (s : State) (f : Thread → Thread) : (s.updT f).conts = s.conts := rfl
@[simp] theorem State.updC_conts (s : State) (f : Ctl → Ctl) : (s.updC f).conts = s.conts := rfl
@[simp] theorem State.updT_nextCont (s : State) (f : Thread → Thread) : (s.updT f).nextCont = s.nextCont := rfl
@[simp] theorem State.updC_nextCont (s : State) (f : Ctl → Ctl) : (s.updC f).nextCont = s.nextCont := rfl
@[simp] theorem State.updT_saved (s : State) (f : Thread → Thread) : (s.updT f).saved = s.saved := rfl
@[simp] theorem State.updC_saved (s : State) (f : Ctl → Ctl) : (s.updC f).saved = s.saved := rfl
@[simp] theorem State.updT_cmds (s : State) (f : Thread → Thread) : (s.updT f).cmds = s.cmds := rfl
@[simp] theorem State.updC_cmds (s : State) (f : Ctl → Ctl) : (s.updC f).cmds = s.cmds := rfl
@[simp] theorem State.updT_nextCmd (s : State) (f : Thread → Thread) : (s.updT f).nextCmd = s.nextCmd := rfl
@[simp] theorem State.updC_nextCmd (s : State) (f : Ctl → Ctl) : (s.updC f).nextCmd = s.nextCmd := rfl
@[simp] theorem State.updT_colls (s : State) (f : Thread → Thread) : (s.updT f).colls = s.colls := rfl
@[simp] theorem State.updC_colls (s : State) (f : Ctl → Ctl) : (s.updC f).colls = s.colls := rfl
@[simp] theorem State.updT_carried (s : State) (f : Thread → Thread) : (s.updT f).carried = s.carried := rfl
@[simp] theorem State.updC_carried (s : State) (f : Ctl → Ctl) : (s.updC f).carried = s.carried := rfl
@[simp] theorem State.updT_phases (s : State) (f : Thread → Thread) : (s.updT f).phases = s.phases := rfl
@[simp] theorem State.updC_phases (s : State) (f : Ctl → Ctl) : (s.updC f).phases = s.phases := rfl
@[simp] theorem State.updT_flips (s : State) (f : Thread → Thread) : (s.updT f).flips = s.flips := rfl
@[simp] theorem State.updC_flips (s : State) (f : Ctl → Ctl) : (s.updC f).flips = s.flips := rfl
@[simp] theorem State.updT_masters (s : State) (f : Thread → Thread) : (s.updT f).masters = s.masters := rfl
@[simp] theorem State.updC_masters (s : State) (f : Ctl → Ctl) : (s.updC f).masters = s.masters := rfl
@[simp] theorem State.updT_views (s : State) (f : Thread → Thread) : (s.updT f).views = s.views := rfl
@[simp] theorem State.updC_views (s : State) (f : Ctl → Ctl) : (s.updC f).views = s.views := rfl
@[simp] theorem State.updT_pools (s : State) (f : Thread → Thread) : (s.updT f).pools = s.pools := rfl
@[simp] theorem State.updC_pools (s : State) (f : Ctl → Ctl) : (s.updC f).pools = s.pools := rfl
@[simp] theorem State.updT_boundary (s : State) (f : Thread → Thread) : (s.updT f).boundary = s.boundary := rfl
@[simp] theorem State.updC_boundary (s : State) (f : Ctl → Ctl) : (s.updC f).boundary = s.boundary := rfl
@[simp] theorem State.updT_chains (s : State) (f : Thread → Thread) : (s.updT f).chains = s.chains := rfl
@[simp] theorem State.updC_chains (s : State) (f : Ctl → Ctl) : (s.updC f).chains = s.chains := rfl
@[simp] theorem State.updT_cycle (s : State) (f : Thread → Thread) : (s.updT f).cycle = s.cycle := rfl
@[simp] theorem State.updC_cycle (s : State) (f : Ctl → Ctl) : (s.updC f).cycle = s.cycle := rfl
@[simp] theorem State.updT_samples (s : State) (f : Thread → Thread) : (s.updT f).samples = s.samples := rfl
@[simp] theorem State.updC_samples (s : State) (f : Ctl → Ctl) : (s.updC f).samples = s.samples := rfl
@[simp] theorem State.updT_errLog (s : State) (f : Thread → Thread) : (s.updT f).errLog = s.errLog := rfl
@[simp] theorem State.updC_errLog (s : State) (f : Ctl → Ctl) : (s.updC f).errLog = s.errLog := rfl
@[simp] theorem State.updT_errLost (s : State) (f : Thread → Thread) : (s.updT f).errLost = s.errLost := rfl
@[simp] theorem State.updC_errLost (s : State) (f : Ctl → Ctl) : (s.updC f).errLost = s.errLost := rfl
@[simp] theorem State.updT_hlog (s : State) (f : Thread → Thread) : (s.updT f).hlog = s.hlog := rfl
@[simp] theorem State.updC_hlog (s : State) (f : Ctl → Ctl) : (s.updC f).hlog = s.hlog := rfl
@[simp] theorem State.updT_codices (s : State) (f : Thread → Thread) : (s.updT f).codices = s.codices := rfl
@[simp] theorem State.updC_codices (s : State) (f : Ctl → Ctl) : (s.updC f).codices = s.codices := rfl
@[simp] theorem State.updT_replies (s : State) (f : Thread → Thread) : (s.updT f).replies = s.replies := rfl
@[simp] theorem State.updC_replies (s : State) (f : Ctl → Ctl) : (s.updC f).replies = s.replies := rfl
@[simp] theorem State.updT_granted (s : State) (f : Thread → Thread) : (s.updT f).granted = s.granted := rfl
@[simp] theorem State.updC_granted (s : State) (f : Ctl → Ctl) : (s.updC f).granted = s.granted := rfl
@[simp] theorem State.updT_issued (s : State) (f : Thread → Thread) : (s.updT f).issued = s.issued := rfl
@[simp] theorem State.updC_issued (s : State) (f : Ctl → Ctl) : (s.updC f).issued = s.issued := rfl
@[simp] theorem State.updT_arbiter (s : State) (f : Thread → Thread) : (s.updT f).arbiter = s.arbiter := rfl
@[simp] theorem State.updC_arbiter (s : State) (f : Ctl → Ctl) : (s.updC f).arbiter = s.arbiter := rfl
@[simp] theorem State.updT_moves (s : State) (f : Thread → Thread) : (s.updT f).moves = s.moves := rfl
@[simp] theorem State.updC_moves (s : State) (f : Ctl → Ctl) : (s.updC f).moves = s.moves := rfl
@[simp] theorem State.updT_agenda (s : State) (f : Thread → Thread) : (s.updT f).agenda = s.agenda := rfl
@[simp] theorem State.updC_agenda (s : State) (f : Ctl → Ctl) : (s.updC f).agenda = s.agenda := rfl
@[simp] theorem State.updT_stalled (s : State) (f : Thread → Thread) : (s.updT f).stalled = s.stalled := rfl
@[simp] theorem State.updC_stalled (s : State) (f : Ctl → Ctl) : (s.updC f).stalled = s.stalled := rfl
@[simp] theorem State.updT_fresh (s : State) (f : Thread → Thread) : (s.updT f).fresh = s.fresh := rfl
@[simp] theorem State.updC_fresh (s : State) (f : Ctl → Ctl) : (s.updC f).fresh = s.fresh := rfl
@[simp] theorem State.updT_boots (s : State) (f : Thread → Thread) : (s.updT f).boots = s.boots := rfl
@[simp] theorem State.updC_boots (s : State) (f : Ctl → Ctl) : (s.updC f).boots = s.boots := rfl
@[simp] theorem State.updC_t_uid (s : State) (f : Ctl → Ctl) : (s.updC f).t.uid = s.t.uid := rfl
@[simp] theorem State.updC_t_core (s : State) (f : Ctl → Ctl) : (s.updC f).t.core = s.t.core := rfl
@[simp] theorem State.updC_t_slot (s : State) (f : Ctl → Ctl) : (s.updC f).t.slot = s.t.slot := rfl
@[simp] theorem State.updC_t_part (s : State) (f : Ctl → Ctl) : (s.updC f).t.part = s.t.part := rfl
@[simp] theorem State.updC_t_launch (s : State) (f : Ctl → Ctl) : (s.updC f).t.launch = s.t.launch := rfl
@[simp] theorem State.updC_t_node (s : State) (f : Ctl → Ctl) : (s.updC f).t.node = s.t.node := rfl
@[simp] theorem State.updC_t_spawned (s : State) (f : Ctl → Ctl) : (s.updC f).t.spawned = s.t.spawned := rfl
@[simp] theorem State.updC_t_team (s : State) (f : Ctl → Ctl) : (s.updC f).t.team = s.t.team := rfl
@[simp] theorem State.updC_t_tci (s : State) (f : Ctl → Ctl) : (s.updC f).t.tci = s.t.tci := rfl
@[simp] theorem State.updC_t_prio (s : State) (f : Ctl → Ctl) : (s.updC f).t.prio = s.t.prio := rfl
@[simp] theorem State.updC_t_kind (s : State) (f : Ctl → Ctl) : (s.updC f).t.kind = s.t.kind := rfl
@[simp] theorem State.updC_t_spawnCb (s : State) (f : Ctl → Ctl) : (s.updC f).t.spawnCb = s.t.spawnCb := rfl
@[simp] theorem State.updC_t_spawnDesc (s : State) (f : Ctl → Ctl) : (s.updC f).t.spawnDesc = s.t.spawnDesc := rfl
@[simp] theorem State.updC_t_arg (s : State) (f : Ctl → Ctl) : (s.updC f).t.arg = s.t.arg := rfl
@[simp] theorem State.updC_t_stack (s : State) (f : Ctl → Ctl) : (s.updC f).t.stack = s.t.stack := rfl
@[simp] theorem State.updC_t_status (s : State) (f : Ctl → Ctl) : (s.updC f).t.status = s.t.status := rfl
@[simp] theorem State.updC_t_s (s : State) (f : Ctl → Ctl) : (s.updC f).t.s = s.t.s := rfl
@[simp] theorem State.updC_t_pc (s : State) (f : Ctl → Ctl) : (s.updC f).t.pc = s.t.pc := rfl
@[simp] theorem State.updC_t_line (s : State) (f : Ctl → Ctl) : (s.updC f).t.line = s.t.line := rfl
@[simp] theorem State.updC_t_flows (s : State) (f : Ctl → Ctl) : (s.updC f).t.flows = s.t.flows := rfl
@[simp] theorem State.updC_t_v (s : State) (f : Ctl → Ctl) : (s.updC f).t.v = s.t.v := rfl
@[simp] theorem State.updC_t_m (s : State) (f : Ctl → Ctl) : (s.updC f).t.m = s.t.m := rfl
@[simp] theorem State.updC_t_e (s : State) (f : Ctl → Ctl) : (s.updC f).t.e = s.t.e := rfl
@[simp] theorem State.updC_t_dq (s : State) (f : Ctl → Ctl) : (s.updC f).t.dq = s.t.dq := rfl
@[simp] theorem State.updC_t_bq (s : State) (f : Ctl → Ctl) : (s.updC f).t.bq = s.t.bq := rfl
@[simp] theorem State.updC_t_dropRun (s : State) (f : Ctl → Ctl) : (s.updC f).t.dropRun = s.t.dropRun := rfl
@[simp] theorem State.updC_t_dropHeld (s : State) (f : Ctl → Ctl) : (s.updC f).t.dropHeld = s.t.dropHeld := rfl
@[simp] theorem State.updC_t_vq (s : State) (f : Ctl → Ctl) : (s.updC f).t.vq = s.t.vq := rfl
@[simp] theorem State.updC_t_xdec (s : State) (f : Ctl → Ctl) : (s.updC f).t.xdec = s.t.xdec := rfl
@[simp] theorem State.updC_t_xctx (s : State) (f : Ctl → Ctl) : (s.updC f).t.xctx = s.t.xctx := rfl
@[simp] theorem State.updC_t_image (s : State) (f : Ctl → Ctl) : (s.updC f).t.image = s.t.image := rfl
@[simp] theorem State.updC_t_imageDec (s : State) (f : Ctl → Ctl) : (s.updC f).t.imageDec = s.t.imageDec := rfl
@[simp] theorem State.updC_t_imageEnv (s : State) (f : Ctl → Ctl) : (s.updC f).t.imageEnv = s.t.imageEnv := rfl
@[simp] theorem State.updC_t_shadow (s : State) (f : Ctl → Ctl) : (s.updC f).t.shadow = s.t.shadow := rfl
@[simp] theorem State.updC_t_decodes (s : State) (f : Ctl → Ctl) : (s.updC f).t.decodes = s.t.decodes := rfl
@[simp] theorem State.updC_t_limit (s : State) (f : Ctl → Ctl) : (s.updC f).t.limit = s.t.limit := rfl
@[simp] theorem State.updC_t_rpc (s : State) (f : Ctl → Ctl) : (s.updC f).t.rpc = s.t.rpc := rfl
@[simp] theorem State.updC_t_rpcReplay (s : State) (f : Ctl → Ctl) : (s.updC f).t.rpcReplay = s.t.rpcReplay := rfl
@[simp] theorem State.updC_t_rpcFlows (s : State) (f : Ctl → Ctl) : (s.updC f).t.rpcFlows = s.t.rpcFlows := rfl
@[simp] theorem State.updC_t_rpcDecodes (s : State) (f : Ctl → Ctl) : (s.updC f).t.rpcDecodes = s.t.rpcDecodes := rfl
@[simp] theorem State.updC_t_seq (s : State) (f : Ctl → Ctl) : (s.updC f).t.seq = s.t.seq := rfl
@[simp] theorem State.updC_t_replay (s : State) (f : Ctl → Ctl) : (s.updC f).t.replay = s.t.replay := rfl
@[simp] theorem State.updC_t_replayHeld (s : State) (f : Ctl → Ctl) : (s.updC f).t.replayHeld = s.t.replayHeld := rfl
@[simp] theorem State.updC_t_binds (s : State) (f : Ctl → Ctl) : (s.updC f).t.binds = s.t.binds := rfl
@[simp] theorem State.updC_t_lanes (s : State) (f : Ctl → Ctl) : (s.updC f).t.lanes = s.t.lanes := rfl
@[simp] theorem State.updC_t_laneHeld (s : State) (f : Ctl → Ctl) : (s.updC f).t.laneHeld = s.t.laneHeld := rfl
@[simp] theorem State.updC_t_mchk (s : State) (f : Ctl → Ctl) : (s.updC f).t.mchk = s.t.mchk := rfl
@[simp] theorem State.updC_t_mexiting (s : State) (f : Ctl → Ctl) : (s.updC f).t.mexiting = s.t.mexiting := rfl
@[simp] theorem State.updC_t_mwait (s : State) (f : Ctl → Ctl) : (s.updC f).t.mwait = s.t.mwait := rfl
@[simp] theorem State.updC_t_mq (s : State) (f : Ctl → Ctl) : (s.updC f).t.mq = s.t.mq := rfl
@[simp] theorem State.updC_t_munit (s : State) (f : Ctl → Ctl) : (s.updC f).t.munit = s.t.munit := rfl
@[simp] theorem State.updC_t_floors (s : State) (f : Ctl → Ctl) : (s.updC f).t.floors = s.t.floors := rfl
@[simp] theorem State.updC_t_handles (s : State) (f : Ctl → Ctl) : (s.updC f).t.handles = s.t.handles := rfl
@[simp] theorem State.updC_t_snap (s : State) (f : Ctl → Ctl) : (s.updC f).t.snap = s.t.snap := rfl
@[simp] theorem State.updC_t_snapSeq (s : State) (f : Ctl → Ctl) : (s.updC f).t.snapSeq = s.t.snapSeq := rfl
@[simp] theorem State.updC_t_own (s : State) (f : Ctl → Ctl) : (s.updC f).t.own = s.t.own := rfl
@[simp] theorem State.updC_t_seen (s : State) (f : Ctl → Ctl) : (s.updC f).t.seen = s.t.seen := rfl
@[simp] theorem State.updC_t_barCount (s : State) (f : Ctl → Ctl) : (s.updC f).t.barCount = s.t.barCount := rfl
@[simp] theorem State.updC_t_arrived (s : State) (f : Ctl → Ctl) : (s.updC f).t.arrived = s.t.arrived := rfl
@[simp] theorem State.updC_t_stepping (s : State) (f : Ctl → Ctl) : (s.updC f).t.stepping = s.t.stepping := rfl

/-! ## Registers -/

@[simp] theorem Thread.putS_uid (t : Thread) (r : BitVec 5) (v : Word) : (t.putS r v).uid = t.uid := by
  unfold Thread.putS; split <;> rfl
@[simp] theorem Thread.putS_core (t : Thread) (r : BitVec 5) (v : Word) : (t.putS r v).core = t.core := by
  unfold Thread.putS; split <;> rfl
@[simp] theorem Thread.putS_slot (t : Thread) (r : BitVec 5) (v : Word) : (t.putS r v).slot = t.slot := by
  unfold Thread.putS; split <;> rfl
@[simp] theorem Thread.putS_part (t : Thread) (r : BitVec 5) (v : Word) : (t.putS r v).part = t.part := by
  unfold Thread.putS; split <;> rfl
@[simp] theorem Thread.putS_launch (t : Thread) (r : BitVec 5) (v : Word) : (t.putS r v).launch = t.launch := by
  unfold Thread.putS; split <;> rfl
@[simp] theorem Thread.putS_node (t : Thread) (r : BitVec 5) (v : Word) : (t.putS r v).node = t.node := by
  unfold Thread.putS; split <;> rfl
@[simp] theorem Thread.putS_spawned (t : Thread) (r : BitVec 5) (v : Word) : (t.putS r v).spawned = t.spawned := by
  unfold Thread.putS; split <;> rfl
@[simp] theorem Thread.putS_team (t : Thread) (r : BitVec 5) (v : Word) : (t.putS r v).team = t.team := by
  unfold Thread.putS; split <;> rfl
@[simp] theorem Thread.putS_tci (t : Thread) (r : BitVec 5) (v : Word) : (t.putS r v).tci = t.tci := by
  unfold Thread.putS; split <;> rfl
@[simp] theorem Thread.putS_prio (t : Thread) (r : BitVec 5) (v : Word) : (t.putS r v).prio = t.prio := by
  unfold Thread.putS; split <;> rfl
@[simp] theorem Thread.putS_kind (t : Thread) (r : BitVec 5) (v : Word) : (t.putS r v).kind = t.kind := by
  unfold Thread.putS; split <;> rfl
@[simp] theorem Thread.putS_spawnCb (t : Thread) (r : BitVec 5) (v : Word) : (t.putS r v).spawnCb = t.spawnCb := by
  unfold Thread.putS; split <;> rfl
@[simp] theorem Thread.putS_spawnDesc (t : Thread) (r : BitVec 5) (v : Word) : (t.putS r v).spawnDesc = t.spawnDesc := by
  unfold Thread.putS; split <;> rfl
@[simp] theorem Thread.putS_arg (t : Thread) (r : BitVec 5) (v : Word) : (t.putS r v).arg = t.arg := by
  unfold Thread.putS; split <;> rfl
@[simp] theorem Thread.putS_stack (t : Thread) (r : BitVec 5) (v : Word) : (t.putS r v).stack = t.stack := by
  unfold Thread.putS; split <;> rfl
@[simp] theorem Thread.putS_status (t : Thread) (r : BitVec 5) (v : Word) : (t.putS r v).status = t.status := by
  unfold Thread.putS; split <;> rfl
@[simp] theorem Thread.putS_pc (t : Thread) (r : BitVec 5) (v : Word) : (t.putS r v).pc = t.pc := by
  unfold Thread.putS; split <;> rfl
@[simp] theorem Thread.putS_line (t : Thread) (r : BitVec 5) (v : Word) : (t.putS r v).line = t.line := by
  unfold Thread.putS; split <;> rfl
@[simp] theorem Thread.putS_flows (t : Thread) (r : BitVec 5) (v : Word) : (t.putS r v).flows = t.flows := by
  unfold Thread.putS; split <;> rfl
@[simp] theorem Thread.putS_ctl (t : Thread) (r : BitVec 5) (v : Word) : (t.putS r v).ctl = t.ctl := by
  unfold Thread.putS; split <;> rfl
@[simp] theorem Thread.putS_v (t : Thread) (r : BitVec 5) (v : Word) : (t.putS r v).v = t.v := by
  unfold Thread.putS; split <;> rfl
@[simp] theorem Thread.putS_m (t : Thread) (r : BitVec 5) (v : Word) : (t.putS r v).m = t.m := by
  unfold Thread.putS; split <;> rfl
@[simp] theorem Thread.putS_e (t : Thread) (r : BitVec 5) (v : Word) : (t.putS r v).e = t.e := by
  unfold Thread.putS; split <;> rfl
@[simp] theorem Thread.putS_dq (t : Thread) (r : BitVec 5) (v : Word) : (t.putS r v).dq = t.dq := by
  unfold Thread.putS; split <;> rfl
@[simp] theorem Thread.putS_bq (t : Thread) (r : BitVec 5) (v : Word) : (t.putS r v).bq = t.bq := by
  unfold Thread.putS; split <;> rfl
@[simp] theorem Thread.putS_dropRun (t : Thread) (r : BitVec 5) (v : Word) : (t.putS r v).dropRun = t.dropRun := by
  unfold Thread.putS; split <;> rfl
@[simp] theorem Thread.putS_dropHeld (t : Thread) (r : BitVec 5) (v : Word) : (t.putS r v).dropHeld = t.dropHeld := by
  unfold Thread.putS; split <;> rfl
@[simp] theorem Thread.putS_vq (t : Thread) (r : BitVec 5) (v : Word) : (t.putS r v).vq = t.vq := by
  unfold Thread.putS; split <;> rfl
@[simp] theorem Thread.putS_xdec (t : Thread) (r : BitVec 5) (v : Word) : (t.putS r v).xdec = t.xdec := by
  unfold Thread.putS; split <;> rfl
@[simp] theorem Thread.putS_xctx (t : Thread) (r : BitVec 5) (v : Word) : (t.putS r v).xctx = t.xctx := by
  unfold Thread.putS; split <;> rfl
@[simp] theorem Thread.putS_image (t : Thread) (r : BitVec 5) (v : Word) : (t.putS r v).image = t.image := by
  unfold Thread.putS; split <;> rfl
@[simp] theorem Thread.putS_imageDec (t : Thread) (r : BitVec 5) (v : Word) : (t.putS r v).imageDec = t.imageDec := by
  unfold Thread.putS; split <;> rfl
@[simp] theorem Thread.putS_imageEnv (t : Thread) (r : BitVec 5) (v : Word) : (t.putS r v).imageEnv = t.imageEnv := by
  unfold Thread.putS; split <;> rfl
@[simp] theorem Thread.putS_shadow (t : Thread) (r : BitVec 5) (v : Word) : (t.putS r v).shadow = t.shadow := by
  unfold Thread.putS; split <;> rfl
@[simp] theorem Thread.putS_decodes (t : Thread) (r : BitVec 5) (v : Word) : (t.putS r v).decodes = t.decodes := by
  unfold Thread.putS; split <;> rfl
@[simp] theorem Thread.putS_limit (t : Thread) (r : BitVec 5) (v : Word) : (t.putS r v).limit = t.limit := by
  unfold Thread.putS; split <;> rfl
@[simp] theorem Thread.putS_rpc (t : Thread) (r : BitVec 5) (v : Word) : (t.putS r v).rpc = t.rpc := by
  unfold Thread.putS; split <;> rfl
@[simp] theorem Thread.putS_rpcReplay (t : Thread) (r : BitVec 5) (v : Word) : (t.putS r v).rpcReplay = t.rpcReplay := by
  unfold Thread.putS; split <;> rfl
@[simp] theorem Thread.putS_rpcFlows (t : Thread) (r : BitVec 5) (v : Word) : (t.putS r v).rpcFlows = t.rpcFlows := by
  unfold Thread.putS; split <;> rfl
@[simp] theorem Thread.putS_rpcDecodes (t : Thread) (r : BitVec 5) (v : Word) : (t.putS r v).rpcDecodes = t.rpcDecodes := by
  unfold Thread.putS; split <;> rfl
@[simp] theorem Thread.putS_seq (t : Thread) (r : BitVec 5) (v : Word) : (t.putS r v).seq = t.seq := by
  unfold Thread.putS; split <;> rfl
@[simp] theorem Thread.putS_replay (t : Thread) (r : BitVec 5) (v : Word) : (t.putS r v).replay = t.replay := by
  unfold Thread.putS; split <;> rfl
@[simp] theorem Thread.putS_replayHeld (t : Thread) (r : BitVec 5) (v : Word) : (t.putS r v).replayHeld = t.replayHeld := by
  unfold Thread.putS; split <;> rfl
@[simp] theorem Thread.putS_binds (t : Thread) (r : BitVec 5) (v : Word) : (t.putS r v).binds = t.binds := by
  unfold Thread.putS; split <;> rfl
@[simp] theorem Thread.putS_lanes (t : Thread) (r : BitVec 5) (v : Word) : (t.putS r v).lanes = t.lanes := by
  unfold Thread.putS; split <;> rfl
@[simp] theorem Thread.putS_laneHeld (t : Thread) (r : BitVec 5) (v : Word) : (t.putS r v).laneHeld = t.laneHeld := by
  unfold Thread.putS; split <;> rfl
@[simp] theorem Thread.putS_mchk (t : Thread) (r : BitVec 5) (v : Word) : (t.putS r v).mchk = t.mchk := by
  unfold Thread.putS; split <;> rfl
@[simp] theorem Thread.putS_mexiting (t : Thread) (r : BitVec 5) (v : Word) : (t.putS r v).mexiting = t.mexiting := by
  unfold Thread.putS; split <;> rfl
@[simp] theorem Thread.putS_mwait (t : Thread) (r : BitVec 5) (v : Word) : (t.putS r v).mwait = t.mwait := by
  unfold Thread.putS; split <;> rfl
@[simp] theorem Thread.putS_mq (t : Thread) (r : BitVec 5) (v : Word) : (t.putS r v).mq = t.mq := by
  unfold Thread.putS; split <;> rfl
@[simp] theorem Thread.putS_munit (t : Thread) (r : BitVec 5) (v : Word) : (t.putS r v).munit = t.munit := by
  unfold Thread.putS; split <;> rfl
@[simp] theorem Thread.putS_floors (t : Thread) (r : BitVec 5) (v : Word) : (t.putS r v).floors = t.floors := by
  unfold Thread.putS; split <;> rfl
@[simp] theorem Thread.putS_handles (t : Thread) (r : BitVec 5) (v : Word) : (t.putS r v).handles = t.handles := by
  unfold Thread.putS; split <;> rfl
@[simp] theorem Thread.putS_snap (t : Thread) (r : BitVec 5) (v : Word) : (t.putS r v).snap = t.snap := by
  unfold Thread.putS; split <;> rfl
@[simp] theorem Thread.putS_snapSeq (t : Thread) (r : BitVec 5) (v : Word) : (t.putS r v).snapSeq = t.snapSeq := by
  unfold Thread.putS; split <;> rfl
@[simp] theorem Thread.putS_own (t : Thread) (r : BitVec 5) (v : Word) : (t.putS r v).own = t.own := by
  unfold Thread.putS; split <;> rfl
@[simp] theorem Thread.putS_seen (t : Thread) (r : BitVec 5) (v : Word) : (t.putS r v).seen = t.seen := by
  unfold Thread.putS; split <;> rfl
@[simp] theorem Thread.putS_barCount (t : Thread) (r : BitVec 5) (v : Word) : (t.putS r v).barCount = t.barCount := by
  unfold Thread.putS; split <;> rfl
@[simp] theorem Thread.putS_arrived (t : Thread) (r : BitVec 5) (v : Word) : (t.putS r v).arrived = t.arrived := by
  unfold Thread.putS; split <;> rfl
@[simp] theorem Thread.putS_stepping (t : Thread) (r : BitVec 5) (v : Word) : (t.putS r v).stepping = t.stepping := by
  unfold Thread.putS; split <;> rfl
@[simp] theorem setV_parked (s : State) (r : Nat) (x : VReg) : (setV s r x).parked = s.parked := rfl
@[simp] theorem setV_home (s : State) (r : Nat) (x : VReg) : (setV s r x).home = s.home := rfl
@[simp] theorem setV_homeSeq (s : State) (r : Nat) (x : VReg) : (setV s r x).homeSeq = s.homeSeq := rfl
@[simp] theorem setV_narrow (s : State) (r : Nat) (x : VReg) : (setV s r x).narrow = s.narrow := rfl
@[simp] theorem setV_pubs (s : State) (r : Nat) (x : VReg) : (setV s r x).pubs = s.pubs := rfl
@[simp] theorem setV_poison (s : State) (r : Nat) (x : VReg) : (setV s r x).poison = s.poison := rfl
@[simp] theorem setV_badPages (s : State) (r : Nat) (x : VReg) : (setV s r x).badPages = s.badPages := rfl
@[simp] theorem setV_zblocks (s : State) (r : Nat) (x : VReg) : (setV s r x).zblocks = s.zblocks := rfl
@[simp] theorem setV_zpages (s : State) (r : Nat) (x : VReg) : (setV s r x).zpages = s.zpages := rfl
@[simp] theorem setV_tlbs (s : State) (r : Nat) (x : VReg) : (setV s r x).tlbs = s.tlbs := rfl
@[simp] theorem setV_folios (s : State) (r : Nat) (x : VReg) : (setV s r x).folios = s.folios := rfl
@[simp] theorem setV_parts (s : State) (r : Nat) (x : VReg) : (setV s r x).parts = s.parts := rfl
@[simp] theorem setV_cxl (s : State) (r : Nat) (x : VReg) : (setV s r x).cxl = s.cxl := rfl
@[simp] theorem setV_tethers (s : State) (r : Nat) (x : VReg) : (setV s r x).tethers = s.tethers := rfl
@[simp] theorem setV_launches (s : State) (r : Nat) (x : VReg) : (setV s r x).launches = s.launches := rfl
@[simp] theorem setV_nextLaunch (s : State) (r : Nat) (x : VReg) : (setV s r x).nextLaunch = s.nextLaunch := rfl
@[simp] theorem setV_nextUid (s : State) (r : Nat) (x : VReg) : (setV s r x).nextUid = s.nextUid := rfl
@[simp] theorem setV_ready (s : State) (r : Nat) (x : VReg) : (setV s r x).ready = s.ready := rfl
@[simp] theorem setV_spawnUsed (s : State) (r : Nat) (x : VReg) : (setV s r x).spawnUsed = s.spawnUsed := rfl
@[simp] theorem setV_spawnQueue (s : State) (r : Nat) (x : VReg) : (setV s r x).spawnQueue = s.spawnQueue := rfl
@[simp] theorem setV_conts (s : State) (r : Nat) (x : VReg) : (setV s r x).conts = s.conts := rfl
@[simp] theorem setV_nextCont (s : State) (r : Nat) (x : VReg) : (setV s r x).nextCont = s.nextCont := rfl
@[simp] theorem setV_saved (s : State) (r : Nat) (x : VReg) : (setV s r x).saved = s.saved := rfl
@[simp] theorem setV_cmds (s : State) (r : Nat) (x : VReg) : (setV s r x).cmds = s.cmds := rfl
@[simp] theorem setV_nextCmd (s : State) (r : Nat) (x : VReg) : (setV s r x).nextCmd = s.nextCmd := rfl
@[simp] theorem setV_colls (s : State) (r : Nat) (x : VReg) : (setV s r x).colls = s.colls := rfl
@[simp] theorem setV_carried (s : State) (r : Nat) (x : VReg) : (setV s r x).carried = s.carried := rfl
@[simp] theorem setV_phases (s : State) (r : Nat) (x : VReg) : (setV s r x).phases = s.phases := rfl
@[simp] theorem setV_flips (s : State) (r : Nat) (x : VReg) : (setV s r x).flips = s.flips := rfl
@[simp] theorem setV_masters (s : State) (r : Nat) (x : VReg) : (setV s r x).masters = s.masters := rfl
@[simp] theorem setV_views (s : State) (r : Nat) (x : VReg) : (setV s r x).views = s.views := rfl
@[simp] theorem setV_pools (s : State) (r : Nat) (x : VReg) : (setV s r x).pools = s.pools := rfl
@[simp] theorem setV_boundary (s : State) (r : Nat) (x : VReg) : (setV s r x).boundary = s.boundary := rfl
@[simp] theorem setV_chains (s : State) (r : Nat) (x : VReg) : (setV s r x).chains = s.chains := rfl
@[simp] theorem setV_cycle (s : State) (r : Nat) (x : VReg) : (setV s r x).cycle = s.cycle := rfl
@[simp] theorem setV_samples (s : State) (r : Nat) (x : VReg) : (setV s r x).samples = s.samples := rfl
@[simp] theorem setV_errLog (s : State) (r : Nat) (x : VReg) : (setV s r x).errLog = s.errLog := rfl
@[simp] theorem setV_errLost (s : State) (r : Nat) (x : VReg) : (setV s r x).errLost = s.errLost := rfl
@[simp] theorem setV_hlog (s : State) (r : Nat) (x : VReg) : (setV s r x).hlog = s.hlog := rfl
@[simp] theorem setV_codices (s : State) (r : Nat) (x : VReg) : (setV s r x).codices = s.codices := rfl
@[simp] theorem setV_replies (s : State) (r : Nat) (x : VReg) : (setV s r x).replies = s.replies := rfl
@[simp] theorem setV_granted (s : State) (r : Nat) (x : VReg) : (setV s r x).granted = s.granted := rfl
@[simp] theorem setV_issued (s : State) (r : Nat) (x : VReg) : (setV s r x).issued = s.issued := rfl
@[simp] theorem setV_arbiter (s : State) (r : Nat) (x : VReg) : (setV s r x).arbiter = s.arbiter := rfl
@[simp] theorem setV_moves (s : State) (r : Nat) (x : VReg) : (setV s r x).moves = s.moves := rfl
@[simp] theorem setV_agenda (s : State) (r : Nat) (x : VReg) : (setV s r x).agenda = s.agenda := rfl
@[simp] theorem setV_stalled (s : State) (r : Nat) (x : VReg) : (setV s r x).stalled = s.stalled := rfl
@[simp] theorem setV_fresh (s : State) (r : Nat) (x : VReg) : (setV s r x).fresh = s.fresh := rfl
@[simp] theorem setV_boots (s : State) (r : Nat) (x : VReg) : (setV s r x).boots = s.boots := rfl
@[simp] theorem setV_t_uid (s : State) (r : Nat) (x : VReg) : (setV s r x).t.uid = s.t.uid := rfl
@[simp] theorem setV_t_core (s : State) (r : Nat) (x : VReg) : (setV s r x).t.core = s.t.core := rfl
@[simp] theorem setV_t_slot (s : State) (r : Nat) (x : VReg) : (setV s r x).t.slot = s.t.slot := rfl
@[simp] theorem setV_t_part (s : State) (r : Nat) (x : VReg) : (setV s r x).t.part = s.t.part := rfl
@[simp] theorem setV_t_launch (s : State) (r : Nat) (x : VReg) : (setV s r x).t.launch = s.t.launch := rfl
@[simp] theorem setV_t_node (s : State) (r : Nat) (x : VReg) : (setV s r x).t.node = s.t.node := rfl
@[simp] theorem setV_t_spawned (s : State) (r : Nat) (x : VReg) : (setV s r x).t.spawned = s.t.spawned := rfl
@[simp] theorem setV_t_team (s : State) (r : Nat) (x : VReg) : (setV s r x).t.team = s.t.team := rfl
@[simp] theorem setV_t_tci (s : State) (r : Nat) (x : VReg) : (setV s r x).t.tci = s.t.tci := rfl
@[simp] theorem setV_t_prio (s : State) (r : Nat) (x : VReg) : (setV s r x).t.prio = s.t.prio := rfl
@[simp] theorem setV_t_kind (s : State) (r : Nat) (x : VReg) : (setV s r x).t.kind = s.t.kind := rfl
@[simp] theorem setV_t_spawnCb (s : State) (r : Nat) (x : VReg) : (setV s r x).t.spawnCb = s.t.spawnCb := rfl
@[simp] theorem setV_t_spawnDesc (s : State) (r : Nat) (x : VReg) : (setV s r x).t.spawnDesc = s.t.spawnDesc := rfl
@[simp] theorem setV_t_arg (s : State) (r : Nat) (x : VReg) : (setV s r x).t.arg = s.t.arg := rfl
@[simp] theorem setV_t_stack (s : State) (r : Nat) (x : VReg) : (setV s r x).t.stack = s.t.stack := rfl
@[simp] theorem setV_t_status (s : State) (r : Nat) (x : VReg) : (setV s r x).t.status = s.t.status := rfl
@[simp] theorem setV_t_s (s : State) (r : Nat) (x : VReg) : (setV s r x).t.s = s.t.s := rfl
@[simp] theorem setV_t_pc (s : State) (r : Nat) (x : VReg) : (setV s r x).t.pc = s.t.pc := rfl
@[simp] theorem setV_t_line (s : State) (r : Nat) (x : VReg) : (setV s r x).t.line = s.t.line := rfl
@[simp] theorem setV_t_flows (s : State) (r : Nat) (x : VReg) : (setV s r x).t.flows = s.t.flows := rfl
@[simp] theorem setV_t_ctl (s : State) (r : Nat) (x : VReg) : (setV s r x).t.ctl = s.t.ctl := rfl
@[simp] theorem setV_t_m (s : State) (r : Nat) (x : VReg) : (setV s r x).t.m = s.t.m := rfl
@[simp] theorem setV_t_e (s : State) (r : Nat) (x : VReg) : (setV s r x).t.e = s.t.e := rfl
@[simp] theorem setV_t_dq (s : State) (r : Nat) (x : VReg) : (setV s r x).t.dq = s.t.dq := rfl
@[simp] theorem setV_t_bq (s : State) (r : Nat) (x : VReg) : (setV s r x).t.bq = s.t.bq := rfl
@[simp] theorem setV_t_dropRun (s : State) (r : Nat) (x : VReg) : (setV s r x).t.dropRun = s.t.dropRun := rfl
@[simp] theorem setV_t_dropHeld (s : State) (r : Nat) (x : VReg) : (setV s r x).t.dropHeld = s.t.dropHeld := rfl
@[simp] theorem setV_t_vq (s : State) (r : Nat) (x : VReg) : (setV s r x).t.vq = s.t.vq := rfl
@[simp] theorem setV_t_xdec (s : State) (r : Nat) (x : VReg) : (setV s r x).t.xdec = s.t.xdec := rfl
@[simp] theorem setV_t_xctx (s : State) (r : Nat) (x : VReg) : (setV s r x).t.xctx = s.t.xctx := rfl
@[simp] theorem setV_t_image (s : State) (r : Nat) (x : VReg) : (setV s r x).t.image = s.t.image := rfl
@[simp] theorem setV_t_imageDec (s : State) (r : Nat) (x : VReg) : (setV s r x).t.imageDec = s.t.imageDec := rfl
@[simp] theorem setV_t_imageEnv (s : State) (r : Nat) (x : VReg) : (setV s r x).t.imageEnv = s.t.imageEnv := rfl
@[simp] theorem setV_t_shadow (s : State) (r : Nat) (x : VReg) : (setV s r x).t.shadow = s.t.shadow := rfl
@[simp] theorem setV_t_decodes (s : State) (r : Nat) (x : VReg) : (setV s r x).t.decodes = s.t.decodes := rfl
@[simp] theorem setV_t_limit (s : State) (r : Nat) (x : VReg) : (setV s r x).t.limit = s.t.limit := rfl
@[simp] theorem setV_t_rpc (s : State) (r : Nat) (x : VReg) : (setV s r x).t.rpc = s.t.rpc := rfl
@[simp] theorem setV_t_rpcReplay (s : State) (r : Nat) (x : VReg) : (setV s r x).t.rpcReplay = s.t.rpcReplay := rfl
@[simp] theorem setV_t_rpcFlows (s : State) (r : Nat) (x : VReg) : (setV s r x).t.rpcFlows = s.t.rpcFlows := rfl
@[simp] theorem setV_t_rpcDecodes (s : State) (r : Nat) (x : VReg) : (setV s r x).t.rpcDecodes = s.t.rpcDecodes := rfl
@[simp] theorem setV_t_seq (s : State) (r : Nat) (x : VReg) : (setV s r x).t.seq = s.t.seq := rfl
@[simp] theorem setV_t_replay (s : State) (r : Nat) (x : VReg) : (setV s r x).t.replay = s.t.replay := rfl
@[simp] theorem setV_t_replayHeld (s : State) (r : Nat) (x : VReg) : (setV s r x).t.replayHeld = s.t.replayHeld := rfl
@[simp] theorem setV_t_binds (s : State) (r : Nat) (x : VReg) : (setV s r x).t.binds = s.t.binds := rfl
@[simp] theorem setV_t_lanes (s : State) (r : Nat) (x : VReg) : (setV s r x).t.lanes = s.t.lanes := rfl
@[simp] theorem setV_t_laneHeld (s : State) (r : Nat) (x : VReg) : (setV s r x).t.laneHeld = s.t.laneHeld := rfl
@[simp] theorem setV_t_mchk (s : State) (r : Nat) (x : VReg) : (setV s r x).t.mchk = s.t.mchk := rfl
@[simp] theorem setV_t_mexiting (s : State) (r : Nat) (x : VReg) : (setV s r x).t.mexiting = s.t.mexiting := rfl
@[simp] theorem setV_t_mwait (s : State) (r : Nat) (x : VReg) : (setV s r x).t.mwait = s.t.mwait := rfl
@[simp] theorem setV_t_mq (s : State) (r : Nat) (x : VReg) : (setV s r x).t.mq = s.t.mq := rfl
@[simp] theorem setV_t_munit (s : State) (r : Nat) (x : VReg) : (setV s r x).t.munit = s.t.munit := rfl
@[simp] theorem setV_t_floors (s : State) (r : Nat) (x : VReg) : (setV s r x).t.floors = s.t.floors := rfl
@[simp] theorem setV_t_handles (s : State) (r : Nat) (x : VReg) : (setV s r x).t.handles = s.t.handles := rfl
@[simp] theorem setV_t_snap (s : State) (r : Nat) (x : VReg) : (setV s r x).t.snap = s.t.snap := rfl
@[simp] theorem setV_t_snapSeq (s : State) (r : Nat) (x : VReg) : (setV s r x).t.snapSeq = s.t.snapSeq := rfl
@[simp] theorem setV_t_own (s : State) (r : Nat) (x : VReg) : (setV s r x).t.own = s.t.own := rfl
@[simp] theorem setV_t_seen (s : State) (r : Nat) (x : VReg) : (setV s r x).t.seen = s.t.seen := rfl
@[simp] theorem setV_t_barCount (s : State) (r : Nat) (x : VReg) : (setV s r x).t.barCount = s.t.barCount := rfl
@[simp] theorem setV_t_arrived (s : State) (r : Nat) (x : VReg) : (setV s r x).t.arrived = s.t.arrived := rfl
@[simp] theorem setV_t_stepping (s : State) (r : Nat) (x : VReg) : (setV s r x).t.stepping = s.t.stepping := rfl
@[simp] theorem setV_v (s : State) (r : Nat) (x : VReg) : (setV s r x).t.v = s.t.v.setIfInBounds r x := rfl
@[simp] theorem setM_parked (s : State) (r : Nat) (x : VReg) : (setM s r x).parked = s.parked := by
  unfold setM; split <;> rfl
@[simp] theorem setM_home (s : State) (r : Nat) (x : VReg) : (setM s r x).home = s.home := by
  unfold setM; split <;> rfl
@[simp] theorem setM_homeSeq (s : State) (r : Nat) (x : VReg) : (setM s r x).homeSeq = s.homeSeq := by
  unfold setM; split <;> rfl
@[simp] theorem setM_narrow (s : State) (r : Nat) (x : VReg) : (setM s r x).narrow = s.narrow := by
  unfold setM; split <;> rfl
@[simp] theorem setM_pubs (s : State) (r : Nat) (x : VReg) : (setM s r x).pubs = s.pubs := by
  unfold setM; split <;> rfl
@[simp] theorem setM_poison (s : State) (r : Nat) (x : VReg) : (setM s r x).poison = s.poison := by
  unfold setM; split <;> rfl
@[simp] theorem setM_badPages (s : State) (r : Nat) (x : VReg) : (setM s r x).badPages = s.badPages := by
  unfold setM; split <;> rfl
@[simp] theorem setM_zblocks (s : State) (r : Nat) (x : VReg) : (setM s r x).zblocks = s.zblocks := by
  unfold setM; split <;> rfl
@[simp] theorem setM_zpages (s : State) (r : Nat) (x : VReg) : (setM s r x).zpages = s.zpages := by
  unfold setM; split <;> rfl
@[simp] theorem setM_tlbs (s : State) (r : Nat) (x : VReg) : (setM s r x).tlbs = s.tlbs := by
  unfold setM; split <;> rfl
@[simp] theorem setM_folios (s : State) (r : Nat) (x : VReg) : (setM s r x).folios = s.folios := by
  unfold setM; split <;> rfl
@[simp] theorem setM_parts (s : State) (r : Nat) (x : VReg) : (setM s r x).parts = s.parts := by
  unfold setM; split <;> rfl
@[simp] theorem setM_cxl (s : State) (r : Nat) (x : VReg) : (setM s r x).cxl = s.cxl := by
  unfold setM; split <;> rfl
@[simp] theorem setM_tethers (s : State) (r : Nat) (x : VReg) : (setM s r x).tethers = s.tethers := by
  unfold setM; split <;> rfl
@[simp] theorem setM_launches (s : State) (r : Nat) (x : VReg) : (setM s r x).launches = s.launches := by
  unfold setM; split <;> rfl
@[simp] theorem setM_nextLaunch (s : State) (r : Nat) (x : VReg) : (setM s r x).nextLaunch = s.nextLaunch := by
  unfold setM; split <;> rfl
@[simp] theorem setM_nextUid (s : State) (r : Nat) (x : VReg) : (setM s r x).nextUid = s.nextUid := by
  unfold setM; split <;> rfl
@[simp] theorem setM_ready (s : State) (r : Nat) (x : VReg) : (setM s r x).ready = s.ready := by
  unfold setM; split <;> rfl
@[simp] theorem setM_spawnUsed (s : State) (r : Nat) (x : VReg) : (setM s r x).spawnUsed = s.spawnUsed := by
  unfold setM; split <;> rfl
@[simp] theorem setM_spawnQueue (s : State) (r : Nat) (x : VReg) : (setM s r x).spawnQueue = s.spawnQueue := by
  unfold setM; split <;> rfl
@[simp] theorem setM_conts (s : State) (r : Nat) (x : VReg) : (setM s r x).conts = s.conts := by
  unfold setM; split <;> rfl
@[simp] theorem setM_nextCont (s : State) (r : Nat) (x : VReg) : (setM s r x).nextCont = s.nextCont := by
  unfold setM; split <;> rfl
@[simp] theorem setM_saved (s : State) (r : Nat) (x : VReg) : (setM s r x).saved = s.saved := by
  unfold setM; split <;> rfl
@[simp] theorem setM_cmds (s : State) (r : Nat) (x : VReg) : (setM s r x).cmds = s.cmds := by
  unfold setM; split <;> rfl
@[simp] theorem setM_nextCmd (s : State) (r : Nat) (x : VReg) : (setM s r x).nextCmd = s.nextCmd := by
  unfold setM; split <;> rfl
@[simp] theorem setM_colls (s : State) (r : Nat) (x : VReg) : (setM s r x).colls = s.colls := by
  unfold setM; split <;> rfl
@[simp] theorem setM_carried (s : State) (r : Nat) (x : VReg) : (setM s r x).carried = s.carried := by
  unfold setM; split <;> rfl
@[simp] theorem setM_phases (s : State) (r : Nat) (x : VReg) : (setM s r x).phases = s.phases := by
  unfold setM; split <;> rfl
@[simp] theorem setM_flips (s : State) (r : Nat) (x : VReg) : (setM s r x).flips = s.flips := by
  unfold setM; split <;> rfl
@[simp] theorem setM_masters (s : State) (r : Nat) (x : VReg) : (setM s r x).masters = s.masters := by
  unfold setM; split <;> rfl
@[simp] theorem setM_views (s : State) (r : Nat) (x : VReg) : (setM s r x).views = s.views := by
  unfold setM; split <;> rfl
@[simp] theorem setM_pools (s : State) (r : Nat) (x : VReg) : (setM s r x).pools = s.pools := by
  unfold setM; split <;> rfl
@[simp] theorem setM_boundary (s : State) (r : Nat) (x : VReg) : (setM s r x).boundary = s.boundary := by
  unfold setM; split <;> rfl
@[simp] theorem setM_chains (s : State) (r : Nat) (x : VReg) : (setM s r x).chains = s.chains := by
  unfold setM; split <;> rfl
@[simp] theorem setM_cycle (s : State) (r : Nat) (x : VReg) : (setM s r x).cycle = s.cycle := by
  unfold setM; split <;> rfl
@[simp] theorem setM_samples (s : State) (r : Nat) (x : VReg) : (setM s r x).samples = s.samples := by
  unfold setM; split <;> rfl
@[simp] theorem setM_errLog (s : State) (r : Nat) (x : VReg) : (setM s r x).errLog = s.errLog := by
  unfold setM; split <;> rfl
@[simp] theorem setM_errLost (s : State) (r : Nat) (x : VReg) : (setM s r x).errLost = s.errLost := by
  unfold setM; split <;> rfl
@[simp] theorem setM_hlog (s : State) (r : Nat) (x : VReg) : (setM s r x).hlog = s.hlog := by
  unfold setM; split <;> rfl
@[simp] theorem setM_codices (s : State) (r : Nat) (x : VReg) : (setM s r x).codices = s.codices := by
  unfold setM; split <;> rfl
@[simp] theorem setM_replies (s : State) (r : Nat) (x : VReg) : (setM s r x).replies = s.replies := by
  unfold setM; split <;> rfl
@[simp] theorem setM_granted (s : State) (r : Nat) (x : VReg) : (setM s r x).granted = s.granted := by
  unfold setM; split <;> rfl
@[simp] theorem setM_issued (s : State) (r : Nat) (x : VReg) : (setM s r x).issued = s.issued := by
  unfold setM; split <;> rfl
@[simp] theorem setM_arbiter (s : State) (r : Nat) (x : VReg) : (setM s r x).arbiter = s.arbiter := by
  unfold setM; split <;> rfl
@[simp] theorem setM_moves (s : State) (r : Nat) (x : VReg) : (setM s r x).moves = s.moves := by
  unfold setM; split <;> rfl
@[simp] theorem setM_agenda (s : State) (r : Nat) (x : VReg) : (setM s r x).agenda = s.agenda := by
  unfold setM; split <;> rfl
@[simp] theorem setM_stalled (s : State) (r : Nat) (x : VReg) : (setM s r x).stalled = s.stalled := by
  unfold setM; split <;> rfl
@[simp] theorem setM_fresh (s : State) (r : Nat) (x : VReg) : (setM s r x).fresh = s.fresh := by
  unfold setM; split <;> rfl
@[simp] theorem setM_boots (s : State) (r : Nat) (x : VReg) : (setM s r x).boots = s.boots := by
  unfold setM; split <;> rfl
@[simp] theorem setM_t_uid (s : State) (r : Nat) (x : VReg) : (setM s r x).t.uid = s.t.uid := by
  unfold setM; split <;> rfl
@[simp] theorem setM_t_core (s : State) (r : Nat) (x : VReg) : (setM s r x).t.core = s.t.core := by
  unfold setM; split <;> rfl
@[simp] theorem setM_t_slot (s : State) (r : Nat) (x : VReg) : (setM s r x).t.slot = s.t.slot := by
  unfold setM; split <;> rfl
@[simp] theorem setM_t_part (s : State) (r : Nat) (x : VReg) : (setM s r x).t.part = s.t.part := by
  unfold setM; split <;> rfl
@[simp] theorem setM_t_launch (s : State) (r : Nat) (x : VReg) : (setM s r x).t.launch = s.t.launch := by
  unfold setM; split <;> rfl
@[simp] theorem setM_t_node (s : State) (r : Nat) (x : VReg) : (setM s r x).t.node = s.t.node := by
  unfold setM; split <;> rfl
@[simp] theorem setM_t_spawned (s : State) (r : Nat) (x : VReg) : (setM s r x).t.spawned = s.t.spawned := by
  unfold setM; split <;> rfl
@[simp] theorem setM_t_team (s : State) (r : Nat) (x : VReg) : (setM s r x).t.team = s.t.team := by
  unfold setM; split <;> rfl
@[simp] theorem setM_t_tci (s : State) (r : Nat) (x : VReg) : (setM s r x).t.tci = s.t.tci := by
  unfold setM; split <;> rfl
@[simp] theorem setM_t_prio (s : State) (r : Nat) (x : VReg) : (setM s r x).t.prio = s.t.prio := by
  unfold setM; split <;> rfl
@[simp] theorem setM_t_kind (s : State) (r : Nat) (x : VReg) : (setM s r x).t.kind = s.t.kind := by
  unfold setM; split <;> rfl
@[simp] theorem setM_t_spawnCb (s : State) (r : Nat) (x : VReg) : (setM s r x).t.spawnCb = s.t.spawnCb := by
  unfold setM; split <;> rfl
@[simp] theorem setM_t_spawnDesc (s : State) (r : Nat) (x : VReg) : (setM s r x).t.spawnDesc = s.t.spawnDesc := by
  unfold setM; split <;> rfl
@[simp] theorem setM_t_arg (s : State) (r : Nat) (x : VReg) : (setM s r x).t.arg = s.t.arg := by
  unfold setM; split <;> rfl
@[simp] theorem setM_t_stack (s : State) (r : Nat) (x : VReg) : (setM s r x).t.stack = s.t.stack := by
  unfold setM; split <;> rfl
@[simp] theorem setM_t_status (s : State) (r : Nat) (x : VReg) : (setM s r x).t.status = s.t.status := by
  unfold setM; split <;> rfl
@[simp] theorem setM_t_s (s : State) (r : Nat) (x : VReg) : (setM s r x).t.s = s.t.s := by
  unfold setM; split <;> rfl
@[simp] theorem setM_t_pc (s : State) (r : Nat) (x : VReg) : (setM s r x).t.pc = s.t.pc := by
  unfold setM; split <;> rfl
@[simp] theorem setM_t_line (s : State) (r : Nat) (x : VReg) : (setM s r x).t.line = s.t.line := by
  unfold setM; split <;> rfl
@[simp] theorem setM_t_flows (s : State) (r : Nat) (x : VReg) : (setM s r x).t.flows = s.t.flows := by
  unfold setM; split <;> rfl
@[simp] theorem setM_t_ctl (s : State) (r : Nat) (x : VReg) : (setM s r x).t.ctl = s.t.ctl := by
  unfold setM; split <;> rfl
@[simp] theorem setM_t_v (s : State) (r : Nat) (x : VReg) : (setM s r x).t.v = s.t.v := by
  unfold setM; split <;> rfl
@[simp] theorem setM_t_e (s : State) (r : Nat) (x : VReg) : (setM s r x).t.e = s.t.e := by
  unfold setM; split <;> rfl
@[simp] theorem setM_t_dq (s : State) (r : Nat) (x : VReg) : (setM s r x).t.dq = s.t.dq := by
  unfold setM; split <;> rfl
@[simp] theorem setM_t_bq (s : State) (r : Nat) (x : VReg) : (setM s r x).t.bq = s.t.bq := by
  unfold setM; split <;> rfl
@[simp] theorem setM_t_dropRun (s : State) (r : Nat) (x : VReg) : (setM s r x).t.dropRun = s.t.dropRun := by
  unfold setM; split <;> rfl
@[simp] theorem setM_t_dropHeld (s : State) (r : Nat) (x : VReg) : (setM s r x).t.dropHeld = s.t.dropHeld := by
  unfold setM; split <;> rfl
@[simp] theorem setM_t_vq (s : State) (r : Nat) (x : VReg) : (setM s r x).t.vq = s.t.vq := by
  unfold setM; split <;> rfl
@[simp] theorem setM_t_xdec (s : State) (r : Nat) (x : VReg) : (setM s r x).t.xdec = s.t.xdec := by
  unfold setM; split <;> rfl
@[simp] theorem setM_t_xctx (s : State) (r : Nat) (x : VReg) : (setM s r x).t.xctx = s.t.xctx := by
  unfold setM; split <;> rfl
@[simp] theorem setM_t_image (s : State) (r : Nat) (x : VReg) : (setM s r x).t.image = s.t.image := by
  unfold setM; split <;> rfl
@[simp] theorem setM_t_imageDec (s : State) (r : Nat) (x : VReg) : (setM s r x).t.imageDec = s.t.imageDec := by
  unfold setM; split <;> rfl
@[simp] theorem setM_t_imageEnv (s : State) (r : Nat) (x : VReg) : (setM s r x).t.imageEnv = s.t.imageEnv := by
  unfold setM; split <;> rfl
@[simp] theorem setM_t_shadow (s : State) (r : Nat) (x : VReg) : (setM s r x).t.shadow = s.t.shadow := by
  unfold setM; split <;> rfl
@[simp] theorem setM_t_decodes (s : State) (r : Nat) (x : VReg) : (setM s r x).t.decodes = s.t.decodes := by
  unfold setM; split <;> rfl
@[simp] theorem setM_t_limit (s : State) (r : Nat) (x : VReg) : (setM s r x).t.limit = s.t.limit := by
  unfold setM; split <;> rfl
@[simp] theorem setM_t_rpc (s : State) (r : Nat) (x : VReg) : (setM s r x).t.rpc = s.t.rpc := by
  unfold setM; split <;> rfl
@[simp] theorem setM_t_rpcReplay (s : State) (r : Nat) (x : VReg) : (setM s r x).t.rpcReplay = s.t.rpcReplay := by
  unfold setM; split <;> rfl
@[simp] theorem setM_t_rpcFlows (s : State) (r : Nat) (x : VReg) : (setM s r x).t.rpcFlows = s.t.rpcFlows := by
  unfold setM; split <;> rfl
@[simp] theorem setM_t_rpcDecodes (s : State) (r : Nat) (x : VReg) : (setM s r x).t.rpcDecodes = s.t.rpcDecodes := by
  unfold setM; split <;> rfl
@[simp] theorem setM_t_seq (s : State) (r : Nat) (x : VReg) : (setM s r x).t.seq = s.t.seq := by
  unfold setM; split <;> rfl
@[simp] theorem setM_t_replay (s : State) (r : Nat) (x : VReg) : (setM s r x).t.replay = s.t.replay := by
  unfold setM; split <;> rfl
@[simp] theorem setM_t_replayHeld (s : State) (r : Nat) (x : VReg) : (setM s r x).t.replayHeld = s.t.replayHeld := by
  unfold setM; split <;> rfl
@[simp] theorem setM_t_binds (s : State) (r : Nat) (x : VReg) : (setM s r x).t.binds = s.t.binds := by
  unfold setM; split <;> rfl
@[simp] theorem setM_t_lanes (s : State) (r : Nat) (x : VReg) : (setM s r x).t.lanes = s.t.lanes := by
  unfold setM; split <;> rfl
@[simp] theorem setM_t_laneHeld (s : State) (r : Nat) (x : VReg) : (setM s r x).t.laneHeld = s.t.laneHeld := by
  unfold setM; split <;> rfl
@[simp] theorem setM_t_mchk (s : State) (r : Nat) (x : VReg) : (setM s r x).t.mchk = s.t.mchk := by
  unfold setM; split <;> rfl
@[simp] theorem setM_t_mexiting (s : State) (r : Nat) (x : VReg) : (setM s r x).t.mexiting = s.t.mexiting := by
  unfold setM; split <;> rfl
@[simp] theorem setM_t_mwait (s : State) (r : Nat) (x : VReg) : (setM s r x).t.mwait = s.t.mwait := by
  unfold setM; split <;> rfl
@[simp] theorem setM_t_mq (s : State) (r : Nat) (x : VReg) : (setM s r x).t.mq = s.t.mq := by
  unfold setM; split <;> rfl
@[simp] theorem setM_t_munit (s : State) (r : Nat) (x : VReg) : (setM s r x).t.munit = s.t.munit := by
  unfold setM; split <;> rfl
@[simp] theorem setM_t_floors (s : State) (r : Nat) (x : VReg) : (setM s r x).t.floors = s.t.floors := by
  unfold setM; split <;> rfl
@[simp] theorem setM_t_handles (s : State) (r : Nat) (x : VReg) : (setM s r x).t.handles = s.t.handles := by
  unfold setM; split <;> rfl
@[simp] theorem setM_t_snap (s : State) (r : Nat) (x : VReg) : (setM s r x).t.snap = s.t.snap := by
  unfold setM; split <;> rfl
@[simp] theorem setM_t_snapSeq (s : State) (r : Nat) (x : VReg) : (setM s r x).t.snapSeq = s.t.snapSeq := by
  unfold setM; split <;> rfl
@[simp] theorem setM_t_own (s : State) (r : Nat) (x : VReg) : (setM s r x).t.own = s.t.own := by
  unfold setM; split <;> rfl
@[simp] theorem setM_t_seen (s : State) (r : Nat) (x : VReg) : (setM s r x).t.seen = s.t.seen := by
  unfold setM; split <;> rfl
@[simp] theorem setM_t_barCount (s : State) (r : Nat) (x : VReg) : (setM s r x).t.barCount = s.t.barCount := by
  unfold setM; split <;> rfl
@[simp] theorem setM_t_arrived (s : State) (r : Nat) (x : VReg) : (setM s r x).t.arrived = s.t.arrived := by
  unfold setM; split <;> rfl
@[simp] theorem setM_t_stepping (s : State) (r : Nat) (x : VReg) : (setM s r x).t.stepping = s.t.stepping := by
  unfold setM; split <;> rfl

/-- All that writing an s register can change: the running thread's s registers and the marks on its queues. -/
theorem setS_eq (s : State) (r : BitVec 5) (v : Word) :
    setS s r v = { s with t := { s.t with s := (setS s r v).t.s, vq := (setS s r v).t.vq, xdec := (setS s r v).t.xdec } } := by
  unfold setS State.updT Thread.putS
  split
  · split
    · rfl
    · split <;> rfl
  · split <;> rfl

@[simp] theorem setS_parked (s : State) (r : BitVec 5) (v : Word) : (setS s r v).parked = s.parked := by rw [setS_eq]
@[simp] theorem setS_home (s : State) (r : BitVec 5) (v : Word) : (setS s r v).home = s.home := by rw [setS_eq]
@[simp] theorem setS_homeSeq (s : State) (r : BitVec 5) (v : Word) : (setS s r v).homeSeq = s.homeSeq := by rw [setS_eq]
@[simp] theorem setS_narrow (s : State) (r : BitVec 5) (v : Word) : (setS s r v).narrow = s.narrow := by rw [setS_eq]
@[simp] theorem setS_pubs (s : State) (r : BitVec 5) (v : Word) : (setS s r v).pubs = s.pubs := by rw [setS_eq]
@[simp] theorem setS_poison (s : State) (r : BitVec 5) (v : Word) : (setS s r v).poison = s.poison := by rw [setS_eq]
@[simp] theorem setS_badPages (s : State) (r : BitVec 5) (v : Word) : (setS s r v).badPages = s.badPages := by rw [setS_eq]
@[simp] theorem setS_zblocks (s : State) (r : BitVec 5) (v : Word) : (setS s r v).zblocks = s.zblocks := by rw [setS_eq]
@[simp] theorem setS_zpages (s : State) (r : BitVec 5) (v : Word) : (setS s r v).zpages = s.zpages := by rw [setS_eq]
@[simp] theorem setS_tlbs (s : State) (r : BitVec 5) (v : Word) : (setS s r v).tlbs = s.tlbs := by rw [setS_eq]
@[simp] theorem setS_folios (s : State) (r : BitVec 5) (v : Word) : (setS s r v).folios = s.folios := by rw [setS_eq]
@[simp] theorem setS_parts (s : State) (r : BitVec 5) (v : Word) : (setS s r v).parts = s.parts := by rw [setS_eq]
@[simp] theorem setS_cxl (s : State) (r : BitVec 5) (v : Word) : (setS s r v).cxl = s.cxl := by rw [setS_eq]
@[simp] theorem setS_tethers (s : State) (r : BitVec 5) (v : Word) : (setS s r v).tethers = s.tethers := by rw [setS_eq]
@[simp] theorem setS_launches (s : State) (r : BitVec 5) (v : Word) : (setS s r v).launches = s.launches := by rw [setS_eq]
@[simp] theorem setS_nextLaunch (s : State) (r : BitVec 5) (v : Word) : (setS s r v).nextLaunch = s.nextLaunch := by rw [setS_eq]
@[simp] theorem setS_nextUid (s : State) (r : BitVec 5) (v : Word) : (setS s r v).nextUid = s.nextUid := by rw [setS_eq]
@[simp] theorem setS_ready (s : State) (r : BitVec 5) (v : Word) : (setS s r v).ready = s.ready := by rw [setS_eq]
@[simp] theorem setS_spawnUsed (s : State) (r : BitVec 5) (v : Word) : (setS s r v).spawnUsed = s.spawnUsed := by rw [setS_eq]
@[simp] theorem setS_spawnQueue (s : State) (r : BitVec 5) (v : Word) : (setS s r v).spawnQueue = s.spawnQueue := by rw [setS_eq]
@[simp] theorem setS_conts (s : State) (r : BitVec 5) (v : Word) : (setS s r v).conts = s.conts := by rw [setS_eq]
@[simp] theorem setS_nextCont (s : State) (r : BitVec 5) (v : Word) : (setS s r v).nextCont = s.nextCont := by rw [setS_eq]
@[simp] theorem setS_saved (s : State) (r : BitVec 5) (v : Word) : (setS s r v).saved = s.saved := by rw [setS_eq]
@[simp] theorem setS_cmds (s : State) (r : BitVec 5) (v : Word) : (setS s r v).cmds = s.cmds := by rw [setS_eq]
@[simp] theorem setS_nextCmd (s : State) (r : BitVec 5) (v : Word) : (setS s r v).nextCmd = s.nextCmd := by rw [setS_eq]
@[simp] theorem setS_colls (s : State) (r : BitVec 5) (v : Word) : (setS s r v).colls = s.colls := by rw [setS_eq]
@[simp] theorem setS_carried (s : State) (r : BitVec 5) (v : Word) : (setS s r v).carried = s.carried := by rw [setS_eq]
@[simp] theorem setS_phases (s : State) (r : BitVec 5) (v : Word) : (setS s r v).phases = s.phases := by rw [setS_eq]
@[simp] theorem setS_flips (s : State) (r : BitVec 5) (v : Word) : (setS s r v).flips = s.flips := by rw [setS_eq]
@[simp] theorem setS_masters (s : State) (r : BitVec 5) (v : Word) : (setS s r v).masters = s.masters := by rw [setS_eq]
@[simp] theorem setS_views (s : State) (r : BitVec 5) (v : Word) : (setS s r v).views = s.views := by rw [setS_eq]
@[simp] theorem setS_pools (s : State) (r : BitVec 5) (v : Word) : (setS s r v).pools = s.pools := by rw [setS_eq]
@[simp] theorem setS_boundary (s : State) (r : BitVec 5) (v : Word) : (setS s r v).boundary = s.boundary := by rw [setS_eq]
@[simp] theorem setS_chains (s : State) (r : BitVec 5) (v : Word) : (setS s r v).chains = s.chains := by rw [setS_eq]
@[simp] theorem setS_cycle (s : State) (r : BitVec 5) (v : Word) : (setS s r v).cycle = s.cycle := by rw [setS_eq]
@[simp] theorem setS_samples (s : State) (r : BitVec 5) (v : Word) : (setS s r v).samples = s.samples := by rw [setS_eq]
@[simp] theorem setS_errLog (s : State) (r : BitVec 5) (v : Word) : (setS s r v).errLog = s.errLog := by rw [setS_eq]
@[simp] theorem setS_errLost (s : State) (r : BitVec 5) (v : Word) : (setS s r v).errLost = s.errLost := by rw [setS_eq]
@[simp] theorem setS_hlog (s : State) (r : BitVec 5) (v : Word) : (setS s r v).hlog = s.hlog := by rw [setS_eq]
@[simp] theorem setS_codices (s : State) (r : BitVec 5) (v : Word) : (setS s r v).codices = s.codices := by rw [setS_eq]
@[simp] theorem setS_replies (s : State) (r : BitVec 5) (v : Word) : (setS s r v).replies = s.replies := by rw [setS_eq]
@[simp] theorem setS_granted (s : State) (r : BitVec 5) (v : Word) : (setS s r v).granted = s.granted := by rw [setS_eq]
@[simp] theorem setS_issued (s : State) (r : BitVec 5) (v : Word) : (setS s r v).issued = s.issued := by rw [setS_eq]
@[simp] theorem setS_arbiter (s : State) (r : BitVec 5) (v : Word) : (setS s r v).arbiter = s.arbiter := by rw [setS_eq]
@[simp] theorem setS_moves (s : State) (r : BitVec 5) (v : Word) : (setS s r v).moves = s.moves := by rw [setS_eq]
@[simp] theorem setS_agenda (s : State) (r : BitVec 5) (v : Word) : (setS s r v).agenda = s.agenda := by rw [setS_eq]
@[simp] theorem setS_stalled (s : State) (r : BitVec 5) (v : Word) : (setS s r v).stalled = s.stalled := by rw [setS_eq]
@[simp] theorem setS_fresh (s : State) (r : BitVec 5) (v : Word) : (setS s r v).fresh = s.fresh := by rw [setS_eq]
@[simp] theorem setS_boots (s : State) (r : BitVec 5) (v : Word) : (setS s r v).boots = s.boots := by rw [setS_eq]
@[simp] theorem setS_t_uid (s : State) (r : BitVec 5) (v : Word) : (setS s r v).t.uid = s.t.uid := by rw [setS_eq]
@[simp] theorem setS_t_core (s : State) (r : BitVec 5) (v : Word) : (setS s r v).t.core = s.t.core := by rw [setS_eq]
@[simp] theorem setS_t_slot (s : State) (r : BitVec 5) (v : Word) : (setS s r v).t.slot = s.t.slot := by rw [setS_eq]
@[simp] theorem setS_t_part (s : State) (r : BitVec 5) (v : Word) : (setS s r v).t.part = s.t.part := by rw [setS_eq]
@[simp] theorem setS_t_launch (s : State) (r : BitVec 5) (v : Word) : (setS s r v).t.launch = s.t.launch := by rw [setS_eq]
@[simp] theorem setS_t_node (s : State) (r : BitVec 5) (v : Word) : (setS s r v).t.node = s.t.node := by rw [setS_eq]
@[simp] theorem setS_t_spawned (s : State) (r : BitVec 5) (v : Word) : (setS s r v).t.spawned = s.t.spawned := by rw [setS_eq]
@[simp] theorem setS_t_team (s : State) (r : BitVec 5) (v : Word) : (setS s r v).t.team = s.t.team := by rw [setS_eq]
@[simp] theorem setS_t_tci (s : State) (r : BitVec 5) (v : Word) : (setS s r v).t.tci = s.t.tci := by rw [setS_eq]
@[simp] theorem setS_t_prio (s : State) (r : BitVec 5) (v : Word) : (setS s r v).t.prio = s.t.prio := by rw [setS_eq]
@[simp] theorem setS_t_kind (s : State) (r : BitVec 5) (v : Word) : (setS s r v).t.kind = s.t.kind := by rw [setS_eq]
@[simp] theorem setS_t_spawnCb (s : State) (r : BitVec 5) (v : Word) : (setS s r v).t.spawnCb = s.t.spawnCb := by rw [setS_eq]
@[simp] theorem setS_t_spawnDesc (s : State) (r : BitVec 5) (v : Word) : (setS s r v).t.spawnDesc = s.t.spawnDesc := by rw [setS_eq]
@[simp] theorem setS_t_arg (s : State) (r : BitVec 5) (v : Word) : (setS s r v).t.arg = s.t.arg := by rw [setS_eq]
@[simp] theorem setS_t_stack (s : State) (r : BitVec 5) (v : Word) : (setS s r v).t.stack = s.t.stack := by rw [setS_eq]
@[simp] theorem setS_t_status (s : State) (r : BitVec 5) (v : Word) : (setS s r v).t.status = s.t.status := by rw [setS_eq]
@[simp] theorem setS_t_pc (s : State) (r : BitVec 5) (v : Word) : (setS s r v).t.pc = s.t.pc := by rw [setS_eq]
@[simp] theorem setS_t_line (s : State) (r : BitVec 5) (v : Word) : (setS s r v).t.line = s.t.line := by rw [setS_eq]
@[simp] theorem setS_t_flows (s : State) (r : BitVec 5) (v : Word) : (setS s r v).t.flows = s.t.flows := by rw [setS_eq]
@[simp] theorem setS_t_ctl (s : State) (r : BitVec 5) (v : Word) : (setS s r v).t.ctl = s.t.ctl := by rw [setS_eq]
@[simp] theorem setS_t_v (s : State) (r : BitVec 5) (v : Word) : (setS s r v).t.v = s.t.v := by rw [setS_eq]
@[simp] theorem setS_t_m (s : State) (r : BitVec 5) (v : Word) : (setS s r v).t.m = s.t.m := by rw [setS_eq]
@[simp] theorem setS_t_e (s : State) (r : BitVec 5) (v : Word) : (setS s r v).t.e = s.t.e := by rw [setS_eq]
@[simp] theorem setS_t_dq (s : State) (r : BitVec 5) (v : Word) : (setS s r v).t.dq = s.t.dq := by rw [setS_eq]
@[simp] theorem setS_t_bq (s : State) (r : BitVec 5) (v : Word) : (setS s r v).t.bq = s.t.bq := by rw [setS_eq]
@[simp] theorem setS_t_dropRun (s : State) (r : BitVec 5) (v : Word) : (setS s r v).t.dropRun = s.t.dropRun := by rw [setS_eq]
@[simp] theorem setS_t_dropHeld (s : State) (r : BitVec 5) (v : Word) : (setS s r v).t.dropHeld = s.t.dropHeld := by rw [setS_eq]
@[simp] theorem setS_t_xctx (s : State) (r : BitVec 5) (v : Word) : (setS s r v).t.xctx = s.t.xctx := by rw [setS_eq]
@[simp] theorem setS_t_image (s : State) (r : BitVec 5) (v : Word) : (setS s r v).t.image = s.t.image := by rw [setS_eq]
@[simp] theorem setS_t_imageDec (s : State) (r : BitVec 5) (v : Word) : (setS s r v).t.imageDec = s.t.imageDec := by rw [setS_eq]
@[simp] theorem setS_t_imageEnv (s : State) (r : BitVec 5) (v : Word) : (setS s r v).t.imageEnv = s.t.imageEnv := by rw [setS_eq]
@[simp] theorem setS_t_shadow (s : State) (r : BitVec 5) (v : Word) : (setS s r v).t.shadow = s.t.shadow := by rw [setS_eq]
@[simp] theorem setS_t_decodes (s : State) (r : BitVec 5) (v : Word) : (setS s r v).t.decodes = s.t.decodes := by rw [setS_eq]
@[simp] theorem setS_t_limit (s : State) (r : BitVec 5) (v : Word) : (setS s r v).t.limit = s.t.limit := by rw [setS_eq]
@[simp] theorem setS_t_rpc (s : State) (r : BitVec 5) (v : Word) : (setS s r v).t.rpc = s.t.rpc := by rw [setS_eq]
@[simp] theorem setS_t_rpcReplay (s : State) (r : BitVec 5) (v : Word) : (setS s r v).t.rpcReplay = s.t.rpcReplay := by rw [setS_eq]
@[simp] theorem setS_t_rpcFlows (s : State) (r : BitVec 5) (v : Word) : (setS s r v).t.rpcFlows = s.t.rpcFlows := by rw [setS_eq]
@[simp] theorem setS_t_rpcDecodes (s : State) (r : BitVec 5) (v : Word) : (setS s r v).t.rpcDecodes = s.t.rpcDecodes := by rw [setS_eq]
@[simp] theorem setS_t_seq (s : State) (r : BitVec 5) (v : Word) : (setS s r v).t.seq = s.t.seq := by rw [setS_eq]
@[simp] theorem setS_t_replay (s : State) (r : BitVec 5) (v : Word) : (setS s r v).t.replay = s.t.replay := by rw [setS_eq]
@[simp] theorem setS_t_replayHeld (s : State) (r : BitVec 5) (v : Word) : (setS s r v).t.replayHeld = s.t.replayHeld := by rw [setS_eq]
@[simp] theorem setS_t_binds (s : State) (r : BitVec 5) (v : Word) : (setS s r v).t.binds = s.t.binds := by rw [setS_eq]
@[simp] theorem setS_t_lanes (s : State) (r : BitVec 5) (v : Word) : (setS s r v).t.lanes = s.t.lanes := by rw [setS_eq]
@[simp] theorem setS_t_laneHeld (s : State) (r : BitVec 5) (v : Word) : (setS s r v).t.laneHeld = s.t.laneHeld := by rw [setS_eq]
@[simp] theorem setS_t_mchk (s : State) (r : BitVec 5) (v : Word) : (setS s r v).t.mchk = s.t.mchk := by rw [setS_eq]
@[simp] theorem setS_t_mexiting (s : State) (r : BitVec 5) (v : Word) : (setS s r v).t.mexiting = s.t.mexiting := by rw [setS_eq]
@[simp] theorem setS_t_mwait (s : State) (r : BitVec 5) (v : Word) : (setS s r v).t.mwait = s.t.mwait := by rw [setS_eq]
@[simp] theorem setS_t_mq (s : State) (r : BitVec 5) (v : Word) : (setS s r v).t.mq = s.t.mq := by rw [setS_eq]
@[simp] theorem setS_t_munit (s : State) (r : BitVec 5) (v : Word) : (setS s r v).t.munit = s.t.munit := by rw [setS_eq]
@[simp] theorem setS_t_floors (s : State) (r : BitVec 5) (v : Word) : (setS s r v).t.floors = s.t.floors := by rw [setS_eq]
@[simp] theorem setS_t_handles (s : State) (r : BitVec 5) (v : Word) : (setS s r v).t.handles = s.t.handles := by rw [setS_eq]
@[simp] theorem setS_t_snap (s : State) (r : BitVec 5) (v : Word) : (setS s r v).t.snap = s.t.snap := by rw [setS_eq]
@[simp] theorem setS_t_snapSeq (s : State) (r : BitVec 5) (v : Word) : (setS s r v).t.snapSeq = s.t.snapSeq := by rw [setS_eq]
@[simp] theorem setS_t_own (s : State) (r : BitVec 5) (v : Word) : (setS s r v).t.own = s.t.own := by rw [setS_eq]
@[simp] theorem setS_t_seen (s : State) (r : BitVec 5) (v : Word) : (setS s r v).t.seen = s.t.seen := by rw [setS_eq]
@[simp] theorem setS_t_barCount (s : State) (r : BitVec 5) (v : Word) : (setS s r v).t.barCount = s.t.barCount := by rw [setS_eq]
@[simp] theorem setS_t_arrived (s : State) (r : BitVec 5) (v : Word) : (setS s r v).t.arrived = s.t.arrived := by rw [setS_eq]
@[simp] theorem setS_t_stepping (s : State) (r : BitVec 5) (v : Word) : (setS s r v).t.stepping = s.t.stepping := by rw [setS_eq]

/-- All that moving past an instruction can change: the running thread's PC, or its lane's place. -/
theorem advance_eq (s : State) : advance s = { s with t := { s.t with pc := (advance s).t.pc, lanes := (advance s).t.lanes } } := by
  unfold advance laneNext State.updT
  split
  · split <;> rfl
  · rfl

@[simp] theorem advance_parked (s : State) : (advance s).parked = s.parked := by rw [advance_eq]
@[simp] theorem advance_home (s : State) : (advance s).home = s.home := by rw [advance_eq]
@[simp] theorem advance_homeSeq (s : State) : (advance s).homeSeq = s.homeSeq := by rw [advance_eq]
@[simp] theorem advance_narrow (s : State) : (advance s).narrow = s.narrow := by rw [advance_eq]
@[simp] theorem advance_pubs (s : State) : (advance s).pubs = s.pubs := by rw [advance_eq]
@[simp] theorem advance_poison (s : State) : (advance s).poison = s.poison := by rw [advance_eq]
@[simp] theorem advance_badPages (s : State) : (advance s).badPages = s.badPages := by rw [advance_eq]
@[simp] theorem advance_zblocks (s : State) : (advance s).zblocks = s.zblocks := by rw [advance_eq]
@[simp] theorem advance_zpages (s : State) : (advance s).zpages = s.zpages := by rw [advance_eq]
@[simp] theorem advance_tlbs (s : State) : (advance s).tlbs = s.tlbs := by rw [advance_eq]
@[simp] theorem advance_folios (s : State) : (advance s).folios = s.folios := by rw [advance_eq]
@[simp] theorem advance_parts (s : State) : (advance s).parts = s.parts := by rw [advance_eq]
@[simp] theorem advance_cxl (s : State) : (advance s).cxl = s.cxl := by rw [advance_eq]
@[simp] theorem advance_tethers (s : State) : (advance s).tethers = s.tethers := by rw [advance_eq]
@[simp] theorem advance_launches (s : State) : (advance s).launches = s.launches := by rw [advance_eq]
@[simp] theorem advance_nextLaunch (s : State) : (advance s).nextLaunch = s.nextLaunch := by rw [advance_eq]
@[simp] theorem advance_nextUid (s : State) : (advance s).nextUid = s.nextUid := by rw [advance_eq]
@[simp] theorem advance_ready (s : State) : (advance s).ready = s.ready := by rw [advance_eq]
@[simp] theorem advance_spawnUsed (s : State) : (advance s).spawnUsed = s.spawnUsed := by rw [advance_eq]
@[simp] theorem advance_spawnQueue (s : State) : (advance s).spawnQueue = s.spawnQueue := by rw [advance_eq]
@[simp] theorem advance_conts (s : State) : (advance s).conts = s.conts := by rw [advance_eq]
@[simp] theorem advance_nextCont (s : State) : (advance s).nextCont = s.nextCont := by rw [advance_eq]
@[simp] theorem advance_saved (s : State) : (advance s).saved = s.saved := by rw [advance_eq]
@[simp] theorem advance_cmds (s : State) : (advance s).cmds = s.cmds := by rw [advance_eq]
@[simp] theorem advance_nextCmd (s : State) : (advance s).nextCmd = s.nextCmd := by rw [advance_eq]
@[simp] theorem advance_colls (s : State) : (advance s).colls = s.colls := by rw [advance_eq]
@[simp] theorem advance_carried (s : State) : (advance s).carried = s.carried := by rw [advance_eq]
@[simp] theorem advance_phases (s : State) : (advance s).phases = s.phases := by rw [advance_eq]
@[simp] theorem advance_flips (s : State) : (advance s).flips = s.flips := by rw [advance_eq]
@[simp] theorem advance_masters (s : State) : (advance s).masters = s.masters := by rw [advance_eq]
@[simp] theorem advance_views (s : State) : (advance s).views = s.views := by rw [advance_eq]
@[simp] theorem advance_pools (s : State) : (advance s).pools = s.pools := by rw [advance_eq]
@[simp] theorem advance_boundary (s : State) : (advance s).boundary = s.boundary := by rw [advance_eq]
@[simp] theorem advance_chains (s : State) : (advance s).chains = s.chains := by rw [advance_eq]
@[simp] theorem advance_cycle (s : State) : (advance s).cycle = s.cycle := by rw [advance_eq]
@[simp] theorem advance_samples (s : State) : (advance s).samples = s.samples := by rw [advance_eq]
@[simp] theorem advance_errLog (s : State) : (advance s).errLog = s.errLog := by rw [advance_eq]
@[simp] theorem advance_errLost (s : State) : (advance s).errLost = s.errLost := by rw [advance_eq]
@[simp] theorem advance_hlog (s : State) : (advance s).hlog = s.hlog := by rw [advance_eq]
@[simp] theorem advance_codices (s : State) : (advance s).codices = s.codices := by rw [advance_eq]
@[simp] theorem advance_replies (s : State) : (advance s).replies = s.replies := by rw [advance_eq]
@[simp] theorem advance_granted (s : State) : (advance s).granted = s.granted := by rw [advance_eq]
@[simp] theorem advance_issued (s : State) : (advance s).issued = s.issued := by rw [advance_eq]
@[simp] theorem advance_arbiter (s : State) : (advance s).arbiter = s.arbiter := by rw [advance_eq]
@[simp] theorem advance_moves (s : State) : (advance s).moves = s.moves := by rw [advance_eq]
@[simp] theorem advance_agenda (s : State) : (advance s).agenda = s.agenda := by rw [advance_eq]
@[simp] theorem advance_stalled (s : State) : (advance s).stalled = s.stalled := by rw [advance_eq]
@[simp] theorem advance_fresh (s : State) : (advance s).fresh = s.fresh := by rw [advance_eq]
@[simp] theorem advance_boots (s : State) : (advance s).boots = s.boots := by rw [advance_eq]
@[simp] theorem advance_t_uid (s : State) : (advance s).t.uid = s.t.uid := by rw [advance_eq]
@[simp] theorem advance_t_core (s : State) : (advance s).t.core = s.t.core := by rw [advance_eq]
@[simp] theorem advance_t_slot (s : State) : (advance s).t.slot = s.t.slot := by rw [advance_eq]
@[simp] theorem advance_t_part (s : State) : (advance s).t.part = s.t.part := by rw [advance_eq]
@[simp] theorem advance_t_launch (s : State) : (advance s).t.launch = s.t.launch := by rw [advance_eq]
@[simp] theorem advance_t_node (s : State) : (advance s).t.node = s.t.node := by rw [advance_eq]
@[simp] theorem advance_t_spawned (s : State) : (advance s).t.spawned = s.t.spawned := by rw [advance_eq]
@[simp] theorem advance_t_team (s : State) : (advance s).t.team = s.t.team := by rw [advance_eq]
@[simp] theorem advance_t_tci (s : State) : (advance s).t.tci = s.t.tci := by rw [advance_eq]
@[simp] theorem advance_t_prio (s : State) : (advance s).t.prio = s.t.prio := by rw [advance_eq]
@[simp] theorem advance_t_kind (s : State) : (advance s).t.kind = s.t.kind := by rw [advance_eq]
@[simp] theorem advance_t_spawnCb (s : State) : (advance s).t.spawnCb = s.t.spawnCb := by rw [advance_eq]
@[simp] theorem advance_t_spawnDesc (s : State) : (advance s).t.spawnDesc = s.t.spawnDesc := by rw [advance_eq]
@[simp] theorem advance_t_arg (s : State) : (advance s).t.arg = s.t.arg := by rw [advance_eq]
@[simp] theorem advance_t_stack (s : State) : (advance s).t.stack = s.t.stack := by rw [advance_eq]
@[simp] theorem advance_t_status (s : State) : (advance s).t.status = s.t.status := by rw [advance_eq]
@[simp] theorem advance_t_s (s : State) : (advance s).t.s = s.t.s := by rw [advance_eq]
@[simp] theorem advance_t_line (s : State) : (advance s).t.line = s.t.line := by rw [advance_eq]
@[simp] theorem advance_t_flows (s : State) : (advance s).t.flows = s.t.flows := by rw [advance_eq]
@[simp] theorem advance_t_ctl (s : State) : (advance s).t.ctl = s.t.ctl := by rw [advance_eq]
@[simp] theorem advance_t_v (s : State) : (advance s).t.v = s.t.v := by rw [advance_eq]
@[simp] theorem advance_t_m (s : State) : (advance s).t.m = s.t.m := by rw [advance_eq]
@[simp] theorem advance_t_e (s : State) : (advance s).t.e = s.t.e := by rw [advance_eq]
@[simp] theorem advance_t_dq (s : State) : (advance s).t.dq = s.t.dq := by rw [advance_eq]
@[simp] theorem advance_t_bq (s : State) : (advance s).t.bq = s.t.bq := by rw [advance_eq]
@[simp] theorem advance_t_dropRun (s : State) : (advance s).t.dropRun = s.t.dropRun := by rw [advance_eq]
@[simp] theorem advance_t_dropHeld (s : State) : (advance s).t.dropHeld = s.t.dropHeld := by rw [advance_eq]
@[simp] theorem advance_t_vq (s : State) : (advance s).t.vq = s.t.vq := by rw [advance_eq]
@[simp] theorem advance_t_xdec (s : State) : (advance s).t.xdec = s.t.xdec := by rw [advance_eq]
@[simp] theorem advance_t_xctx (s : State) : (advance s).t.xctx = s.t.xctx := by rw [advance_eq]
@[simp] theorem advance_t_image (s : State) : (advance s).t.image = s.t.image := by rw [advance_eq]
@[simp] theorem advance_t_imageDec (s : State) : (advance s).t.imageDec = s.t.imageDec := by rw [advance_eq]
@[simp] theorem advance_t_imageEnv (s : State) : (advance s).t.imageEnv = s.t.imageEnv := by rw [advance_eq]
@[simp] theorem advance_t_shadow (s : State) : (advance s).t.shadow = s.t.shadow := by rw [advance_eq]
@[simp] theorem advance_t_decodes (s : State) : (advance s).t.decodes = s.t.decodes := by rw [advance_eq]
@[simp] theorem advance_t_limit (s : State) : (advance s).t.limit = s.t.limit := by rw [advance_eq]
@[simp] theorem advance_t_rpc (s : State) : (advance s).t.rpc = s.t.rpc := by rw [advance_eq]
@[simp] theorem advance_t_rpcReplay (s : State) : (advance s).t.rpcReplay = s.t.rpcReplay := by rw [advance_eq]
@[simp] theorem advance_t_rpcFlows (s : State) : (advance s).t.rpcFlows = s.t.rpcFlows := by rw [advance_eq]
@[simp] theorem advance_t_rpcDecodes (s : State) : (advance s).t.rpcDecodes = s.t.rpcDecodes := by rw [advance_eq]
@[simp] theorem advance_t_seq (s : State) : (advance s).t.seq = s.t.seq := by rw [advance_eq]
@[simp] theorem advance_t_replay (s : State) : (advance s).t.replay = s.t.replay := by rw [advance_eq]
@[simp] theorem advance_t_replayHeld (s : State) : (advance s).t.replayHeld = s.t.replayHeld := by rw [advance_eq]
@[simp] theorem advance_t_binds (s : State) : (advance s).t.binds = s.t.binds := by rw [advance_eq]
@[simp] theorem advance_t_laneHeld (s : State) : (advance s).t.laneHeld = s.t.laneHeld := by rw [advance_eq]
@[simp] theorem advance_t_mchk (s : State) : (advance s).t.mchk = s.t.mchk := by rw [advance_eq]
@[simp] theorem advance_t_mexiting (s : State) : (advance s).t.mexiting = s.t.mexiting := by rw [advance_eq]
@[simp] theorem advance_t_mwait (s : State) : (advance s).t.mwait = s.t.mwait := by rw [advance_eq]
@[simp] theorem advance_t_mq (s : State) : (advance s).t.mq = s.t.mq := by rw [advance_eq]
@[simp] theorem advance_t_munit (s : State) : (advance s).t.munit = s.t.munit := by rw [advance_eq]
@[simp] theorem advance_t_floors (s : State) : (advance s).t.floors = s.t.floors := by rw [advance_eq]
@[simp] theorem advance_t_handles (s : State) : (advance s).t.handles = s.t.handles := by rw [advance_eq]
@[simp] theorem advance_t_snap (s : State) : (advance s).t.snap = s.t.snap := by rw [advance_eq]
@[simp] theorem advance_t_snapSeq (s : State) : (advance s).t.snapSeq = s.t.snapSeq := by rw [advance_eq]
@[simp] theorem advance_t_own (s : State) : (advance s).t.own = s.t.own := by rw [advance_eq]
@[simp] theorem advance_t_seen (s : State) : (advance s).t.seen = s.t.seen := by rw [advance_eq]
@[simp] theorem advance_t_barCount (s : State) : (advance s).t.barCount = s.t.barCount := by rw [advance_eq]
@[simp] theorem advance_t_arrived (s : State) : (advance s).t.arrived = s.t.arrived := by rw [advance_eq]
@[simp] theorem advance_t_stepping (s : State) : (advance s).t.stepping = s.t.stepping := by rw [advance_eq]

/-- m0 reads as all ones and is never written. -/
theorem getM_zero (s : State) : getM s 0 = BitVec.allOnes 8192 := rfl
theorem setM_zero (s : State) (x : VReg) : setM s 0 x = s := rfl

/-- A vector register reads back what was written to it, and every other one is as before. -/
theorem getV_setV (s : State) (r q : Nat) (x : VReg) (hr : r < 32) : getV (setV s r x) q = if q = r then x else getV s q := by
  unfold getV
  rw [setV_v]
  by_cases h : q = r
  · subst h
    simp [Vector.getD, hr]
  · by_cases hq : q < 32
    · simp [Vector.getD, hq, h, Ne.symm h]
    · simp [Vector.getD, hq, h]

end Sys2Proof.Machine
end

