-- ==== Sys2Proof/Laws/Ops.lean ====
section
/-! SUPPORT. What each shared operation of Machine/Ops.lean and the memory operations can do, said once: the outcomes of the frames
in which instructions run, and what publications leave as it was. -/

namespace Sys2Proof.Machine

/-! ## Settled sources -/

theorem not_pending {rd : List (BitVec 5)} {s : State} (h : settledFor rd s) : (rd.any fun r => (pendingDests s).contains r) = false := by
  simp only [List.any_eq_false, List.contains_iff_mem]
  intro r hr
  simpa using h r hr

theorem pending_of_mem {rd : List (BitVec 5)} {r : BitVec 5} {s : State} (hr : r ∈ rd) (h : r ∈ pendingDests s) :
    (rd.any fun r => (pendingDests s).contains r) = true := by
  simp only [List.any_eq_true, List.contains_iff_mem]
  exact ⟨r, hr, h⟩

/-- With nothing queued every register is settled. -/
theorem settledFor_of_idle {s : State} (h : xBusy s = false) (rd : List (BitVec 5)) : settledFor rd s := by
  have hq : s.t.vq = [] ∧ s.t.xdec = [] := by
    simp only [xBusy, Bool.or_eq_false_iff, Bool.not_eq_false', List.isEmpty_iff] at h
    exact h.1
  intro r _
  simp [pendingDests, hq]

/-! ## Access-stream instructions -/

theorem accessOp_waits {rd : List (BitVec 5)} {r : BitVec 5} {s : State} (f : State → Res) (hr : r ∈ rd) (h : r ∈ pendingDests s) :
    accessOp rd f s = .next { s with stalled := true } := by
  unfold accessOp
  rw [if_pos (pending_of_mem hr h)]
  rfl

theorem accessOp_settled {rd : List (BitVec 5)} {s : State} (f : State → Res) (h : settledFor rd s) :
    accessOp rd f s = .next (finish ((f s).map advance) s) := by
  unfold accessOp
  rw [if_neg (by rw [not_pending h]; exact Bool.false_ne_true)]
  rfl

theorem accessOp_ok {rd : List (BitVec 5)} {s s1 : State} {f : State → Res} (h : settledFor rd s) (hf : f s = .ok s1) :
    accessOp rd f s = .next (passed s1) := by
  rw [accessOp_settled f h, hf]
  rfl

theorem accessOp_stall {rd : List (BitVec 5)} {s s1 : State} {f : State → Res} (h : settledFor rd s) (hf : f s = .stall s1) :
    accessOp rd f s = .next { s1 with stalled := true } := by
  rw [accessOp_settled f h, hf]
  rfl

/-- A trap of an access-stream instruction with no older execute-stream work is taken at once. -/
theorem finish_trap {tr : Trap} {s s1 : State} (h : xBusy s = false) : finish (.trap tr s1) s = { takeTrap tr s1 with stalled := false } := by
  simp [finish, h]

theorem accessOp_trap {rd : List (BitVec 5)} {s s1 : State} {f : State → Res} {tr : Trap} (h : settledFor rd s) (hx : xBusy s = false)
    (hf : f s = .trap tr s1) : accessOp rd f s = .next { takeTrap tr s1 with stalled := false } := by
  rw [accessOp_settled f h, hf]
  exact congrArg Host.Outcome.next (finish_trap hx)

/-- An access-stream instruction always answers a next state, one of these. -/
theorem accessOp_cases (rd : List (BitVec 5)) (f : State → Res) (s : State) :
    accessOp rd f s = .next { s with stalled := true } ∨ (∃ s1, f s = .ok s1 ∧ accessOp rd f s = .next (passed s1)) ∨
    (∃ s1, f s = .stall s1 ∧ accessOp rd f s = .next { s1 with stalled := true }) ∨
    ∃ tr s1, f s = .trap tr s1 ∧ accessOp rd f s = .next { takeTrap tr s1 with stalled := false } := by
  by_cases h : (rd.any fun r => (pendingDests s).contains r) = true
  · left
    unfold accessOp
    rw [if_pos h]
    rfl
  · have e : accessOp rd f s = .next (finish ((f s).map advance) s) := by
      unfold accessOp
      rw [if_neg h]
      rfl
    rw [e]
    cases hf : f s with
    | ok s1 => exact .inr (.inl ⟨s1, rfl, rfl⟩)
    | stall s1 => exact .inr (.inr (.inl ⟨s1, rfl, rfl⟩))
    | trap tr s1 =>
      simp only [Res.map, finish]
      split
      · exact .inl rfl
      · exact .inr (.inr (.inr ⟨tr, s1, rfl, rfl⟩))

theorem jumpOp_waits {rd : List (BitVec 5)} {r : BitVec 5} {s : State} (f : State → Res) (hr : r ∈ rd) (h : r ∈ pendingDests s) :
    jumpOp rd f s = .next { s with stalled := true } := by
  unfold jumpOp
  rw [if_pos (pending_of_mem hr h)]
  rfl

theorem jumpOp_settled {rd : List (BitVec 5)} {s : State} (f : State → Res) (h : settledFor rd s) : jumpOp rd f s = .next (finish (f s) s) := by
  unfold jumpOp
  rw [if_neg (by rw [not_pending h]; exact Bool.false_ne_true)]
  rfl

theorem jumpOp_ok {rd : List (BitVec 5)} {s s1 : State} {f : State → Res} (h : settledFor rd s) (hf : f s = .ok s1) :
    jumpOp rd f s = .next { s1 with stalled := false } := by
  rw [jumpOp_settled f h, hf]
  rfl

theorem jumpOp_stall {rd : List (BitVec 5)} {s s1 : State} {f : State → Res} (h : settledFor rd s) (hf : f s = .stall s1) :
    jumpOp rd f s = .next { s1 with stalled := true } := by
  rw [jumpOp_settled f h, hf]
  rfl

theorem jumpOp_trap {rd : List (BitVec 5)} {s s1 : State} {f : State → Res} {tr : Trap} (h : settledFor rd s) (hx : xBusy s = false)
    (hf : f s = .trap tr s1) : jumpOp rd f s = .next { takeTrap tr s1 with stalled := false } := by
  rw [jumpOp_settled f h, hf]
  exact congrArg Host.Outcome.next (finish_trap hx)

/-! ## Class B instructions -/

theorem bothOp_waits {s : State} (f : State → Res) (h : xBusy s = true) : bothOp f s = .next { s with stalled := true } := by
  unfold bothOp
  rw [if_pos h]
  rfl

theorem bothOp_ok {s s1 : State} {f : State → Res} (h : xBusy s = false) (hf : f s = .ok s1) : bothOp f s = .next (passed s1) := by
  unfold bothOp
  rw [if_neg (by simp [h]), hf]
  rfl

theorem bothJump_waits {s : State} (f : State → Res) (h : xBusy s = true) : bothJump f s = .next { s with stalled := true } := by
  unfold bothJump
  rw [if_pos h]
  rfl

theorem bothJump_ok {s s1 : State} {f : State → Res} (h : xBusy s = false) (hf : f s = .ok s1) :
    bothJump f s = .next { s1 with stalled := false } := by
  unfold bothJump
  rw [if_neg (by simp [h]), hf]
  rfl

theorem bothJump_trap {s s1 : State} {f : State → Res} {tr : Trap} (h : xBusy s = false) (hf : f s = .trap tr s1) :
    bothJump f s = .next { takeTrap tr s1 with stalled := false } := by
  unfold bothJump
  rw [if_neg (by simp [h]), hf]
  exact congrArg Host.Outcome.next (finish_trap h)

/-! ## Execute-stream instructions -/

theorem executeBody_ok {k : StartRule} {s s1 : State} {f : State → Res} (h : runsNow k s) (hf : f s = .ok s1) :
    executeBody k f s = .ok (commitX k s1) := by
  obtain ⟨_, hl, hw⟩ := h
  unfold executeBody
  rw [if_neg, if_neg, hf]
  · rintro ⟨hk, h0⟩
    exact h0 (hw hk)
  · rintro ⟨hk, h1, h2⟩
    rcases hl with h | h | h
    · exact hk h
    · simp [h] at h1
    · unfold laneOf at h
      rw [Option.isNone_iff_eq_none] at h2
      simp [h2] at h

/-- An execute-stream instruction whose turn has come and whose body completes commits. -/
theorem executeOp_ok {rd : List (BitVec 5)} {k : StartRule} {s s1 : State} {f : State → Res} (h : runsNow k s) (hf : f s = .ok s1) :
    executeOp rd k f s = .next (committed k s1) := by
  have hb := executeBody_ok h hf
  unfold executeOp executeWith
  by_cases hx : s.t.xctx.isSome = true
  · rw [if_pos hx, hb]
    rfl
  · obtain ⟨hx' | ⟨hq, hd⟩, _, _⟩ := h
    · exact absurd hx' hx
    · rw [if_neg hx, if_neg (by rw [not_pending (settledFor_of_idle hq rd)]; exact Bool.false_ne_true), if_neg (by simp [hq]), if_neg (by omega)]
      simp only [popQueue, hb]
      rfl

/-- What an execute-stream instruction does once its turn has come and its second source has been popped. -/
theorem executeWith_ok {pop : Option Nat} {rd : List (BitVec 5)} {k : StartRule} {s sp s1 : State} {v : Word} {f : Word → State → Res}
    (h : runsNow k s) (hp : (if s.t.xctx.isSome then some (poppedValue s, s) else popQueue pop s) = some (v, sp))
    (hb : executeBody k (f v) sp = .ok s1) : executeWith pop rd k f s = .next { s1 with stalled := false } := by
  unfold executeWith
  by_cases hx : s.t.xctx.isSome = true
  · rw [if_pos hx] at hp
    simp only [Option.some.injEq, Prod.mk.injEq] at hp
    obtain ⟨rfl, rfl⟩ := hp
    rw [if_pos hx, hb]
    rfl
  · obtain ⟨hx' | ⟨hq, hd⟩, _, _⟩ := h
    · exact absurd hx' hx
    · rw [if_neg hx] at hp
      rw [if_neg hx, if_neg (by rw [not_pending (settledFor_of_idle hq rd)]; exact Bool.false_ne_true), if_neg (by simp [hq]), if_neg (by omega)]
      simp only [hp, hb]
      rfl

/-- An execute-stream instruction without a queue source always answers a next state: it waits, is queued or dropped, commits, or traps. -/
theorem executeOp_cases (rd : List (BitVec 5)) (k : StartRule) (f : State → Res) (s : State) :
    executeOp rd k f s = .next { s with stalled := true } ∨ executeOp rd k f s = .next (enqueue s) ∨
    executeOp rd k f s = .next (advance { s.updT fun t => { t with dropRun := t.dropRun - 1 } with stalled := false }) ∨
    (∃ r, r = executeBody k f s ∧ executeOp rd k f s = .next (finish r s)) ∨
    ∃ tr s1, executeBody k f s = .trap tr s1 ∧
      executeOp rd k f s = .next (finish (.trap tr (s1.updT fun t => { t with dq := s.t.dq })) s) := by
  unfold executeOp executeWith
  split
  · exact .inr (.inr (.inr (.inl ⟨_, rfl, rfl⟩)))
  · split
    · exact .inl rfl
    · split
      · exact .inr (.inl rfl)
      · split
        · exact .inr (.inr (.inl rfl))
        · simp only [popQueue]
          cases hb : executeBody k f s with
          | ok s2 => exact .inr (.inr (.inr (.inl ⟨_, rfl, rfl⟩)))
          | stall s2 => exact .inr (.inl rfl)
          | trap tr s2 =>
            dsimp only
            split
            · exact .inr (.inr (.inr (.inr ⟨tr, s2, rfl, rfl⟩)))
            · exact .inr (.inr (.inr (.inl ⟨_, rfl, rfl⟩)))

/-! ## Traps -/

/-- A trap of a handler class outside a lane thread changes the running thread only. -/
theorem takeTrap_others {tr : Trap} {s : State} (h : handlerClass tr.cls = true) (hl : s.t.xctx.bind XCtx.lane = none) :
    { takeTrap tr s with t := s.t } = s := by
  unfold takeTrap takeTrapAt
  rw [hl]
  dsimp only
  split
  · unfold awaitPage State.updC State.updT
    dsimp only
    split <;> rfl
  · unfold enterTrap endByTrap State.updC State.updT
    dsimp only
    split <;> rfl

/-! ## Publications -/

/-- What a change of memory's points leaves: everything but the home, its places, the narrower copies, the poison, the compressed
blocks, the masters and views, the count of publications, and of the running thread its own writes. -/
def OnlyPoints (s u : State) : Prop :=
  ∃ home homeSeq narrow poison zblocks masters views pubs own, u = { s with
    home := home, homeSeq := homeSeq, narrow := narrow, poison := poison, zblocks := zblocks, masters := masters, views := views,
    pubs := pubs, t := { s.t with own := own } }

theorem OnlyPoints.refl (s : State) : OnlyPoints s s := ⟨_, _, _, _, _, _, _, _, _, rfl⟩

theorem OnlyPoints.trans {s u v : State} (h : OnlyPoints s u) (k : OnlyPoints u v) : OnlyPoints s v := by
  obtain ⟨_, _, _, _, _, _, _, _, _, rfl⟩ := h
  obtain ⟨_, _, _, _, _, _, _, _, _, rfl⟩ := k
  exact ⟨_, _, _, _, _, _, _, _, _, rfl⟩

theorem OnlyPoints.foldl {α : Type} {s : State} (f : State → α → State) (h : ∀ a x, OnlyPoints a (f a x)) :
    ∀ (l : List α) (u : State), OnlyPoints s u → OnlyPoints s (l.foldl f u)
  | [], _, hu => hu
  | x :: r, u, hu => OnlyPoints.foldl f h r _ (hu.trans (h u x))

theorem OnlyPoints.fillBlock (s : State) (k : Nat) : OnlyPoints s (fillBlock s k) := by
  unfold Machine.fillBlock
  split
  · exact .refl s
  · split <;> exact ⟨_, _, _, _, _, _, _, _, _, rfl⟩

theorem OnlyPoints.homeWrite (s : State) (k : Nat) (v : Byte) (q : Nat) : OnlyPoints s (homeWrite s k v q) := by
  unfold Machine.homeWrite
  split
  · exact (OnlyPoints.fillBlock s k).trans ⟨_, _, _, _, _, _, _, _, _, rfl⟩
  · exact .refl s

theorem OnlyPoints.narrowWrite (s : State) (n : Narrow) : OnlyPoints s (narrowWrite s n) := by
  unfold Machine.narrowWrite
  dsimp only
  split <;> exact ⟨_, _, _, _, _, _, _, _, _, rfl⟩

theorem OnlyPoints.pointWrite (s : State) (core part sc k : Nat) (v : Byte) (u q : Nat) (a : WriteKind) :
    OnlyPoints s (pointWrite s core part sc k v u q a) := by
  unfold Machine.pointWrite
  split
  · exact .homeWrite ..
  · exact .narrowWrite ..

theorem OnlyPoints.touchMaster (die sc : Nat) (ks : List (Nat × Nat)) (s : State) (m : Master) : OnlyPoints s (touchMaster die sc ks s m) := by
  unfold Machine.touchMaster
  extract_lets mine bs s1
  split
  · exact .refl s
  · split
    · exact ⟨_, _, _, _, _, _, _, _, _, rfl⟩
    · split
      · exact ⟨_, _, _, _, _, _, _, _, _, rfl⟩
      · exact .refl s

theorem OnlyPoints.publishMasters (s : State) (pkg die sc : Nat) (ks : List (Nat × Nat)) : OnlyPoints s (publishMasters s pkg die sc ks) :=
  OnlyPoints.foldl _ (fun a m => .touchMaster die sc ks a m) _ _ (.refl s)

theorem OnlyPoints.homeChanged (s : State) (ks : List Nat) : OnlyPoints s (homeChanged s ks) := by
  unfold Machine.homeChanged
  refine OnlyPoints.foldl _ (fun a m => ?_) _ _ (.refl s)
  extract_lets bs
  split
  · exact .refl a
  · exact ⟨_, _, _, _, _, _, _, _, _, rfl⟩

theorem OnlyPoints.promoteLine (s : State) (die line : Nat) : OnlyPoints s (promoteLine s die line) := by
  unfold Machine.promoteLine
  extract_lets hit ns s1
  refine OnlyPoints.trans (u := s1) (OnlyPoints.foldl _ (fun a n => .homeWrite ..) _ _ ?_) (.homeChanged ..)
  exact ⟨_, _, _, _, _, _, _, _, _, rfl⟩

/-- A publication leaves everything but memory's points and the marks on the thread's own writes. -/
theorem OnlyPoints.publishIf (s : State) (sc : Nat) (p : OwnWrite → Bool) : OnlyPoints s (publishIf s sc p) := by
  unfold Machine.publishIf
  extract_lets hit ws n core seqOf place s1 s2 s3 own
  split
  · exact .refl s
  · have hp : ∀ a o, OnlyPoints a (place a o) := fun a o => by
      show OnlyPoints a (if 4 ≤ o.scope then a else _)
      split
      · exact .refl a
      · exact .pointWrite ..
    have h1 : OnlyPoints s s1 := OnlyPoints.foldl _ hp _ _ ⟨_, _, _, _, _, _, _, _, _, rfl⟩
    have h2 : OnlyPoints s s2 := by
      show OnlyPoints s (if 4 ≤ sc then _ else s1)
      split
      · exact OnlyPoints.foldl _ (fun a l => .promoteLine ..) _ _ h1
      · exact h1
    exact (h2.trans (.publishMasters ..)).trans ⟨_, _, _, _, _, _, _, _, _, rfl⟩

theorem OnlyPoints.publish (s : State) (sc : Nat) : OnlyPoints s (publish s sc) := .publishIf ..

/-- An engine's write leaves everything but memory's points. -/
theorem OnlyPoints.engineWriteAt (s : State) (pkg sc : Nat) (kvs : List (Nat × Byte)) : OnlyPoints s (engineWriteAt s pkg sc kvs).1 := by
  unfold Machine.engineWriteAt
  split
  · exact .refl s
  · extract_lets n s1
    have h1 : OnlyPoints s s1 := OnlyPoints.foldl _ (fun a o => .homeWrite ..) _ _ ⟨_, _, _, _, _, _, _, _, _, rfl⟩
    exact h1.trans (.publishMasters ..)

/-- A change by the hardware leaves everything but memory's points. -/
theorem OnlyPoints.hardWrite (s : State) (k : Nat) (bs : List Byte) : OnlyPoints s (hardWrite s k bs) := by
  unfold Machine.hardWrite
  extract_lets n kvs
  exact OnlyPoints.foldl _ (fun a p => .homeWrite ..) _ _ ⟨_, _, _, _, _, _, _, _, _, rfl⟩

/-- An atomic's write leaves everything but memory's points and the thread's own writes. -/
theorem OnlyPoints.atomicPut (s : State) (w : WriteKind) (sc k : Nat) (bs : List Byte) : OnlyPoints s (atomicPut w s sc k bs) := by
  unfold Machine.atomicPut
  extract_lets n put kvs s1
  have hp : ∀ a p, OnlyPoints a (put a p) := fun a p =>
    (OnlyPoints.pointWrite a a.t.core a.t.part sc p.1 p.2 k n w).trans ⟨_, _, _, _, _, _, _, _, _, rfl⟩
  have h1 : OnlyPoints s s1 := OnlyPoints.foldl _ hp _ _ ⟨_, _, _, _, _, _, _, _, _, rfl⟩
  exact h1.trans (.publishMasters ..)

/-! ## The packages' starts -/

/-- A change of a package's start is that package's. -/
@[simp] theorem bootOf_updBoot (s : State) (k : Nat) (f : Boot → Boot) : bootOf (updBoot s k f) k = f (bootOf s k) := by
  simp [bootOf, updBoot, assoc]

/-- It leaves the other packages' starts. -/
theorem bootOf_updBoot_ne (s : State) {k q : Nat} (f : Boot → Boot) (h : q ≠ k) : bootOf (updBoot s k f) q = bootOf s q := by
  have hk : (k == q) = false := by simpa using Ne.symm h
  have hl : ∀ l : List (Nat × Boot), ((l.filter fun x => x.1 != k).find? fun p => p.1 == q) = l.find? fun p => p.1 == q := by
    intro l
    rw [List.find?_filter]
    congr 1
    funext p
    by_cases hp : p.1 = q <;> simp [hp, h]
  simp only [bootOf, updBoot, assoc, List.find?_cons, hk, hl]

/-- It leaves all else. -/
theorem updBoot_eq (s : State) (k : Nat) (f : Boot → Boot) : { updBoot s k f with boots := s.boots } = s := rfl

/-- A log entry goes into the error log, or costs the oldest entry its place. -/
theorem logError_eq (s : State) (die cls event unit part addr : Nat) :
    { logError s die cls event unit part addr with errLog := s.errLog, errLost := s.errLost } = s := by
  unfold logError
  dsimp only
  split <;> rfl

end Sys2Proof.Machine
end

