-- ==== Sys2Proof/Laws/PerInstr.lean ====
section
/-! SUPPORT. Row by row of the opcode table: how each instruction is encoded, and that the decoder builds the same instruction
from the encoded operand bits (R126, R139). The round trip of whole words rests on these. -/

namespace Sys2Proof.Laws

/-- How an instruction stands in the opcode table: it is a step that has no encoding, or it has an opcode, a tail kind and
operand bits from which the decoder builds it again. -/
inductive RowOf (i : Instr) : Prop where
  | step (he : ∀ fl, encode i fl = none)
  | none (maj mn : Nat) (hm : maj < 64 ∧ mn < 256) (hk : tailKind maj mn = some .none)
      (he : ∀ fl, encode i fl = some (encNone maj mn fl)) (hb : ∀ w, build maj mn w = some i)
  | half (maj mn : Nat) (x : BitVec 16) (hm : maj < 64 ∧ mn < 256) (hk : tailKind maj mn = some .half)
      (he : ∀ fl, encode i fl = some (encHalf maj mn x fl)) (hb : ∀ w, w.extractLsb' 0 16 = x → build maj mn w = some i)
  | word (maj mn : Nat) (x : BitVec 28) (hm : maj < 64 ∧ mn < 256) (hk : tailKind maj mn = some .word)
      (he : ∀ fl, encode i fl = some (encWord maj mn x fl)) (hb : ∀ w, w.extractLsb' 0 28 = x → build maj mn w = some i)
  | long (maj mn : Nat) (y : BitVec 32) (x : BitVec 28) (hm : maj < 64 ∧ mn < 256) (hk : tailKind maj mn = some .long)
      (he : ∀ fl, encode i fl = some (encLong maj mn y x fl))
      (hb : ∀ w, w.extractLsb' 0 28 = x → w.extractLsb' 32 32 = y → build maj mn w = some i)
  | vec (maj mn : Nat) (o : WV) (hm : maj < 64 ∧ mn < 256) (hk : tailKind maj mn = some .vec)
      (he : ∀ fl, encode i fl = some (encVec maj mn o fl))
      (hb : ∀ w, w.extractLsb' 0 28 = o.enc → w.extractLsb' 32 32 = o.src.imm32 → build maj mn w = some i)

/-- Every well-formed instruction has its row. -/
def F.Statement (i : Instr) : Prop := wf i = true → RowOf i

theorem rowQ3 (c : Q3 → Instr) (maj mn : Nat) (hm : maj < 64 ∧ mn < 256) (hk : tailKind maj mn = some .half)
    (he : ∀ o fl, encode (c o) fl = some (encHalf maj mn o.enc fl))
    (hb : ∀ w, build maj mn w = (Q3.dec w).map c) (o : Q3) : F.Statement (c o) := fun _ =>
  .half maj mn o.enc hm hk (he o) fun w h => by rw [hb w, Q3.dec_of o w h]; rfl

theorem rowQC (c : QC → Instr) (maj mn : Nat) (hm : maj < 64 ∧ mn < 256) (hk : tailKind maj mn = some .half)
    (he : ∀ o fl, encode (c o) fl = some (encHalf maj mn o.enc fl))
    (hb : ∀ w, build maj mn w = some (c (QC.dec w))) (o : QC) : F.Statement (c o) := fun _ =>
  .half maj mn o.enc hm hk (he o) fun w h => by rw [hb w, QC.dec_of o w h]

theorem rowQI (c : QI → Instr) (maj mn : Nat) (hm : maj < 64 ∧ mn < 256) (hk : tailKind maj mn = some .half)
    (he : ∀ o fl, encode (c o) fl = some (encHalf maj mn o.enc fl))
    (hb : ∀ w, build maj mn w = some (c (QI.dec w))) (o : QI) : F.Statement (c o) := fun _ =>
  .half maj mn o.enc hm hk (he o) fun w h => by rw [hb w, QI.dec_of o w h]

theorem rowQN (c : QN → Instr) (maj mn : Nat) (hm : maj < 64 ∧ mn < 256) (hk : tailKind maj mn = some .half)
    (he : ∀ o fl, encode (c o) fl = some (encHalf maj mn o.enc fl))
    (hb : ∀ w, build maj mn w = (QN.dec w).map c) (o : QN) : F.Statement (c o) := fun _ =>
  .half maj mn o.enc hm hk (he o) fun w h => by rw [hb w, QN.dec_of o w h]; rfl

theorem rowW4 (c : W4 → Instr) (maj mn : Nat) (hm : maj < 64 ∧ mn < 256) (hk : tailKind maj mn = some .word)
    (he : ∀ o fl, encode (c o) fl = some (encWord maj mn o.enc fl))
    (hb : ∀ w, build maj mn w = some (c (W4.dec w))) (o : W4) : F.Statement (c o) := fun _ =>
  .word maj mn o.enc hm hk (he o) fun w h => by rw [hb w, W4.dec_of o w h]

theorem rowWI (c : WI → Instr) (maj mn : Nat) (hm : maj < 64 ∧ mn < 256) (hk : tailKind maj mn = some .word)
    (he : ∀ o fl, encode (c o) fl = some (encWord maj mn o.enc fl))
    (hb : ∀ w, build maj mn w = some (c (WI.dec w))) (o : WI) : F.Statement (c o) := fun _ =>
  .word maj mn o.enc hm hk (he o) fun w h => by rw [hb w, WI.dec_of o w h]

theorem rowWB (c : WB → Instr) (maj mn : Nat) (hm : maj < 64 ∧ mn < 256) (hk : tailKind maj mn = some .word)
    (he : ∀ o fl, encode (c o) fl = some (encWord maj mn o.enc fl))
    (hb : ∀ w, build maj mn w = some (c (WB.dec w))) (o : WB) : F.Statement (c o) := fun _ =>
  .word maj mn o.enc hm hk (he o) fun w h => by rw [hb w, WB.dec_of o w h]

theorem rowWJ (c : WJ → Instr) (maj mn : Nat) (hm : maj < 64 ∧ mn < 256) (hk : tailKind maj mn = some .word)
    (he : ∀ o fl, encode (c o) fl = some (encWord maj mn o.enc fl))
    (hb : ∀ w, build maj mn w = some (c (WJ.dec w))) (o : WJ) : F.Statement (c o) := fun _ =>
  .word maj mn o.enc hm hk (he o) fun w h => by rw [hb w, WJ.dec_of o w h]

theorem rowWL (c : WL → Instr) (maj mn : Nat) (hm : maj < 64 ∧ mn < 256) (hk : tailKind maj mn = some .word)
    (he : ∀ o fl, encode (c o) fl = some (encWord maj mn o.enc fl))
    (hb : ∀ w, build maj mn w = (WL.dec w).map c) (o : WL) : F.Statement (c o) := fun _ =>
  .word maj mn o.enc hm hk (he o) fun w h => by rw [hb w, WL.dec_of o w h]; rfl

theorem rowWM (c : WM → Instr) (maj mn : Nat) (hm : maj < 64 ∧ mn < 256) (hk : tailKind maj mn = some .word)
    (he : ∀ o fl, encode (c o) fl = some (encWord maj mn o.enc fl))
    (hb : ∀ w, build maj mn w = (WM.dec w).map c) (o : WM) : F.Statement (c o) := fun _ =>
  .word maj mn o.enc hm hk (he o) fun w h => by rw [hb w, WM.dec_of o w h]; rfl

theorem rowWX (c : WX → Instr) (maj mn : Nat) (hm : maj < 64 ∧ mn < 256) (hk : tailKind maj mn = some .word)
    (he : ∀ o fl, encode (c o) fl = some (encWord maj mn o.enc fl))
    (hb : ∀ w, build maj mn w = (WX.dec w).map c) (o : WX) : F.Statement (c o) := fun _ =>
  .word maj mn o.enc hm hk (he o) fun w h => by rw [hb w, WX.dec_of o w h]; rfl

theorem rowWV (c : WV → Instr) (maj mn : Nat) (hm : maj < 64 ∧ mn < 256) (hk : tailKind maj mn = some .vec)
    (he : ∀ o fl, encode (c o) fl = some (encVec maj mn o fl))
    (hb : ∀ w, build maj mn w = (WV.dec w).map c) (o : WV) : F.Statement (c o) := fun _ =>
  .vec maj mn o hm hk (he o) fun w h hh => by rw [hb w, WV.dec_of o w h hh]; rfl

theorem rowLI (c : LI → Instr) (maj mn : Nat) (hm : maj < 64 ∧ mn < 256) (hk : tailKind maj mn = some .long)
    (he : ∀ o fl, encode (c o) fl = some (encLong maj mn o.encHigh o.enc fl))
    (hb : ∀ w, build maj mn w = some (c (LI.dec w))) (o : LI) : F.Statement (c o) := fun _ =>
  .long maj mn o.encHigh o.enc hm hk (he o) fun w h hh => by rw [hb w, LI.dec_of o w h hh]

theorem rowLF (c : LF → Instr) (maj mn : Nat) (hm : maj < 64 ∧ mn < 256) (hk : tailKind maj mn = some .long)
    (he : ∀ o fl, encode (c o) fl = some (encLong maj mn o.encHigh o.enc fl))
    (hb : ∀ w, build maj mn w = (LF.dec w).map c) (o : LF) : F.Statement (c o) := fun _ =>
  .long maj mn o.encHigh o.enc hm hk (he o) fun w h hh => by rw [hb w, LF.dec_of o w h hh]; rfl

theorem rowLE (c : LE → Instr) (maj mn : Nat) (hm : maj < 64 ∧ mn < 256) (hk : tailKind maj mn = some .long)
    (he : ∀ o fl, encode (c o) fl = some (encLong maj mn o.encHigh o.enc fl))
    (hb : ∀ w, build maj mn w = (LE.dec w).map c) (o : LE) : F.Statement (c o) := fun _ =>
  .long maj mn o.encHigh o.enc hm hk (he o) fun w h hh => by rw [hb w, LE.dec_of o w h hh]; rfl

theorem rowN (i : Instr) (maj mn : Nat) (hm : maj < 64 ∧ mn < 256) (hk : tailKind maj mn = some .none)
    (he : ∀ fl, encode i fl = some (encNone maj mn fl)) (hb : ∀ w, build maj mn w = some i) : F.Statement i :=
  fun _ => .none maj mn hm hk he hb

theorem rowMtc (c : QC → Instr) (o : QC) (he : ∀ fl, encode (c o) fl = some (encHalf 0 2 o.enc fl)) (ho : mtcOf o = c o) :
    RowOf (c o) :=
  .half 0 2 o.enc (by decide) rfl he fun w h => by
    rw [show build 0 2 w = some (mtcOf (QC.dec w)) from rfl, QC.dec_of o w h, ho]

theorem F.mtc (o : QC) : F.Statement (.mtc o) := fun h =>
  rowMtc .mtc o (fun _ => rfl) <| by
    have hp : Machine.crnPlain o.crn.toNat = true := h
    have n1 : ¬ o.crn = 0x041 := fun e => by rw [e] at hp; exact absurd hp (by decide)
    have n2 : ¬ o.crn = 0x000 := fun e => by rw [e] at hp; exact absurd hp (by decide)
    have n3 : ¬ o.crn = 0x001 := fun e => by rw [e] at hp; exact absurd hp (by decide)
    have n4 : ¬ o.crn = 0x010 := fun e => by rw [e] at hp; exact absurd hp (by decide)
    have n5 : ¬ (0x030 ≤ o.crn.toNat ∧ o.crn.toNat ≤ 0x033) := fun e => by
      have : o.crn.toNat = 0x030 ∨ o.crn.toNat = 0x031 ∨ o.crn.toNat = 0x032 ∨ o.crn.toNat = 0x033 := by omega
      rcases this with e | e | e | e <;> rw [e] at hp <;> exact absurd hp (by decide)
    simp only [mtcOf, n1, n2, n3, n4, n5, if_false]

theorem F.mtcTpc (o : QC) : F.Statement (.mtcTpc o) := fun h =>
  rowMtc .mtcTpc o (fun _ => rfl) <| by
    have e : o.crn = 0x041 := eq_of_beq h
    simp [mtcOf, e]

theorem F.mtcVtype (o : QC) : F.Statement (.mtcVtype o) := fun h =>
  rowMtc .mtcVtype o (fun _ => rfl) <| by
    have e : o.crn = 0x000 := eq_of_beq h
    simp [mtcOf, e]

theorem F.mtcVl (o : QC) : F.Statement (.mtcVl o) := fun h =>
  rowMtc .mtcVl o (fun _ => rfl) <| by
    have e : o.crn = 0x001 := eq_of_beq h
    simp [mtcOf, e]

theorem F.mtcFrm (o : QC) : F.Statement (.mtcFrm o) := fun h =>
  rowMtc .mtcFrm o (fun _ => rfl) <| by
    have e : o.crn = 0x010 := eq_of_beq h
    simp [mtcOf, e]

theorem F.mtcPbnd (o : QC) : F.Statement (.mtcPbnd o) := fun h =>
  rowMtc .mtcPbnd o (fun _ => rfl) <| by
    have hb : 0x030 ≤ o.crn.toNat ∧ o.crn.toNat ≤ 0x033 := of_decide_eq_true h
    have k (x : BitVec 11) (hx : ¬ (0x030 ≤ x.toNat ∧ x.toNat ≤ 0x033)) : ¬ o.crn = x := fun e => hx (e ▸ hb)
    simp only [mtcOf, k 0x041 (by decide), k 0x000 (by decide), k 0x001 (by decide), k 0x010 (by decide), hb, if_false, and_self, if_true]

theorem F.svc (o : QI) : F.Statement (.svc o) :=
  rowQI .svc 0x00 0x00 (by decide) rfl (fun _ _ => rfl) (fun _ => rfl) o

theorem F.mfc (o : QC) : F.Statement (.mfc o) :=
  rowQC .mfc 0x00 0x01 (by decide) rfl (fun _ _ => rfl) (fun _ => rfl) o

theorem F.dqput (o : Q3) : F.Statement (.dqput o) :=
  rowQ3 .dqput 0x00 0x03 (by decide) rfl (fun _ _ => rfl) (fun _ => rfl) o

theorem F.dqget (o : Q3) : F.Statement (.dqget o) :=
  rowQ3 .dqget 0x00 0x04 (by decide) rfl (fun _ _ => rfl) (fun _ => rfl) o

theorem F.xqput (o : Q3) : F.Statement (.xqput o) :=
  rowQ3 .xqput 0x00 0x05 (by decide) rfl (fun _ _ => rfl) (fun _ => rfl) o

theorem F.xqget (o : Q3) : F.Statement (.xqget o) :=
  rowQ3 .xqget 0x00 0x06 (by decide) rfl (fun _ _ => rfl) (fun _ => rfl) o

theorem F.bqput (o : Q3) : F.Statement (.bqput o) :=
  rowQ3 .bqput 0x00 0x07 (by decide) rfl (fun _ _ => rfl) (fun _ => rfl) o

theorem F.phase (sc : Scope) : F.Statement (.phase sc) := by
  cases sc with
  | lane => exact fun h => absurd h (by decide)
  | core => exact rowN (.phase .core) 0x01 0x11 (by decide) rfl (fun _ => rfl) (fun _ => rfl)
  | quad => exact rowN (.phase .quad) 0x01 0x12 (by decide) rfl (fun _ => rfl) (fun _ => rfl)
  | die => exact rowN (.phase .die) 0x01 0x13 (by decide) rfl (fun _ => rfl) (fun _ => rfl)
  | pkg => exact rowN (.phase .pkg) 0x01 0x14 (by decide) rfl (fun _ => rfl) (fun _ => rfl)
  | pod => exact rowN (.phase .pod) 0x01 0x15 (by decide) rfl (fun _ => rfl) (fun _ => rfl)

theorem F.fence (sc : Scope) : F.Statement (.fence sc) := by
  cases sc with
  | lane => exact fun h => absurd h (by decide)
  | core => exact rowN (.fence .core) 0x01 0x19 (by decide) rfl (fun _ => rfl) (fun _ => rfl)
  | quad => exact rowN (.fence .quad) 0x01 0x1A (by decide) rfl (fun _ => rfl) (fun _ => rfl)
  | die => exact rowN (.fence .die) 0x01 0x1B (by decide) rfl (fun _ => rfl) (fun _ => rfl)
  | pkg => exact rowN (.fence .pkg) 0x01 0x1C (by decide) rfl (fun _ => rfl) (fun _ => rfl)
  | pod => exact rowN (.fence .pod) 0x01 0x1D (by decide) rfl (fun _ => rfl) (fun _ => rfl)

theorem F.bar (sc : Scope) : F.Statement (.bar sc) := by
  cases sc with
  | lane => exact fun h => absurd h (by decide)
  | core => exact rowN (.bar .core) 0x01 0x21 (by decide) rfl (fun _ => rfl) (fun _ => rfl)
  | quad => exact rowN (.bar .quad) 0x01 0x22 (by decide) rfl (fun _ => rfl) (fun _ => rfl)
  | die => exact rowN (.bar .die) 0x01 0x23 (by decide) rfl (fun _ => rfl) (fun _ => rfl)
  | pkg => exact rowN (.bar .pkg) 0x01 0x24 (by decide) rfl (fun _ => rfl) (fun _ => rfl)
  | pod => exact rowN (.bar .pod) 0x01 0x25 (by decide) rfl (fun _ => rfl) (fun _ => rfl)

theorem F.add (o : Q3) : F.Statement (.add o) :=
  rowQ3 .add 0x02 0x00 (by decide) rfl (fun _ _ => rfl) (fun _ => rfl) o

theorem F.sub (o : Q3) : F.Statement (.sub o) :=
  rowQ3 .sub 0x02 0x01 (by decide) rfl (fun _ _ => rfl) (fun _ => rfl) o

theorem F.and (o : Q3) : F.Statement (.and o) :=
  rowQ3 .and 0x02 0x02 (by decide) rfl (fun _ _ => rfl) (fun _ => rfl) o

theorem F.or (o : Q3) : F.Statement (.or o) :=
  rowQ3 .or 0x02 0x03 (by decide) rfl (fun _ _ => rfl) (fun _ => rfl) o

theorem F.xor (o : Q3) : F.Statement (.xor o) :=
  rowQ3 .xor 0x02 0x04 (by decide) rfl (fun _ _ => rfl) (fun _ => rfl) o

theorem F.sll (o : Q3) : F.Statement (.sll o) :=
  rowQ3 .sll 0x02 0x05 (by decide) rfl (fun _ _ => rfl) (fun _ => rfl) o

theorem F.srl (o : Q3) : F.Statement (.srl o) :=
  rowQ3 .srl 0x02 0x06 (by decide) rfl (fun _ _ => rfl) (fun _ => rfl) o

theorem F.sra (o : Q3) : F.Statement (.sra o) :=
  rowQ3 .sra 0x02 0x07 (by decide) rfl (fun _ _ => rfl) (fun _ => rfl) o

theorem F.slt (o : Q3) : F.Statement (.slt o) :=
  rowQ3 .slt 0x02 0x08 (by decide) rfl (fun _ _ => rfl) (fun _ => rfl) o

theorem F.sltn (o : Q3) : F.Statement (.sltn o) :=
  rowQ3 .sltn 0x02 0x09 (by decide) rfl (fun _ _ => rfl) (fun _ => rfl) o

theorem F.mul (o : Q3) : F.Statement (.mul o) :=
  rowQ3 .mul 0x02 0x0A (by decide) rfl (fun _ _ => rfl) (fun _ => rfl) o

theorem F.mulh (o : Q3) : F.Statement (.mulh o) :=
  rowQ3 .mulh 0x02 0x0B (by decide) rfl (fun _ _ => rfl) (fun _ => rfl) o

theorem F.mulhn (o : Q3) : F.Statement (.mulhn o) :=
  rowQ3 .mulhn 0x02 0x0C (by decide) rfl (fun _ _ => rfl) (fun _ => rfl) o

theorem F.div (o : Q3) : F.Statement (.div o) :=
  rowQ3 .div 0x02 0x0D (by decide) rfl (fun _ _ => rfl) (fun _ => rfl) o

theorem F.divn (o : Q3) : F.Statement (.divn o) :=
  rowQ3 .divn 0x02 0x0E (by decide) rfl (fun _ _ => rfl) (fun _ => rfl) o

theorem F.rem (o : Q3) : F.Statement (.rem o) :=
  rowQ3 .rem 0x02 0x0F (by decide) rfl (fun _ _ => rfl) (fun _ => rfl) o

theorem F.remn (o : Q3) : F.Statement (.remn o) :=
  rowQ3 .remn 0x02 0x10 (by decide) rfl (fun _ _ => rfl) (fun _ => rfl) o

theorem F.min (o : Q3) : F.Statement (.min o) :=
  rowQ3 .min 0x02 0x11 (by decide) rfl (fun _ _ => rfl) (fun _ => rfl) o

theorem F.max (o : Q3) : F.Statement (.max o) :=
  rowQ3 .max 0x02 0x12 (by decide) rfl (fun _ _ => rfl) (fun _ => rfl) o

theorem F.minn (o : Q3) : F.Statement (.minn o) :=
  rowQ3 .minn 0x02 0x13 (by decide) rfl (fun _ _ => rfl) (fun _ => rfl) o

theorem F.maxn (o : Q3) : F.Statement (.maxn o) :=
  rowQ3 .maxn 0x02 0x14 (by decide) rfl (fun _ _ => rfl) (fun _ => rfl) o

theorem F.popc (o : Q3) : F.Statement (.popc o) :=
  rowQ3 .popc 0x02 0x15 (by decide) rfl (fun _ _ => rfl) (fun _ => rfl) o

theorem F.clz (o : Q3) : F.Statement (.clz o) :=
  rowQ3 .clz 0x02 0x16 (by decide) rfl (fun _ _ => rfl) (fun _ => rfl) o

theorem F.ctz (o : Q3) : F.Statement (.ctz o) :=
  rowQ3 .ctz 0x02 0x17 (by decide) rfl (fun _ _ => rfl) (fun _ => rfl) o

theorem F.fadd (dbl : Bool) (o : Q3) : F.Statement (.fadd dbl o) := by
  cases dbl with
  | false => exact rowQ3 (.fadd false) 0x03 0x00 (by decide) rfl (fun _ _ => rfl) (fun _ => rfl) o
  | true => exact rowQ3 (.fadd true) 0x03 0x01 (by decide) rfl (fun _ _ => rfl) (fun _ => rfl) o

theorem F.fsub (dbl : Bool) (o : Q3) : F.Statement (.fsub dbl o) := by
  cases dbl with
  | false => exact rowQ3 (.fsub false) 0x03 0x02 (by decide) rfl (fun _ _ => rfl) (fun _ => rfl) o
  | true => exact rowQ3 (.fsub true) 0x03 0x03 (by decide) rfl (fun _ _ => rfl) (fun _ => rfl) o

theorem F.fmul (dbl : Bool) (o : Q3) : F.Statement (.fmul dbl o) := by
  cases dbl with
  | false => exact rowQ3 (.fmul false) 0x03 0x04 (by decide) rfl (fun _ _ => rfl) (fun _ => rfl) o
  | true => exact rowQ3 (.fmul true) 0x03 0x05 (by decide) rfl (fun _ _ => rfl) (fun _ => rfl) o

theorem F.fdiv (dbl : Bool) (o : Q3) : F.Statement (.fdiv dbl o) := by
  cases dbl with
  | false => exact rowQ3 (.fdiv false) 0x03 0x06 (by decide) rfl (fun _ _ => rfl) (fun _ => rfl) o
  | true => exact rowQ3 (.fdiv true) 0x03 0x07 (by decide) rfl (fun _ _ => rfl) (fun _ => rfl) o

theorem F.fsqrt (dbl : Bool) (o : Q3) : F.Statement (.fsqrt dbl o) := by
  cases dbl with
  | false => exact rowQ3 (.fsqrt false) 0x03 0x08 (by decide) rfl (fun _ _ => rfl) (fun _ => rfl) o
  | true => exact rowQ3 (.fsqrt true) 0x03 0x09 (by decide) rfl (fun _ _ => rfl) (fun _ => rfl) o

theorem F.fmin (dbl : Bool) (o : Q3) : F.Statement (.fmin dbl o) := by
  cases dbl with
  | false => exact rowQ3 (.fmin false) 0x03 0x0A (by decide) rfl (fun _ _ => rfl) (fun _ => rfl) o
  | true => exact rowQ3 (.fmin true) 0x03 0x0B (by decide) rfl (fun _ _ => rfl) (fun _ => rfl) o

theorem F.fmax (dbl : Bool) (o : Q3) : F.Statement (.fmax dbl o) := by
  cases dbl with
  | false => exact rowQ3 (.fmax false) 0x03 0x0C (by decide) rfl (fun _ _ => rfl) (fun _ => rfl) o
  | true => exact rowQ3 (.fmax true) 0x03 0x0D (by decide) rfl (fun _ _ => rfl) (fun _ => rfl) o

theorem F.feq (dbl : Bool) (o : Q3) : F.Statement (.feq dbl o) := by
  cases dbl with
  | false => exact rowQ3 (.feq false) 0x03 0x0E (by decide) rfl (fun _ _ => rfl) (fun _ => rfl) o
  | true => exact rowQ3 (.feq true) 0x03 0x0F (by decide) rfl (fun _ _ => rfl) (fun _ => rfl) o

theorem F.flt (dbl : Bool) (o : Q3) : F.Statement (.flt dbl o) := by
  cases dbl with
  | false => exact rowQ3 (.flt false) 0x03 0x10 (by decide) rfl (fun _ _ => rfl) (fun _ => rfl) o
  | true => exact rowQ3 (.flt true) 0x03 0x11 (by decide) rfl (fun _ _ => rfl) (fun _ => rfl) o

theorem F.fle (dbl : Bool) (o : Q3) : F.Statement (.fle dbl o) := by
  cases dbl with
  | false => exact rowQ3 (.fle false) 0x03 0x12 (by decide) rfl (fun _ _ => rfl) (fun _ => rfl) o
  | true => exact rowQ3 (.fle true) 0x03 0x13 (by decide) rfl (fun _ _ => rfl) (fun _ => rfl) o

theorem F.fsgnj (dbl : Bool) (o : Q3) : F.Statement (.fsgnj dbl o) := by
  cases dbl with
  | false => exact rowQ3 (.fsgnj false) 0x03 0x14 (by decide) rfl (fun _ _ => rfl) (fun _ => rfl) o
  | true => exact rowQ3 (.fsgnj true) 0x03 0x15 (by decide) rfl (fun _ _ => rfl) (fun _ => rfl) o

theorem F.fmadd (o : W4) : F.Statement (.fmadd o) :=
  rowW4 .fmadd 0x04 0x00 (by decide) rfl (fun _ _ => rfl) (fun _ => rfl) o

theorem F.fmsub (o : W4) : F.Statement (.fmsub o) :=
  rowW4 .fmsub 0x04 0x01 (by decide) rfl (fun _ _ => rfl) (fun _ => rfl) o

theorem F.fnmadd (o : W4) : F.Statement (.fnmadd o) :=
  rowW4 .fnmadd 0x04 0x02 (by decide) rfl (fun _ _ => rfl) (fun _ => rfl) o

theorem F.fnmsub (o : W4) : F.Statement (.fnmsub o) :=
  rowW4 .fnmsub 0x04 0x03 (by decide) rfl (fun _ _ => rfl) (fun _ => rfl) o

theorem F.fcvt (o : W4) : F.Statement (.fcvt o) :=
  rowW4 .fcvt 0x04 0x04 (by decide) rfl (fun _ _ => rfl) (fun _ => rfl) o

theorem F.nspawn (o : W4) : F.Statement (.nspawn o) :=
  rowW4 .nspawn 0x05 0x00 (by decide) rfl (fun _ _ => rfl) (fun _ => rfl) o

theorem F.nspawnW (o : W4) : F.Statement (.nspawnW o) :=
  rowW4 .nspawnW 0x05 0x01 (by decide) rfl (fun _ _ => rfl) (fun _ => rfl) o

theorem F.addi (o : WI) : F.Statement (.addi o) :=
  rowWI .addi 0x08 0x00 (by decide) rfl (fun _ _ => rfl) (fun _ => rfl) o

theorem F.andi (o : WI) : F.Statement (.andi o) :=
  rowWI .andi 0x08 0x01 (by decide) rfl (fun _ _ => rfl) (fun _ => rfl) o

theorem F.ori (o : WI) : F.Statement (.ori o) :=
  rowWI .ori 0x08 0x02 (by decide) rfl (fun _ _ => rfl) (fun _ => rfl) o

theorem F.xori (o : WI) : F.Statement (.xori o) :=
  rowWI .xori 0x08 0x03 (by decide) rfl (fun _ _ => rfl) (fun _ => rfl) o

theorem F.slli (o : WI) : F.Statement (.slli o) :=
  rowWI .slli 0x08 0x04 (by decide) rfl (fun _ _ => rfl) (fun _ => rfl) o

theorem F.srli (o : WI) : F.Statement (.srli o) :=
  rowWI .srli 0x08 0x05 (by decide) rfl (fun _ _ => rfl) (fun _ => rfl) o

theorem F.srai (o : WI) : F.Statement (.srai o) :=
  rowWI .srai 0x08 0x06 (by decide) rfl (fun _ _ => rfl) (fun _ => rfl) o

theorem F.slti (o : WI) : F.Statement (.slti o) :=
  rowWI .slti 0x08 0x07 (by decide) rfl (fun _ _ => rfl) (fun _ => rfl) o

theorem F.sltni (o : WI) : F.Statement (.sltni o) :=
  rowWI .sltni 0x08 0x08 (by decide) rfl (fun _ _ => rfl) (fun _ => rfl) o

theorem F.limm (o : LI) : F.Statement (.limm o) :=
  rowLI .limm 0x09 0x00 (by decide) rfl (fun _ _ => rfl) (fun _ => rfl) o

theorem F.pcaddr (o : WJ) : F.Statement (.pcaddr o) :=
  rowWJ .pcaddr 0x0A 0x00 (by decide) rfl (fun _ _ => rfl) (fun _ => rfl) o

theorem F.beq (o : WB) : F.Statement (.beq o) :=
  rowWB .beq 0x10 0x00 (by decide) rfl (fun _ _ => rfl) (fun _ => rfl) o

theorem F.bne (o : WB) : F.Statement (.bne o) :=
  rowWB .bne 0x10 0x01 (by decide) rfl (fun _ _ => rfl) (fun _ => rfl) o

theorem F.blt (o : WB) : F.Statement (.blt o) :=
  rowWB .blt 0x10 0x02 (by decide) rfl (fun _ _ => rfl) (fun _ => rfl) o

theorem F.bge (o : WB) : F.Statement (.bge o) :=
  rowWB .bge 0x10 0x03 (by decide) rfl (fun _ _ => rfl) (fun _ => rfl) o

theorem F.bltn (o : WB) : F.Statement (.bltn o) :=
  rowWB .bltn 0x10 0x04 (by decide) rfl (fun _ _ => rfl) (fun _ => rfl) o

theorem F.bgen (o : WB) : F.Statement (.bgen o) :=
  rowWB .bgen 0x10 0x05 (by decide) rfl (fun _ _ => rfl) (fun _ => rfl) o

theorem F.jal (o : WJ) : F.Statement (.jal o) :=
  rowWJ .jal 0x11 0x00 (by decide) rfl (fun _ _ => rfl) (fun _ => rfl) o

theorem F.jalr (o : Q3) : F.Statement (.jalr o) :=
  rowQ3 .jalr 0x12 0x00 (by decide) rfl (fun _ _ => rfl) (fun _ => rfl) o

theorem F.bqx (o : QN) : F.Statement (.bqx o) :=
  rowQN .bqx 0x13 0x00 (by decide) rfl (fun _ _ => rfl) (fun _ => rfl) o

theorem F.seqlev (o : W4) : F.Statement (.seqlev o) :=
  rowW4 .seqlev 0x14 0x00 (by decide) rfl (fun _ _ => rfl) (fun _ => rfl) o

theorem F.seqbind (o : W4) : F.Statement (.seqbind o) :=
  rowW4 .seqbind 0x14 0x01 (by decide) rfl (fun _ _ => rfl) (fun _ => rfl) o

theorem F.seqstride (o : W4) : F.Statement (.seqstride o) :=
  rowW4 .seqstride 0x14 0x02 (by decide) rfl (fun _ _ => rfl) (fun _ => rfl) o

theorem F.seqrun (o : W4) : F.Statement (.seqrun o) :=
  rowW4 .seqrun 0x14 0x03 (by decide) rfl (fun _ _ => rfl) (fun _ => rfl) o

theorem F.seqhalt (o : W4) : F.Statement (.seqhalt o) :=
  rowW4 .seqhalt 0x14 0x04 (by decide) rfl (fun _ _ => rfl) (fun _ => rfl) o

theorem F.ldS8 (o : WI) : F.Statement (.ldS8 o) :=
  rowWI .ldS8 0x18 0x00 (by decide) rfl (fun _ _ => rfl) (fun _ => rfl) o

theorem F.ldS16 (o : WI) : F.Statement (.ldS16 o) :=
  rowWI .ldS16 0x18 0x01 (by decide) rfl (fun _ _ => rfl) (fun _ => rfl) o

theorem F.ldS32 (o : WI) : F.Statement (.ldS32 o) :=
  rowWI .ldS32 0x18 0x02 (by decide) rfl (fun _ _ => rfl) (fun _ => rfl) o

theorem F.ldS64 (o : WI) : F.Statement (.ldS64 o) :=
  rowWI .ldS64 0x18 0x03 (by decide) rfl (fun _ _ => rfl) (fun _ => rfl) o

theorem F.ldN8 (o : WI) : F.Statement (.ldN8 o) :=
  rowWI .ldN8 0x18 0x04 (by decide) rfl (fun _ _ => rfl) (fun _ => rfl) o

theorem F.ldN16 (o : WI) : F.Statement (.ldN16 o) :=
  rowWI .ldN16 0x18 0x05 (by decide) rfl (fun _ _ => rfl) (fun _ => rfl) o

theorem F.ldN32 (o : WI) : F.Statement (.ldN32 o) :=
  rowWI .ldN32 0x18 0x06 (by decide) rfl (fun _ _ => rfl) (fun _ => rfl) o

theorem F.stN8 (o : WI) : F.Statement (.stN8 o) :=
  rowWI .stN8 0x18 0x08 (by decide) rfl (fun _ _ => rfl) (fun _ => rfl) o

theorem F.stN16 (o : WI) : F.Statement (.stN16 o) :=
  rowWI .stN16 0x18 0x09 (by decide) rfl (fun _ _ => rfl) (fun _ => rfl) o

theorem F.stN32 (o : WI) : F.Statement (.stN32 o) :=
  rowWI .stN32 0x18 0x0A (by decide) rfl (fun _ _ => rfl) (fun _ => rfl) o

theorem F.stN64 (o : WI) : F.Statement (.stN64 o) :=
  rowWI .stN64 0x18 0x0B (by decide) rfl (fun _ _ => rfl) (fun _ => rfl) o

theorem F.ldq (o : WI) : F.Statement (.ldq o) :=
  rowWI .ldq 0x19 0x00 (by decide) rfl (fun _ _ => rfl) (fun _ => rfl) o

theorem F.atswap (o : W4) : F.Statement (.atswap o) :=
  rowW4 .atswap 0x1A 0x00 (by decide) rfl (fun _ _ => rfl) (fun _ => rfl) o

theorem F.atadd (o : W4) : F.Statement (.atadd o) :=
  rowW4 .atadd 0x1A 0x01 (by decide) rfl (fun _ _ => rfl) (fun _ => rfl) o

theorem F.atand (o : W4) : F.Statement (.atand o) :=
  rowW4 .atand 0x1A 0x02 (by decide) rfl (fun _ _ => rfl) (fun _ => rfl) o

theorem F.ator (o : W4) : F.Statement (.ator o) :=
  rowW4 .ator 0x1A 0x03 (by decide) rfl (fun _ _ => rfl) (fun _ => rfl) o

theorem F.atxor (o : W4) : F.Statement (.atxor o) :=
  rowW4 .atxor 0x1A 0x04 (by decide) rfl (fun _ _ => rfl) (fun _ => rfl) o

theorem F.atmin (o : W4) : F.Statement (.atmin o) :=
  rowW4 .atmin 0x1A 0x05 (by decide) rfl (fun _ _ => rfl) (fun _ => rfl) o

theorem F.atmax (o : W4) : F.Statement (.atmax o) :=
  rowW4 .atmax 0x1A 0x06 (by decide) rfl (fun _ _ => rfl) (fun _ => rfl) o

theorem F.atminn (o : W4) : F.Statement (.atminn o) :=
  rowW4 .atminn 0x1A 0x07 (by decide) rfl (fun _ _ => rfl) (fun _ => rfl) o

theorem F.atmaxn (o : W4) : F.Statement (.atmaxn o) :=
  rowW4 .atmaxn 0x1A 0x08 (by decide) rfl (fun _ _ => rfl) (fun _ => rfl) o

theorem F.atcas (o : W4) : F.Statement (.atcas o) :=
  rowW4 .atcas 0x1A 0x09 (by decide) rfl (fun _ _ => rfl) (fun _ => rfl) o

theorem F.vstream (o : WM) : F.Statement (.vstream o) :=
  rowWM .vstream 0x1B 0x00 (by decide) rfl (fun _ _ => rfl) (fun _ => rfl) o

theorem F.vstreamSt (o : WM) : F.Statement (.vstreamSt o) :=
  rowWM .vstreamSt 0x1B 0x01 (by decide) rfl (fun _ _ => rfl) (fun _ => rfl) o

theorem F.vsunbind (o : WM) : F.Statement (.vsunbind o) :=
  rowWM .vsunbind 0x1B 0x02 (by decide) rfl (fun _ _ => rfl) (fun _ => rfl) o

theorem F.vld (o : WM) : F.Statement (.vld o) :=
  rowWM .vld 0x1C 0x00 (by decide) rfl (fun _ _ => rfl) (fun _ => rfl) o

theorem F.vst (o : WM) : F.Statement (.vst o) :=
  rowWM .vst 0x1C 0x01 (by decide) rfl (fun _ _ => rfl) (fun _ => rfl) o

theorem F.vlds (o : WM) : F.Statement (.vlds o) :=
  rowWM .vlds 0x1C 0x02 (by decide) rfl (fun _ _ => rfl) (fun _ => rfl) o

theorem F.vsts (o : WM) : F.Statement (.vsts o) :=
  rowWM .vsts 0x1C 0x03 (by decide) rfl (fun _ _ => rfl) (fun _ => rfl) o

theorem F.vldx (o : WM) : F.Statement (.vldx o) :=
  rowWM .vldx 0x1C 0x04 (by decide) rfl (fun _ _ => rfl) (fun _ => rfl) o

theorem F.vstx (o : WM) : F.Statement (.vstx o) :=
  rowWM .vstx 0x1C 0x05 (by decide) rfl (fun _ _ => rfl) (fun _ => rfl) o

theorem F.vldu (o : WM) : F.Statement (.vldu o) :=
  rowWM .vldu 0x1C 0x06 (by decide) rfl (fun _ _ => rfl) (fun _ => rfl) o

theorem F.vstu (o : WM) : F.Statement (.vstu o) :=
  rowWM .vstu 0x1C 0x07 (by decide) rfl (fun _ _ => rfl) (fun _ => rfl) o

theorem F.vldbp (o : WM) : F.Statement (.vldbp o) :=
  rowWM .vldbp 0x1C 0x08 (by decide) rfl (fun _ _ => rfl) (fun _ => rfl) o

theorem F.vstbp (o : WM) : F.Statement (.vstbp o) :=
  rowWM .vstbp 0x1C 0x09 (by decide) rfl (fun _ _ => rfl) (fun _ => rfl) o

theorem F.sldsc (o : WM) : F.Statement (.sldsc o) :=
  rowWM .sldsc 0x1C 0x0A (by decide) rfl (fun _ _ => rfl) (fun _ => rfl) o

theorem F.sstsc (o : WM) : F.Statement (.sstsc o) :=
  rowWM .sstsc 0x1C 0x0B (by decide) rfl (fun _ _ => rfl) (fun _ => rfl) o

theorem F.vspill (o : WM) : F.Statement (.vspill o) :=
  rowWM .vspill 0x1C 0x0C (by decide) rfl (fun _ _ => rfl) (fun _ => rfl) o

theorem F.vfill (o : WM) : F.Statement (.vfill o) :=
  rowWM .vfill 0x1C 0x0D (by decide) rfl (fun _ _ => rfl) (fun _ => rfl) o

theorem F.vldf (o : LF) : F.Statement (.vldf o) :=
  rowLF .vldf 0x1D 0x00 (by decide) rfl (fun _ _ => rfl) (fun _ => rfl) o

theorem F.vstf (o : LF) : F.Statement (.vstf o) :=
  rowLF .vstf 0x1D 0x01 (by decide) rfl (fun _ _ => rfl) (fun _ => rfl) o

theorem F.folbind (o : W4) : F.Statement (.folbind o) :=
  rowW4 .folbind 0x1E 0x00 (by decide) rfl (fun _ _ => rfl) (fun _ => rfl) o

theorem F.folrel (o : W4) : F.Statement (.folrel o) :=
  rowW4 .folrel 0x1E 0x01 (by decide) rfl (fun _ _ => rfl) (fun _ => rfl) o

theorem F.folfill (o : W4) : F.Statement (.folfill o) :=
  rowW4 .folfill 0x1E 0x02 (by decide) rfl (fun _ _ => rfl) (fun _ => rfl) o

theorem F.foldrain (o : W4) : F.Statement (.foldrain o) :=
  rowW4 .foldrain 0x1E 0x03 (by decide) rfl (fun _ _ => rfl) (fun _ => rfl) o

theorem F.vldView (o : WM) : F.Statement (.vldView o) :=
  rowWM .vldView 0x1F 0x00 (by decide) rfl (fun _ _ => rfl) (fun _ => rfl) o

theorem F.vregView (o : W4) : F.Statement (.vregView o) :=
  rowW4 .vregView 0x1F 0x01 (by decide) rfl (fun _ _ => rfl) (fun _ => rfl) o

theorem F.vdropView (o : W4) : F.Statement (.vdropView o) :=
  rowW4 .vdropView 0x1F 0x02 (by decide) rfl (fun _ _ => rfl) (fun _ => rfl) o

theorem F.vwaitView (o : W4) : F.Statement (.vwaitView o) :=
  rowW4 .vwaitView 0x1F 0x03 (by decide) rfl (fun _ _ => rfl) (fun _ => rfl) o

theorem F.vsetvl (o : W4) : F.Statement (.vsetvl o) :=
  rowW4 .vsetvl 0x20 0x00 (by decide) rfl (fun _ _ => rfl) (fun _ => rfl) o

theorem F.vsettype (o : W4) : F.Statement (.vsettype o) :=
  rowW4 .vsettype 0x20 0x01 (by decide) rfl (fun _ _ => rfl) (fun _ => rfl) o

theorem F.vadd (o : WV) : F.Statement (.vadd o) :=
  rowWV .vadd 0x21 0x00 (by decide) rfl (fun _ _ => rfl) (fun _ => rfl) o

theorem F.vsub (o : WV) : F.Statement (.vsub o) :=
  rowWV .vsub 0x21 0x01 (by decide) rfl (fun _ _ => rfl) (fun _ => rfl) o

theorem F.vrsub (o : WV) : F.Statement (.vrsub o) :=
  rowWV .vrsub 0x21 0x02 (by decide) rfl (fun _ _ => rfl) (fun _ => rfl) o

theorem F.vmul (o : WV) : F.Statement (.vmul o) :=
  rowWV .vmul 0x21 0x03 (by decide) rfl (fun _ _ => rfl) (fun _ => rfl) o

theorem F.vmulh (o : WV) : F.Statement (.vmulh o) :=
  rowWV .vmulh 0x21 0x04 (by decide) rfl (fun _ _ => rfl) (fun _ => rfl) o

theorem F.vmin (o : WV) : F.Statement (.vmin o) :=
  rowWV .vmin 0x21 0x05 (by decide) rfl (fun _ _ => rfl) (fun _ => rfl) o

theorem F.vmax (o : WV) : F.Statement (.vmax o) :=
  rowWV .vmax 0x21 0x06 (by decide) rfl (fun _ _ => rfl) (fun _ => rfl) o

theorem F.vand (o : WV) : F.Statement (.vand o) :=
  rowWV .vand 0x21 0x07 (by decide) rfl (fun _ _ => rfl) (fun _ => rfl) o

theorem F.vor (o : WV) : F.Statement (.vor o) :=
  rowWV .vor 0x21 0x08 (by decide) rfl (fun _ _ => rfl) (fun _ => rfl) o

theorem F.vxor (o : WV) : F.Statement (.vxor o) :=
  rowWV .vxor 0x21 0x09 (by decide) rfl (fun _ _ => rfl) (fun _ => rfl) o

theorem F.vadds (o : WV) : F.Statement (.vadds o) :=
  rowWV .vadds 0x21 0x0A (by decide) rfl (fun _ _ => rfl) (fun _ => rfl) o

theorem F.vsubs (o : WV) : F.Statement (.vsubs o) :=
  rowWV .vsubs 0x21 0x0B (by decide) rfl (fun _ _ => rfl) (fun _ => rfl) o

theorem F.vabs (o : WV) : F.Statement (.vabs o) :=
  rowWV .vabs 0x21 0x0C (by decide) rfl (fun _ _ => rfl) (fun _ => rfl) o

theorem F.vavg (o : WV) : F.Statement (.vavg o) :=
  rowWV .vavg 0x21 0x0D (by decide) rfl (fun _ _ => rfl) (fun _ => rfl) o

theorem F.vsll (o : WV) : F.Statement (.vsll o) :=
  rowWV .vsll 0x22 0x00 (by decide) rfl (fun _ _ => rfl) (fun _ => rfl) o

theorem F.vsrl (o : WV) : F.Statement (.vsrl o) :=
  rowWV .vsrl 0x22 0x01 (by decide) rfl (fun _ _ => rfl) (fun _ => rfl) o

theorem F.vsra (o : WV) : F.Statement (.vsra o) :=
  rowWV .vsra 0x22 0x02 (by decide) rfl (fun _ _ => rfl) (fun _ => rfl) o

theorem F.vsrar (o : WV) : F.Statement (.vsrar o) :=
  rowWV .vsrar 0x22 0x03 (by decide) rfl (fun _ _ => rfl) (fun _ => rfl) o

theorem F.vsrlr (o : WV) : F.Statement (.vsrlr o) :=
  rowWV .vsrlr 0x22 0x04 (by decide) rfl (fun _ _ => rfl) (fun _ => rfl) o

theorem F.vnsra (o : WV) : F.Statement (.vnsra o) :=
  rowWV .vnsra 0x22 0x05 (by decide) rfl (fun _ _ => rfl) (fun _ => rfl) o

theorem F.vfunl (o : WV) : F.Statement (.vfunl o) :=
  rowWV .vfunl 0x22 0x06 (by decide) rfl (fun _ _ => rfl) (fun _ => rfl) o

theorem F.vfunr (o : WV) : F.Statement (.vfunr o) :=
  rowWV .vfunr 0x22 0x07 (by decide) rfl (fun _ _ => rfl) (fun _ => rfl) o

theorem F.vmac (o : WV) : F.Statement (.vmac o) :=
  rowWV .vmac 0x23 0x00 (by decide) rfl (fun _ _ => rfl) (fun _ => rfl) o

theorem F.vmacs (o : WV) : F.Statement (.vmacs o) :=
  rowWV .vmacs 0x23 0x01 (by decide) rfl (fun _ _ => rfl) (fun _ => rfl) o

theorem F.vdot2 (o : WV) : F.Statement (.vdot2 o) :=
  rowWV .vdot2 0x23 0x02 (by decide) rfl (fun _ _ => rfl) (fun _ => rfl) o

theorem F.vdot2s (o : WV) : F.Statement (.vdot2s o) :=
  rowWV .vdot2s 0x23 0x03 (by decide) rfl (fun _ _ => rfl) (fun _ => rfl) o

theorem F.vdot4 (o : WV) : F.Statement (.vdot4 o) :=
  rowWV .vdot4 0x23 0x04 (by decide) rfl (fun _ _ => rfl) (fun _ => rfl) o

theorem F.vdot4s (o : WV) : F.Statement (.vdot4s o) :=
  rowWV .vdot4s 0x23 0x05 (by decide) rfl (fun _ _ => rfl) (fun _ => rfl) o

theorem F.vceq (o : WV) : F.Statement (.vceq o) :=
  rowWV .vceq 0x24 0x00 (by decide) rfl (fun _ _ => rfl) (fun _ => rfl) o

theorem F.vcne (o : WV) : F.Statement (.vcne o) :=
  rowWV .vcne 0x24 0x01 (by decide) rfl (fun _ _ => rfl) (fun _ => rfl) o

theorem F.vclt (o : WV) : F.Statement (.vclt o) :=
  rowWV .vclt 0x24 0x02 (by decide) rfl (fun _ _ => rfl) (fun _ => rfl) o

theorem F.vcle (o : WV) : F.Statement (.vcle o) :=
  rowWV .vcle 0x24 0x03 (by decide) rfl (fun _ _ => rfl) (fun _ => rfl) o

theorem F.vcgt (o : WV) : F.Statement (.vcgt o) :=
  rowWV .vcgt 0x24 0x04 (by decide) rfl (fun _ _ => rfl) (fun _ => rfl) o

theorem F.vcge (o : WV) : F.Statement (.vcge o) :=
  rowWV .vcge 0x24 0x05 (by decide) rfl (fun _ _ => rfl) (fun _ => rfl) o

theorem F.mand (o : WV) : F.Statement (.mand o) :=
  rowWV .mand 0x24 0x08 (by decide) rfl (fun _ _ => rfl) (fun _ => rfl) o

theorem F.mor (o : WV) : F.Statement (.mor o) :=
  rowWV .mor 0x24 0x09 (by decide) rfl (fun _ _ => rfl) (fun _ => rfl) o

theorem F.mxor (o : WV) : F.Statement (.mxor o) :=
  rowWV .mxor 0x24 0x0A (by decide) rfl (fun _ _ => rfl) (fun _ => rfl) o

theorem F.mnot (o : WV) : F.Statement (.mnot o) :=
  rowWV .mnot 0x24 0x0B (by decide) rfl (fun _ _ => rfl) (fun _ => rfl) o

theorem F.mpopc (o : WV) : F.Statement (.mpopc o) :=
  rowWV .mpopc 0x24 0x0C (by decide) rfl (fun _ _ => rfl) (fun _ => rfl) o

theorem F.vslup (o : WV) : F.Statement (.vslup o) :=
  rowWV .vslup 0x25 0x00 (by decide) rfl (fun _ _ => rfl) (fun _ => rfl) o

theorem F.vsldn (o : WV) : F.Statement (.vsldn o) :=
  rowWV .vsldn 0x25 0x01 (by decide) rfl (fun _ _ => rfl) (fun _ => rfl) o

theorem F.vcompress (o : WV) : F.Statement (.vcompress o) :=
  rowWV .vcompress 0x25 0x02 (by decide) rfl (fun _ _ => rfl) (fun _ => rfl) o

theorem F.vexpand (o : WV) : F.Statement (.vexpand o) :=
  rowWV .vexpand 0x25 0x03 (by decide) rfl (fun _ _ => rfl) (fun _ => rfl) o

theorem F.viota (o : WV) : F.Statement (.viota o) :=
  rowWV .viota 0x25 0x04 (by decide) rfl (fun _ _ => rfl) (fun _ => rfl) o

theorem F.vgather (o : WV) : F.Statement (.vgather o) :=
  rowWV .vgather 0x25 0x05 (by decide) rfl (fun _ _ => rfl) (fun _ => rfl) o

theorem F.vmerge (o : WV) : F.Statement (.vmerge o) :=
  rowWV .vmerge 0x25 0x06 (by decide) rfl (fun _ _ => rfl) (fun _ => rfl) o

theorem F.vmv (o : WV) : F.Statement (.vmv o) :=
  rowWV .vmv 0x25 0x07 (by decide) rfl (fun _ _ => rfl) (fun _ => rfl) o

theorem F.vredsum (o : WV) : F.Statement (.vredsum o) :=
  rowWV .vredsum 0x26 0x00 (by decide) rfl (fun _ _ => rfl) (fun _ => rfl) o

theorem F.vredsums (o : WV) : F.Statement (.vredsums o) :=
  rowWV .vredsums 0x26 0x01 (by decide) rfl (fun _ _ => rfl) (fun _ => rfl) o

theorem F.vredmax (o : WV) : F.Statement (.vredmax o) :=
  rowWV .vredmax 0x26 0x02 (by decide) rfl (fun _ _ => rfl) (fun _ => rfl) o

theorem F.vredmin (o : WV) : F.Statement (.vredmin o) :=
  rowWV .vredmin 0x26 0x03 (by decide) rfl (fun _ _ => rfl) (fun _ => rfl) o

theorem F.vredand (o : WV) : F.Statement (.vredand o) :=
  rowWV .vredand 0x26 0x04 (by decide) rfl (fun _ _ => rfl) (fun _ => rfl) o

theorem F.vredor (o : WV) : F.Statement (.vredor o) :=
  rowWV .vredor 0x26 0x05 (by decide) rfl (fun _ _ => rfl) (fun _ => rfl) o

theorem F.vredxor (o : WV) : F.Statement (.vredxor o) :=
  rowWV .vredxor 0x26 0x06 (by decide) rfl (fun _ _ => rfl) (fun _ => rfl) o

theorem F.vscan (o : WV) : F.Statement (.vscan o) :=
  rowWV .vscan 0x26 0x07 (by decide) rfl (fun _ _ => rfl) (fun _ => rfl) o

theorem F.vfadd (o : WV) : F.Statement (.vfadd o) :=
  rowWV .vfadd 0x27 0x00 (by decide) rfl (fun _ _ => rfl) (fun _ => rfl) o

theorem F.vfsub (o : WV) : F.Statement (.vfsub o) :=
  rowWV .vfsub 0x27 0x01 (by decide) rfl (fun _ _ => rfl) (fun _ => rfl) o

theorem F.vfmul (o : WV) : F.Statement (.vfmul o) :=
  rowWV .vfmul 0x27 0x02 (by decide) rfl (fun _ _ => rfl) (fun _ => rfl) o

theorem F.vfdiv (o : WV) : F.Statement (.vfdiv o) :=
  rowWV .vfdiv 0x27 0x03 (by decide) rfl (fun _ _ => rfl) (fun _ => rfl) o

theorem F.vfsqrt (o : WV) : F.Statement (.vfsqrt o) :=
  rowWV .vfsqrt 0x27 0x04 (by decide) rfl (fun _ _ => rfl) (fun _ => rfl) o

theorem F.vfmin (o : WV) : F.Statement (.vfmin o) :=
  rowWV .vfmin 0x27 0x05 (by decide) rfl (fun _ _ => rfl) (fun _ => rfl) o

theorem F.vfmax (o : WV) : F.Statement (.vfmax o) :=
  rowWV .vfmax 0x27 0x06 (by decide) rfl (fun _ _ => rfl) (fun _ => rfl) o

theorem F.vfabs (o : WV) : F.Statement (.vfabs o) :=
  rowWV .vfabs 0x27 0x07 (by decide) rfl (fun _ _ => rfl) (fun _ => rfl) o

theorem F.vfneg (o : WV) : F.Statement (.vfneg o) :=
  rowWV .vfneg 0x27 0x08 (by decide) rfl (fun _ _ => rfl) (fun _ => rfl) o

theorem F.vfsgnj (o : WV) : F.Statement (.vfsgnj o) :=
  rowWV .vfsgnj 0x27 0x09 (by decide) rfl (fun _ _ => rfl) (fun _ => rfl) o

theorem F.vfma (o : WV) : F.Statement (.vfma o) :=
  rowWV .vfma 0x28 0x00 (by decide) rfl (fun _ _ => rfl) (fun _ => rfl) o

theorem F.vfms (o : WV) : F.Statement (.vfms o) :=
  rowWV .vfms 0x28 0x01 (by decide) rfl (fun _ _ => rfl) (fun _ => rfl) o

theorem F.vfnma (o : WV) : F.Statement (.vfnma o) :=
  rowWV .vfnma 0x28 0x02 (by decide) rfl (fun _ _ => rfl) (fun _ => rfl) o

theorem F.vfnms (o : WV) : F.Statement (.vfnms o) :=
  rowWV .vfnms 0x28 0x03 (by decide) rfl (fun _ _ => rfl) (fun _ => rfl) o

theorem F.vcvt (o : WV) : F.Statement (.vcvt o) :=
  rowWV .vcvt 0x29 0x00 (by decide) rfl (fun _ _ => rfl) (fun _ => rfl) o

theorem F.vcvtz (o : WV) : F.Statement (.vcvtz o) :=
  rowWV .vcvtz 0x29 0x01 (by decide) rfl (fun _ _ => rfl) (fun _ => rfl) o

theorem F.vquant (o : WV) : F.Statement (.vquant o) :=
  rowWV .vquant 0x2A 0x00 (by decide) rfl (fun _ _ => rfl) (fun _ => rfl) o

theorem F.vdeq (o : WV) : F.Statement (.vdeq o) :=
  rowWV .vdeq 0x2A 0x01 (by decide) rfl (fun _ _ => rfl) (fun _ => rfl) o

theorem F.vfredsum (o : WV) : F.Statement (.vfredsum o) :=
  rowWV .vfredsum 0x2B 0x00 (by decide) rfl (fun _ _ => rfl) (fun _ => rfl) o

theorem F.vfredmax (o : WV) : F.Statement (.vfredmax o) :=
  rowWV .vfredmax 0x2B 0x01 (by decide) rfl (fun _ _ => rfl) (fun _ => rfl) o

theorem F.vfredmin (o : WV) : F.Statement (.vfredmin o) :=
  rowWV .vfredmin 0x2B 0x02 (by decide) rfl (fun _ _ => rfl) (fun _ => rfl) o

theorem F.vfscan (o : WV) : F.Statement (.vfscan o) :=
  rowWV .vfscan 0x2B 0x03 (by decide) rfl (fun _ _ => rfl) (fun _ => rfl) o

theorem F.vfred2 (o : WV) : F.Statement (.vfred2 o) :=
  rowWV .vfred2 0x2B 0x04 (by decide) rfl (fun _ _ => rfl) (fun _ => rfl) o

theorem F.vblk (o : WJ) : F.Statement (.vblk o) :=
  rowWJ .vblk 0x2C 0x00 (by decide) rfl (fun _ _ => rfl) (fun _ => rfl) o

theorem F.lfetch (o : WL) : F.Statement (.lfetch o) :=
  rowWL .lfetch 0x2C 0x01 (by decide) rfl (fun _ _ => rfl) (fun _ => rfl) o

theorem F.mmode (o : WX) : F.Statement (.mmode o) :=
  rowWX .mmode 0x30 0x00 (by decide) rfl (fun _ _ => rfl) (fun _ => rfl) o

theorem F.mexit (o : WX) : F.Statement (.mexit o) :=
  rowWX .mexit 0x30 0x01 (by decide) rfl (fun _ _ => rfl) (fun _ => rfl) o

theorem F.tcfg (o : WX) : F.Statement (.tcfg o) :=
  rowWX .tcfg 0x31 0x00 (by decide) rfl (fun _ _ => rfl) (fun _ => rfl) o

theorem F.trel (o : WX) : F.Statement (.trel o) :=
  rowWX .trel 0x31 0x01 (by decide) rfl (fun _ _ => rfl) (fun _ => rfl) o

theorem F.tmvr (o : WX) : F.Statement (.tmvr o) :=
  rowWX .tmvr 0x31 0x02 (by decide) rfl (fun _ _ => rfl) (fun _ => rfl) o

theorem F.tmvc (o : WX) : F.Statement (.tmvc o) :=
  rowWX .tmvc 0x31 0x03 (by decide) rfl (fun _ _ => rfl) (fun _ => rfl) o

theorem F.tld (o : WX) : F.Statement (.tld o) :=
  rowWX .tld 0x31 0x04 (by decide) rfl (fun _ _ => rfl) (fun _ => rfl) o

theorem F.tst (o : WX) : F.Statement (.tst o) :=
  rowWX .tst 0x31 0x05 (by decide) rfl (fun _ _ => rfl) (fun _ => rfl) o

theorem F.mop (o : WX) : F.Statement (.mop o) :=
  rowWX .mop 0x32 0x00 (by decide) rfl (fun _ _ => rfl) (fun _ => rfl) o

theorem F.mopsp (o : WX) : F.Statement (.mopsp o) :=
  rowWX .mopsp 0x32 0x01 (by decide) rfl (fun _ _ => rfl) (fun _ => rfl) o

theorem F.mopneg (o : WX) : F.Statement (.mopneg o) :=
  rowWX .mopneg 0x32 0x02 (by decide) rfl (fun _ _ => rfl) (fun _ => rfl) o

theorem F.accmv (o : WX) : F.Statement (.accmv o) :=
  rowWX .accmv 0x33 0x00 (by decide) rfl (fun _ _ => rfl) (fun _ => rfl) o

theorem F.accPeek (o : WX) : F.Statement (.accPeek o) :=
  rowWX .accPeek 0x33 0x01 (by decide) rfl (fun _ _ => rfl) (fun _ => rfl) o

theorem F.acczero (o : WX) : F.Statement (.acczero o) :=
  rowWX .acczero 0x33 0x02 (by decide) rfl (fun _ _ => rfl) (fun _ => rfl) o

theorem F.accsp (o : WX) : F.Statement (.accsp o) :=
  rowWX .accsp 0x33 0x03 (by decide) rfl (fun _ _ => rfl) (fun _ => rfl) o

theorem F.accfl (o : WX) : F.Statement (.accfl o) :=
  rowWX .accfl 0x33 0x04 (by decide) rfl (fun _ _ => rfl) (fun _ => rfl) o

theorem F.gcvt (o : WV) : F.Statement (.gcvt o) :=
  rowWV .gcvt 0x38 0x00 (by decide) rfl (fun _ _ => rfl) (fun _ => rfl) o

theorem F.gadd (o : WV) : F.Statement (.gadd o) :=
  rowWV .gadd 0x38 0x01 (by decide) rfl (fun _ _ => rfl) (fun _ => rfl) o

theorem F.gsub (o : WV) : F.Statement (.gsub o) :=
  rowWV .gsub 0x38 0x02 (by decide) rfl (fun _ _ => rfl) (fun _ => rfl) o

theorem F.gscale (o : WV) : F.Statement (.gscale o) :=
  rowWV .gscale 0x38 0x03 (by decide) rfl (fun _ _ => rfl) (fun _ => rfl) o

theorem F.gsettag (o : WV) : F.Statement (.gsettag o) :=
  rowWV .gsettag 0x38 0x04 (by decide) rfl (fun _ _ => rfl) (fun _ => rfl) o

theorem F.gtagof (o : WV) : F.Statement (.gtagof o) :=
  rowWV .gtagof 0x38 0x05 (by decide) rfl (fun _ _ => rfl) (fun _ => rfl) o

theorem F.fnew (o : W4) : F.Statement (.fnew o) :=
  rowW4 .fnew 0x39 0x00 (by decide) rfl (fun _ _ => rfl) (fun _ => rfl) o

theorem F.fmove (o : W4) : F.Statement (.fmove o) :=
  rowW4 .fmove 0x39 0x01 (by decide) rfl (fun _ _ => rfl) (fun _ => rfl) o

theorem F.fsplit (o : W4) : F.Statement (.fsplit o) :=
  rowW4 .fsplit 0x39 0x02 (by decide) rfl (fun _ _ => rfl) (fun _ => rfl) o

theorem F.fdel (o : W4) : F.Statement (.fdel o) :=
  rowW4 .fdel 0x39 0x03 (by decide) rfl (fun _ _ => rfl) (fun _ => rfl) o

theorem F.fdelAdopt (o : W4) : F.Statement (.fdelAdopt o) :=
  rowW4 .fdelAdopt 0x39 0x04 (by decide) rfl (fun _ _ => rfl) (fun _ => rfl) o

theorem F.fdelFwd (o : W4) : F.Statement (.fdelFwd o) :=
  rowW4 .fdelFwd 0x39 0x05 (by decide) rfl (fun _ _ => rfl) (fun _ => rfl) o

theorem F.freclaim (o : W4) : F.Statement (.freclaim o) :=
  rowW4 .freclaim 0x39 0x06 (by decide) rfl (fun _ _ => rfl) (fun _ => rfl) o

theorem F.fread (o : W4) : F.Statement (.fread o) :=
  rowW4 .fread 0x39 0x07 (by decide) rfl (fun _ _ => rfl) (fun _ => rfl) o

theorem F.xcopy (o : LE) : F.Statement (.xcopy o) :=
  rowLE .xcopy 0x3C 0x00 (by decide) rfl (fun _ _ => rfl) (fun _ => rfl) o

theorem F.xput (o : LE) : F.Statement (.xput o) :=
  rowLE .xput 0x3C 0x01 (by decide) rfl (fun _ _ => rfl) (fun _ => rfl) o

theorem F.xputW (o : LE) : F.Statement (.xputW o) :=
  rowLE .xputW 0x3C 0x02 (by decide) rfl (fun _ _ => rfl) (fun _ => rfl) o

theorem F.xreduce (o : LE) : F.Statement (.xreduce o) :=
  rowLE .xreduce 0x3C 0x03 (by decide) rfl (fun _ _ => rfl) (fun _ => rfl) o

theorem F.xcopyView (o : LE) : F.Statement (.xcopyView o) :=
  rowLE .xcopyView 0x3C 0x04 (by decide) rfl (fun _ _ => rfl) (fun _ => rfl) o

theorem F.zenc (o : LE) : F.Statement (.zenc o) :=
  rowLE .zenc 0x3C 0x05 (by decide) rfl (fun _ _ => rfl) (fun _ => rfl) o

theorem F.zdec (o : LE) : F.Statement (.zdec o) :=
  rowLE .zdec 0x3C 0x06 (by decide) rfl (fun _ _ => rfl) (fun _ => rfl) o

theorem F.cbinit (o : LE) : F.Statement (.cbinit o) :=
  rowLE .cbinit 0x3D 0x00 (by decide) rfl (fun _ _ => rfl) (fun _ => rfl) o

theorem F.cbarrive (o : LE) : F.Statement (.cbarrive o) :=
  rowLE .cbarrive 0x3D 0x01 (by decide) rfl (fun _ _ => rfl) (fun _ => rfl) o

theorem F.cbwait (o : LE) : F.Statement (.cbwait o) :=
  rowLE .cbwait 0x3D 0x02 (by decide) rfl (fun _ _ => rfl) (fun _ => rfl) o

theorem F.cbtest (o : LE) : F.Statement (.cbtest o) :=
  rowLE .cbtest 0x3D 0x03 (by decide) rfl (fun _ _ => rfl) (fun _ => rfl) o

theorem F.pput (o : LE) : F.Statement (.pput o) :=
  rowLE .pput 0x3E 0x00 (by decide) rfl (fun _ _ => rfl) (fun _ => rfl) o

theorem F.ptake (o : LE) : F.Statement (.ptake o) :=
  rowLE .ptake 0x3E 0x01 (by decide) rfl (fun _ _ => rfl) (fun _ => rfl) o

theorem F.ptakeW (o : LE) : F.Statement (.ptakeW o) :=
  rowLE .ptakeW 0x3E 0x02 (by decide) rfl (fun _ _ => rfl) (fun _ => rfl) o

theorem F.pbnd (o : LE) : F.Statement (.pbnd o) :=
  rowLE .pbnd 0x3E 0x03 (by decide) rfl (fun _ _ => rfl) (fun _ => rfl) o

theorem F.pstat (o : LE) : F.Statement (.pstat o) :=
  rowLE .pstat 0x3E 0x04 (by decide) rfl (fun _ _ => rfl) (fun _ => rfl) o

theorem F.pdrain (o : LE) : F.Statement (.pdrain o) :=
  rowLE .pdrain 0x3E 0x05 (by decide) rfl (fun _ _ => rfl) (fun _ => rfl) o

theorem F.nop : F.Statement .nop := rowN .nop 0x01 0x00 (by decide) rfl (fun _ => rfl) (fun _ => rfl)

theorem F.nend : F.Statement .nend := rowN .nend 0x01 0x01 (by decide) rfl (fun _ => rfl) (fun _ => rfl)

theorem F.tret : F.Statement .tret := rowN .tret 0x01 0x02 (by decide) rfl (fun _ => rfl) (fun _ => rfl)

theorem F.brk : F.Statement .brk := rowN .brk 0x01 0x03 (by decide) rfl (fun _ => rfl) (fun _ => rfl)

theorem F.vjoin : F.Statement .vjoin := rowN .vjoin 0x01 0x04 (by decide) rfl (fun _ => rfl) (fun _ => rfl)

theorem F.lstop : F.Statement .lstop := rowN .lstop 0x01 0x05 (by decide) rfl (fun _ => rfl) (fun _ => rfl)

theorem F.barrierComplete (sc : Scope) : F.Statement (.barrierComplete sc) := fun _ => .step fun _ => rfl

theorem F.spawnQueueMade (die : Nat) : F.Statement (.spawnQueueMade die) := fun _ => .step fun _ => rfl

theorem F.lineEntry : F.Statement (.lineEntry) := fun _ => .step fun _ => rfl

theorem F.streamChunkFill (vd : BitVec 5) : F.Statement (.streamChunkFill vd) := fun _ => .step fun _ => rfl

theorem F.streamEgLanded (vd : BitVec 5) (eg : Nat) : F.Statement (.streamEgLanded vd eg) := fun _ => .step fun _ => rfl

theorem F.folioFillComplete (core : Nat) (entry : Nat) : F.Statement (.folioFillComplete core entry) := fun _ => .step fun _ => rfl

theorem F.folioFillFault (core : Nat) (entry : Nat) : F.Statement (.folioFillFault core entry) := fun _ => .step fun _ => rfl

theorem F.folioDrainComplete (core : Nat) (entry : Nat) : F.Statement (.folioDrainComplete core entry) := fun _ => .step fun _ => rfl

theorem F.laneFault (g : Nat) (tr : Trap) : F.Statement (.laneFault g tr) := fun _ => .step fun _ => rfl

theorem F.sliceIssue (pkg : Nat) (core : Nat) : F.Statement (.sliceIssue pkg core) := fun _ => .step fun _ => rfl

theorem F.mmodeGrant (core : Nat) : F.Statement (.mmodeGrant core) := fun _ => .step fun _ => rfl

theorem F.matrixQueueComplete : F.Statement (.matrixQueueComplete) := fun _ => .step fun _ => rfl

theorem F.xcopyComplete (cmd : Nat) : F.Statement (.xcopyComplete cmd) := fun _ => .step fun _ => rfl

theorem F.putWaitAccept (cont : Nat) : F.Statement (.putWaitAccept cont) := fun _ => .step fun _ => rfl

theorem F.putSourceRead (cmd : Nat) : F.Statement (.putSourceRead cmd) := fun _ => .step fun _ => rfl

theorem F.putPacketLand (cmd : Nat) (size : Nat) : F.Statement (.putPacketLand cmd size) := fun _ => .step fun _ => rfl

theorem F.putComplete (cmd : Nat) : F.Statement (.putComplete cmd) := fun _ => .step fun _ => rfl

theorem F.collectiveForm (part : Nat) (key : Word) : F.Statement (.collectiveForm part key) := fun _ => .step fun _ => rfl

theorem F.zcodecComplete (cmd : Nat) : F.Statement (.zcodecComplete cmd) := fun _ => .step fun _ => rfl

theorem F.cbFlipObserved (cont : Nat) : F.Statement (.cbFlipObserved cont) := fun _ => .step fun _ => rfl

theorem F.roundBoundary (pkg : Nat) : F.Statement (.roundBoundary pkg) := fun _ => .step fun _ => rfl

theorem F.poolSteal (steal : Nat) : F.Statement (.poolSteal steal) := fun _ => .step fun _ => rfl

theorem F.poolPutWake (part : Nat) (pool : Nat) : F.Statement (.poolPutWake part pool) := fun _ => .step fun _ => rfl

theorem F.dispatch (die : Nat) : F.Statement (.dispatch die) := fun _ => .step fun _ => rfl

theorem F.priorityAging (die : Nat) : F.Statement (.priorityAging die) := fun _ => .step fun _ => rfl

theorem F.resumeListPost (die : Nat) : F.Statement (.resumeListPost die) := fun _ => .step fun _ => rfl

theorem F.resumeListTake (die : Nat) : F.Statement (.resumeListTake die) := fun _ => .step fun _ => rfl

theorem F.continuationReady (cont : Nat) : F.Statement (.continuationReady cont) := fun _ => .step fun _ => rfl

theorem F.crossDieEdge (launch : Nat) (node : Nat) : F.Statement (.crossDieEdge launch node) := fun _ => .step fun _ => rfl

theorem F.queueStallTimeout : F.Statement (.queueStallTimeout) := fun _ => .step fun _ => rfl

theorem F.trapEntry (tr : Trap) : F.Statement (.trapEntry tr) := fun _ => .step fun _ => rfl

theorem F.pageFaultService (grant : Option PageGrant) : F.Statement (.pageFaultService grant) := fun _ => .step fun _ => rfl

theorem F.laneReexecute (lane : Nat) (eg : Nat) (check : LaneCheck) : F.Statement (.laneReexecute lane eg check) := fun _ => .step fun _ => rfl

theorem F.scrub (finding : ScrubFinding) : F.Statement (.scrub finding) := fun _ => .step fun _ => rfl

theorem F.dieCacheEvict (die : Nat) (line : Nat) : F.Statement (.dieCacheEvict die line) := fun _ => .step fun _ => rfl

theorem F.tlbShootdown (part : Nat) (pkg : Nat) : F.Statement (.tlbShootdown part pkg) := fun _ => .step fun _ => rfl

theorem F.pageMigration (part : Nat) (pkg : Nat) (va : Word) (newPa : Nat) : F.Statement (.pageMigration part pkg va newPa) := fun _ => .step fun _ => rfl

theorem F.pageSwitch (part : Nat) (pkg : Nat) (va : Word) : F.Statement (.pageSwitch part pkg va) := fun _ => .step fun _ => rfl

theorem F.viewRefreshRead (die : Nat) : F.Statement (.viewRefreshRead die) := fun _ => .step fun _ => rfl

theorem F.viewRefreshPublish (die : Nat) : F.Statement (.viewRefreshPublish die) := fun _ => .step fun _ => rfl

theorem F.pathArbitration (path : Path) (demands : List (Nat × Nat)) : F.Statement (.pathArbitration path demands) := fun _ => .step fun _ => rfl

theorem F.preempt (uid : Nat) (area : Word) : F.Statement (.preempt uid area) := fun _ => .step fun _ => rfl

theorem F.preemptResume (saved : Nat) (quad : Nat) : F.Statement (.preemptResume saved quad) := fun _ => .step fun _ => rfl

theorem F.nodeEnded (core : Nat) (slot : Nat) : F.Statement (.nodeEnded core slot) := fun _ => .step fun _ => rfl

theorem F.codePageHashFail (part : Nat) (pkg : Nat) (va : Word) : F.Statement (.codePageHashFail part pkg va) := fun _ => .step fun _ => rfl

theorem F.tetherPeerEnd (part : Nat) : F.Statement (.tetherPeerEnd part) := fun _ => .step fun _ => rfl

theorem F.version (c : Call) : F.Statement (.version c) := fun _ => .step fun _ => rfl

theorem F.launch (c : Call) : F.Statement (.launch c) := fun _ => .step fun _ => rfl

theorem F.waitForLaunch (c : Call) : F.Statement (.waitForLaunch c) := fun _ => .step fun _ => rfl

theorem F.poolCreate (c : Call) : F.Statement (.poolCreate c) := fun _ => .step fun _ => rfl

theorem F.poolEnd (c : Call) : F.Statement (.poolEnd c) := fun _ => .step fun _ => rfl

theorem F.tetherGrant (c : Call) : F.Statement (.tetherGrant c) := fun _ => .step fun _ => rfl

theorem F.tetherRevoke (c : Call) : F.Statement (.tetherRevoke c) := fun _ => .step fun _ => rfl

theorem F.mapMemory (c : Call) : F.Statement (.mapMemory c) := fun _ => .step fun _ => rfl

theorem F.unmap (c : Call) : F.Statement (.unmap c) := fun _ => .step fun _ => rfl

theorem F.log (c : Call) : F.Statement (.log c) := fun _ => .step fun _ => rfl

theorem F.attestationQuote (c : Call) : F.Statement (.attestationQuote c) := fun _ => .step fun _ => rfl

theorem F.enrolSigningKey (c : Call) : F.Statement (.enrolSigningKey c) := fun _ => .step fun _ => rfl

theorem F.clearBootRecordAlternatives (c : Call) : F.Statement (.clearBootRecordAlternatives c) := fun _ => .step fun _ => rfl

theorem F.unknownService (n : BitVec 16) (c : Call) : F.Statement (.unknownService n c) := fun _ => .step fun _ => rfl

theorem F.codexLoad (part : Nat) (f : CodexFile) : F.Statement (.codexLoad part f) := fun _ => .step fun _ => rfl

theorem F.hostMailboxRequest (r : MailboxRequest) : F.Statement (.hostMailboxRequest r) := fun _ => .step fun _ => rfl

theorem F.quoteRequest (q : QuoteAsk) : F.Statement (.quoteRequest q) := fun _ => .step fun _ => rfl

theorem F.packageStart (o : StartOutcome) : F.Statement (.packageStart o) := fun _ => .step fun _ => rfl

theorem F.powerLoss : F.Statement (.powerLoss) := fun _ => .step fun _ => rfl

theorem F.xcopyViewComplete (cmd : Nat) : F.Statement (.xcopyViewComplete cmd) := fun _ => .step fun _ => rfl

theorem F.partitionCreate (p : PartitionSpec) : F.Statement (.partitionCreate p) := fun _ => .step fun _ => rfl

theorem F.partitionResize (part : Nat) (path : Path) (units : Nat) : F.Statement (.partitionResize part path units) := fun _ => .step fun _ => rfl

theorem F.debugStep : F.Statement (.debugStep) := fun _ => .step fun _ => rfl

end Sys2Proof.Laws
end

