-- ==== Sys2Proof/Tests/Slice0.lean ====
section
/-! SUPPORT. Tests: each is one named theorem. The expected values are worked out by hand from the rules of spec/ that the comments
name. -/

namespace Sys2Proof.Tests

open Sys2Proof Sys2Proof.Machine

/-- major 0x00, formats QI, QC and Q3. -/
theorem test_decode_system :
    decodeTableWord 32 0b0001001000110100_01_000000_00000000 = some (.svc { imm := 0x1234 }) ∧
    decodeTableWord 32 0b00111_00001110000_01_000000_00000001 = some (.mfc { fd := 7, crn := 0x070 }) ∧
    decodeTableWord 32 0b01001_00001000110_01_000000_00000010 = some (.mtc { fd := 9, crn := 70 }) ∧
    decodeTableWord 32 0b01001_00001000001_01_000000_00000010 = some (.mtcTpc { fd := 9, crn := 65 }) ∧
    decodeTableWord 32 0b01001_00000000000_01_000000_00000010 = some (.mtcVtype { fd := 9, crn := 0 }) ∧
    decodeTableWord 32 0b01001_00000000001_01_000000_00000010 = some (.mtcVl { fd := 9, crn := 1 }) ∧
    decodeTableWord 32 0b01001_00000010000_01_000000_00000010 = some (.mtcFrm { fd := 9, crn := 16 }) ∧
    decodeTableWord 32 0b01001_00000110010_01_000000_00000010 = some (.mtcPbnd { fd := 9, crn := 50 }) ∧
    decodeTableWord 32 0b0_00001_00101_00000_01_000000_00000011 = some (.dqput { fd := 1, fa := 5, fb := 0 }) ∧
    decodeTableWord 32 0b0_00110_00011_00000_01_000000_00000100 = some (.dqget { fd := 6, fa := 3, fb := 0 }) ∧
    decodeTableWord 32 0b0_00010_01001_10001_01_000000_00000101 = some (.xqput { fd := 2, fa := 9, fb := 17 }) ∧
    decodeTableWord 32 0b0_01001_00001_10001_01_000000_00000110 = some (.xqget { fd := 9, fa := 1, fb := 17 }) ∧
    decodeTableWord 32 0b0_00000_00101_00000_01_000000_00000111 = some (.bqput { fd := 0, fa := 5, fb := 0 }) := by
  decide

/-- major 0x01, format N; the scope is MIN[2:0] (R130). -/
theorem test_decode_no_operands :
    decodeTableWord 16 0b00_000001_00000000 = some (.nop) ∧
    decodeTableWord 16 0b00_000001_00000001 = some (.nend) ∧
    decodeTableWord 16 0b00_000001_00000010 = some (.tret) ∧
    decodeTableWord 16 0b00_000001_00000011 = some (.brk) ∧
    decodeTableWord 16 0b00_000001_00000100 = some (.vjoin) ∧
    decodeTableWord 16 0b00_000001_00000101 = some (.lstop) ∧
    decodeTableWord 16 0b00_000001_00010001 = some (.phase .core) ∧
    decodeTableWord 16 0b00_000001_00010010 = some (.phase .quad) ∧
    decodeTableWord 16 0b00_000001_00010011 = some (.phase .die) ∧
    decodeTableWord 16 0b00_000001_00010100 = some (.phase .pkg) ∧
    decodeTableWord 16 0b00_000001_00010101 = some (.phase .pod) ∧
    decodeTableWord 16 0b00_000001_00011001 = some (.fence .core) ∧
    decodeTableWord 16 0b00_000001_00011010 = some (.fence .quad) ∧
    decodeTableWord 16 0b00_000001_00011011 = some (.fence .die) ∧
    decodeTableWord 16 0b00_000001_00011100 = some (.fence .pkg) ∧
    decodeTableWord 16 0b00_000001_00011101 = some (.fence .pod) ∧
    decodeTableWord 16 0b00_000001_00100001 = some (.bar .core) ∧
    decodeTableWord 16 0b00_000001_00100010 = some (.bar .quad) ∧
    decodeTableWord 16 0b00_000001_00100011 = some (.bar .die) ∧
    decodeTableWord 16 0b00_000001_00100100 = some (.bar .pkg) ∧
    decodeTableWord 16 0b00_000001_00100101 = some (.bar .pod) := by
  decide

/-- major 0x02, format Q3. -/
theorem test_decode_scalar_integer :
    decodeTableWord 32 0b0_00011_00001_00010_01_000010_00000000 = some (.add { fd := 3, fa := 1, fb := 2 }) ∧
    decodeTableWord 32 0b0_00011_00001_00010_01_000010_00000001 = some (.sub { fd := 3, fa := 1, fb := 2 }) ∧
    decodeTableWord 32 0b0_00011_00001_00010_01_000010_00000010 = some (.and { fd := 3, fa := 1, fb := 2 }) ∧
    decodeTableWord 32 0b0_00011_00001_00010_01_000010_00000011 = some (.or { fd := 3, fa := 1, fb := 2 }) ∧
    decodeTableWord 32 0b0_00011_00001_00010_01_000010_00000100 = some (.xor { fd := 3, fa := 1, fb := 2 }) ∧
    decodeTableWord 32 0b0_00011_00001_00010_01_000010_00000101 = some (.sll { fd := 3, fa := 1, fb := 2 }) ∧
    decodeTableWord 32 0b0_00011_00001_00010_01_000010_00000110 = some (.srl { fd := 3, fa := 1, fb := 2 }) ∧
    decodeTableWord 32 0b0_00011_00001_00010_01_000010_00000111 = some (.sra { fd := 3, fa := 1, fb := 2 }) ∧
    decodeTableWord 32 0b0_00011_00001_00010_01_000010_00001000 = some (.slt { fd := 3, fa := 1, fb := 2 }) ∧
    decodeTableWord 32 0b0_00011_00001_00010_01_000010_00001001 = some (.sltn { fd := 3, fa := 1, fb := 2 }) ∧
    decodeTableWord 32 0b0_00011_00001_00010_01_000010_00001010 = some (.mul { fd := 3, fa := 1, fb := 2 }) ∧
    decodeTableWord 32 0b0_00011_00001_00010_01_000010_00001011 = some (.mulh { fd := 3, fa := 1, fb := 2 }) ∧
    decodeTableWord 32 0b0_00011_00001_00010_01_000010_00001100 = some (.mulhn { fd := 3, fa := 1, fb := 2 }) ∧
    decodeTableWord 32 0b0_00011_00001_00010_01_000010_00001101 = some (.div { fd := 3, fa := 1, fb := 2 }) ∧
    decodeTableWord 32 0b0_00011_00001_00010_01_000010_00001110 = some (.divn { fd := 3, fa := 1, fb := 2 }) ∧
    decodeTableWord 32 0b0_00011_00001_00010_01_000010_00001111 = some (.rem { fd := 3, fa := 1, fb := 2 }) ∧
    decodeTableWord 32 0b0_00011_00001_00010_01_000010_00010000 = some (.remn { fd := 3, fa := 1, fb := 2 }) ∧
    decodeTableWord 32 0b0_00011_00001_00010_01_000010_00010001 = some (.min { fd := 3, fa := 1, fb := 2 }) ∧
    decodeTableWord 32 0b0_00011_00001_00010_01_000010_00010010 = some (.max { fd := 3, fa := 1, fb := 2 }) ∧
    decodeTableWord 32 0b0_00011_00001_00010_01_000010_00010011 = some (.minn { fd := 3, fa := 1, fb := 2 }) ∧
    decodeTableWord 32 0b0_00011_00001_00010_01_000010_00010100 = some (.maxn { fd := 3, fa := 1, fb := 2 }) ∧
    decodeTableWord 32 0b0_00011_00001_00000_01_000010_00010101 = some (.popc { fd := 3, fa := 1, fb := 0 }) ∧
    decodeTableWord 32 0b0_00011_00001_00000_01_000010_00010110 = some (.clz { fd := 3, fa := 1, fb := 0 }) ∧
    decodeTableWord 32 0b0_00011_00001_00000_01_000010_00010111 = some (.ctz { fd := 3, fa := 1, fb := 0 }) := by
  decide

/-- major 0x03, format Q3; MIN[0] is the precision. -/
theorem test_decode_scalar_float :
    decodeTableWord 32 0b0_00011_00001_00010_01_000011_00000000 = some (.fadd false { fd := 3, fa := 1, fb := 2 }) ∧
    decodeTableWord 32 0b0_00011_00001_00010_01_000011_00000011 = some (.fsub true { fd := 3, fa := 1, fb := 2 }) ∧
    decodeTableWord 32 0b0_00011_00001_00010_01_000011_00000100 = some (.fmul false { fd := 3, fa := 1, fb := 2 }) ∧
    decodeTableWord 32 0b0_00011_00001_00010_01_000011_00000111 = some (.fdiv true { fd := 3, fa := 1, fb := 2 }) ∧
    decodeTableWord 32 0b0_00011_00001_00000_01_000011_00001000 = some (.fsqrt false { fd := 3, fa := 1, fb := 0 }) ∧
    decodeTableWord 32 0b0_00011_00001_00010_01_000011_00001011 = some (.fmin true { fd := 3, fa := 1, fb := 2 }) ∧
    decodeTableWord 32 0b0_00011_00001_00010_01_000011_00001100 = some (.fmax false { fd := 3, fa := 1, fb := 2 }) ∧
    decodeTableWord 32 0b0_00011_00001_00010_01_000011_00001111 = some (.feq true { fd := 3, fa := 1, fb := 2 }) ∧
    decodeTableWord 32 0b0_00011_00001_00010_01_000011_00010000 = some (.flt false { fd := 3, fa := 1, fb := 2 }) ∧
    decodeTableWord 32 0b0_00011_00001_00010_01_000011_00010011 = some (.fle true { fd := 3, fa := 1, fb := 2 }) ∧
    decodeTableWord 32 0b0_00011_00001_00010_01_000011_00010100 = some (.fsgnj false { fd := 3, fa := 1, fb := 2 }) := by
  decide

/-- majors 0x04 and 0x05, format W4. -/
theorem test_decode_scalar_four_operands :
    decodeTableWord 48 0b0000_00001_00010_00011_00100_01100_000_10_000100_00000000 = some (.fmadd { fd := 1, fa := 2, fb := 3, fc := 4, ty := 12, sc := 0 }) ∧
    decodeTableWord 48 0b0000_00001_00010_00011_00100_01101_000_10_000100_00000001 = some (.fmsub { fd := 1, fa := 2, fb := 3, fc := 4, ty := 13, sc := 0 }) ∧
    decodeTableWord 48 0b0000_00001_00010_00011_00100_01100_000_10_000100_00000010 = some (.fnmadd { fd := 1, fa := 2, fb := 3, fc := 4, ty := 12, sc := 0 }) ∧
    decodeTableWord 48 0b0000_00001_00010_00011_00100_01101_000_10_000100_00000011 = some (.fnmsub { fd := 1, fa := 2, fb := 3, fc := 4, ty := 13, sc := 0 }) ∧
    decodeTableWord 48 0b0000_00001_00010_00000_00011_01001_000_10_000100_00000100 = some (.fcvt { fd := 1, fa := 2, fb := 0, fc := 3, ty := 9, sc := 0 }) ∧
    decodeTableWord 48 0b0000_00001_00010_00011_00000_00000_000_10_000101_00000000 = some (.nspawn { fd := 1, fa := 2, fb := 3, fc := 0, ty := 0, sc := 0 }) ∧
    decodeTableWord 48 0b0000_00001_00010_00011_00000_00000_000_10_000101_00000001 = some (.nspawnW { fd := 1, fa := 2, fb := 3, fc := 0, ty := 0, sc := 0 }) := by
  decide

/-- major 0x08, format WI. -/
theorem test_decode_scalar_immediate :
    decodeTableWord 48 0b0000_00001_00010_111111111111111111_10_001000_00000000 = some (.addi { fd := 1, fa := 2, imm := 262143 }) ∧
    decodeTableWord 48 0b0000_00001_00010_000000000000001001_10_001000_00000001 = some (.andi { fd := 1, fa := 2, imm := 9 }) ∧
    decodeTableWord 48 0b0000_00001_00010_000000000000001001_10_001000_00000010 = some (.ori { fd := 1, fa := 2, imm := 9 }) ∧
    decodeTableWord 48 0b0000_00001_00010_000000000000001001_10_001000_00000011 = some (.xori { fd := 1, fa := 2, imm := 9 }) ∧
    decodeTableWord 48 0b0000_00001_00010_000000000000001001_10_001000_00000100 = some (.slli { fd := 1, fa := 2, imm := 9 }) ∧
    decodeTableWord 48 0b0000_00001_00010_000000000000001001_10_001000_00000101 = some (.srli { fd := 1, fa := 2, imm := 9 }) ∧
    decodeTableWord 48 0b0000_00001_00010_000000000000001001_10_001000_00000110 = some (.srai { fd := 1, fa := 2, imm := 9 }) ∧
    decodeTableWord 48 0b0000_00001_00010_111111111111111111_10_001000_00000111 = some (.slti { fd := 1, fa := 2, imm := 262143 }) ∧
    decodeTableWord 48 0b0000_00001_00010_000000000000001001_10_001000_00001000 = some (.sltni { fd := 1, fa := 2, imm := 9 }) := by
  decide

/-- majors 0x09 to 0x13, formats LI, WJ, WB, Q3, QN. -/
theorem test_decode_constants_and_control_flow :
    decodeTableWord 80 0b10110100101101001011010010110100_0000_00111_01111000011110000111100_11_001001_00000000 = some (.limm { fd := 7, imm := 0x5a5a5a5a3c3c3c }) ∧
    decodeTableWord 48 0b0000_00100_010101010101010101_01001_10_001010_00000000 = some (.pcaddr { fd := 4, ld := 0x15555, hd := 9 }) ∧
    decodeTableWord 48 0b0000_00001_00010_1111111111110_11110_10_010000_00000000 = some (.beq { fa := 1, fb := 2, ld := 0x1FFE, hd := 30 }) ∧
    decodeTableWord 48 0b0000_00001_00010_1111111111110_11110_10_010000_00000001 = some (.bne { fa := 1, fb := 2, ld := 0x1FFE, hd := 30 }) ∧
    decodeTableWord 48 0b0000_00001_00010_1111111111110_11110_10_010000_00000010 = some (.blt { fa := 1, fb := 2, ld := 0x1FFE, hd := 30 }) ∧
    decodeTableWord 48 0b0000_00001_00010_1111111111110_11110_10_010000_00000011 = some (.bge { fa := 1, fb := 2, ld := 0x1FFE, hd := 30 }) ∧
    decodeTableWord 48 0b0000_00001_00010_1111111111110_11110_10_010000_00000100 = some (.bltn { fa := 1, fb := 2, ld := 0x1FFE, hd := 30 }) ∧
    decodeTableWord 48 0b0000_00001_00010_1111111111110_11110_10_010000_00000101 = some (.bgen { fa := 1, fb := 2, ld := 0x1FFE, hd := 30 }) ∧
    decodeTableWord 48 0b0000_11111_101010101010101010_10001_10_010001_00000000 = some (.jal { fd := 31, ld := 0x2AAAA, hd := 17 }) ∧
    decodeTableWord 32 0b0_00001_00010_00000_01_010010_00000000 = some (.jalr { fd := 1, fa := 2, fb := 0 }) ∧
    decodeTableWord 32 0b00000000_11001000_01_010011_00000000 = some (.bqx { cnt := 200 }) := by
  decide

/-- major 0x14, format W4. -/
theorem test_decode_sequencer :
    decodeTableWord 48 0b0000_00000_00111_00000_00101_00000_000_10_010100_00000000 = some (.seqlev { fd := 0, fa := 7, fb := 0, fc := 5, ty := 0, sc := 0 }) ∧
    decodeTableWord 48 0b0000_00000_00111_00000_00110_00000_000_10_010100_00000001 = some (.seqbind { fd := 0, fa := 7, fb := 0, fc := 6, ty := 0, sc := 0 }) ∧
    decodeTableWord 48 0b0000_00000_00111_00110_00101_00000_000_10_010100_00000010 = some (.seqstride { fd := 0, fa := 7, fb := 6, fc := 5, ty := 0, sc := 0 }) ∧
    decodeTableWord 48 0b0000_11111_00000_00000_00011_00000_000_10_010100_00000011 = some (.seqrun { fd := 31, fa := 0, fb := 0, fc := 3, ty := 0, sc := 0 }) ∧
    decodeTableWord 48 0b0000_00000_00000_00000_00000_00000_000_10_010100_00000100 = some (.seqhalt { fd := 0, fa := 0, fb := 0, fc := 0, ty := 0, sc := 0 }) := by
  decide

/-- majors 0x18 and 0x19, format WI. -/
theorem test_decode_scalar_memory :
    decodeTableWord 48 0b0000_00011_00100_000000000000101000_10_011000_00000000 = some (.ldS8 { fd := 3, fa := 4, imm := 40 }) ∧
    decodeTableWord 48 0b0000_00011_00100_100000000000000000_10_011000_00000001 = some (.ldS16 { fd := 3, fa := 4, imm := 131072 }) ∧
    decodeTableWord 48 0b0000_00011_00100_000000000000101000_10_011000_00000010 = some (.ldS32 { fd := 3, fa := 4, imm := 40 }) ∧
    decodeTableWord 48 0b0000_00011_00100_100000000000000000_10_011000_00000011 = some (.ldS64 { fd := 3, fa := 4, imm := 131072 }) ∧
    decodeTableWord 48 0b0000_00011_00100_000000000000101000_10_011000_00000100 = some (.ldN8 { fd := 3, fa := 4, imm := 40 }) ∧
    decodeTableWord 48 0b0000_00011_00100_100000000000000000_10_011000_00000101 = some (.ldN16 { fd := 3, fa := 4, imm := 131072 }) ∧
    decodeTableWord 48 0b0000_00011_00100_000000000000101000_10_011000_00000110 = some (.ldN32 { fd := 3, fa := 4, imm := 40 }) ∧
    decodeTableWord 48 0b0000_00011_00100_000000000000101000_10_011000_00001000 = some (.stN8 { fd := 3, fa := 4, imm := 40 }) ∧
    decodeTableWord 48 0b0000_00011_00100_100000000000000000_10_011000_00001001 = some (.stN16 { fd := 3, fa := 4, imm := 131072 }) ∧
    decodeTableWord 48 0b0000_00011_00100_000000000000101000_10_011000_00001010 = some (.stN32 { fd := 3, fa := 4, imm := 40 }) ∧
    decodeTableWord 48 0b0000_00011_00100_100000000000000000_10_011000_00001011 = some (.stN64 { fd := 3, fa := 4, imm := 131072 }) ∧
    decodeTableWord 48 0b0000_00001_00100_000000000000001000_10_011001_00000000 = some (.ldq { fd := 1, fa := 4, imm := 8 }) := by
  decide

/-- major 0x1A, format W4. -/
theorem test_decode_atomics :
    decodeTableWord 48 0b0000_00001_00010_00011_00000_00011_001_10_011010_00000000 = some (.atswap { fd := 1, fa := 2, fb := 3, fc := 0, ty := 3, sc := 1 }) ∧
    decodeTableWord 48 0b0000_00001_00010_00011_00000_00011_010_10_011010_00000001 = some (.atadd { fd := 1, fa := 2, fb := 3, fc := 0, ty := 3, sc := 2 }) ∧
    decodeTableWord 48 0b0000_00001_00010_00011_00000_00011_011_10_011010_00000010 = some (.atand { fd := 1, fa := 2, fb := 3, fc := 0, ty := 3, sc := 3 }) ∧
    decodeTableWord 48 0b0000_00001_00010_00011_00000_00011_100_10_011010_00000011 = some (.ator { fd := 1, fa := 2, fb := 3, fc := 0, ty := 3, sc := 4 }) ∧
    decodeTableWord 48 0b0000_00001_00010_00011_00000_00011_101_10_011010_00000100 = some (.atxor { fd := 1, fa := 2, fb := 3, fc := 0, ty := 3, sc := 5 }) ∧
    decodeTableWord 48 0b0000_00001_00010_00011_00000_00010_001_10_011010_00000101 = some (.atmin { fd := 1, fa := 2, fb := 3, fc := 0, ty := 2, sc := 1 }) ∧
    decodeTableWord 48 0b0000_00001_00010_00011_00000_00011_010_10_011010_00000110 = some (.atmax { fd := 1, fa := 2, fb := 3, fc := 0, ty := 3, sc := 2 }) ∧
    decodeTableWord 48 0b0000_00001_00010_00011_00000_00110_011_10_011010_00000111 = some (.atminn { fd := 1, fa := 2, fb := 3, fc := 0, ty := 6, sc := 3 }) ∧
    decodeTableWord 48 0b0000_00001_00010_00011_00000_00111_100_10_011010_00001000 = some (.atmaxn { fd := 1, fa := 2, fb := 3, fc := 0, ty := 7, sc := 4 }) ∧
    decodeTableWord 48 0b0000_00001_00010_00011_00100_00011_101_10_011010_00001001 = some (.atcas { fd := 1, fa := 2, fb := 3, fc := 4, ty := 3, sc := 5 }) := by
  decide

/-- majors 0x1B and 0x1C, format WM. -/
theorem test_decode_vector_memory :
    decodeTableWord 48 0b0000_00000_000_0_0000_01001_01000_00111_10_011011_00000000 = some (.vstream { ty := 0, msk := 0, cv := false, vd := 9, sa := 8, xb := 7 }) ∧
    decodeTableWord 48 0b0000_00000_000_0_0000_01001_01000_00000_10_011011_00000001 = some (.vstreamSt { ty := 0, msk := 0, cv := false, vd := 9, sa := 8, xb := 0 }) ∧
    decodeTableWord 48 0b0000_00000_000_0_0000_01001_00000_00000_10_011011_00000010 = some (.vsunbind { ty := 0, msk := 0, cv := false, vd := 9, sa := 0, xb := 0 }) ∧
    decodeTableWord 48 0b0000_00011_101_0_0000_01001_01000_00000_10_011100_00000000 = some (.vld { ty := 3, msk := 5, cv := false, vd := 9, sa := 8, xb := 0 }) ∧
    decodeTableWord 48 0b0000_00011_101_1_0000_01001_01000_00000_10_011100_00000001 = some (.vst { ty := 3, msk := 5, cv := true, vd := 9, sa := 8, xb := 0 }) ∧
    decodeTableWord 48 0b0000_00010_101_0_0000_01001_01000_00111_10_011100_00000010 = some (.vlds { ty := 2, msk := 5, cv := false, vd := 9, sa := 8, xb := 7 }) ∧
    decodeTableWord 48 0b0000_00010_101_1_0000_01001_01000_00111_10_011100_00000011 = some (.vsts { ty := 2, msk := 5, cv := true, vd := 9, sa := 8, xb := 7 }) ∧
    decodeTableWord 48 0b0000_00001_101_0_0000_01001_01000_00111_10_011100_00000100 = some (.vldx { ty := 1, msk := 5, cv := false, vd := 9, sa := 8, xb := 7 }) ∧
    decodeTableWord 48 0b0000_00001_101_1_0000_01001_01000_00111_10_011100_00000101 = some (.vstx { ty := 1, msk := 5, cv := true, vd := 9, sa := 8, xb := 7 }) ∧
    decodeTableWord 48 0b0000_01101_101_0_0000_01001_01000_00000_10_011100_00000110 = some (.vldu { ty := 13, msk := 5, cv := false, vd := 9, sa := 8, xb := 0 }) ∧
    decodeTableWord 48 0b0000_01101_101_1_0000_01001_01000_00000_10_011100_00000111 = some (.vstu { ty := 13, msk := 5, cv := true, vd := 9, sa := 8, xb := 0 }) ∧
    decodeTableWord 48 0b0000_10110_101_0_0000_01001_01000_00000_10_011100_00001000 = some (.vldbp { ty := 22, msk := 5, cv := false, vd := 9, sa := 8, xb := 0 }) ∧
    decodeTableWord 48 0b0000_10000_101_1_0000_01001_01000_00000_10_011100_00001001 = some (.vstbp { ty := 16, msk := 5, cv := true, vd := 9, sa := 8, xb := 0 }) ∧
    decodeTableWord 48 0b0000_00000_000_0_0000_01111_01000_00111_10_011100_00001010 = some (.sldsc { ty := 0, msk := 0, cv := false, vd := 15, sa := 8, xb := 7 }) ∧
    decodeTableWord 48 0b0000_00000_000_0_0000_01111_01000_00111_10_011100_00001011 = some (.sstsc { ty := 0, msk := 0, cv := false, vd := 15, sa := 8, xb := 7 }) ∧
    decodeTableWord 48 0b0000_00000_000_1_0000_01001_01000_00000_10_011100_00001100 = some (.vspill { ty := 0, msk := 0, cv := true, vd := 9, sa := 8, xb := 0 }) ∧
    decodeTableWord 48 0b0000_00000_000_0_0000_01001_01000_00000_10_011100_00001101 = some (.vfill { ty := 0, msk := 0, cv := false, vd := 9, sa := 8, xb := 0 }) := by
  decide

/-- majors 0x1D to 0x1F, formats LF, W4 and WM. -/
theorem test_decode_folios_and_views :
    decodeTableWord 80 0b000000_1101_1010101010101010101010_0000_00011_101_0_0000_01001_01000_00111_11_011101_00000000 = some (.vldf { wm := { ty := 3, msk := 5, cv := false, vd := 9, sa := 8, xb := 7 }, fh := 13, foff := 0x2AAAAA }) ∧
    decodeTableWord 80 0b000000_1101_1010101010101010101010_0000_00011_101_1_0000_01001_01000_00111_11_011101_00000001 = some (.vstf { wm := { ty := 3, msk := 5, cv := true, vd := 9, sa := 8, xb := 7 }, fh := 13, foff := 0x2AAAAA }) ∧
    decodeTableWord 48 0b0000_00000_00010_00000_01111_00000_000_10_011110_00000000 = some (.folbind { fd := 0, fa := 2, fb := 0, fc := 15, ty := 0, sc := 0 }) ∧
    decodeTableWord 48 0b0000_00000_00000_00000_01111_00000_100_10_011110_00000001 = some (.folrel { fd := 0, fa := 0, fb := 0, fc := 15, ty := 0, sc := 4 }) ∧
    decodeTableWord 48 0b0000_00000_00000_00000_01111_00000_000_10_011110_00000010 = some (.folfill { fd := 0, fa := 0, fb := 0, fc := 15, ty := 0, sc := 0 }) ∧
    decodeTableWord 48 0b0000_00000_00000_00000_01111_00000_001_10_011110_00000011 = some (.foldrain { fd := 0, fa := 0, fb := 0, fc := 15, ty := 0, sc := 1 }) ∧
    decodeTableWord 48 0b0000_10010_101_0_0000_01001_01000_00111_10_011111_00000000 = some (.vldView { ty := 18, msk := 5, cv := false, vd := 9, sa := 8, xb := 7 }) ∧
    decodeTableWord 48 0b0000_00001_00010_00000_00000_00000_000_10_011111_00000001 = some (.vregView { fd := 1, fa := 2, fb := 0, fc := 0, ty := 0, sc := 0 }) ∧
    decodeTableWord 48 0b0000_00001_00010_00000_00000_00000_000_10_011111_00000010 = some (.vdropView { fd := 1, fa := 2, fb := 0, fc := 0, ty := 0, sc := 0 }) ∧
    decodeTableWord 48 0b0000_00001_00010_00011_00001_00000_000_10_011111_00000011 = some (.vwaitView { fd := 1, fa := 2, fb := 3, fc := 1, ty := 0, sc := 0 }) := by
  decide

/-- major 0x20, format W4. -/
theorem test_decode_vector_length :
    decodeTableWord 48 0b0000_00000_00010_00000_00000_00000_000_10_100000_00000000 = some (.vsetvl { fd := 0, fa := 2, fb := 0, fc := 0, ty := 0, sc := 0 }) ∧
    decodeTableWord 48 0b0000_01111_00011_00010_00000_01110_000_10_100000_00000001 = some (.vsettype { fd := 15, fa := 3, fb := 2, fc := 0, ty := 14, sc := 0 }) := by
  decide

/-- major 0x21, formats WV and LV, the four forms of R133. -/
theorem test_decode_vector_integer :
    decodeTableWord 48 0b0000_00010_00_1_1_101_0_01001_01000_00111_10_100001_00000000 = some (.vadd { ty := 2, msk := 5, ca := true, vd := 9, va := 8, src := .vec 7 true }) ∧
    decodeTableWord 48 0b0000_00010_01_1_0_101_0_01001_01000_00111_10_100001_00000001 = some (.vsub { ty := 2, msk := 5, ca := true, vd := 9, va := 8, src := .scal 7 }) ∧
    decodeTableWord 80 0b11011110101011011011111011101111_0000_00010_10_1_0_101_0_01001_01000_00000_11_100001_00000010 = some (.vrsub { ty := 2, msk := 5, ca := true, vd := 9, va := 8, src := .imm 3735928559 }) ∧
    decodeTableWord 48 0b0000_00010_11_1_0_101_0_01001_01000_00001_10_100001_00000011 = some (.vmul { ty := 2, msk := 5, ca := true, vd := 9, va := 8, src := .queue true }) ∧
    decodeTableWord 48 0b0000_00010_00_1_1_101_0_01001_01000_00111_10_100001_00000100 = some (.vmulh { ty := 2, msk := 5, ca := true, vd := 9, va := 8, src := .vec 7 true }) ∧
    decodeTableWord 48 0b0000_00010_00_1_1_101_0_01001_01000_00111_10_100001_00000101 = some (.vmin { ty := 2, msk := 5, ca := true, vd := 9, va := 8, src := .vec 7 true }) ∧
    decodeTableWord 48 0b0000_00010_00_1_1_101_0_01001_01000_00111_10_100001_00000110 = some (.vmax { ty := 2, msk := 5, ca := true, vd := 9, va := 8, src := .vec 7 true }) ∧
    decodeTableWord 48 0b0000_00010_00_1_1_101_0_01001_01000_00111_10_100001_00000111 = some (.vand { ty := 2, msk := 5, ca := true, vd := 9, va := 8, src := .vec 7 true }) ∧
    decodeTableWord 48 0b0000_00010_00_1_1_101_0_01001_01000_00111_10_100001_00001000 = some (.vor { ty := 2, msk := 5, ca := true, vd := 9, va := 8, src := .vec 7 true }) ∧
    decodeTableWord 48 0b0000_00010_00_1_1_101_0_01001_01000_00111_10_100001_00001001 = some (.vxor { ty := 2, msk := 5, ca := true, vd := 9, va := 8, src := .vec 7 true }) ∧
    decodeTableWord 48 0b0000_00010_00_1_1_101_0_01001_01000_00111_10_100001_00001010 = some (.vadds { ty := 2, msk := 5, ca := true, vd := 9, va := 8, src := .vec 7 true }) ∧
    decodeTableWord 48 0b0000_00010_00_1_1_101_0_01001_01000_00111_10_100001_00001011 = some (.vsubs { ty := 2, msk := 5, ca := true, vd := 9, va := 8, src := .vec 7 true }) ∧
    decodeTableWord 48 0b0000_00010_00_1_0_101_0_01001_01000_00000_10_100001_00001100 = some (.vabs { ty := 2, msk := 5, ca := true, vd := 9, va := 8, src := .vec 0 false }) ∧
    decodeTableWord 48 0b0000_00010_00_1_1_101_0_01001_01000_00111_10_100001_00001101 = some (.vavg { ty := 2, msk := 5, ca := true, vd := 9, va := 8, src := .vec 7 true }) := by
  decide

/-- major 0x22. -/
theorem test_decode_vector_shifts :
    decodeTableWord 48 0b0000_00010_00_1_1_101_0_01001_01000_00111_10_100010_00000000 = some (.vsll { ty := 2, msk := 5, ca := true, vd := 9, va := 8, src := .vec 7 true }) ∧
    decodeTableWord 48 0b0000_00010_00_1_1_101_0_01001_01000_00111_10_100010_00000001 = some (.vsrl { ty := 2, msk := 5, ca := true, vd := 9, va := 8, src := .vec 7 true }) ∧
    decodeTableWord 48 0b0000_00010_00_1_1_101_0_01001_01000_00111_10_100010_00000010 = some (.vsra { ty := 2, msk := 5, ca := true, vd := 9, va := 8, src := .vec 7 true }) ∧
    decodeTableWord 48 0b0000_00010_00_1_1_101_0_01001_01000_00111_10_100010_00000011 = some (.vsrar { ty := 2, msk := 5, ca := true, vd := 9, va := 8, src := .vec 7 true }) ∧
    decodeTableWord 48 0b0000_00010_00_1_1_101_0_01001_01000_00111_10_100010_00000100 = some (.vsrlr { ty := 2, msk := 5, ca := true, vd := 9, va := 8, src := .vec 7 true }) ∧
    decodeTableWord 48 0b0000_00010_00_1_1_101_0_01001_01000_00111_10_100010_00000101 = some (.vnsra { ty := 2, msk := 5, ca := true, vd := 9, va := 8, src := .vec 7 true }) ∧
    decodeTableWord 48 0b0000_00010_00_1_1_101_0_01001_01000_00111_10_100010_00000110 = some (.vfunl { ty := 2, msk := 5, ca := true, vd := 9, va := 8, src := .vec 7 true }) ∧
    decodeTableWord 48 0b0000_00010_00_1_1_101_0_01001_01000_00111_10_100010_00000111 = some (.vfunr { ty := 2, msk := 5, ca := true, vd := 9, va := 8, src := .vec 7 true }) := by
  decide

/-- major 0x23. -/
theorem test_decode_vector_products :
    decodeTableWord 48 0b0000_00001_00_1_1_101_0_01001_01000_00111_10_100011_00000000 = some (.vmac { ty := 1, msk := 5, ca := true, vd := 9, va := 8, src := .vec 7 true }) ∧
    decodeTableWord 48 0b0000_00001_00_1_1_101_0_01001_01000_00111_10_100011_00000001 = some (.vmacs { ty := 1, msk := 5, ca := true, vd := 9, va := 8, src := .vec 7 true }) ∧
    decodeTableWord 48 0b0000_00001_00_1_1_101_0_01001_01000_00111_10_100011_00000010 = some (.vdot2 { ty := 1, msk := 5, ca := true, vd := 9, va := 8, src := .vec 7 true }) ∧
    decodeTableWord 48 0b0000_00001_00_1_1_101_0_01001_01000_00111_10_100011_00000011 = some (.vdot2s { ty := 1, msk := 5, ca := true, vd := 9, va := 8, src := .vec 7 true }) ∧
    decodeTableWord 48 0b0000_00001_00_1_1_101_0_01001_01000_00111_10_100011_00000100 = some (.vdot4 { ty := 1, msk := 5, ca := true, vd := 9, va := 8, src := .vec 7 true }) ∧
    decodeTableWord 48 0b0000_00001_00_1_1_101_0_01001_01000_00111_10_100011_00000101 = some (.vdot4s { ty := 1, msk := 5, ca := true, vd := 9, va := 8, src := .vec 7 true }) := by
  decide

/-- major 0x24; the destination is a mask register (R132). -/
theorem test_decode_vector_compares_and_masks :
    decodeTableWord 48 0b0000_00010_00_1_1_101_0_00110_01000_00111_10_100100_00000000 = some (.vceq { ty := 2, msk := 5, ca := true, vd := 6, va := 8, src := .vec 7 true }) ∧
    decodeTableWord 48 0b0000_00010_00_1_1_101_0_00110_01000_00111_10_100100_00000001 = some (.vcne { ty := 2, msk := 5, ca := true, vd := 6, va := 8, src := .vec 7 true }) ∧
    decodeTableWord 48 0b0000_00010_00_1_1_101_0_00110_01000_00111_10_100100_00000010 = some (.vclt { ty := 2, msk := 5, ca := true, vd := 6, va := 8, src := .vec 7 true }) ∧
    decodeTableWord 48 0b0000_00010_00_1_1_101_0_00110_01000_00111_10_100100_00000011 = some (.vcle { ty := 2, msk := 5, ca := true, vd := 6, va := 8, src := .vec 7 true }) ∧
    decodeTableWord 48 0b0000_00010_00_1_1_101_0_00110_01000_00111_10_100100_00000100 = some (.vcgt { ty := 2, msk := 5, ca := true, vd := 6, va := 8, src := .vec 7 true }) ∧
    decodeTableWord 48 0b0000_00010_00_1_1_101_0_00110_01000_00111_10_100100_00000101 = some (.vcge { ty := 2, msk := 5, ca := true, vd := 6, va := 8, src := .vec 7 true }) ∧
    decodeTableWord 48 0b0000_00000_00_0_0_000_0_00110_00101_00100_10_100100_00001000 = some (.mand { ty := 0, msk := 0, ca := false, vd := 6, va := 5, src := .vec 4 false }) ∧
    decodeTableWord 48 0b0000_00000_00_0_0_000_0_00110_00101_00100_10_100100_00001001 = some (.mor { ty := 0, msk := 0, ca := false, vd := 6, va := 5, src := .vec 4 false }) ∧
    decodeTableWord 48 0b0000_00000_00_0_0_000_0_00110_00101_00100_10_100100_00001010 = some (.mxor { ty := 0, msk := 0, ca := false, vd := 6, va := 5, src := .vec 4 false }) ∧
    decodeTableWord 48 0b0000_00000_00_0_0_000_0_00110_00101_00000_10_100100_00001011 = some (.mnot { ty := 0, msk := 0, ca := false, vd := 6, va := 5, src := .vec 0 false }) ∧
    decodeTableWord 48 0b0000_00000_00_0_0_101_0_01001_00111_00000_10_100100_00001100 = some (.mpopc { ty := 0, msk := 5, ca := false, vd := 9, va := 7, src := .vec 0 false }) := by
  decide

/-- major 0x25. -/
theorem test_decode_vector_permutations :
    decodeTableWord 48 0b0000_00010_00_1_1_101_0_01001_01000_00111_10_100101_00000000 = some (.vslup { ty := 2, msk := 5, ca := true, vd := 9, va := 8, src := .vec 7 true }) ∧
    decodeTableWord 48 0b0000_00010_00_1_1_101_0_01001_01000_00111_10_100101_00000001 = some (.vsldn { ty := 2, msk := 5, ca := true, vd := 9, va := 8, src := .vec 7 true }) ∧
    decodeTableWord 48 0b0000_00010_00_1_0_101_0_01001_01000_00000_10_100101_00000010 = some (.vcompress { ty := 2, msk := 5, ca := true, vd := 9, va := 8, src := .vec 0 false }) ∧
    decodeTableWord 48 0b0000_00010_00_1_0_101_0_01001_01000_00000_10_100101_00000011 = some (.vexpand { ty := 2, msk := 5, ca := true, vd := 9, va := 8, src := .vec 0 false }) ∧
    decodeTableWord 48 0b0000_00010_00_0_0_101_0_01001_00000_00000_10_100101_00000100 = some (.viota { ty := 2, msk := 5, ca := false, vd := 9, va := 0, src := .vec 0 false }) ∧
    decodeTableWord 48 0b0000_00010_00_1_1_101_0_01001_01000_00111_10_100101_00000101 = some (.vgather { ty := 2, msk := 5, ca := true, vd := 9, va := 8, src := .vec 7 true }) ∧
    decodeTableWord 48 0b0000_00010_00_1_1_101_0_01001_01000_00111_10_100101_00000110 = some (.vmerge { ty := 2, msk := 5, ca := true, vd := 9, va := 8, src := .vec 7 true }) ∧
    decodeTableWord 80 0b00000000000000000000000001001101_0000_00010_10_0_0_101_0_01001_00000_00000_11_100101_00000111 = some (.vmv { ty := 2, msk := 5, ca := false, vd := 9, va := 0, src := .imm 77 }) := by
  decide

/-- major 0x26. -/
theorem test_decode_vector_reductions :
    decodeTableWord 48 0b0000_00110_00_1_1_101_0_01001_01000_00111_10_100110_00000000 = some (.vredsum { ty := 6, msk := 5, ca := true, vd := 9, va := 8, src := .vec 7 true }) ∧
    decodeTableWord 48 0b0000_00110_00_1_1_101_0_01001_01000_00111_10_100110_00000001 = some (.vredsums { ty := 6, msk := 5, ca := true, vd := 9, va := 8, src := .vec 7 true }) ∧
    decodeTableWord 48 0b0000_00110_00_1_1_101_0_01001_01000_00111_10_100110_00000010 = some (.vredmax { ty := 6, msk := 5, ca := true, vd := 9, va := 8, src := .vec 7 true }) ∧
    decodeTableWord 48 0b0000_00110_00_1_1_101_0_01001_01000_00111_10_100110_00000011 = some (.vredmin { ty := 6, msk := 5, ca := true, vd := 9, va := 8, src := .vec 7 true }) ∧
    decodeTableWord 48 0b0000_00110_00_1_1_101_0_01001_01000_00111_10_100110_00000100 = some (.vredand { ty := 6, msk := 5, ca := true, vd := 9, va := 8, src := .vec 7 true }) ∧
    decodeTableWord 48 0b0000_00110_00_1_1_101_0_01001_01000_00111_10_100110_00000101 = some (.vredor { ty := 6, msk := 5, ca := true, vd := 9, va := 8, src := .vec 7 true }) ∧
    decodeTableWord 48 0b0000_00110_00_1_1_101_0_01001_01000_00111_10_100110_00000110 = some (.vredxor { ty := 6, msk := 5, ca := true, vd := 9, va := 8, src := .vec 7 true }) ∧
    decodeTableWord 48 0b0000_00110_00_1_1_101_0_01001_01000_00111_10_100110_00000111 = some (.vscan { ty := 6, msk := 5, ca := true, vd := 9, va := 8, src := .vec 7 true }) := by
  decide

/-- majors 0x27 and 0x28. -/
theorem test_decode_vector_float :
    decodeTableWord 48 0b0000_01100_00_1_1_101_0_01001_01000_00111_10_100111_00000000 = some (.vfadd { ty := 12, msk := 5, ca := true, vd := 9, va := 8, src := .vec 7 true }) ∧
    decodeTableWord 48 0b0000_01100_00_1_1_101_0_01001_01000_00111_10_100111_00000001 = some (.vfsub { ty := 12, msk := 5, ca := true, vd := 9, va := 8, src := .vec 7 true }) ∧
    decodeTableWord 48 0b0000_01100_00_1_1_101_0_01001_01000_00111_10_100111_00000010 = some (.vfmul { ty := 12, msk := 5, ca := true, vd := 9, va := 8, src := .vec 7 true }) ∧
    decodeTableWord 48 0b0000_01100_00_1_1_101_0_01001_01000_00111_10_100111_00000011 = some (.vfdiv { ty := 12, msk := 5, ca := true, vd := 9, va := 8, src := .vec 7 true }) ∧
    decodeTableWord 48 0b0000_01100_00_1_0_101_0_01001_01000_00000_10_100111_00000100 = some (.vfsqrt { ty := 12, msk := 5, ca := true, vd := 9, va := 8, src := .vec 0 false }) ∧
    decodeTableWord 48 0b0000_01100_00_1_1_101_0_01001_01000_00111_10_100111_00000101 = some (.vfmin { ty := 12, msk := 5, ca := true, vd := 9, va := 8, src := .vec 7 true }) ∧
    decodeTableWord 48 0b0000_01100_00_1_1_101_0_01001_01000_00111_10_100111_00000110 = some (.vfmax { ty := 12, msk := 5, ca := true, vd := 9, va := 8, src := .vec 7 true }) ∧
    decodeTableWord 48 0b0000_01100_00_1_0_101_0_01001_01000_00000_10_100111_00000111 = some (.vfabs { ty := 12, msk := 5, ca := true, vd := 9, va := 8, src := .vec 0 false }) ∧
    decodeTableWord 48 0b0000_01100_00_1_0_101_0_01001_01000_00000_10_100111_00001000 = some (.vfneg { ty := 12, msk := 5, ca := true, vd := 9, va := 8, src := .vec 0 false }) ∧
    decodeTableWord 48 0b0000_01100_00_1_1_101_0_01001_01000_00111_10_100111_00001001 = some (.vfsgnj { ty := 12, msk := 5, ca := true, vd := 9, va := 8, src := .vec 7 true }) ∧
    decodeTableWord 48 0b0000_01101_00_1_1_101_0_01001_01000_00111_10_101000_00000000 = some (.vfma { ty := 13, msk := 5, ca := true, vd := 9, va := 8, src := .vec 7 true }) ∧
    decodeTableWord 48 0b0000_01101_00_1_1_101_0_01001_01000_00111_10_101000_00000001 = some (.vfms { ty := 13, msk := 5, ca := true, vd := 9, va := 8, src := .vec 7 true }) ∧
    decodeTableWord 48 0b0000_01101_00_1_1_101_0_01001_01000_00111_10_101000_00000010 = some (.vfnma { ty := 13, msk := 5, ca := true, vd := 9, va := 8, src := .vec 7 true }) ∧
    decodeTableWord 48 0b0000_01101_00_1_1_101_0_01001_01000_00111_10_101000_00000011 = some (.vfnms { ty := 13, msk := 5, ca := true, vd := 9, va := 8, src := .vec 7 true }) := by
  decide

/-- majors 0x29 to 0x2B. -/
theorem test_decode_vector_conversions_and_trees :
    decodeTableWord 48 0b0000_00001_00_1_0_101_0_01001_01000_01100_10_101001_00000000 = some (.vcvt { ty := 1, msk := 5, ca := true, vd := 9, va := 8, src := .vec 12 false }) ∧
    decodeTableWord 48 0b0000_00001_00_1_0_101_0_01001_01000_01101_10_101001_00000001 = some (.vcvtz { ty := 1, msk := 5, ca := true, vd := 9, va := 8, src := .vec 13 false }) ∧
    decodeTableWord 48 0b0000_10100_00_1_0_101_0_01001_01000_01111_10_101010_00000000 = some (.vquant { ty := 20, msk := 5, ca := true, vd := 9, va := 8, src := .vec 15 false }) ∧
    decodeTableWord 48 0b0000_10000_00_1_0_101_0_01001_01000_01111_10_101010_00000001 = some (.vdeq { ty := 16, msk := 5, ca := true, vd := 9, va := 8, src := .vec 15 false }) ∧
    decodeTableWord 48 0b0000_01100_00_1_1_101_0_01001_01000_00111_10_101011_00000000 = some (.vfredsum { ty := 12, msk := 5, ca := true, vd := 9, va := 8, src := .vec 7 true }) ∧
    decodeTableWord 48 0b0000_01100_00_1_1_101_0_01001_01000_00111_10_101011_00000001 = some (.vfredmax { ty := 12, msk := 5, ca := true, vd := 9, va := 8, src := .vec 7 true }) ∧
    decodeTableWord 48 0b0000_01100_00_1_1_101_0_01001_01000_00111_10_101011_00000010 = some (.vfredmin { ty := 12, msk := 5, ca := true, vd := 9, va := 8, src := .vec 7 true }) ∧
    decodeTableWord 48 0b0000_01100_00_1_1_101_0_01001_01000_00111_10_101011_00000011 = some (.vfscan { ty := 12, msk := 5, ca := true, vd := 9, va := 8, src := .vec 7 true }) ∧
    decodeTableWord 48 0b0000_01100_00_1_1_101_0_01001_01000_00111_10_101011_00000100 = some (.vfred2 { ty := 12, msk := 5, ca := true, vd := 9, va := 8, src := .vec 7 true }) := by
  decide

/-- major 0x2C, formats WJ and WL. -/
theorem test_decode_lane_threads :
    decodeTableWord 48 0b0000_00000_010101010101010101_01001_10_101100_00000000 = some (.vblk { fd := 0, ld := 0x15555, hd := 9 }) ∧
    decodeTableWord 48 0b0000_101_00_101010101010101010_00011_10_101100_00000001 = some (.lfetch { msk := 5, ld := 0x2AAAA, hd := 3 }) := by
  decide

/-- majors 0x30 to 0x33, format WX. -/
theorem test_decode_matrix :
    decodeTableWord 48 0b0000_01100_0_00_00_00000_00000_000_0_0000_10_110000_00000000 = some (.mmode { ty := 12, ad := 0, ta := 0, tb := 0, vs := 0, sk := 0, msk := 0, cv := false }) ∧
    decodeTableWord 48 0b0000_00000_0_00_00_00000_00000_000_0_0000_10_110000_00000001 = some (.mexit { ty := 0, ad := 0, ta := 0, tb := 0, vs := 0, sk := 0, msk := 0, cv := false }) ∧
    decodeTableWord 48 0b0000_01010_0_10_00_00000_01001_000_0_0000_10_110001_00000000 = some (.tcfg { ty := 10, ad := 0, ta := 2, tb := 0, vs := 0, sk := 9, msk := 0, cv := false }) ∧
    decodeTableWord 48 0b0000_00000_0_11_00_00000_00000_000_0_0000_10_110001_00000001 = some (.trel { ty := 0, ad := 0, ta := 3, tb := 0, vs := 0, sk := 0, msk := 0, cv := false }) ∧
    decodeTableWord 48 0b0000_01011_0_10_00_00111_01001_000_1_0000_10_110001_00000010 = some (.tmvr { ty := 11, ad := 0, ta := 2, tb := 0, vs := 7, sk := 9, msk := 0, cv := true }) ∧
    decodeTableWord 48 0b0000_01011_0_01_00_00111_01001_000_0_0000_10_110001_00000011 = some (.tmvc { ty := 11, ad := 0, ta := 1, tb := 0, vs := 7, sk := 9, msk := 0, cv := false }) ∧
    decodeTableWord 48 0b0000_01101_0_11_00_00111_01001_000_0_0000_10_110001_00000100 = some (.tld { ty := 13, ad := 0, ta := 3, tb := 0, vs := 7, sk := 9, msk := 0, cv := false }) ∧
    decodeTableWord 48 0b0000_01101_0_10_00_00111_01001_000_0_0000_10_110001_00000101 = some (.tst { ty := 13, ad := 0, ta := 2, tb := 0, vs := 7, sk := 9, msk := 0, cv := false }) ∧
    decodeTableWord 48 0b0000_10010_1_10_11_00111_01001_000_0_0000_10_110010_00000000 = some (.mop { ty := 18, ad := 1, ta := 2, tb := 3, vs := 7, sk := 9, msk := 0, cv := false }) ∧
    decodeTableWord 48 0b0000_01100_1_10_01_00000_00000_101_0_0000_10_110010_00000001 = some (.mopsp { ty := 12, ad := 1, ta := 2, tb := 1, vs := 0, sk := 0, msk := 5, cv := false }) ∧
    decodeTableWord 48 0b0000_01100_1_01_11_00000_00000_000_0_0000_10_110010_00000010 = some (.mopneg { ty := 12, ad := 1, ta := 1, tb := 3, vs := 0, sk := 0, msk := 0, cv := false }) ∧
    decodeTableWord 48 0b0000_01100_1_00_00_00111_01001_000_0_0000_10_110011_00000000 = some (.accmv { ty := 12, ad := 1, ta := 0, tb := 0, vs := 7, sk := 9, msk := 0, cv := false }) ∧
    decodeTableWord 48 0b0000_01101_1_00_00_00111_01001_000_0_0000_10_110011_00000001 = some (.accPeek { ty := 13, ad := 1, ta := 0, tb := 0, vs := 7, sk := 9, msk := 0, cv := false }) ∧
    decodeTableWord 48 0b0000_00000_1_00_00_00000_00000_000_0_0000_10_110011_00000010 = some (.acczero { ty := 0, ad := 1, ta := 0, tb := 0, vs := 0, sk := 0, msk := 0, cv := false }) ∧
    decodeTableWord 48 0b0000_00000_1_00_00_00000_01001_000_0_0000_10_110011_00000011 = some (.accsp { ty := 0, ad := 1, ta := 0, tb := 0, vs := 0, sk := 9, msk := 0, cv := false }) ∧
    decodeTableWord 48 0b0000_00000_1_00_00_00000_01001_000_0_0000_10_110011_00000100 = some (.accfl { ty := 0, ad := 1, ta := 0, tb := 0, vs := 0, sk := 9, msk := 0, cv := false }) := by
  decide

/-- majors 0x38 and 0x39, formats WV and W4. -/
theorem test_decode_geometry :
    decodeTableWord 48 0b0000_01110_00_1_1_101_0_01001_01000_00111_10_111000_00000000 = some (.gcvt { ty := 14, msk := 5, ca := true, vd := 9, va := 8, src := .vec 7 true }) ∧
    decodeTableWord 48 0b0000_01110_00_1_1_101_0_01001_01000_00111_10_111000_00000001 = some (.gadd { ty := 14, msk := 5, ca := true, vd := 9, va := 8, src := .vec 7 true }) ∧
    decodeTableWord 48 0b0000_01110_00_1_1_101_0_01001_01000_00111_10_111000_00000010 = some (.gsub { ty := 14, msk := 5, ca := true, vd := 9, va := 8, src := .vec 7 true }) ∧
    decodeTableWord 48 0b0000_01110_00_1_1_101_0_01001_01000_00111_10_111000_00000011 = some (.gscale { ty := 14, msk := 5, ca := true, vd := 9, va := 8, src := .vec 7 true }) ∧
    decodeTableWord 48 0b0000_01110_00_1_1_101_0_01001_01000_00111_10_111000_00000100 = some (.gsettag { ty := 14, msk := 5, ca := true, vd := 9, va := 8, src := .vec 7 true }) ∧
    decodeTableWord 48 0b0000_01110_00_1_0_101_0_01001_01000_00000_10_111000_00000101 = some (.gtagof { ty := 14, msk := 5, ca := true, vd := 9, va := 8, src := .vec 0 false }) ∧
    decodeTableWord 48 0b0000_00001_00010_00011_00100_00000_010_10_111001_00000000 = some (.fnew { fd := 1, fa := 2, fb := 3, fc := 4, ty := 0, sc := 2 }) ∧
    decodeTableWord 48 0b0000_00001_00010_00011_00000_00000_011_10_111001_00000001 = some (.fmove { fd := 1, fa := 2, fb := 3, fc := 0, ty := 0, sc := 3 }) ∧
    decodeTableWord 48 0b0000_00001_00010_00011_00100_00000_100_10_111001_00000010 = some (.fsplit { fd := 1, fa := 2, fb := 3, fc := 4, ty := 0, sc := 4 }) ∧
    decodeTableWord 48 0b0000_00001_00010_00000_00000_00000_101_10_111001_00000011 = some (.fdel { fd := 1, fa := 2, fb := 0, fc := 0, ty := 0, sc := 5 }) ∧
    decodeTableWord 48 0b0000_00001_00010_00011_00100_00000_010_10_111001_00000100 = some (.fdelAdopt { fd := 1, fa := 2, fb := 3, fc := 4, ty := 0, sc := 2 }) ∧
    decodeTableWord 48 0b0000_00001_00010_00000_00000_00000_011_10_111001_00000101 = some (.fdelFwd { fd := 1, fa := 2, fb := 0, fc := 0, ty := 0, sc := 3 }) ∧
    decodeTableWord 48 0b0000_00001_00010_00000_00000_00000_100_10_111001_00000110 = some (.freclaim { fd := 1, fa := 2, fb := 0, fc := 0, ty := 0, sc := 4 }) ∧
    decodeTableWord 48 0b0000_00001_00010_00011_00000_00000_000_10_111001_00000111 = some (.fread { fd := 1, fa := 2, fb := 3, fc := 0, ty := 0, sc := 0 }) := by
  decide

/-- majors 0x3C to 0x3E, format LE. -/
theorem test_decode_engines_barriers_pools :
    decodeTableWord 80 0b00000000000000000000000000000000_0000_00001_00010_00000_00011_000_00000_11_111100_00000000 = some (.xcopy { fd := 1, fa := 2, fb := 0, fc := 3, sc := 0, imm := 0 }) ∧
    decodeTableWord 80 0b00000000000000000000000000000000_0000_00001_00010_00000_00011_000_00000_11_111100_00000001 = some (.xput { fd := 1, fa := 2, fb := 0, fc := 3, sc := 0, imm := 0 }) ∧
    decodeTableWord 80 0b00000000000000000000000000000000_0000_00001_00010_00000_00011_000_00000_11_111100_00000010 = some (.xputW { fd := 1, fa := 2, fb := 0, fc := 3, sc := 0, imm := 0 }) ∧
    decodeTableWord 80 0b00000000000000000000000000000000_0000_00001_00010_00000_00011_000_00000_11_111100_00000011 = some (.xreduce { fd := 1, fa := 2, fb := 0, fc := 3, sc := 0, imm := 0 }) ∧
    decodeTableWord 80 0b00000000000000000000000000000000_0000_00001_00010_00000_00011_000_00000_11_111100_00000100 = some (.xcopyView { fd := 1, fa := 2, fb := 0, fc := 3, sc := 0, imm := 0 }) ∧
    decodeTableWord 80 0b00000000000000000000111111111111_0000_00001_00010_00011_00100_000_00000_11_111100_00000101 = some (.zenc { fd := 1, fa := 2, fb := 3, fc := 4, sc := 0, imm := 4095 }) ∧
    decodeTableWord 80 0b00000000000000000000100000000001_0000_00001_00010_00011_00100_000_00000_11_111100_00000110 = some (.zdec { fd := 1, fa := 2, fb := 3, fc := 4, sc := 0, imm := 2049 }) ∧
    decodeTableWord 80 0b00000000000000000000000000000000_0000_00000_00010_00011_00100_000_00000_11_111101_00000000 = some (.cbinit { fd := 0, fa := 2, fb := 3, fc := 4, sc := 0, imm := 0 }) ∧
    decodeTableWord 80 0b00000000000000000000000000000000_0000_00001_00010_00011_00000_000_00000_11_111101_00000001 = some (.cbarrive { fd := 1, fa := 2, fb := 3, fc := 0, sc := 0, imm := 0 }) ∧
    decodeTableWord 80 0b00000000000000000000000000000001_0000_00001_00010_00011_00000_000_00000_11_111101_00000010 = some (.cbwait { fd := 1, fa := 2, fb := 3, fc := 0, sc := 0, imm := 1 }) ∧
    decodeTableWord 80 0b00000000000000000000000000000000_0000_00001_00010_00011_00000_000_00000_11_111101_00000011 = some (.cbtest { fd := 1, fa := 2, fb := 3, fc := 0, sc := 0, imm := 0 }) ∧
    decodeTableWord 80 0b00000000000000000000000000000000_0000_00001_00010_00011_00100_000_00000_11_111110_00000000 = some (.pput { fd := 1, fa := 2, fb := 3, fc := 4, sc := 0, imm := 0 }) ∧
    decodeTableWord 80 0b00000000000000000000000000000010_0000_00001_00010_00011_00100_000_00000_11_111110_00000001 = some (.ptake { fd := 1, fa := 2, fb := 3, fc := 4, sc := 0, imm := 2 }) ∧
    decodeTableWord 80 0b00000000000000000000000000000011_0000_00001_00010_00011_00100_000_00000_11_111110_00000010 = some (.ptakeW { fd := 1, fa := 2, fb := 3, fc := 4, sc := 0, imm := 3 }) ∧
    decodeTableWord 80 0b00000000000000000000000000000001_0000_00000_00010_00000_00000_000_00000_11_111110_00000011 = some (.pbnd { fd := 0, fa := 2, fb := 0, fc := 0, sc := 0, imm := 1 }) ∧
    decodeTableWord 80 0b00000000000000000000000000000011_0000_00001_00010_00000_00000_000_00000_11_111110_00000100 = some (.pstat { fd := 1, fa := 2, fb := 0, fc := 0, sc := 0, imm := 3 }) ∧
    decodeTableWord 80 0b00000000000000000000000000000010_0000_00001_00010_00000_00000_000_00000_11_111110_00000101 = some (.pdrain { fd := 1, fa := 2, fb := 0, fc := 0, sc := 0, imm := 2 }) := by
  decide
/-! R179, R180, R186, R226 to R228: terms whose fields stand at their limits, and one ill-formed term for each check. -/

theorem test_wf_admits_system : ([
      .mfc { fd := 1, crn := 0x075 },
      .mtc { fd := 1, crn := 0x046 },
      .mtcTpc { fd := 1, crn := 0x041 },
      .mtcVtype { fd := 1, crn := 0 },
      .mtcVl { fd := 1, crn := 1 },
      .mtcFrm { fd := 1, crn := 0x010 },
      .mtcPbnd { fd := 1, crn := 0x033 },
      .dqput { fd := 1, fa := 1, fb := 0 },
      .dqget { fd := 1, fa := 3, fb := 0 },
      .xqput { fd := 2, fa := 1, fb := 0 },
      .xqget { fd := 1, fa := 1, fb := 0 },
      .bqput { fd := 0, fa := 1, fb := 0 },
      .phase .core,
      .fence .core,
      .bar .core] : List Instr).all (fun i => wf i == true) = true := by
  decide

theorem test_wf_refuses_system : ([
      .mfc { fd := 1, crn := 0x006 },
      .mfc { fd := 1, crn := 0x076 },
      .mtc { fd := 1, crn := 0x045 },
      .mtc { fd := 1, crn := 0x060 },
      .mtc { fd := 1, crn := 0x041 },
      .mtcTpc { fd := 1, crn := 0x040 },
      .mtcVtype { fd := 1, crn := 1 },
      .mtcVl { fd := 1, crn := 0 },
      .mtcFrm { fd := 1, crn := 0x011 },
      .mtcPbnd { fd := 1, crn := 0x034 },
      .dqput { fd := 2, fa := 1, fb := 0 },
      .dqput { fd := 1, fa := 1, fb := 1 },
      .dqget { fd := 1, fa := 1, fb := 0 },
      .dqget { fd := 1, fa := 3, fb := 1 },
      .xqput { fd := 1, fa := 1, fb := 0 },
      .xqput { fd := 4, fa := 1, fb := 0 },
      .xqget { fd := 1, fa := 2, fb := 0 },
      .bqput { fd := 1, fa := 1, fb := 0 },
      .bqput { fd := 0, fa := 1, fb := 1 },
      .phase .lane,
      .fence .lane,
      .bar .lane] : List Instr).all (fun i => wf i == false) = true := by
  decide

/-! R163 to R184, R195: terms whose fields stand at their limits, and one ill-formed term for each check. -/

theorem test_wf_admits_scalar : ([
      .popc { fd := 1, fa := 1, fb := 0 },
      .clz { fd := 1, fa := 1, fb := 0 },
      .ctz { fd := 1, fa := 1, fb := 0 },
      .jalr { fd := 1, fa := 1, fb := 0 },
      .fsqrt true { fd := 1, fa := 1, fb := 0 },
      .fmadd { fd := 1, fa := 1, fb := 1, fc := 0, ty := 0x0D, sc := 0 },
      .fmsub { fd := 1, fa := 1, fb := 1, fc := 0, ty := 0x0D, sc := 0 },
      .fnmadd { fd := 1, fa := 1, fb := 1, fc := 0, ty := 0x0D, sc := 0 },
      .fnmsub { fd := 1, fa := 1, fb := 1, fc := 0, ty := 0x0D, sc := 0 },
      .fcvt { fd := 1, fa := 1, fb := 0, fc := 0x0D, ty := 0x0D, sc := 0 },
      .nspawn { fd := 1, fa := 1, fb := 1, fc := 0, ty := 0, sc := 0 },
      .nspawnW { fd := 1, fa := 1, fb := 1, fc := 0, ty := 0, sc := 0 },
      .slli { fd := 1, fa := 1, imm := 63 },
      .srli { fd := 1, fa := 1, imm := 63 },
      .srai { fd := 1, fa := 1, imm := 63 },
      .bqx { cnt := 255 },
      .seqlev { fd := 0, fa := 1, fb := 0, fc := 5, ty := 0, sc := 0 },
      .seqbind { fd := 0, fa := 1, fb := 0, fc := 7, ty := 0, sc := 0 },
      .seqstride { fd := 0, fa := 1, fb := 7, fc := 5, ty := 0, sc := 0 },
      .seqrun { fd := 1, fa := 0, fb := 0, fc := 6, ty := 0, sc := 0 },
      .seqhalt { fd := 0, fa := 0, fb := 0, fc := 0, ty := 0, sc := 0 }] : List Instr).all (fun i => wf i == true) = true := by
  decide

theorem test_wf_refuses_scalar : ([
      .popc { fd := 1, fa := 1, fb := 1 },
      .clz { fd := 1, fa := 1, fb := 1 },
      .ctz { fd := 1, fa := 1, fb := 1 },
      .jalr { fd := 1, fa := 1, fb := 1 },
      .fsqrt true { fd := 1, fa := 1, fb := 1 },
      .fmadd { fd := 1, fa := 1, fb := 1, fc := 0, ty := 0x0B, sc := 0 },
      .fmadd { fd := 1, fa := 1, fb := 1, fc := 0, ty := 0x0D, sc := 1 },
      .fmsub { fd := 1, fa := 1, fb := 1, fc := 0, ty := 0x0B, sc := 0 },
      .fmsub { fd := 1, fa := 1, fb := 1, fc := 0, ty := 0x0D, sc := 1 },
      .fnmadd { fd := 1, fa := 1, fb := 1, fc := 0, ty := 0x0B, sc := 0 },
      .fnmadd { fd := 1, fa := 1, fb := 1, fc := 0, ty := 0x0D, sc := 1 },
      .fnmsub { fd := 1, fa := 1, fb := 1, fc := 0, ty := 0x0B, sc := 0 },
      .fnmsub { fd := 1, fa := 1, fb := 1, fc := 0, ty := 0x0D, sc := 1 },
      .fcvt { fd := 1, fa := 1, fb := 0, fc := 0x0D, ty := 0x0E, sc := 0 },
      .fcvt { fd := 1, fa := 1, fb := 0, fc := 0x0E, ty := 0x0D, sc := 0 },
      .fcvt { fd := 1, fa := 1, fb := 1, fc := 0x0D, ty := 0x0D, sc := 0 },
      .fcvt { fd := 1, fa := 1, fb := 0, fc := 0x0D, ty := 0x0D, sc := 1 },
      .nspawn { fd := 1, fa := 1, fb := 1, fc := 1, ty := 0, sc := 0 },
      .nspawn { fd := 1, fa := 1, fb := 1, fc := 0, ty := 1, sc := 0 },
      .nspawn { fd := 1, fa := 1, fb := 1, fc := 0, ty := 0, sc := 1 },
      .nspawnW { fd := 1, fa := 1, fb := 1, fc := 1, ty := 0, sc := 0 },
      .nspawnW { fd := 1, fa := 1, fb := 1, fc := 0, ty := 1, sc := 0 },
      .nspawnW { fd := 1, fa := 1, fb := 1, fc := 0, ty := 0, sc := 1 },
      .slli { fd := 1, fa := 1, imm := 64 },
      .srli { fd := 1, fa := 1, imm := 64 },
      .srai { fd := 1, fa := 1, imm := 64 },
      .bqx { cnt := 0 },
      .seqlev { fd := 1, fa := 1, fb := 0, fc := 5, ty := 0, sc := 0 },
      .seqlev { fd := 0, fa := 1, fb := 1, fc := 5, ty := 0, sc := 0 },
      .seqlev { fd := 0, fa := 1, fb := 0, fc := 6, ty := 0, sc := 0 },
      .seqlev { fd := 0, fa := 1, fb := 0, fc := 5, ty := 1, sc := 0 },
      .seqlev { fd := 0, fa := 1, fb := 0, fc := 5, ty := 0, sc := 1 },
      .seqbind { fd := 1, fa := 1, fb := 0, fc := 7, ty := 0, sc := 0 },
      .seqbind { fd := 0, fa := 1, fb := 1, fc := 7, ty := 0, sc := 0 },
      .seqbind { fd := 0, fa := 1, fb := 0, fc := 8, ty := 0, sc := 0 },
      .seqbind { fd := 0, fa := 0, fb := 0, fc := 7, ty := 0, sc := 0 },
      .seqbind { fd := 0, fa := 1, fb := 0, fc := 7, ty := 1, sc := 0 },
      .seqstride { fd := 1, fa := 1, fb := 7, fc := 5, ty := 0, sc := 0 },
      .seqstride { fd := 0, fa := 1, fb := 8, fc := 5, ty := 0, sc := 0 },
      .seqstride { fd := 0, fa := 1, fb := 7, fc := 6, ty := 0, sc := 0 },
      .seqstride { fd := 0, fa := 1, fb := 7, fc := 5, ty := 0, sc := 1 },
      .seqrun { fd := 1, fa := 1, fb := 0, fc := 6, ty := 0, sc := 0 },
      .seqrun { fd := 1, fa := 0, fb := 1, fc := 6, ty := 0, sc := 0 },
      .seqrun { fd := 1, fa := 0, fb := 0, fc := 0, ty := 0, sc := 0 },
      .seqrun { fd := 1, fa := 0, fb := 0, fc := 7, ty := 0, sc := 0 },
      .seqrun { fd := 1, fa := 0, fb := 0, fc := 6, ty := 1, sc := 0 },
      .seqhalt { fd := 1, fa := 0, fb := 0, fc := 0, ty := 0, sc := 0 },
      .seqhalt { fd := 0, fa := 1, fb := 0, fc := 0, ty := 0, sc := 0 },
      .seqhalt { fd := 0, fa := 0, fb := 1, fc := 0, ty := 0, sc := 0 },
      .seqhalt { fd := 0, fa := 0, fb := 0, fc := 1, ty := 0, sc := 0 },
      .seqhalt { fd := 0, fa := 0, fb := 0, fc := 0, ty := 0, sc := 1 }] : List Instr).all (fun i => wf i == false) = true := by
  decide

/-! R205 to R222, R277: terms whose fields stand at their limits, and one ill-formed term for each check. -/

theorem test_wf_admits_memory : ([
      .ldq { fd := 1, fa := 1, imm := 0 },
      .atswap { fd := 1, fa := 1, fb := 1, fc := 0, ty := 7, sc := 5 },
      .atadd { fd := 1, fa := 1, fb := 1, fc := 0, ty := 7, sc := 5 },
      .atand { fd := 1, fa := 1, fb := 1, fc := 0, ty := 7, sc := 5 },
      .ator { fd := 1, fa := 1, fb := 1, fc := 0, ty := 7, sc := 5 },
      .atxor { fd := 1, fa := 1, fb := 1, fc := 0, ty := 7, sc := 5 },
      .atmin { fd := 1, fa := 1, fb := 1, fc := 0, ty := 3, sc := 1 },
      .atmax { fd := 1, fa := 1, fb := 1, fc := 0, ty := 3, sc := 1 },
      .atminn { fd := 1, fa := 1, fb := 1, fc := 0, ty := 6, sc := 1 },
      .atmaxn { fd := 1, fa := 1, fb := 1, fc := 0, ty := 6, sc := 1 },
      .atcas { fd := 1, fa := 1, fb := 1, fc := 9, ty := 2, sc := 1 },
      .vstream { ty := 0, msk := 0, cv := false, vd := 1, sa := 1, xb := 7 },
      .vstreamSt { ty := 0, msk := 0, cv := false, vd := 1, sa := 1, xb := 7 },
      .vsunbind { ty := 0, msk := 0, cv := false, vd := 1, sa := 0, xb := 0 },
      .vld { ty := 0x0E, msk := 0, cv := false, vd := 1, sa := 1, xb := 0 },
      .vst { ty := 0x0E, msk := 0, cv := true, vd := 1, sa := 1, xb := 0 },
      .vlds { ty := 0, msk := 0, cv := false, vd := 1, sa := 1, xb := 1 },
      .vsts { ty := 0, msk := 0, cv := false, vd := 1, sa := 1, xb := 1 },
      .vldx { ty := 0, msk := 0, cv := false, vd := 1, sa := 1, xb := 1 },
      .vstx { ty := 0, msk := 0, cv := false, vd := 1, sa := 1, xb := 1 },
      .vldu { ty := 0x0D, msk := 0, cv := false, vd := 1, sa := 1, xb := 0 },
      .vstu { ty := 0x0D, msk := 0, cv := false, vd := 1, sa := 1, xb := 0 },
      .vldbp { ty := 0x16, msk := 0, cv := false, vd := 1, sa := 1, xb := 0 },
      .vstbp { ty := 0x10, msk := 0, cv := false, vd := 1, sa := 1, xb := 0 },
      .sldsc { ty := 0, msk := 0, cv := false, vd := 15, sa := 1, xb := 1 },
      .sstsc { ty := 0, msk := 0, cv := false, vd := 15, sa := 1, xb := 1 },
      .vspill { ty := 0, msk := 0, cv := true, vd := 1, sa := 1, xb := 0 },
      .vfill { ty := 0, msk := 0, cv := false, vd := 1, sa := 1, xb := 0 },
      .vldf { wm := { ty := 0, msk := 0, cv := false, vd := 1, sa := 1, xb := 0 }, fh := 15, foff := 0 },
      .vstf { wm := { ty := 0, msk := 0, cv := true, vd := 1, sa := 1, xb := 0 }, fh := 15, foff := 0 }] : List Instr).all (fun i => wf i == true) = true := by
  decide

theorem test_wf_refuses_memory_1 : ([
      .ldq { fd := 2, fa := 1, imm := 0 },
      .atswap { fd := 1, fa := 1, fb := 1, fc := 0, ty := 1, sc := 5 },
      .atswap { fd := 1, fa := 1, fb := 1, fc := 0, ty := 7, sc := 0 },
      .atswap { fd := 1, fa := 1, fb := 1, fc := 0, ty := 7, sc := 6 },
      .atswap { fd := 1, fa := 1, fb := 1, fc := 1, ty := 7, sc := 5 },
      .atadd { fd := 1, fa := 1, fb := 1, fc := 0, ty := 1, sc := 5 },
      .atadd { fd := 1, fa := 1, fb := 1, fc := 0, ty := 7, sc := 0 },
      .atadd { fd := 1, fa := 1, fb := 1, fc := 0, ty := 7, sc := 6 },
      .atadd { fd := 1, fa := 1, fb := 1, fc := 1, ty := 7, sc := 5 },
      .atand { fd := 1, fa := 1, fb := 1, fc := 0, ty := 1, sc := 5 },
      .atand { fd := 1, fa := 1, fb := 1, fc := 0, ty := 7, sc := 0 },
      .atand { fd := 1, fa := 1, fb := 1, fc := 0, ty := 7, sc := 6 },
      .atand { fd := 1, fa := 1, fb := 1, fc := 1, ty := 7, sc := 5 },
      .ator { fd := 1, fa := 1, fb := 1, fc := 0, ty := 1, sc := 5 },
      .ator { fd := 1, fa := 1, fb := 1, fc := 0, ty := 7, sc := 0 },
      .ator { fd := 1, fa := 1, fb := 1, fc := 0, ty := 7, sc := 6 },
      .ator { fd := 1, fa := 1, fb := 1, fc := 1, ty := 7, sc := 5 },
      .atxor { fd := 1, fa := 1, fb := 1, fc := 0, ty := 1, sc := 5 },
      .atxor { fd := 1, fa := 1, fb := 1, fc := 0, ty := 7, sc := 0 },
      .atxor { fd := 1, fa := 1, fb := 1, fc := 0, ty := 7, sc := 6 },
      .atxor { fd := 1, fa := 1, fb := 1, fc := 1, ty := 7, sc := 5 },
      .atmin { fd := 1, fa := 1, fb := 1, fc := 0, ty := 7, sc := 1 },
      .atmin { fd := 1, fa := 1, fb := 1, fc := 0, ty := 3, sc := 0 },
      .atmin { fd := 1, fa := 1, fb := 1, fc := 1, ty := 3, sc := 1 },
      .atmax { fd := 1, fa := 1, fb := 1, fc := 0, ty := 7, sc := 1 },
      .atmax { fd := 1, fa := 1, fb := 1, fc := 0, ty := 3, sc := 0 },
      .atmax { fd := 1, fa := 1, fb := 1, fc := 1, ty := 3, sc := 1 },
      .atminn { fd := 1, fa := 1, fb := 1, fc := 0, ty := 2, sc := 1 },
      .atminn { fd := 1, fa := 1, fb := 1, fc := 0, ty := 6, sc := 6 },
      .atminn { fd := 1, fa := 1, fb := 1, fc := 1, ty := 6, sc := 1 },
      .atmaxn { fd := 1, fa := 1, fb := 1, fc := 0, ty := 2, sc := 1 },
      .atmaxn { fd := 1, fa := 1, fb := 1, fc := 0, ty := 6, sc := 6 },
      .atmaxn { fd := 1, fa := 1, fb := 1, fc := 1, ty := 6, sc := 1 },
      .atcas { fd := 1, fa := 1, fb := 1, fc := 9, ty := 4, sc := 1 },
      .atcas { fd := 1, fa := 1, fb := 1, fc := 9, ty := 2, sc := 0 },
      .vstream { ty := 1, msk := 0, cv := false, vd := 1, sa := 1, xb := 7 },
      .vstream { ty := 0, msk := 1, cv := false, vd := 1, sa := 1, xb := 7 },
      .vstream { ty := 0, msk := 0, cv := true, vd := 1, sa := 1, xb := 7 },
      .vstream { ty := 0, msk := 0, cv := false, vd := 1, sa := 1, xb := 8 },
      .vstreamSt { ty := 1, msk := 0, cv := false, vd := 1, sa := 1, xb := 7 },
      .vstreamSt { ty := 0, msk := 1, cv := false, vd := 1, sa := 1, xb := 7 },
      .vstreamSt { ty := 0, msk := 0, cv := true, vd := 1, sa := 1, xb := 7 },
      .vstreamSt { ty := 0, msk := 0, cv := false, vd := 1, sa := 1, xb := 8 },
      .vsunbind { ty := 1, msk := 0, cv := false, vd := 1, sa := 0, xb := 0 },
      .vsunbind { ty := 0, msk := 1, cv := false, vd := 1, sa := 0, xb := 0 },
      .vsunbind { ty := 0, msk := 0, cv := true, vd := 1, sa := 0, xb := 0 },
      .vsunbind { ty := 0, msk := 0, cv := false, vd := 1, sa := 1, xb := 0 },
      .vsunbind { ty := 0, msk := 0, cv := false, vd := 1, sa := 0, xb := 1 },
      .vld { ty := 0x0F, msk := 0, cv := false, vd := 1, sa := 1, xb := 0 },
      .vld { ty := 0x0E, msk := 0, cv := false, vd := 1, sa := 1, xb := 1 },
      .vld { ty := 0x0E, msk := 0, cv := true, vd := 1, sa := 1, xb := 0 },
      .vst { ty := 0x10, msk := 0, cv := true, vd := 1, sa := 1, xb := 0 },
      .vst { ty := 0x0E, msk := 0, cv := true, vd := 1, sa := 1, xb := 1 },
      .vlds { ty := 0x0F, msk := 0, cv := false, vd := 1, sa := 1, xb := 1 },
      .vlds { ty := 0, msk := 0, cv := true, vd := 1, sa := 1, xb := 1 },
      .vsts { ty := 0x10, msk := 0, cv := false, vd := 1, sa := 1, xb := 1 },
      .vldx { ty := 0x10, msk := 0, cv := false, vd := 1, sa := 1, xb := 1 },
      .vstx { ty := 0x10, msk := 0, cv := false, vd := 1, sa := 1, xb := 1 },
      .vldu { ty := 0x0E, msk := 0, cv := false, vd := 1, sa := 1, xb := 0 },
      .vldu { ty := 0x0D, msk := 0, cv := false, vd := 1, sa := 1, xb := 1 }] : List Instr).all (fun i => wf i == false) = true := by
  decide

theorem test_wf_refuses_memory_2 : ([
      .vldu { ty := 0x0D, msk := 0, cv := true, vd := 1, sa := 1, xb := 0 },
      .vstu { ty := 0x0E, msk := 0, cv := false, vd := 1, sa := 1, xb := 0 },
      .vstu { ty := 0x0D, msk := 0, cv := false, vd := 1, sa := 1, xb := 1 },
      .vldbp { ty := 0x17, msk := 0, cv := false, vd := 1, sa := 1, xb := 0 },
      .vldbp { ty := 0x16, msk := 0, cv := false, vd := 1, sa := 1, xb := 1 },
      .vldbp { ty := 0x16, msk := 0, cv := true, vd := 1, sa := 1, xb := 0 },
      .vstbp { ty := 0x0F, msk := 0, cv := false, vd := 1, sa := 1, xb := 0 },
      .vstbp { ty := 0x10, msk := 0, cv := false, vd := 1, sa := 1, xb := 1 },
      .sldsc { ty := 0, msk := 0, cv := false, vd := 16, sa := 1, xb := 1 },
      .sldsc { ty := 1, msk := 0, cv := false, vd := 15, sa := 1, xb := 1 },
      .sldsc { ty := 0, msk := 1, cv := false, vd := 15, sa := 1, xb := 1 },
      .sldsc { ty := 0, msk := 0, cv := true, vd := 15, sa := 1, xb := 1 },
      .sstsc { ty := 0, msk := 0, cv := false, vd := 16, sa := 1, xb := 1 },
      .sstsc { ty := 1, msk := 0, cv := false, vd := 15, sa := 1, xb := 1 },
      .sstsc { ty := 0, msk := 1, cv := false, vd := 15, sa := 1, xb := 1 },
      .sstsc { ty := 0, msk := 0, cv := true, vd := 15, sa := 1, xb := 1 },
      .vspill { ty := 1, msk := 0, cv := true, vd := 1, sa := 1, xb := 0 },
      .vspill { ty := 0, msk := 1, cv := true, vd := 1, sa := 1, xb := 0 },
      .vspill { ty := 0, msk := 0, cv := true, vd := 1, sa := 1, xb := 1 },
      .vfill { ty := 1, msk := 0, cv := false, vd := 1, sa := 1, xb := 0 },
      .vfill { ty := 0, msk := 1, cv := false, vd := 1, sa := 1, xb := 0 },
      .vfill { ty := 0, msk := 0, cv := false, vd := 1, sa := 1, xb := 1 },
      .vfill { ty := 0, msk := 0, cv := true, vd := 1, sa := 1, xb := 0 },
      .vldf { wm := { ty := 0x0F, msk := 0, cv := false, vd := 1, sa := 1, xb := 0 }, fh := 15, foff := 0 },
      .vldf { wm := { ty := 0, msk := 0, cv := true, vd := 1, sa := 1, xb := 0 }, fh := 15, foff := 0 },
      .vstf { wm := { ty := 0x0F, msk := 0, cv := false, vd := 1, sa := 1, xb := 0 }, fh := 15, foff := 0 }] : List Instr).all (fun i => wf i == false) = true := by
  decide

/-! R221, R408 to R411: terms whose fields stand at their limits, and one ill-formed term for each check. -/

theorem test_wf_admits_folios_and_views : ([
      .folbind { fd := 0, fa := 1, fb := 0, fc := 15, ty := 0, sc := 0 },
      .folrel { fd := 0, fa := 0, fb := 0, fc := 15, ty := 0, sc := 5 },
      .foldrain { fd := 0, fa := 0, fb := 0, fc := 15, ty := 0, sc := 5 },
      .folfill { fd := 0, fa := 0, fb := 0, fc := 15, ty := 0, sc := 0 },
      .vldView { ty := 0x0B, msk := 0, cv := false, vd := 1, sa := 1, xb := 0 },
      .vregView { fd := 1, fa := 1, fb := 0, fc := 0, ty := 0, sc := 0 },
      .vdropView { fd := 1, fa := 1, fb := 0, fc := 0, ty := 0, sc := 0 },
      .vwaitView { fd := 1, fa := 1, fb := 1, fc := 1, ty := 0, sc := 0 }] : List Instr).all (fun i => wf i == true) = true := by
  decide

theorem test_wf_refuses_folios_and_views : ([
      .folbind { fd := 1, fa := 1, fb := 0, fc := 15, ty := 0, sc := 0 },
      .folbind { fd := 0, fa := 1, fb := 1, fc := 15, ty := 0, sc := 0 },
      .folbind { fd := 0, fa := 1, fb := 0, fc := 16, ty := 0, sc := 0 },
      .folbind { fd := 0, fa := 1, fb := 0, fc := 15, ty := 1, sc := 0 },
      .folbind { fd := 0, fa := 1, fb := 0, fc := 15, ty := 0, sc := 1 },
      .folrel { fd := 0, fa := 1, fb := 0, fc := 15, ty := 0, sc := 5 },
      .folrel { fd := 1, fa := 0, fb := 0, fc := 15, ty := 0, sc := 5 },
      .folrel { fd := 0, fa := 0, fb := 1, fc := 15, ty := 0, sc := 5 },
      .folrel { fd := 0, fa := 0, fb := 0, fc := 16, ty := 0, sc := 5 },
      .folrel { fd := 0, fa := 0, fb := 0, fc := 15, ty := 1, sc := 5 },
      .folrel { fd := 0, fa := 0, fb := 0, fc := 15, ty := 0, sc := 0 },
      .folrel { fd := 0, fa := 0, fb := 0, fc := 15, ty := 0, sc := 6 },
      .foldrain { fd := 0, fa := 1, fb := 0, fc := 15, ty := 0, sc := 5 },
      .foldrain { fd := 1, fa := 0, fb := 0, fc := 15, ty := 0, sc := 5 },
      .foldrain { fd := 0, fa := 0, fb := 1, fc := 15, ty := 0, sc := 5 },
      .foldrain { fd := 0, fa := 0, fb := 0, fc := 16, ty := 0, sc := 5 },
      .foldrain { fd := 0, fa := 0, fb := 0, fc := 15, ty := 1, sc := 5 },
      .foldrain { fd := 0, fa := 0, fb := 0, fc := 15, ty := 0, sc := 0 },
      .foldrain { fd := 0, fa := 0, fb := 0, fc := 15, ty := 0, sc := 6 },
      .folfill { fd := 0, fa := 1, fb := 0, fc := 15, ty := 0, sc := 0 },
      .folfill { fd := 1, fa := 0, fb := 0, fc := 15, ty := 0, sc := 0 },
      .folfill { fd := 0, fa := 0, fb := 1, fc := 15, ty := 0, sc := 0 },
      .folfill { fd := 0, fa := 0, fb := 0, fc := 16, ty := 0, sc := 0 },
      .folfill { fd := 0, fa := 0, fb := 0, fc := 15, ty := 1, sc := 0 },
      .folfill { fd := 0, fa := 0, fb := 0, fc := 15, ty := 0, sc := 1 },
      .vldView { ty := 0x0C, msk := 0, cv := false, vd := 1, sa := 1, xb := 0 },
      .vldView { ty := 0x07, msk := 0, cv := false, vd := 1, sa := 1, xb := 0 },
      .vldView { ty := 0x0B, msk := 0, cv := true, vd := 1, sa := 1, xb := 0 },
      .vregView { fd := 1, fa := 1, fb := 1, fc := 0, ty := 0, sc := 0 },
      .vregView { fd := 1, fa := 1, fb := 0, fc := 1, ty := 0, sc := 0 },
      .vregView { fd := 1, fa := 1, fb := 0, fc := 0, ty := 1, sc := 0 },
      .vdropView { fd := 1, fa := 1, fb := 1, fc := 0, ty := 0, sc := 0 },
      .vdropView { fd := 1, fa := 1, fb := 0, fc := 1, ty := 0, sc := 0 },
      .vdropView { fd := 1, fa := 1, fb := 0, fc := 0, ty := 1, sc := 0 },
      .vwaitView { fd := 1, fa := 1, fb := 1, fc := 2, ty := 0, sc := 0 },
      .vwaitView { fd := 1, fa := 1, fb := 1, fc := 1, ty := 0, sc := 1 }] : List Instr).all (fun i => wf i == false) = true := by
  decide

/-! R239 to R255: terms whose fields stand at their limits, and one ill-formed term for each check. -/

theorem test_wf_admits_vector_integer : ([
      .vsetvl { fd := 0, fa := 1, fb := 0, fc := 0, ty := 0, sc := 0 },
      .vsettype { fd := 15, fa := 3, fb := 3, fc := 0, ty := 0x16, sc := 0 },
      .vadd { ty := 7, msk := 0, ca := false, vd := 1, va := 1, src := .vec 0 false },
      .vsub { ty := 7, msk := 0, ca := false, vd := 1, va := 1, src := .vec 0 false },
      .vrsub { ty := 7, msk := 0, ca := false, vd := 1, va := 1, src := .vec 0 false },
      .vmul { ty := 7, msk := 0, ca := false, vd := 1, va := 1, src := .vec 0 false },
      .vmulh { ty := 7, msk := 0, ca := false, vd := 1, va := 1, src := .vec 0 false },
      .vmin { ty := 7, msk := 0, ca := false, vd := 1, va := 1, src := .vec 0 false },
      .vmax { ty := 7, msk := 0, ca := false, vd := 1, va := 1, src := .vec 0 false },
      .vand { ty := 7, msk := 0, ca := false, vd := 1, va := 1, src := .vec 0 false },
      .vor { ty := 7, msk := 0, ca := false, vd := 1, va := 1, src := .vec 0 false },
      .vxor { ty := 7, msk := 0, ca := false, vd := 1, va := 1, src := .vec 0 false },
      .vadds { ty := 7, msk := 0, ca := false, vd := 1, va := 1, src := .vec 0 false },
      .vsubs { ty := 7, msk := 0, ca := false, vd := 1, va := 1, src := .vec 0 false },
      .vavg { ty := 7, msk := 0, ca := false, vd := 1, va := 1, src := .vec 0 false },
      .vsll { ty := 7, msk := 0, ca := false, vd := 1, va := 1, src := .vec 0 false },
      .vsrl { ty := 7, msk := 0, ca := false, vd := 1, va := 1, src := .vec 0 false },
      .vsra { ty := 7, msk := 0, ca := false, vd := 1, va := 1, src := .vec 0 false },
      .vsrar { ty := 7, msk := 0, ca := false, vd := 1, va := 1, src := .vec 0 false },
      .vsrlr { ty := 7, msk := 0, ca := false, vd := 1, va := 1, src := .vec 0 false },
      .vfunl { ty := 7, msk := 0, ca := false, vd := 1, va := 1, src := .vec 0 false },
      .vfunr { ty := 7, msk := 0, ca := false, vd := 1, va := 1, src := .vec 0 false },
      .vabs { ty := 3, msk := 0, ca := false, vd := 1, va := 1, src := .vec 0 false },
      .vnsra { ty := 1, msk := 0, ca := false, vd := 1, va := 1, src := .vec 0 false },
      .vmac { ty := 2, msk := 0, ca := false, vd := 1, va := 1, src := .vec 0 false },
      .vmacs { ty := 2, msk := 0, ca := false, vd := 1, va := 1, src := .vec 0 false },
      .vdot2 { ty := 2, msk := 0, ca := false, vd := 1, va := 1, src := .vec 0 false },
      .vdot2s { ty := 2, msk := 0, ca := false, vd := 1, va := 1, src := .vec 0 false },
      .vdot4 { ty := 5, msk := 0, ca := false, vd := 1, va := 1, src := .vec 0 false },
      .vdot4s { ty := 5, msk := 0, ca := false, vd := 1, va := 1, src := .vec 0 false },
      .vceq { ty := 0x0D, msk := 0, ca := false, vd := 7, va := 1, src := .vec 0 false },
      .vcne { ty := 0x0D, msk := 0, ca := false, vd := 7, va := 1, src := .vec 0 false },
      .vclt { ty := 0x0D, msk := 0, ca := false, vd := 7, va := 1, src := .vec 0 false },
      .vcle { ty := 0x0D, msk := 0, ca := false, vd := 7, va := 1, src := .vec 0 false },
      .vcgt { ty := 0x0D, msk := 0, ca := false, vd := 7, va := 1, src := .vec 0 false },
      .vcge { ty := 0x0D, msk := 0, ca := false, vd := 7, va := 1, src := .vec 0 false },
      .mand { ty := 0, msk := 0, ca := false, vd := 7, va := 7, src := .vec 7 false },
      .mor { ty := 0, msk := 0, ca := false, vd := 7, va := 7, src := .vec 7 false },
      .mxor { ty := 0, msk := 0, ca := false, vd := 7, va := 7, src := .vec 7 false },
      .mnot { ty := 0, msk := 0, ca := false, vd := 7, va := 7, src := .vec 0 false },
      .mpopc { ty := 0, msk := 0, ca := false, vd := 1, va := 7, src := .vec 0 false },
      .vslup { ty := 0x16, msk := 0, ca := false, vd := 1, va := 1, src := .vec 0 false },
      .vsldn { ty := 0x16, msk := 0, ca := false, vd := 1, va := 1, src := .vec 0 false },
      .vgather { ty := 0x16, msk := 0, ca := false, vd := 1, va := 1, src := .vec 0 false },
      .vmerge { ty := 0x16, msk := 0, ca := false, vd := 1, va := 1, src := .vec 0 false },
      .vcompress { ty := 0x0E, msk := 0, ca := false, vd := 1, va := 1, src := .vec 0 false },
      .vexpand { ty := 0x0E, msk := 0, ca := false, vd := 1, va := 1, src := .vec 0 false },
      .viota { ty := 0, msk := 0, ca := false, vd := 1, va := 0, src := .vec 0 false },
      .vmv { ty := 0, msk := 0, ca := false, vd := 1, va := 0, src := .imm 1 },
      .vredsum { ty := 7, msk := 0, ca := false, vd := 1, va := 1, src := .vec 0 false },
      .vredsums { ty := 7, msk := 0, ca := false, vd := 1, va := 1, src := .vec 0 false },
      .vredmax { ty := 7, msk := 0, ca := false, vd := 1, va := 1, src := .vec 0 false },
      .vredmin { ty := 7, msk := 0, ca := false, vd := 1, va := 1, src := .vec 0 false },
      .vredand { ty := 7, msk := 0, ca := false, vd := 1, va := 1, src := .vec 0 false },
      .vredor { ty := 7, msk := 0, ca := false, vd := 1, va := 1, src := .vec 0 false },
      .vredxor { ty := 7, msk := 0, ca := false, vd := 1, va := 1, src := .vec 0 false },
      .vscan { ty := 7, msk := 0, ca := false, vd := 1, va := 1, src := .vec 0 false }] : List Instr).all (fun i => wf i == true) = true := by
  decide

theorem test_wf_refuses_vector_integer_1 : ([
      .vsetvl { fd := 1, fa := 1, fb := 0, fc := 0, ty := 0, sc := 0 },
      .vsetvl { fd := 0, fa := 1, fb := 1, fc := 0, ty := 0, sc := 0 },
      .vsetvl { fd := 0, fa := 1, fb := 0, fc := 1, ty := 0, sc := 0 },
      .vsetvl { fd := 0, fa := 1, fb := 0, fc := 0, ty := 1, sc := 0 },
      .vsettype { fd := 16, fa := 3, fb := 3, fc := 0, ty := 0x16, sc := 0 },
      .vsettype { fd := 15, fa := 4, fb := 3, fc := 0, ty := 0x16, sc := 0 },
      .vsettype { fd := 15, fa := 3, fb := 4, fc := 0, ty := 0x16, sc := 0 },
      .vsettype { fd := 15, fa := 3, fb := 3, fc := 1, ty := 0x16, sc := 0 },
      .vsettype { fd := 15, fa := 3, fb := 3, fc := 0, ty := 0x16, sc := 1 },
      .vsettype { fd := 15, fa := 3, fb := 3, fc := 0, ty := 0x0F, sc := 0 },
      .vsettype { fd := 15, fa := 3, fb := 3, fc := 0, ty := 0x17, sc := 0 },
      .vadd { ty := 8, msk := 0, ca := false, vd := 1, va := 1, src := .vec 0 false },
      .vsub { ty := 8, msk := 0, ca := false, vd := 1, va := 1, src := .vec 0 false },
      .vrsub { ty := 8, msk := 0, ca := false, vd := 1, va := 1, src := .vec 0 false },
      .vmul { ty := 8, msk := 0, ca := false, vd := 1, va := 1, src := .vec 0 false },
      .vmulh { ty := 8, msk := 0, ca := false, vd := 1, va := 1, src := .vec 0 false },
      .vmin { ty := 8, msk := 0, ca := false, vd := 1, va := 1, src := .vec 0 false },
      .vmax { ty := 8, msk := 0, ca := false, vd := 1, va := 1, src := .vec 0 false },
      .vand { ty := 8, msk := 0, ca := false, vd := 1, va := 1, src := .vec 0 false },
      .vor { ty := 8, msk := 0, ca := false, vd := 1, va := 1, src := .vec 0 false },
      .vxor { ty := 8, msk := 0, ca := false, vd := 1, va := 1, src := .vec 0 false },
      .vadds { ty := 8, msk := 0, ca := false, vd := 1, va := 1, src := .vec 0 false },
      .vsubs { ty := 8, msk := 0, ca := false, vd := 1, va := 1, src := .vec 0 false },
      .vavg { ty := 8, msk := 0, ca := false, vd := 1, va := 1, src := .vec 0 false },
      .vsll { ty := 8, msk := 0, ca := false, vd := 1, va := 1, src := .vec 0 false },
      .vsrl { ty := 8, msk := 0, ca := false, vd := 1, va := 1, src := .vec 0 false },
      .vsra { ty := 8, msk := 0, ca := false, vd := 1, va := 1, src := .vec 0 false },
      .vsrar { ty := 8, msk := 0, ca := false, vd := 1, va := 1, src := .vec 0 false },
      .vsrlr { ty := 8, msk := 0, ca := false, vd := 1, va := 1, src := .vec 0 false },
      .vfunl { ty := 8, msk := 0, ca := false, vd := 1, va := 1, src := .vec 0 false },
      .vfunr { ty := 8, msk := 0, ca := false, vd := 1, va := 1, src := .vec 0 false },
      .vabs { ty := 8, msk := 0, ca := false, vd := 1, va := 1, src := .vec 0 false },
      .vabs { ty := 3, msk := 0, ca := false, vd := 1, va := 1, src := .vec 1 false },
      .vabs { ty := 3, msk := 0, ca := false, vd := 1, va := 1, src := .scal 1 },
      .vnsra { ty := 0, msk := 0, ca := false, vd := 1, va := 1, src := .vec 0 false },
      .vnsra { ty := 4, msk := 0, ca := false, vd := 1, va := 1, src := .vec 0 false },
      .vnsra { ty := 8, msk := 0, ca := false, vd := 1, va := 1, src := .vec 0 false },
      .vmac { ty := 3, msk := 0, ca := false, vd := 1, va := 1, src := .vec 0 false },
      .vmac { ty := 7, msk := 0, ca := false, vd := 1, va := 1, src := .vec 0 false },
      .vmac { ty := 2, msk := 0, ca := false, vd := 1, va := 1, src := .imm 1 },
      .vmac { ty := 8, msk := 0, ca := false, vd := 1, va := 1, src := .vec 0 false },
      .vmacs { ty := 3, msk := 0, ca := false, vd := 1, va := 1, src := .vec 0 false },
      .vmacs { ty := 7, msk := 0, ca := false, vd := 1, va := 1, src := .vec 0 false },
      .vmacs { ty := 2, msk := 0, ca := false, vd := 1, va := 1, src := .imm 1 },
      .vmacs { ty := 8, msk := 0, ca := false, vd := 1, va := 1, src := .vec 0 false },
      .vdot2 { ty := 3, msk := 0, ca := false, vd := 1, va := 1, src := .vec 0 false },
      .vdot2 { ty := 7, msk := 0, ca := false, vd := 1, va := 1, src := .vec 0 false },
      .vdot2 { ty := 2, msk := 0, ca := false, vd := 1, va := 1, src := .imm 1 },
      .vdot2 { ty := 8, msk := 0, ca := false, vd := 1, va := 1, src := .vec 0 false },
      .vdot2s { ty := 3, msk := 0, ca := false, vd := 1, va := 1, src := .vec 0 false },
      .vdot2s { ty := 7, msk := 0, ca := false, vd := 1, va := 1, src := .vec 0 false },
      .vdot2s { ty := 2, msk := 0, ca := false, vd := 1, va := 1, src := .imm 1 },
      .vdot2s { ty := 8, msk := 0, ca := false, vd := 1, va := 1, src := .vec 0 false },
      .vdot4 { ty := 2, msk := 0, ca := false, vd := 1, va := 1, src := .vec 0 false },
      .vdot4 { ty := 5, msk := 0, ca := false, vd := 1, va := 1, src := .imm 1 },
      .vdot4s { ty := 2, msk := 0, ca := false, vd := 1, va := 1, src := .vec 0 false },
      .vdot4s { ty := 5, msk := 0, ca := false, vd := 1, va := 1, src := .imm 1 },
      .vceq { ty := 0x08, msk := 0, ca := false, vd := 7, va := 1, src := .vec 0 false },
      .vceq { ty := 0x0D, msk := 0, ca := false, vd := 0, va := 1, src := .vec 0 false },
      .vceq { ty := 0x0D, msk := 0, ca := false, vd := 8, va := 1, src := .vec 0 false }] : List Instr).all (fun i => wf i == false) = true := by
  decide

theorem test_wf_refuses_vector_integer_2 : ([
      .vceq { ty := 0x0D, msk := 0, ca := false, vd := 7, va := 1, src := .imm 1 },
      .vcne { ty := 0x08, msk := 0, ca := false, vd := 7, va := 1, src := .vec 0 false },
      .vcne { ty := 0x0D, msk := 0, ca := false, vd := 0, va := 1, src := .vec 0 false },
      .vcne { ty := 0x0D, msk := 0, ca := false, vd := 8, va := 1, src := .vec 0 false },
      .vcne { ty := 0x0D, msk := 0, ca := false, vd := 7, va := 1, src := .imm 1 },
      .vclt { ty := 0x08, msk := 0, ca := false, vd := 7, va := 1, src := .vec 0 false },
      .vclt { ty := 0x0D, msk := 0, ca := false, vd := 0, va := 1, src := .vec 0 false },
      .vclt { ty := 0x0D, msk := 0, ca := false, vd := 8, va := 1, src := .vec 0 false },
      .vclt { ty := 0x0D, msk := 0, ca := false, vd := 7, va := 1, src := .imm 1 },
      .vcle { ty := 0x08, msk := 0, ca := false, vd := 7, va := 1, src := .vec 0 false },
      .vcle { ty := 0x0D, msk := 0, ca := false, vd := 0, va := 1, src := .vec 0 false },
      .vcle { ty := 0x0D, msk := 0, ca := false, vd := 8, va := 1, src := .vec 0 false },
      .vcle { ty := 0x0D, msk := 0, ca := false, vd := 7, va := 1, src := .imm 1 },
      .vcgt { ty := 0x08, msk := 0, ca := false, vd := 7, va := 1, src := .vec 0 false },
      .vcgt { ty := 0x0D, msk := 0, ca := false, vd := 0, va := 1, src := .vec 0 false },
      .vcgt { ty := 0x0D, msk := 0, ca := false, vd := 8, va := 1, src := .vec 0 false },
      .vcgt { ty := 0x0D, msk := 0, ca := false, vd := 7, va := 1, src := .imm 1 },
      .vcge { ty := 0x08, msk := 0, ca := false, vd := 7, va := 1, src := .vec 0 false },
      .vcge { ty := 0x0D, msk := 0, ca := false, vd := 0, va := 1, src := .vec 0 false },
      .vcge { ty := 0x0D, msk := 0, ca := false, vd := 8, va := 1, src := .vec 0 false },
      .vcge { ty := 0x0D, msk := 0, ca := false, vd := 7, va := 1, src := .imm 1 },
      .mand { ty := 1, msk := 0, ca := false, vd := 7, va := 7, src := .vec 7 false },
      .mand { ty := 0, msk := 1, ca := false, vd := 7, va := 7, src := .vec 7 false },
      .mand { ty := 0, msk := 0, ca := true, vd := 7, va := 7, src := .vec 7 false },
      .mand { ty := 0, msk := 0, ca := false, vd := 0, va := 7, src := .vec 7 false },
      .mand { ty := 0, msk := 0, ca := false, vd := 7, va := 8, src := .vec 7 false },
      .mand { ty := 0, msk := 0, ca := false, vd := 7, va := 7, src := .vec 8 false },
      .mand { ty := 0, msk := 0, ca := false, vd := 7, va := 7, src := .vec 7 true },
      .mand { ty := 0, msk := 0, ca := false, vd := 7, va := 7, src := .scal 1 },
      .mor { ty := 1, msk := 0, ca := false, vd := 7, va := 7, src := .vec 7 false },
      .mor { ty := 0, msk := 1, ca := false, vd := 7, va := 7, src := .vec 7 false },
      .mor { ty := 0, msk := 0, ca := true, vd := 7, va := 7, src := .vec 7 false },
      .mor { ty := 0, msk := 0, ca := false, vd := 0, va := 7, src := .vec 7 false },
      .mor { ty := 0, msk := 0, ca := false, vd := 7, va := 8, src := .vec 7 false },
      .mor { ty := 0, msk := 0, ca := false, vd := 7, va := 7, src := .vec 8 false },
      .mor { ty := 0, msk := 0, ca := false, vd := 7, va := 7, src := .vec 7 true },
      .mor { ty := 0, msk := 0, ca := false, vd := 7, va := 7, src := .scal 1 },
      .mxor { ty := 1, msk := 0, ca := false, vd := 7, va := 7, src := .vec 7 false },
      .mxor { ty := 0, msk := 1, ca := false, vd := 7, va := 7, src := .vec 7 false },
      .mxor { ty := 0, msk := 0, ca := true, vd := 7, va := 7, src := .vec 7 false },
      .mxor { ty := 0, msk := 0, ca := false, vd := 0, va := 7, src := .vec 7 false },
      .mxor { ty := 0, msk := 0, ca := false, vd := 7, va := 8, src := .vec 7 false },
      .mxor { ty := 0, msk := 0, ca := false, vd := 7, va := 7, src := .vec 8 false },
      .mxor { ty := 0, msk := 0, ca := false, vd := 7, va := 7, src := .vec 7 true },
      .mxor { ty := 0, msk := 0, ca := false, vd := 7, va := 7, src := .scal 1 },
      .mnot { ty := 1, msk := 0, ca := false, vd := 7, va := 7, src := .vec 0 false },
      .mnot { ty := 0, msk := 1, ca := false, vd := 7, va := 7, src := .vec 0 false },
      .mnot { ty := 0, msk := 0, ca := true, vd := 7, va := 7, src := .vec 0 false },
      .mnot { ty := 0, msk := 0, ca := false, vd := 8, va := 7, src := .vec 0 false },
      .mnot { ty := 0, msk := 0, ca := false, vd := 7, va := 8, src := .vec 0 false },
      .mnot { ty := 0, msk := 0, ca := false, vd := 7, va := 7, src := .vec 1 false },
      .mpopc { ty := 1, msk := 0, ca := false, vd := 1, va := 7, src := .vec 0 false },
      .mpopc { ty := 0, msk := 0, ca := true, vd := 1, va := 7, src := .vec 0 false },
      .mpopc { ty := 0, msk := 0, ca := false, vd := 1, va := 8, src := .vec 0 false },
      .mpopc { ty := 0, msk := 0, ca := false, vd := 1, va := 7, src := .vec 1 false },
      .vslup { ty := 0x0F, msk := 0, ca := false, vd := 1, va := 1, src := .vec 0 false },
      .vslup { ty := 0x10, msk := 0, ca := false, vd := 1, va := 1, src := .scal 1 },
      .vslup { ty := 0x0E, msk := 0, ca := false, vd := 1, va := 1, src := .imm 1 },
      .vslup { ty := 0x0A, msk := 0, ca := false, vd := 1, va := 1, src := .imm 0x10000 },
      .vsldn { ty := 0x0F, msk := 0, ca := false, vd := 1, va := 1, src := .vec 0 false }] : List Instr).all (fun i => wf i == false) = true := by
  decide

theorem test_wf_refuses_vector_integer_3 : ([
      .vsldn { ty := 0x10, msk := 0, ca := false, vd := 1, va := 1, src := .scal 1 },
      .vsldn { ty := 0x0E, msk := 0, ca := false, vd := 1, va := 1, src := .imm 1 },
      .vsldn { ty := 0x0A, msk := 0, ca := false, vd := 1, va := 1, src := .imm 0x10000 },
      .vgather { ty := 0x0F, msk := 0, ca := false, vd := 1, va := 1, src := .vec 0 false },
      .vgather { ty := 0x10, msk := 0, ca := false, vd := 1, va := 1, src := .scal 1 },
      .vgather { ty := 0x0E, msk := 0, ca := false, vd := 1, va := 1, src := .imm 1 },
      .vgather { ty := 0x0A, msk := 0, ca := false, vd := 1, va := 1, src := .imm 0x10000 },
      .vmerge { ty := 0x0F, msk := 0, ca := false, vd := 1, va := 1, src := .vec 0 false },
      .vmerge { ty := 0x10, msk := 0, ca := false, vd := 1, va := 1, src := .scal 1 },
      .vmerge { ty := 0x0E, msk := 0, ca := false, vd := 1, va := 1, src := .imm 1 },
      .vmerge { ty := 0x0A, msk := 0, ca := false, vd := 1, va := 1, src := .imm 0x10000 },
      .vcompress { ty := 0x0F, msk := 0, ca := false, vd := 1, va := 1, src := .vec 0 false },
      .vcompress { ty := 0x0E, msk := 0, ca := false, vd := 1, va := 1, src := .scal 1 },
      .vexpand { ty := 0x0F, msk := 0, ca := false, vd := 1, va := 1, src := .vec 0 false },
      .vexpand { ty := 0x0E, msk := 0, ca := false, vd := 1, va := 1, src := .scal 1 },
      .viota { ty := 8, msk := 0, ca := false, vd := 1, va := 0, src := .vec 0 false },
      .viota { ty := 0, msk := 0, ca := false, vd := 1, va := 1, src := .vec 0 false },
      .viota { ty := 0, msk := 0, ca := true, vd := 1, va := 0, src := .vec 0 false },
      .viota { ty := 0, msk := 0, ca := false, vd := 1, va := 0, src := .vec 1 false },
      .vmv { ty := 0, msk := 0, ca := false, vd := 1, va := 1, src := .imm 1 },
      .vmv { ty := 0, msk := 0, ca := true, vd := 1, va := 0, src := .imm 1 },
      .vmv { ty := 0x0F, msk := 0, ca := false, vd := 1, va := 0, src := .imm 1 },
      .vmv { ty := 0x08, msk := 0, ca := false, vd := 1, va := 0, src := .imm 1 },
      .vredsum { ty := 8, msk := 0, ca := false, vd := 1, va := 1, src := .vec 0 false },
      .vredsum { ty := 7, msk := 0, ca := false, vd := 1, va := 1, src := .imm 1 },
      .vredsums { ty := 8, msk := 0, ca := false, vd := 1, va := 1, src := .vec 0 false },
      .vredsums { ty := 7, msk := 0, ca := false, vd := 1, va := 1, src := .imm 1 },
      .vredmax { ty := 8, msk := 0, ca := false, vd := 1, va := 1, src := .vec 0 false },
      .vredmax { ty := 7, msk := 0, ca := false, vd := 1, va := 1, src := .imm 1 },
      .vredmin { ty := 8, msk := 0, ca := false, vd := 1, va := 1, src := .vec 0 false },
      .vredmin { ty := 7, msk := 0, ca := false, vd := 1, va := 1, src := .imm 1 },
      .vredand { ty := 8, msk := 0, ca := false, vd := 1, va := 1, src := .vec 0 false },
      .vredand { ty := 7, msk := 0, ca := false, vd := 1, va := 1, src := .imm 1 },
      .vredor { ty := 8, msk := 0, ca := false, vd := 1, va := 1, src := .vec 0 false },
      .vredor { ty := 7, msk := 0, ca := false, vd := 1, va := 1, src := .imm 1 },
      .vredxor { ty := 8, msk := 0, ca := false, vd := 1, va := 1, src := .vec 0 false },
      .vredxor { ty := 7, msk := 0, ca := false, vd := 1, va := 1, src := .imm 1 },
      .vscan { ty := 8, msk := 0, ca := false, vd := 1, va := 1, src := .vec 0 false },
      .vscan { ty := 7, msk := 0, ca := false, vd := 1, va := 1, src := .imm 1 }] : List Instr).all (fun i => wf i == false) = true := by
  decide

/-! R258 to R272: terms whose fields stand at their limits, and one ill-formed term for each check. -/

theorem test_wf_admits_vector_float : ([
      .vfadd { ty := 0x0A, msk := 0, ca := false, vd := 1, va := 1, src := .imm 0xFFFF },
      .vfsub { ty := 0x0A, msk := 0, ca := false, vd := 1, va := 1, src := .imm 0xFFFF },
      .vfmul { ty := 0x0A, msk := 0, ca := false, vd := 1, va := 1, src := .imm 0xFFFF },
      .vfdiv { ty := 0x0A, msk := 0, ca := false, vd := 1, va := 1, src := .imm 0xFFFF },
      .vfmin { ty := 0x0A, msk := 0, ca := false, vd := 1, va := 1, src := .imm 0xFFFF },
      .vfmax { ty := 0x0A, msk := 0, ca := false, vd := 1, va := 1, src := .imm 0xFFFF },
      .vfsgnj { ty := 0x0A, msk := 0, ca := false, vd := 1, va := 1, src := .imm 0xFFFF },
      .vfma { ty := 0x0A, msk := 0, ca := false, vd := 1, va := 1, src := .imm 0xFFFF },
      .vfms { ty := 0x0A, msk := 0, ca := false, vd := 1, va := 1, src := .imm 0xFFFF },
      .vfnma { ty := 0x0A, msk := 0, ca := false, vd := 1, va := 1, src := .imm 0xFFFF },
      .vfnms { ty := 0x0A, msk := 0, ca := false, vd := 1, va := 1, src := .imm 0xFFFF },
      .vfsqrt { ty := 0x0D, msk := 0, ca := false, vd := 1, va := 1, src := .vec 0 false },
      .vfabs { ty := 0x0D, msk := 0, ca := false, vd := 1, va := 1, src := .vec 0 false },
      .vfneg { ty := 0x0D, msk := 0, ca := false, vd := 1, va := 1, src := .vec 0 false },
      .vcvt { ty := 0x0D, msk := 0, ca := false, vd := 1, va := 1, src := .vec 0x0D false },
      .vcvtz { ty := 0x0D, msk := 0, ca := false, vd := 1, va := 1, src := .vec 0x0D false },
      .vquant { ty := 0x16, msk := 0, ca := false, vd := 1, va := 1, src := .vec 15 false },
      .vdeq { ty := 0x16, msk := 0, ca := false, vd := 1, va := 1, src := .vec 15 false },
      .vfredsum { ty := 0x0D, msk := 0, ca := false, vd := 1, va := 1, src := .vec 0 false },
      .vfredmax { ty := 0x0D, msk := 0, ca := false, vd := 1, va := 1, src := .vec 0 false },
      .vfredmin { ty := 0x0D, msk := 0, ca := false, vd := 1, va := 1, src := .vec 0 false },
      .vfscan { ty := 0x0D, msk := 0, ca := false, vd := 1, va := 1, src := .vec 0 false },
      .vfred2 { ty := 0x0C, msk := 0, ca := false, vd := 1, va := 1, src := .vec 0 false },
      .vblk { fd := 0, ld := 0, hd := 0 }] : List Instr).all (fun i => wf i == true) = true := by
  decide

theorem test_wf_refuses_vector_float : ([
      .vfadd { ty := 0x09, msk := 0, ca := false, vd := 1, va := 1, src := .imm 0xFFFF },
      .vfadd { ty := 0x0E, msk := 0, ca := false, vd := 1, va := 1, src := .imm 0xFFFF },
      .vfadd { ty := 0x0A, msk := 0, ca := false, vd := 1, va := 1, src := .imm 0x10000 },
      .vfsub { ty := 0x09, msk := 0, ca := false, vd := 1, va := 1, src := .imm 0xFFFF },
      .vfsub { ty := 0x0E, msk := 0, ca := false, vd := 1, va := 1, src := .imm 0xFFFF },
      .vfsub { ty := 0x0A, msk := 0, ca := false, vd := 1, va := 1, src := .imm 0x10000 },
      .vfmul { ty := 0x09, msk := 0, ca := false, vd := 1, va := 1, src := .imm 0xFFFF },
      .vfmul { ty := 0x0E, msk := 0, ca := false, vd := 1, va := 1, src := .imm 0xFFFF },
      .vfmul { ty := 0x0A, msk := 0, ca := false, vd := 1, va := 1, src := .imm 0x10000 },
      .vfdiv { ty := 0x09, msk := 0, ca := false, vd := 1, va := 1, src := .imm 0xFFFF },
      .vfdiv { ty := 0x0E, msk := 0, ca := false, vd := 1, va := 1, src := .imm 0xFFFF },
      .vfdiv { ty := 0x0A, msk := 0, ca := false, vd := 1, va := 1, src := .imm 0x10000 },
      .vfmin { ty := 0x09, msk := 0, ca := false, vd := 1, va := 1, src := .imm 0xFFFF },
      .vfmin { ty := 0x0E, msk := 0, ca := false, vd := 1, va := 1, src := .imm 0xFFFF },
      .vfmin { ty := 0x0A, msk := 0, ca := false, vd := 1, va := 1, src := .imm 0x10000 },
      .vfmax { ty := 0x09, msk := 0, ca := false, vd := 1, va := 1, src := .imm 0xFFFF },
      .vfmax { ty := 0x0E, msk := 0, ca := false, vd := 1, va := 1, src := .imm 0xFFFF },
      .vfmax { ty := 0x0A, msk := 0, ca := false, vd := 1, va := 1, src := .imm 0x10000 },
      .vfsgnj { ty := 0x09, msk := 0, ca := false, vd := 1, va := 1, src := .imm 0xFFFF },
      .vfsgnj { ty := 0x0E, msk := 0, ca := false, vd := 1, va := 1, src := .imm 0xFFFF },
      .vfsgnj { ty := 0x0A, msk := 0, ca := false, vd := 1, va := 1, src := .imm 0x10000 },
      .vfma { ty := 0x09, msk := 0, ca := false, vd := 1, va := 1, src := .imm 0xFFFF },
      .vfma { ty := 0x0E, msk := 0, ca := false, vd := 1, va := 1, src := .imm 0xFFFF },
      .vfma { ty := 0x0A, msk := 0, ca := false, vd := 1, va := 1, src := .imm 0x10000 },
      .vfms { ty := 0x09, msk := 0, ca := false, vd := 1, va := 1, src := .imm 0xFFFF },
      .vfms { ty := 0x0E, msk := 0, ca := false, vd := 1, va := 1, src := .imm 0xFFFF },
      .vfms { ty := 0x0A, msk := 0, ca := false, vd := 1, va := 1, src := .imm 0x10000 },
      .vfnma { ty := 0x09, msk := 0, ca := false, vd := 1, va := 1, src := .imm 0xFFFF },
      .vfnma { ty := 0x0E, msk := 0, ca := false, vd := 1, va := 1, src := .imm 0xFFFF },
      .vfnma { ty := 0x0A, msk := 0, ca := false, vd := 1, va := 1, src := .imm 0x10000 },
      .vfnms { ty := 0x09, msk := 0, ca := false, vd := 1, va := 1, src := .imm 0xFFFF },
      .vfnms { ty := 0x0E, msk := 0, ca := false, vd := 1, va := 1, src := .imm 0xFFFF },
      .vfnms { ty := 0x0A, msk := 0, ca := false, vd := 1, va := 1, src := .imm 0x10000 },
      .vfsqrt { ty := 7, msk := 0, ca := false, vd := 1, va := 1, src := .vec 0 false },
      .vfsqrt { ty := 0x0D, msk := 0, ca := false, vd := 1, va := 1, src := .vec 1 false },
      .vfabs { ty := 7, msk := 0, ca := false, vd := 1, va := 1, src := .vec 0 false },
      .vfabs { ty := 0x0D, msk := 0, ca := false, vd := 1, va := 1, src := .vec 1 false },
      .vfneg { ty := 7, msk := 0, ca := false, vd := 1, va := 1, src := .vec 0 false },
      .vfneg { ty := 0x0D, msk := 0, ca := false, vd := 1, va := 1, src := .vec 1 false },
      .vcvt { ty := 0x0E, msk := 0, ca := false, vd := 1, va := 1, src := .vec 0x0D false },
      .vcvt { ty := 0x0D, msk := 0, ca := false, vd := 1, va := 1, src := .vec 0x0E false },
      .vcvt { ty := 0x0D, msk := 0, ca := false, vd := 1, va := 1, src := .scal 1 },
      .vcvtz { ty := 0x0E, msk := 0, ca := false, vd := 1, va := 1, src := .vec 0x0D false },
      .vcvtz { ty := 0x0D, msk := 0, ca := false, vd := 1, va := 1, src := .vec 0x0E false },
      .vcvtz { ty := 0x0D, msk := 0, ca := false, vd := 1, va := 1, src := .scal 1 },
      .vquant { ty := 0x0D, msk := 0, ca := false, vd := 1, va := 1, src := .vec 15 false },
      .vquant { ty := 0x16, msk := 0, ca := false, vd := 1, va := 1, src := .vec 16 false },
      .vdeq { ty := 0x0D, msk := 0, ca := false, vd := 1, va := 1, src := .vec 15 false },
      .vdeq { ty := 0x16, msk := 0, ca := false, vd := 1, va := 1, src := .vec 16 false },
      .vfredsum { ty := 7, msk := 0, ca := false, vd := 1, va := 1, src := .vec 0 false },
      .vfredsum { ty := 0x0D, msk := 0, ca := false, vd := 1, va := 1, src := .imm 1 },
      .vfredmax { ty := 7, msk := 0, ca := false, vd := 1, va := 1, src := .vec 0 false },
      .vfredmax { ty := 0x0D, msk := 0, ca := false, vd := 1, va := 1, src := .imm 1 },
      .vfredmin { ty := 7, msk := 0, ca := false, vd := 1, va := 1, src := .vec 0 false },
      .vfredmin { ty := 0x0D, msk := 0, ca := false, vd := 1, va := 1, src := .imm 1 },
      .vfscan { ty := 7, msk := 0, ca := false, vd := 1, va := 1, src := .vec 0 false },
      .vfscan { ty := 0x0D, msk := 0, ca := false, vd := 1, va := 1, src := .imm 1 },
      .vfred2 { ty := 0x0B, msk := 0, ca := false, vd := 1, va := 1, src := .vec 0 false },
      .vfred2 { ty := 0x0C, msk := 0, ca := false, vd := 1, va := 1, src := .scal 1 },
      .vblk { fd := 1, ld := 0, hd := 0 }] : List Instr).all (fun i => wf i == false) = true := by
  decide

/-! R296 to R316: terms whose fields stand at their limits, and one ill-formed term for each check. -/

theorem test_wf_admits_matrix : ([
      .mmode { ty := 0x16, ad := 0, ta := 0, tb := 0, vs := 0, sk := 0, msk := 0, cv := false },
      .mexit { ty := 0, ad := 0, ta := 0, tb := 0, vs := 0, sk := 0, msk := 0, cv := false },
      .tcfg { ty := 0x0A, ad := 0, ta := 3, tb := 0, vs := 0, sk := 1, msk := 0, cv := false },
      .trel { ty := 0, ad := 0, ta := 3, tb := 0, vs := 0, sk := 0, msk := 0, cv := false },
      .tmvr { ty := 8, ad := 0, ta := 3, tb := 0, vs := 1, sk := 1, msk := 0, cv := true },
      .tmvc { ty := 0x16, ad := 0, ta := 3, tb := 0, vs := 1, sk := 1, msk := 0, cv := false },
      .tld { ty := 0x0D, ad := 0, ta := 3, tb := 0, vs := 1, sk := 1, msk := 0, cv := false },
      .tst { ty := 0x0D, ad := 0, ta := 3, tb := 0, vs := 1, sk := 1, msk := 0, cv := false },
      .mop { ty := 0x10, ad := 1, ta := 1, tb := 2, vs := 15, sk := 15, msk := 0, cv := false },
      .mopneg { ty := 0x10, ad := 1, ta := 1, tb := 2, vs := 15, sk := 15, msk := 0, cv := false },
      .mopsp { ty := 0x0C, ad := 0, ta := 0, tb := 0, vs := 0, sk := 0, msk := 1, cv := false },
      .accmv { ty := 0x0A, ad := 1, ta := 0, tb := 0, vs := 1, sk := 1, msk := 0, cv := false },
      .accPeek { ty := 0x0A, ad := 1, ta := 0, tb := 0, vs := 1, sk := 1, msk := 0, cv := false },
      .acczero { ty := 0, ad := 1, ta := 0, tb := 0, vs := 0, sk := 0, msk := 0, cv := false },
      .accsp { ty := 0, ad := 1, ta := 0, tb := 0, vs := 0, sk := 1, msk := 0, cv := false },
      .accfl { ty := 0, ad := 1, ta := 0, tb := 0, vs := 0, sk := 1, msk := 0, cv := false }] : List Instr).all (fun i => wf i == true) = true := by
  decide

theorem test_wf_refuses_matrix : ([
      .mmode { ty := 0x09, ad := 0, ta := 0, tb := 0, vs := 0, sk := 0, msk := 0, cv := false },
      .mmode { ty := 0x16, ad := 1, ta := 0, tb := 0, vs := 0, sk := 0, msk := 0, cv := false },
      .mmode { ty := 0x16, ad := 0, ta := 1, tb := 0, vs := 0, sk := 0, msk := 0, cv := false },
      .mmode { ty := 0x16, ad := 0, ta := 0, tb := 0, vs := 0, sk := 0, msk := 0, cv := true },
      .mexit { ty := 1, ad := 0, ta := 0, tb := 0, vs := 0, sk := 0, msk := 0, cv := false },
      .mexit { ty := 0, ad := 0, ta := 0, tb := 1, vs := 0, sk := 0, msk := 0, cv := false },
      .tcfg { ty := 0x0A, ad := 1, ta := 3, tb := 0, vs := 0, sk := 1, msk := 0, cv := false },
      .tcfg { ty := 0x0A, ad := 0, ta := 3, tb := 1, vs := 0, sk := 1, msk := 0, cv := false },
      .tcfg { ty := 0x0A, ad := 0, ta := 3, tb := 0, vs := 1, sk := 1, msk := 0, cv := false },
      .tcfg { ty := 0x0A, ad := 0, ta := 3, tb := 0, vs := 0, sk := 1, msk := 1, cv := false },
      .trel { ty := 0, ad := 0, ta := 3, tb := 0, vs := 0, sk := 1, msk := 0, cv := false },
      .trel { ty := 1, ad := 0, ta := 3, tb := 0, vs := 0, sk := 0, msk := 0, cv := false },
      .tmvr { ty := 7, ad := 0, ta := 3, tb := 0, vs := 1, sk := 1, msk := 0, cv := true },
      .tmvr { ty := 8, ad := 1, ta := 3, tb := 0, vs := 1, sk := 1, msk := 0, cv := true },
      .tmvr { ty := 8, ad := 0, ta := 3, tb := 1, vs := 1, sk := 1, msk := 0, cv := true },
      .tmvr { ty := 8, ad := 0, ta := 3, tb := 0, vs := 1, sk := 1, msk := 1, cv := true },
      .tmvc { ty := 0x0E, ad := 0, ta := 3, tb := 0, vs := 1, sk := 1, msk := 0, cv := false },
      .tmvc { ty := 0x16, ad := 0, ta := 3, tb := 0, vs := 1, sk := 1, msk := 0, cv := true },
      .tmvc { ty := 0x16, ad := 0, ta := 3, tb := 1, vs := 1, sk := 1, msk := 0, cv := false },
      .tld { ty := 8, ad := 0, ta := 3, tb := 0, vs := 1, sk := 1, msk := 0, cv := false },
      .tld { ty := 0x0D, ad := 1, ta := 3, tb := 0, vs := 1, sk := 1, msk := 0, cv := false },
      .tld { ty := 0x0D, ad := 0, ta := 3, tb := 0, vs := 1, sk := 1, msk := 1, cv := false },
      .tst { ty := 8, ad := 0, ta := 3, tb := 0, vs := 1, sk := 1, msk := 0, cv := false },
      .tst { ty := 0x0D, ad := 1, ta := 3, tb := 0, vs := 1, sk := 1, msk := 0, cv := false },
      .tst { ty := 0x0D, ad := 0, ta := 3, tb := 0, vs := 1, sk := 1, msk := 1, cv := false },
      .mop { ty := 0x10, ad := 1, ta := 1, tb := 2, vs := 16, sk := 15, msk := 0, cv := false },
      .mop { ty := 0x10, ad := 1, ta := 1, tb := 2, vs := 15, sk := 16, msk := 0, cv := false },
      .mop { ty := 0x0C, ad := 1, ta := 1, tb := 2, vs := 15, sk := 15, msk := 0, cv := false },
      .mop { ty := 0x10, ad := 1, ta := 1, tb := 2, vs := 15, sk := 15, msk := 1, cv := false },
      .mop { ty := 0x10, ad := 1, ta := 1, tb := 2, vs := 15, sk := 15, msk := 0, cv := true },
      .mopneg { ty := 0x10, ad := 1, ta := 1, tb := 2, vs := 16, sk := 15, msk := 0, cv := false },
      .mopneg { ty := 0x10, ad := 1, ta := 1, tb := 2, vs := 15, sk := 16, msk := 0, cv := false },
      .mopneg { ty := 0x0C, ad := 1, ta := 1, tb := 2, vs := 15, sk := 15, msk := 0, cv := false },
      .mopneg { ty := 0x10, ad := 1, ta := 1, tb := 2, vs := 15, sk := 15, msk := 1, cv := false },
      .mopneg { ty := 0x10, ad := 1, ta := 1, tb := 2, vs := 15, sk := 15, msk := 0, cv := true },
      .mopsp { ty := 0x0C, ad := 0, ta := 0, tb := 0, vs := 0, sk := 0, msk := 0, cv := false },
      .mopsp { ty := 0x0C, ad := 0, ta := 0, tb := 0, vs := 1, sk := 0, msk := 1, cv := false },
      .mopsp { ty := 8, ad := 0, ta := 0, tb := 0, vs := 0, sk := 0, msk := 1, cv := false },
      .mopsp { ty := 0x0C, ad := 0, ta := 0, tb := 0, vs := 0, sk := 0, msk := 1, cv := true },
      .accmv { ty := 9, ad := 1, ta := 0, tb := 0, vs := 1, sk := 1, msk := 0, cv := false },
      .accmv { ty := 0x0A, ad := 1, ta := 1, tb := 0, vs := 1, sk := 1, msk := 0, cv := false },
      .accmv { ty := 0x0A, ad := 1, ta := 0, tb := 0, vs := 1, sk := 1, msk := 1, cv := false },
      .accPeek { ty := 9, ad := 1, ta := 0, tb := 0, vs := 1, sk := 1, msk := 0, cv := false },
      .accPeek { ty := 0x0A, ad := 1, ta := 1, tb := 0, vs := 1, sk := 1, msk := 0, cv := false },
      .accPeek { ty := 0x0A, ad := 1, ta := 0, tb := 0, vs := 1, sk := 1, msk := 1, cv := false },
      .acczero { ty := 0, ad := 1, ta := 0, tb := 0, vs := 0, sk := 1, msk := 0, cv := false },
      .acczero { ty := 1, ad := 1, ta := 0, tb := 0, vs := 0, sk := 0, msk := 0, cv := false },
      .accsp { ty := 0, ad := 1, ta := 0, tb := 0, vs := 1, sk := 1, msk := 0, cv := false },
      .accsp { ty := 1, ad := 1, ta := 0, tb := 0, vs := 0, sk := 1, msk := 0, cv := false },
      .accfl { ty := 0, ad := 1, ta := 0, tb := 0, vs := 1, sk := 1, msk := 0, cv := false },
      .accfl { ty := 1, ad := 1, ta := 0, tb := 0, vs := 0, sk := 1, msk := 0, cv := false }] : List Instr).all (fun i => wf i == false) = true := by
  decide

/-! R331 to R344, R375, R391, R415: terms whose fields stand at their limits, and one ill-formed term for each check. -/

theorem test_wf_admits_geometry_engines_pools : ([
      .gcvt { ty := 0x0E, msk := 0, ca := false, vd := 1, va := 1, src := .vec 0 false },
      .gadd { ty := 0x0E, msk := 0, ca := false, vd := 1, va := 1, src := .vec 0 false },
      .gsub { ty := 0x0E, msk := 0, ca := false, vd := 1, va := 1, src := .vec 0 false },
      .gscale { ty := 0x0E, msk := 0, ca := false, vd := 1, va := 1, src := .vec 0 false },
      .gsettag { ty := 0x0E, msk := 0, ca := false, vd := 1, va := 1, src := .vec 0 false },
      .gtagof { ty := 0x0E, msk := 0, ca := false, vd := 1, va := 1, src := .vec 0 false },
      .fnew { fd := 1, fa := 1, fb := 1, fc := 1, ty := 0, sc := 5 },
      .fsplit { fd := 1, fa := 1, fb := 1, fc := 1, ty := 0, sc := 5 },
      .fdelAdopt { fd := 1, fa := 1, fb := 1, fc := 1, ty := 0, sc := 5 },
      .fmove { fd := 1, fa := 1, fb := 1, fc := 0, ty := 0, sc := 2 },
      .fdel { fd := 1, fa := 1, fb := 0, fc := 0, ty := 0, sc := 2 },
      .fdelFwd { fd := 1, fa := 1, fb := 0, fc := 0, ty := 0, sc := 2 },
      .freclaim { fd := 1, fa := 1, fb := 0, fc := 0, ty := 0, sc := 2 },
      .fread { fd := 1, fa := 1, fb := 1, fc := 0, ty := 0, sc := 0 },
      .xcopy { fd := 1, fa := 2, fb := 0, fc := 0, sc := 0, imm := 0 },
      .xput { fd := 1, fa := 2, fb := 0, fc := 0, sc := 0, imm := 0 },
      .xputW { fd := 1, fa := 2, fb := 0, fc := 0, sc := 0, imm := 0 },
      .xreduce { fd := 1, fa := 2, fb := 0, fc := 0, sc := 0, imm := 0 },
      .xcopyView { fd := 1, fa := 2, fb := 0, fc := 0, sc := 0, imm := 0 },
      .zenc { fd := 1, fa := 2, fb := 3, fc := 0, sc := 0, imm := 4095 },
      .zdec { fd := 1, fa := 2, fb := 3, fc := 0, sc := 0, imm := 4095 },
      .cbinit { fd := 0, fa := 2, fb := 0, fc := 0, sc := 0, imm := 0 },
      .cbarrive { fd := 1, fa := 2, fb := 0, fc := 0, sc := 0, imm := 0 },
      .cbtest { fd := 1, fa := 2, fb := 0, fc := 0, sc := 0, imm := 0 },
      .cbwait { fd := 1, fa := 2, fb := 0, fc := 0, sc := 0, imm := 1 },
      .pput { fd := 1, fa := 2, fb := 0, fc := 0, sc := 0, imm := 0 },
      .ptake { fd := 1, fa := 2, fb := 3, fc := 4, sc := 0, imm := 3 },
      .ptakeW { fd := 1, fa := 2, fb := 3, fc := 4, sc := 0, imm := 3 },
      .pbnd { fd := 0, fa := 2, fb := 0, fc := 0, sc := 0, imm := 3 },
      .pstat { fd := 1, fa := 2, fb := 0, fc := 0, sc := 0, imm := 3 },
      .pdrain { fd := 1, fa := 2, fb := 0, fc := 0, sc := 0, imm := 2 }] : List Instr).all (fun i => wf i == true) = true := by
  decide

theorem test_wf_refuses_geometry_engines_pools_1 : ([
      .gcvt { ty := 0x0D, msk := 0, ca := false, vd := 1, va := 1, src := .vec 0 false },
      .gcvt { ty := 0x0E, msk := 0, ca := false, vd := 1, va := 1, src := .scal 1 },
      .gadd { ty := 0x0D, msk := 0, ca := false, vd := 1, va := 1, src := .vec 0 false },
      .gadd { ty := 0x0E, msk := 0, ca := false, vd := 1, va := 1, src := .scal 1 },
      .gsub { ty := 0x0D, msk := 0, ca := false, vd := 1, va := 1, src := .vec 0 false },
      .gsub { ty := 0x0E, msk := 0, ca := false, vd := 1, va := 1, src := .scal 1 },
      .gscale { ty := 0x0D, msk := 0, ca := false, vd := 1, va := 1, src := .vec 0 false },
      .gscale { ty := 0x0E, msk := 0, ca := false, vd := 1, va := 1, src := .scal 1 },
      .gsettag { ty := 0x0D, msk := 0, ca := false, vd := 1, va := 1, src := .vec 0 false },
      .gsettag { ty := 0x0E, msk := 0, ca := false, vd := 1, va := 1, src := .scal 1 },
      .gtagof { ty := 0x0D, msk := 0, ca := false, vd := 1, va := 1, src := .vec 0 false },
      .gtagof { ty := 0x0E, msk := 0, ca := false, vd := 1, va := 1, src := .vec 1 false },
      .fnew { fd := 1, fa := 1, fb := 1, fc := 1, ty := 0, sc := 1 },
      .fnew { fd := 1, fa := 1, fb := 1, fc := 1, ty := 0, sc := 6 },
      .fnew { fd := 1, fa := 1, fb := 1, fc := 1, ty := 1, sc := 5 },
      .fsplit { fd := 1, fa := 1, fb := 1, fc := 1, ty := 0, sc := 1 },
      .fsplit { fd := 1, fa := 1, fb := 1, fc := 1, ty := 0, sc := 6 },
      .fsplit { fd := 1, fa := 1, fb := 1, fc := 1, ty := 1, sc := 5 },
      .fdelAdopt { fd := 1, fa := 1, fb := 1, fc := 1, ty := 0, sc := 1 },
      .fdelAdopt { fd := 1, fa := 1, fb := 1, fc := 1, ty := 0, sc := 6 },
      .fdelAdopt { fd := 1, fa := 1, fb := 1, fc := 1, ty := 1, sc := 5 },
      .fmove { fd := 1, fa := 1, fb := 1, fc := 0, ty := 0, sc := 1 },
      .fmove { fd := 1, fa := 1, fb := 1, fc := 1, ty := 0, sc := 2 },
      .fmove { fd := 1, fa := 1, fb := 1, fc := 0, ty := 1, sc := 2 },
      .fdel { fd := 1, fa := 1, fb := 0, fc := 0, ty := 0, sc := 6 },
      .fdel { fd := 1, fa := 1, fb := 1, fc := 0, ty := 0, sc := 2 },
      .fdel { fd := 1, fa := 1, fb := 0, fc := 1, ty := 0, sc := 2 },
      .fdel { fd := 1, fa := 1, fb := 0, fc := 0, ty := 1, sc := 2 },
      .fdelFwd { fd := 1, fa := 1, fb := 0, fc := 0, ty := 0, sc := 6 },
      .fdelFwd { fd := 1, fa := 1, fb := 1, fc := 0, ty := 0, sc := 2 },
      .fdelFwd { fd := 1, fa := 1, fb := 0, fc := 1, ty := 0, sc := 2 },
      .fdelFwd { fd := 1, fa := 1, fb := 0, fc := 0, ty := 1, sc := 2 },
      .freclaim { fd := 1, fa := 1, fb := 0, fc := 0, ty := 0, sc := 6 },
      .freclaim { fd := 1, fa := 1, fb := 1, fc := 0, ty := 0, sc := 2 },
      .freclaim { fd := 1, fa := 1, fb := 0, fc := 1, ty := 0, sc := 2 },
      .freclaim { fd := 1, fa := 1, fb := 0, fc := 0, ty := 1, sc := 2 },
      .fread { fd := 1, fa := 1, fb := 1, fc := 0, ty := 0, sc := 1 },
      .fread { fd := 1, fa := 1, fb := 1, fc := 1, ty := 0, sc := 0 },
      .fread { fd := 1, fa := 1, fb := 1, fc := 0, ty := 1, sc := 0 },
      .xcopy { fd := 1, fa := 2, fb := 1, fc := 0, sc := 0, imm := 0 },
      .xcopy { fd := 1, fa := 2, fb := 0, fc := 0, sc := 1, imm := 0 },
      .xcopy { fd := 1, fa := 2, fb := 0, fc := 0, sc := 0, imm := 1 },
      .xput { fd := 1, fa := 2, fb := 1, fc := 0, sc := 0, imm := 0 },
      .xput { fd := 1, fa := 2, fb := 0, fc := 0, sc := 1, imm := 0 },
      .xput { fd := 1, fa := 2, fb := 0, fc := 0, sc := 0, imm := 1 },
      .xputW { fd := 1, fa := 2, fb := 1, fc := 0, sc := 0, imm := 0 },
      .xputW { fd := 1, fa := 2, fb := 0, fc := 0, sc := 1, imm := 0 },
      .xputW { fd := 1, fa := 2, fb := 0, fc := 0, sc := 0, imm := 1 },
      .xreduce { fd := 1, fa := 2, fb := 1, fc := 0, sc := 0, imm := 0 },
      .xreduce { fd := 1, fa := 2, fb := 0, fc := 0, sc := 1, imm := 0 },
      .xreduce { fd := 1, fa := 2, fb := 0, fc := 0, sc := 0, imm := 1 },
      .xcopyView { fd := 1, fa := 2, fb := 1, fc := 0, sc := 0, imm := 0 },
      .xcopyView { fd := 1, fa := 2, fb := 0, fc := 0, sc := 1, imm := 0 },
      .xcopyView { fd := 1, fa := 2, fb := 0, fc := 0, sc := 0, imm := 1 },
      .zenc { fd := 1, fa := 2, fb := 3, fc := 0, sc := 0, imm := 4096 },
      .zenc { fd := 1, fa := 2, fb := 3, fc := 0, sc := 1, imm := 4095 },
      .zdec { fd := 1, fa := 2, fb := 3, fc := 0, sc := 0, imm := 4096 },
      .zdec { fd := 1, fa := 2, fb := 3, fc := 0, sc := 1, imm := 4095 },
      .cbinit { fd := 1, fa := 2, fb := 0, fc := 0, sc := 0, imm := 0 },
      .cbinit { fd := 0, fa := 2, fb := 0, fc := 0, sc := 1, imm := 0 }] : List Instr).all (fun i => wf i == false) = true := by
  decide

theorem test_wf_refuses_geometry_engines_pools_2 : ([
      .cbinit { fd := 0, fa := 2, fb := 0, fc := 0, sc := 0, imm := 1 },
      .cbarrive { fd := 1, fa := 2, fb := 0, fc := 1, sc := 0, imm := 0 },
      .cbarrive { fd := 1, fa := 2, fb := 0, fc := 0, sc := 1, imm := 0 },
      .cbarrive { fd := 1, fa := 2, fb := 0, fc := 0, sc := 0, imm := 1 },
      .cbtest { fd := 1, fa := 2, fb := 0, fc := 1, sc := 0, imm := 0 },
      .cbtest { fd := 1, fa := 2, fb := 0, fc := 0, sc := 1, imm := 0 },
      .cbtest { fd := 1, fa := 2, fb := 0, fc := 0, sc := 0, imm := 1 },
      .cbwait { fd := 1, fa := 2, fb := 0, fc := 0, sc := 0, imm := 2 },
      .cbwait { fd := 1, fa := 2, fb := 0, fc := 1, sc := 0, imm := 1 },
      .cbwait { fd := 1, fa := 2, fb := 0, fc := 0, sc := 1, imm := 1 },
      .pput { fd := 1, fa := 2, fb := 0, fc := 0, sc := 1, imm := 0 },
      .pput { fd := 1, fa := 2, fb := 0, fc := 0, sc := 0, imm := 1 },
      .ptake { fd := 1, fa := 2, fb := 3, fc := 4, sc := 0, imm := 4 },
      .ptake { fd := 1, fa := 2, fb := 3, fc := 4, sc := 1, imm := 3 },
      .ptake { fd := 1, fa := 2, fb := 1, fc := 4, sc := 0, imm := 3 },
      .ptake { fd := 1, fa := 2, fb := 3, fc := 1, sc := 0, imm := 3 },
      .ptake { fd := 1, fa := 2, fb := 3, fc := 3, sc := 0, imm := 3 },
      .ptakeW { fd := 1, fa := 2, fb := 3, fc := 4, sc := 0, imm := 4 },
      .ptakeW { fd := 1, fa := 2, fb := 3, fc := 4, sc := 1, imm := 3 },
      .ptakeW { fd := 1, fa := 2, fb := 1, fc := 4, sc := 0, imm := 3 },
      .ptakeW { fd := 1, fa := 2, fb := 3, fc := 1, sc := 0, imm := 3 },
      .ptakeW { fd := 1, fa := 2, fb := 3, fc := 3, sc := 0, imm := 3 },
      .pbnd { fd := 1, fa := 2, fb := 0, fc := 0, sc := 0, imm := 3 },
      .pbnd { fd := 0, fa := 2, fb := 1, fc := 0, sc := 0, imm := 3 },
      .pbnd { fd := 0, fa := 2, fb := 0, fc := 1, sc := 0, imm := 3 },
      .pbnd { fd := 0, fa := 2, fb := 0, fc := 0, sc := 0, imm := 4 },
      .pstat { fd := 1, fa := 2, fb := 1, fc := 0, sc := 0, imm := 3 },
      .pstat { fd := 1, fa := 2, fb := 0, fc := 1, sc := 0, imm := 3 },
      .pstat { fd := 1, fa := 2, fb := 0, fc := 0, sc := 1, imm := 3 },
      .pstat { fd := 1, fa := 2, fb := 0, fc := 0, sc := 0, imm := 4 },
      .pdrain { fd := 1, fa := 2, fb := 0, fc := 0, sc := 0, imm := 3 },
      .pdrain { fd := 1, fa := 2, fb := 1, fc := 0, sc := 0, imm := 2 },
      .pdrain { fd := 1, fa := 2, fb := 0, fc := 1, sc := 0, imm := 2 },
      .pdrain { fd := 1, fa := 2, fb := 0, fc := 0, sc := 1, imm := 2 }] : List Instr).all (fun i => wf i == false) = true := by
  decide
/-! ## A small machine

One partition (slot 0) on package 0 with quad 0 and a running thread on core 0; the core's TLB maps the two pages from 0x20000 on
for loads and stores. Registers hold 0 until a test sets them. -/

def page (va : Nat) : TlbEntry :=
  { part := 0, pkg := 0, va := va, size := 16, pa := va, r := true, w := true, x := false, z := false, dirty := true }

def someone : Thread := { Thread.blank with uid := 1, status := .running, handles := [none, none] }

def ours : Partition where
  slot := 0
  quads := [0]
  roots := [(0, 0x40000)]
  shares := [(0, 4)]
  units := []
  catPkg := 0
  catBase := 0x50000
  catSize := 4
  tc := 0
  guards := []
  stackTops := []
  stackSize := 0
  resume := []
  ended := false

def lab : State :=
  { State.reset with
    t := someone
    parts := [ours]
    nextUid := 2
    tlbs := [{ place := 0, entries := [page 0x20000, page 0x30000] }]
    boots := [(0, { Boot.start with running := false })] }

/-- The same machine with s registers set. -/
def regs (l : List (BitVec 5 × Word)) (s : State) : State := l.foldl (fun a p => setS a p.1 p.2) s

/-- Sets vtype by its fields (R45): BL, GRP, MP, TP and TYPE as vsettype writes them, and vl. -/
def vectors (vt : Word) (vl : Nat) (s : State) : State := s.updC fun c => { c with vtype := vt, vl := vl }

/-- One step that runs the instruction of the words meets a condition. -/
noncomputable def runs (s : State) (nbits w : Nat) (p : State → Bool) : Bool :=
  match step (s.withFetchWord nbits w) with
  | .next t => p t
  | .fault _ | .refused _ => false

set_option maxRecDepth 100000

/-! ## Single steps -/

/-- R165: sums are mod 2^64; R122: the next line follows a line with one instruction. -/
theorem test_add_wraps : runs (regs [(1, 0xFFFFFFFFFFFFFFFF), (2, 2)] lab) 32 0b0_00011_00001_00010_01_000010_00000000
    (fun t => getS t 3 == 1 && t.t.pc == 0x10040) = true := by decide

/-- R163: a write to s0 is lost. -/
theorem test_write_s0 : runs (regs [(1, 5), (2, 2)] lab) 32 0b0_00000_00001_00010_01_000010_00000000 (fun t => getS t 0 == 0) = true := by decide

/-- R164: the quotient of −2^63 by −1 is −2^63, by 0 it is −1. -/
theorem test_div_overflow : runs (regs [(1, 0x8000000000000000), (2, 0xFFFFFFFFFFFFFFFF)] lab) 32 0b0_00011_00001_00010_01_000010_00001101
    (fun t => getS t 3 == 0x8000000000000000) = true := by decide
theorem test_div_by_zero : runs (regs [(1, 7)] lab) 32 0b0_00011_00001_00010_01_000010_00001101
    (fun t => getS t 3 == 0xFFFFFFFFFFFFFFFF) = true := by decide

/-- R164: the remainder takes the sign of the dividend: −7 rem 2 = −1; by 0 it is the dividend. -/
theorem test_rem_sign : runs (regs [(1, 0xFFFFFFFFFFFFFFF9), (2, 2)] lab) 32 0b0_00011_00001_00010_01_000010_00001111
    (fun t => getS t 3 == 0xFFFFFFFFFFFFFFFF) = true := by decide
theorem test_rem_by_zero : runs (regs [(1, 9)] lab) 32 0b0_00011_00001_00010_01_000010_00010000 (fun t => getS t 3 == 9) = true := by decide

/-- R165: the upper halves of −1 × 2, signed −1 and unsigned 1. -/
theorem test_mulh_signed : runs (regs [(1, 0xFFFFFFFFFFFFFFFF), (2, 2)] lab) 32 0b0_00011_00001_00010_01_000010_00001011
    (fun t => getS t 3 == 0xFFFFFFFFFFFFFFFF) = true := by decide
theorem test_mulhn_unsigned : runs (regs [(1, 0xFFFFFFFFFFFFFFFF), (2, 2)] lab) 32 0b0_00011_00001_00010_01_000010_00001100
    (fun t => getS t 3 == 1) = true := by decide

/-- R165: sra repeats the sign bit and counts mod 64 (65 = 1). -/
theorem test_sra_count : runs (regs [(1, 0x8000000000000000), (2, 65)] lab) 32 0b0_00011_00001_00010_01_000010_00000111
    (fun t => getS t 3 == 0xC000000000000000) = true := by decide

/-- R165: clz of 0 is 64, clz of 2^62 is 1. -/
theorem test_clz_zero : runs lab 32 0b0_00011_00001_00000_01_000010_00010110 (fun t => getS t 3 == 64) = true := by decide
theorem test_clz_bit62 : runs (regs [(1, 0x4000000000000000)] lab) 32 0b0_00011_00001_00000_01_000010_00010110
    (fun t => getS t 3 == 1) = true := by decide

/-- R166: IMM18 is sign-extended: 0 + (−1). -/
theorem test_addi_negative : runs lab 48 0b0000_00011_00000_111111111111111111_10_001000_00000000
    (fun t => getS t 3 == 0xFFFFFFFFFFFFFFFF) = true := by decide

/-- R167: IMMH × 2^23 + IMML: 1 × 2^23 + 5. -/
theorem test_limm : runs lab 80 0b00000000000000000000000000000001_0000_00011_00000000000000000000101_11_001001_00000000
    (fun t => getS t 3 == 0x800005) = true := by decide

/-- R169, R123: a branch to head 3 of the line before, taken and not taken. -/
theorem test_beq_taken : runs (regs [(1, 4), (2, 4)] lab) 48 0b0000_00001_00010_1111111111111_00011_10_010000_00000000
    (fun t => t.t.pc == 0xFFC6) = true := by decide
theorem test_beq_not_taken : runs (regs [(1, 4), (2, 5)] lab) 48 0b0000_00001_00010_1111111111111_00011_10_010000_00000000
    (fun t => t.t.pc == 0x10040) = true := by decide

/-- R170: the link is the next PC. -/
theorem test_jal_link : runs lab 48 0b0000_00001_000000000000000010_00000_10_010001_00000000
    (fun t => t.t.pc == 0x10080 && getS t 1 == 0x10040) = true := by decide

/-- R171: the source is read before the link is written. -/
theorem test_jalr_same_register : runs (regs [(1, 0x10100)] lab) 32 0b0_00001_00001_00000_01_010010_00000000
    (fun t => t.t.pc == 0x10100 && getS t 1 == 0x10040) = true := by decide

/-- R177: a put goes to the queue's tail, a get waits on an empty queue. -/
theorem test_dqput : runs (regs [(5, 77)] lab) 32 0b0_00001_00101_00000_01_000000_00000011
    (fun t => t.t.dq.toList == [[], [77], [], []]) = true := by decide
theorem test_dqget_waits : runs lab 32 0b0_00110_00011_00000_01_000000_00000100 (fun t => t.t.pc == 0x10000) = true := by decide

/-- R175: 1.0 + 2^-25 in fp32 is 1.0 with NX (fflags[0], R46). -/
theorem test_fadd_inexact : runs (regs [(1, 0x3F800000), (2, 0x33000000)] lab) 32 0b0_00011_00001_00010_01_000011_00000000
    (fun t => getS t 3 == 0x3F800000 && t.t.ctl.fflags == 1) = true := by decide

/-- R175: infinity − infinity is the quiet NaN with NV. -/
theorem test_fsub_invalid : runs (regs [(1, 0x7F800000), (2, 0x7F800000)] lab) 32 0b0_00011_00001_00010_01_000011_00000010
    (fun t => getS t 3 == 0x7FC00000) = true := by decide

/-- R176: fp64 3.0 to s32 is 3. -/
theorem test_fcvt : runs (regs [(1, 0x4008000000000000)] lab) 48 0b0000_00011_00001_00000_01101_00010_000_10_000100_00000100
    (fun t => getS t 3 == 3) = true := by decide

/-- R186: pbnd holds at most 4096; a bound of 0 becomes 1. -/
theorem test_mtc_pbnd : runs (regs [(9, 5000)] lab) 32 0b01001_00000110010_01_000000_00000010
    (fun t => readCr t.t 0x032 == 4096) = true := by decide
theorem test_mtc_pbnd_zero : runs lab 32 0b01001_00000110010_01_000000_00000010 (fun t => readCr t.t 0x032 == 1) = true := by decide

/-- R204, R206: the youngest store is read back by its thread; nothing is published. -/
theorem test_store_is_own : runs (regs [(3, 0x1122334455667788), (4, 0x20000)] lab) 48 0b0000_00011_00100_000000000000001000_10_011000_00001011
    (fun t => t.t.readBytes 8 0x20008 == [0x88, 0x77, 0x66, 0x55, 0x44, 0x33, 0x22, 0x11] && t.home.read 0x20008 == 0) = true := by decide

/-- R206: a signed byte load is sign-extended, an unsigned one is not. -/
def stored : State := lab.updT fun t => t.storeBytes 0x20000 0x20000 [0x80, 0x01]
theorem test_load_signed : runs (regs [(4, 0x20000)] stored) 48 0b0000_00011_00100_000000000000000000_10_011000_00000000
    (fun t => getS t 3 == 0xFFFFFFFFFFFFFF80) = true := by decide
theorem test_load_half : runs (regs [(4, 0x20000)] stored) 48 0b0000_00011_00100_000000000000000000_10_011000_00000101
    (fun t => getS t 3 == 0x180) = true := by decide

/-- R202: a misaligned scalar access is Address Misaligned, class 0x03; without a handler it ends the node (R190). -/
theorem test_misaligned : runs (regs [(4, 0x20001)] lab) 48 0b0000_00011_00100_000000000000000000_10_011000_00000101
    (fun t => t.t.ctl.tcause == 3 && t.t.ctl.tval == 0x20001 && t.t.status == .ending 1 3 0 0x20001) = true := by decide

/-- R222, R223: atadd.n32 at .pkg answers the old value and leaves the sum at the home. -/
theorem test_atadd : runs (regs [(2, 0x20000), (3, 5)] (lab.updT fun t => t.storeBytes 0x20000 0x20000 [250]))
    48 0b0000_00001_00010_00011_00000_00110_100_10_011010_00000001
    (fun t => getS t 1 == 250 && t.home.read 0x20000 == 255) = true := by decide

/-- R189, R194: brk saves the next PC and enters the handler. -/
theorem test_brk_handler : runs (lab.updC fun c => { c with tvec := 0x30000 }) 16 0b00_000001_00000011
    (fun t => t.t.pc == 0x30000 && t.t.ctl.tpc == 0x10040 && t.t.ctl.tcause == 0x0F && t.t.ctl.inh) = true := by decide

/-- R191: tret goes to tpc and clears INH. -/
theorem test_tret : runs (lab.updC fun c => { c with tvec := 0x30000, tpc := 0x20006, inh := true }) 16 0b00_000001_00000010
    (fun t => t.t.pc == 0x20006 && !t.t.ctl.inh) = true := by decide

/-- R141: an undefined major is Illegal Instruction with the head in tval. -/
theorem test_undefined_major : runs (lab.updC fun c => { c with tvec := 0x30000 }) 32 0b0000000000000000_01_000110_00000000
    (fun t => t.t.ctl.tcause == 1 && t.t.ctl.tval == 0x4600 && t.t.ctl.tpc == 0x10000) = true := by decide

/-- R239: vsetvl takes the least of the request and the largest vl: 8192 / 8 for n8, GRP 1. -/
theorem test_vsetvl : runs (regs [(2, 5000)] (vectors 4 0 lab)) 48 0b0000_00000_00010_00000_00000_00000_000_10_100000_00000000
    (fun t => t.t.ctl.vl == 1024) = true := by decide

/-- Registers v2 = 1, 2, 3, 4 and v3 = 255, 5, 6, 7 as n8 elements, v1 all ones. -/
def bytes : State :=
  setV (setV (setV (vectors 4 2 lab) 2 0x04030201) 3 0x070605FF) 1 (BitVec.allOnes 8192)

/-- R235, R242: two n8 elements are added mod 256, the tail is kept (TP 0 of vtype). -/
theorem test_vadd_tail : runs bytes 48 0b0000_00100_00_0_0_000_0_00001_00010_00011_10_100001_00000000
    (fun t => (getV t 1).extractLsb' 0 24 == 0xFF0700 && t.t.ctl.vdirty == 2 && t.t.ctl.vcommit == 1) = true := by decide

/-- R137, R235: an element that the mask disables keeps its value (MP 0). -/
theorem test_vadd_masked : runs (setM bytes 5 2) 48 0b0000_00100_00_0_0_101_0_00001_00010_00011_10_100001_00000000
    (fun t => (getV t 1).extractLsb' 0 16 == 0x07FF) = true := by decide

/-- R133, R242: the scalar form takes the s register's low bits; vsub.n8 1 − 2, 2 − 2. -/
theorem test_vsub_scalar : runs (regs [(7, 0x102)] bytes) 48 0b0000_00100_01_0_0_000_0_00001_00010_00111_10_100001_00000001
    (fun t => (getV t 1).extractLsb' 0 16 == 0x00FF) = true := by decide

/-- R250: vslup by the offset 1 takes the first element from the old destination's last one below vl. -/
theorem test_vslup : runs (regs [(7, 1)] bytes) 48 0b0000_00100_01_0_0_000_0_00001_00010_00111_10_100101_00000000
    (fun t => (getV t 1).extractLsb' 0 16 == 0x01FF) = true := by decide

/-- R254: vredsum.n8 of 1, 2 and the first element 255 of the second source is 2 mod 256, in element 0 alone. -/
theorem test_vredsum : runs bytes 48 0b0000_00100_00_0_0_000_0_00001_00010_00011_10_100110_00000000
    (fun t => (getV t 1).extractLsb' 0 16 == 0xFF02) = true := by decide

/-- R247: vclt.n8 writes mask bits: 1 < 255, 2 < 5. -/
theorem test_vclt : runs bytes 48 0b0000_00100_00_0_0_000_0_00001_00010_00011_10_100100_00000010
    (fun t => (getM t 1).extractLsb' 0 3 == 3) = true := by decide

/-- R218, R232: a register number that does not fit GRP 2 is Illegal Instruction. -/
theorem test_group_misfit : runs (vectors 0x404 2 lab) 48 0b0000_00100_00_0_0_000_0_00001_00010_00100_10_100001_00000000
    (fun t => t.t.ctl.tcause == 1) = true := by decide

/-- R210, R235: vld.n8 of two bytes. -/
theorem test_vld : runs (regs [(8, 0x20000)] (vectors 4 2 stored)) 48 0b0000_00100_000_0_0000_01001_01000_00000_10_011100_00000000
    (fun t => (getV t 9).extractLsb' 0 16 == 0x0180) = true := by decide

/-- R440: a fault at element 1 leaves vstart 1 and telem 1; element 0 stands. The page behind 0x3FFFF is not mapped. -/
theorem test_vst_fault : runs (regs [(8, 0x3FFFF)] { bytes with parts := [{ ours with roots := [] }] })
    48 0b0000_00100_000_0_0000_00010_01000_00000_10_011100_00000001
    (fun t => t.t.ctl.vstart == 1 && t.t.ctl.telem == 1 && t.t.readByte 0x3FFFF == 1) = true := by decide

/-- R385, R415: a pool instruction that names no pool traps with class 0x0D. -/
theorem test_pool_unknown : runs (regs [(2, 9)] lab) 80 0b00000000000000000000000000000000_0000_00001_00010_00000_00000_000_00000_11_111110_00000100
    (fun t => t.t.ctl.tcause == 0x0D && t.t.ctl.tval == 9) = true := by decide

/-- R193: an unknown service number answers status 1 and result 0. -/
theorem test_svc_unknown : runs (regs [(10, 7), (11, 7)] lab) 32 0b1111111111111111_01_000000_00000000
    (fun t => getS t 10 == 1 && getS t 11 == 0) = true := by decide

/-- R392: cbtest answers word 0 of the barrier at its home. -/
theorem test_cbtest : runs (regs [(2, 0x20000)] { lab with home := [(0x20000, 3)] }) 80
    0b00000000000000000000000000000000_0000_00001_00010_00000_00000_000_00000_11_111101_00000011 (fun t => getS t 1 == 3) = true := by decide

/-- R48, R261: vcvt is checked on the words of R31; 1.5 in fp32 rounds to 2 in s8 and truncates to 1. -/
def halves : State := setV (vectors 2 1 lab) 2 0x3FC00000
theorem test_vcvt : runs halves 48 0b0000_00000_00_0_0_000_0_00001_00010_01100_10_101001_00000000
    (fun t => (getV t 1).extractLsb' 0 8 == 2) = true := by decide
theorem test_vcvtz : runs halves 48 0b0000_00000_00_0_0_000_0_00001_00010_01100_10_101001_00000001
    (fun t => (getV t 1).extractLsb' 0 8 == 1) = true := by decide

/-- R49 to R51: 2.0 and 1.0 are exact in a bfp4 block with E = 128 (mantissas 4 and 2) and with E = 129 (2 and 1): the larger E wins. -/
theorem test_vquant : runs (setV (vectors 12 2 lab) 2 0x3F80000040000000) 48 0b0000_10010_00_0_0_000_0_00001_00010_00011_10_101010_00000000
    (fun t => elemAt (getE t 3).toNat 8 0 == 129 && (getV t 1).extractLsb' 0 16 == 0x0102) = true := by decide

/-- R293: a matrix instruction outside a matrix mode is Illegal Instruction. -/
theorem test_trel_without_mode : runs lab 48 0b0000_00000_0_11_00_00000_00000_000_0_0000_10_110001_00000001
    (fun t => t.t.ctl.tcause == 1) = true := by decide

/-! ## Witnesses: for each statement, states and operands that meet its hypotheses, clause by clause -/

theorem idle_now (k : StartRule) (s : State) (hx : xBusy s = false) (hd : s.t.dropRun = 0) (hl : s.t.lanes = none) (hv : startElem s = 0) :
    runsNow k s := ⟨.inr ⟨hx, hd⟩, .inr (.inl hl), fun _ => hv⟩

theorem settled (s : State) (rd : List (BitVec 5)) (h : xBusy s = false) : settledFor rd s := settledFor_of_idle h rd

/-- A queued fadd.fp32 s5, s1, s2 at 0x20000, as the access stream left it. -/
def fadd5 : XEntry :=
  { pc := 0x20000, head := 0b01_000011_00000000, tail := 0b0_00101_00001_00010, sregs := Vector.replicate 32 0, pop := none, dead := false,
    pass := none, image := 0, num := 0, age := 0, since := 0, slices := 0 }
def waits5 : State := lab.updT fun t => { t with vq := [fadd5] }

theorem witness_ScalarRegistersAndWaits : (lab.t.xctx = none ∧ (31 : BitVec 5) ≠ 0) ∧ (5 : BitVec 5) ∈ pendingDests waits5 := by decide

theorem witness_ScalarIntegerResults : settledFor [1, 2] lab ∧ getS lab 1 = 0 ∧
    (63 < 64 ∧ (0x8000000000000000#64).getLsbD 63 = true ∧ (∀ j < 64, 63 < j → (0x8000000000000000#64).getLsbD j = false)) ∧
    ((1#64).getLsbD 0 = true ∧ ∀ j < 0, (1#64).getLsbD j = false) ∧ (0x8000#64).getLsbD 15 = true ∧
    (∃ i, build 0x02 0x17 0x0C20 = some i) ∧ ∃ h w, encode (.maxn { fd := 31, fa := 1, fb := 2 }) .none = some (h, w) :=
  ⟨settled _ _ rfl, rfl, by decide, by decide, by decide, ⟨_, rfl⟩, _, _, rfl⟩

theorem witness_ScalarImmediateResults : settledFor [31] lab := settled _ _ rfl

theorem witness_ScalarIntegerFrame : (∃ t, exec (.add { fd := 3, fa := 1, fb := 2 }) lab = .next t) ∧
    (∃ t, exec (.limm { fd := 0, imm := 1 }) lab = .next t) ∧
    ∃ t, exec (.add { fd := 3, fa := 5, fb := 2 }) waits5 = .next t ∧ t.stalled = true := ⟨⟨_, rfl⟩, ⟨_, rfl⟩, _, rfl, rfl⟩

/-- A line of two nops and lend, and one of 32 nops. -/
def shortLine : Line := [0x0100, 0x0100, 0]
def fullLine : Line := List.replicate 32 0x0100

theorem witness_BranchesJumpsAndNextPc : settledFor [1, 2] lab ∧
    (∃ hs, lineHeads shortLine = .ok hs ∧ hs.length = 2) ∧ (∃ hs, lineHeads fullLine = .ok hs ∧ hs.length = 32) ∧
    (0xFFFFFFFFFFFFFFBE#64).toNat % 2 = 0 ∧ (0xFFFFFFFFFFFFFFBE#64).toNat + 64 < 2 ^ 64 :=
  ⟨settled _ _ rfl, ⟨_, rfl, rfl⟩, ⟨_, rfl, rfl⟩, by decide, by decide⟩

/-- In the line of two nops at 0x20000. -/
def inLine : State := lab.updT fun t => { t with pc := 0x20000, line := some (0x20000, shortLine) }

theorem witness_StepRunsDecoded :
    ((bootOf inLine (pkgOf inLine.t.core)).stopped = false ∧ (bootOf inLine (pkgOf inLine.t.core)).running = false ∧ inLine.agenda = [] ∧ inLine.t.status = .running ∧
      inLine.cycle % turnLength ≠ turnLength - 1 ∧ runningLanes inLine = [] ∧ inLine.t.vq = [] ∧ inLine.t.xdec = [] ∧ entered inLine = true ∧
      accessHead (beginPass { inLine with stalled := true }) = some (0x0100, 0) ∧ decode 0x0100 0 = some (.nop, .none) ∧
      flagRuns (beginPass { inLine with stalled := true }) .none = true) ∧
    (∃ s1, ({ lab with agenda := [.event .nop] } : State).agenda = .event .nop :: [] ∧
      exec .nop { ({ lab with agenda := [.event .nop] } : State) with agenda := [], stalled := false } = .next s1 ∧ s1.stalled = false) ∧
    (waits5.t.vq = fadd5 :: [] ∧ ∃ i s1, decode fadd5.head fadd5.tail = some (i, .none) ∧
      exec i { waits5 with stalled := true, t := { waits5.t with vq := [], xctx := some { entry := fadd5, lane := none } } } = .next s1 ∧
      s1.stalled = false ∧ s1.t.uid = waits5.t.uid) :=
  ⟨⟨rfl, rfl, rfl, rfl, by decide, rfl, rfl, rfl, rfl, rfl, rfl, rfl⟩, ⟨_, rfl, rfl, rfl⟩, rfl, _, _, rfl, rfl, rfl, rfl⟩

/-- A replay in its first pass, and the same one held under a trap. -/
def replay0 : Replay := { body := [0x20000], endPc := 0x20002, levels := 1, idx := Vector.replicate 6 0, bases := Vector.replicate 8 0, pos := 0, begun := true }

theorem witness_ControlRegisters :
    executeSide 0x045 = false ∧ (executeSide 0x023 = true ∧ xBusy waits5 = true ∧ xBusy lab = false) ∧
    (lab.t.replay = none ∧ lab.t.replayHeld = none ∧ lab.t.munit = none) ∧ (lab.updT fun t => { t with replay := some replay0 }).t.replay = some replay0 ∧
    (wf (.mtc { fd := 9, crn := 0x051 }) = true ∧ settledFor [9] lab ∧ runsNow .ignore lab) ∧
    (({ fd := 9, crn := 0x012 } : QC).crn = 0x011 ∨ ({ fd := 9, crn := 0x012 } : QC).crn = 0x012) ∧
    ({ fd := 9, crn := 0x033 } : QC).crn.toNat = 0x030 + 3 :=
  ⟨rfl, ⟨rfl, rfl, rfl⟩, ⟨rfl, rfl, rfl⟩, rfl, ⟨rfl, settled _ _ rfl, idle_now _ _ rfl rfl rfl rfl⟩, .inr rfl, rfl⟩

def dropping : State := lab.updT fun t => { t with bq := [true], dq := t.dq.set 0 (List.replicate 7 3), dropRun := 0 }

theorem stop_none (s : State) (hl : s.t.limit = none) : stopAt none s = s := by
  have h : ({ s.t with limit := none } : Thread) = s.t := by rw [← hl]
  show { s with t := { s.t with limit := none } } = s
  rw [h]

theorem no_binds_prepare (srcs : List Nat) (s : State) (hb : s.t.binds = []) : prepareSources srcs s = { bad := none, s := s } := by
  simp [prepareSources, boundSources, hb]

theorem no_binds_settle (srcs dsts : List Nat) (s : State) (hb : s.t.binds = []) (hq : s.t.mq = []) : settleFrame srcs dsts s = s := by
  simp [settleFrame, settleRegs, hq, hb]

theorem no_binds_sources (srcs dsts : List Nat) (dm : Option Nat) (s : State) (hb : s.t.binds = []) (hq : s.t.mq = [])
    (hl : s.t.limit = none := by rfl) : sourcesAt srcs dsts dm s s := by
  refine ⟨by simp [writesBound, hb], ?_⟩
  rw [no_binds_settle srcs dsts s hb hq, no_binds_prepare srcs s hb]
  exact ⟨rfl, (stop_none s hl).symm⟩

theorem no_binds_plain (dsts : List Nat) (s : State) (hb : s.t.binds = []) : plainDest dsts s := by
  intro b h
  simp [hb] at h

/-- A bqx #1 that stands first among the entries not yet in the vector queue. -/
def bqxEntry : XEntry := { fadd5 with head := 0b01_010011_00000000, tail := 1 }
def bqxFirst : State := lab.updT fun t => { t with xdec := [bqxEntry] }

theorem witness_QueuesBetweenStreams :
    (settledFor [5] dropping ∧ (dropping.t.dq.getD 0 []).length < 8) ∧ dropping.t.dq.getD 3 [] = [] ∧ dropping.t.dq.getD 0 [] = 3 :: List.replicate 6 3 ∧
    (xBusy dropping = false ∧ dropping.t.dropRun = 0 ∧ dropping.t.bq = true :: []) ∧
    (0 < (dropping.updT fun t => { t with dropRun := 1 }).t.dropRun) ∧
    (runsNow .ignore dropping ∧ sourcesAt [9] [] none dropping dropping ∧ ({ fd := 3, fa := 9, fb := 31 } : Q3).fb.toNat < 128) ∧
    (sourcesAt [] [9] none dropping dropping ∧ plainDest [9] dropping ∧ dropping.t.xctx = none) ∧
    (lab.t.xctx = none ∧ lab.t.lanes = none ∧ lab.t.dropRun = 0 ∧ lab.t.bq = [] ∧ xBusy waits5 = true ∧ lab.t.dq.getD 3 [] = []) ∧
    (bqxFirst.t.xdec = bqxEntry :: [] ∧ bqxEntry.isBqx = true ∧ bqxFirst.t.dropRun = 0 ∧ afterVblk bqxFirst = false ∧ bqxFirst.t.bq = []) ∧
    8 ≤ ((lab.updT fun t => { t with dq := t.dq.set 0 (List.replicate 8 3) }).t.dq.getD 0 []).length :=
  ⟨⟨settled _ _ rfl, by decide⟩, rfl, rfl, ⟨rfl, rfl, rfl⟩, by decide,
    ⟨idle_now _ _ rfl rfl rfl rfl, no_binds_sources _ _ _ _ rfl rfl, by decide⟩, ⟨no_binds_sources _ _ _ _ rfl rfl, no_binds_plain _ _ rfl, rfl⟩,
    ⟨rfl, rfl, rfl, rfl, rfl, rfl⟩, ⟨rfl, rfl, rfl, rfl, rfl⟩, by decide⟩

/-- A thread with a handler, one inside it, and one whose handler was entered over a queue image. -/
def handled : State := lab.updC fun c => { c with tvec := 0x30000 }
def inHandler : State := handled.updC fun c => { c with inh := true }
def imaged : State := (inHandler.updC fun c => { c with qimg := true }).updT fun t => { t with image := [fadd5], rpc := 0x20004 }
def running5 : State := handled.updT fun t => { t with xctx := some { entry := fadd5, lane := none }, vq := [fadd5] }

theorem witness_TrapEntry :
    (handlerClass 0x0F = true ∧ handled.t.xctx.bind XCtx.lane = none ∧ handled.t.ctl.tvec ≠ 0 ∧ handled.t.ctl.inh = false ∧ handled.t.xctx = none) ∧
    (running5.t.xctx.bind XCtx.lane = none ∧ running5.t.xctx = some { entry := fadd5, lane := none } ∧ decodedPast running5 fadd5 = true) ∧
    (handlerClass 1 = true ∧ lab.t.ctl.tvec = 0) ∧ inHandler.t.ctl.inh = true := by decide

theorem witness_TrapReturnNopAndBreakpoint :
    (xBusy waits5 = true) ∧ (xBusy inHandler = false ∧ inHandler.t.ctl.inh = true ∧ (drainMatrix inHandler).t.ctl.qimg = false) ∧
    (xBusy imaged = false ∧ (drainMatrix imaged).t.ctl.qimg = true) ∧ (xBusy lab = false ∧ lab.t.ctl.inh = false) ∧
    (xBusy handled = false ∧ (advance (drainMatrix handled)).t.xctx = none ∧ (advance (drainMatrix handled)).t.ctl.tvec ≠ 0 ∧
      (advance (drainMatrix handled)).t.ctl.inh = false) :=
  ⟨rfl, ⟨rfl, rfl, rfl⟩, ⟨rfl, rfl⟩, ⟨rfl, rfl⟩, rfl, rfl, by decide, rfl⟩

def inReplay : State := lab.updC fun c => { c with seqt := true }
def noTrips : State := inLine.updT fun t => { t with seq := { t.seq with counts := Vector.replicate 6 0 } }
def bound5 : State := inLine.updT fun t => { t with seq := { t.seq with binds := t.seq.binds.set 0 (some 5) } }

theorem witness_SequencerConfigurationAndRun :
    (settledFor [7] inReplay ∧ inReplay.t.ctl.seqt = true ∧ Instr.seqhalt { fd := 0, fa := 0, fb := 0, fc := 0, ty := 0, sc := 0 } ∈
      [Instr.seqhalt { fd := 0, fa := 0, fb := 0, fc := 0, ty := 0, sc := 0 }]) ∧
    (lab.t.ctl.seqt = false ∧ 2 ^ 32 ≤ (getS (regs [(7, 0x100000000)] lab) 7).toNat ∧ (getS (regs [(7, 0xFFFFFFFF)] lab) 7).toNat < 2 ^ 32 ∧
      (5 : BitVec 5).toNat < 6 ∧ (7 : BitVec 5).toNat < 8) ∧
    ((∀ r ∈ inLine.t.seq.binds.toList.filterMap id, r ∉ pendingDests inLine) ∧ inLine.t.ctl.seqt = false ∧
      ∃ p ps e s1, (let pc := pcAfter inLine
        collectBody (2 ^ 60) (0 + 1) 0 pc (if pc &&& ~~~(63 : Word) = inLine.t.pc &&& ~~~(63 : Word) then inLine.t.line.map Prod.snd else none) true [] inLine
          = .ok (p :: ps) e s1) ∧ (1 ≤ 6 ∧ ∀ k < 1, s1.t.seq.counts.getD k 1 ≠ 0) ∧ s1.t.xctx = none) ∧
    (∃ p ps e s1, (let pc := pcAfter noTrips
        collectBody (2 ^ 60) (0 + 1) 0 pc (if pc &&& ~~~(63 : Word) = noTrips.t.pc &&& ~~~(63 : Word) then noTrips.t.line.map Prod.snd else none) true [] noTrips
          = .ok (p :: ps) e s1) ∧ ∃ k < 6, k < 6 ∧ s1.t.seq.counts.getD k 1 = 0) ∧
    (∃ p ps e s1, (let pc := pcAfter bound5
        collectBody (2 ^ 60) (0 + 1) 0 pc (if pc &&& ~~~(63 : Word) = bound5.t.pc &&& ~~~(63 : Word) then bound5.t.line.map Prod.snd else none) true [] bound5
          = .ok (p :: ps) e s1) ∧ s1.t.seq.binds.getD 0 none = some (5 : BitVec 5)) :=
  ⟨⟨settled _ _ rfl, rfl, by decide⟩, by decide, ⟨by decide, rfl, _, _, _, _, rfl, by decide, rfl⟩, ⟨_, _, _, _, rfl, 5, by decide, by decide, rfl⟩,
    _, _, _, _, rfl, rfl⟩

def node (i : Nat) (st : NodeState) : Node :=
  { index := i, desc := List.replicate 8 0, die := 0, left := 0, crossLeft := 0, state := st, folios := [], succs := [] }
def launch1 : Launch where
  num := 1
  part := 0
  edge := 0x20100
  cq := 0x20000
  args := 0
  cqPkg := 0
  nodes := [node 0 .running, node 1 .waiting]
  spawnedLeft := 0
  reserved := 0
  failed := none
  finished := false
  waiting := []
def launched : State := { lab with launches := [launch1], t := { someone with launch := 1, node := 0 } }
def joined : State := { launched with t := { launched.t with arrived := some .die, barCount := launched.t.barCount.set 3 1 } }
def alone : State := lab.updT fun t => { t with arrived := some .pod, spawned := true }

theorem witness_PhasesFencesAndBarriers :
    (xBusy stored = false ∧ stored.t.xctx = none ∧ 4 ≤ Scope.pkg.code ∧ (drainMatrix stored).narrow = [] ∧ (drainMatrix stored).home.wf = true ∧
      ((drainMatrix stored).t.own.map OwnWrite.key).Nodup ∧
      (∀ w ∈ (drainMatrix stored).t.own, w.seq = 0 ∧ w.scope = 0 ∧ (drainMatrix stored).homeSeq.get w.key ≤ (drainMatrix stored).pubs) ∧
      (drainMatrix stored).t.own ≠ []) ∧
    (xBusy lab = false ∧ lab.t.arrived ≠ some .core ∧ barrierDone ((drainMatrix lab).updT fun t =>
      { t with arrived := some .core, barCount := t.barCount.setIfInBounds 1 (t.barCount.getD 1 0 + 1) }) .core = true) ∧
    (launched.t.arrived ≠ some .die ∧ barrierDone ((drainMatrix launched).updT fun t =>
      { t with arrived := some .die, barCount := t.barCount.setIfInBounds 3 (t.barCount.getD 3 0 + 1) }) .die = false) ∧
    (xBusy alone = false ∧ alone.t.arrived = some .pod ∧ barrierDone alone .pod = true ∧ alone.t.spawned = true) ∧
    (joined.t.arrived = some .die ∧ barrierDone joined .die = false) := by decide

/-- The core may fetch from the page at 0x20000, whose first line is of two nops and lend, the third has no room for the tails of seven limm, the others are of lend. -/
def code : State :=
  { lab with
    tlbs := [{ place := 0, entries := [{ page 0x20000 with x := true }] }]
    home := [(0x20001, 1), (0x20003, 1), (0x20081, 0xC9), (0x20083, 0xC9), (0x20085, 0xC9), (0x20087, 0xC9),
      (0x20089, 0xC9), (0x2008B, 0xC9), (0x2008D, 0xC9)]
    t := { someone with pc := 0x20000 } }
def codeAt (pc : Word) (l : Option (Word × Line)) : State := code.updT fun t => { t with pc := pc, line := l }

theorem witness_LineEntryChecks :
    (entered code = false ∧ xBusy code = false ∧ code.t.xctx = none ∧ (codeAt 0x20001 none).t.pc.getLsbD 0 = true) ∧
    (∃ l s1 hs, fetchLine (codeAt 0x20006 none) 0x20000 = .ok l s1 ∧ lineHeads l = .ok hs ∧ hs.length = 2 ∧ hs.length ≤ 3) ∧
    (∃ l s1 hs, fetchLine (codeAt 0x20002 none) 0x20000 = .ok l s1 ∧ lineHeads l = .ok hs ∧ 1 < hs.length) ∧
    (∃ l s1 k, fetchLine (codeAt 0x20080 none) 0x20080 = .ok l s1 ∧ lineHeads l = .error k) ∧
    (∃ l s1, fetchLine (codeAt 0x20040 (some (0x20000, shortLine))) 0x20040 = .ok l s1 ∧ lineHeads l = .ok [] ∧
      sequential (codeAt 0x20040 (some (0x20000, shortLine))) = true ∧ entered (codeAt 0x20040 (some (0x20000, shortLine))) = false) ∧
    sequential (codeAt 0x20040 none) = false :=
  ⟨⟨rfl, rfl, rfl, rfl⟩, ⟨_, _, _, rfl, rfl, by decide, by decide⟩, ⟨_, _, _, rfl, rfl, by decide⟩, ⟨_, _, _, rfl, rfl⟩, ⟨_, _, rfl, rfl, rfl, rfl⟩, rfl⟩

theorem witness_ScalarFloatResults : runsNow .ignore lab ∧ ((0x0D : BitVec 5) = 0x0C ∨ (0x0D : BitVec 5) = 0x0D) ∧
    ((0x07 : BitVec 5).toNat ≤ 7 ∧ 8 ≤ (0x0D : BitVec 5).toNat ∧ (0x0D : BitVec 5).toNat ≤ 0x0D) :=
  ⟨idle_now _ _ rfl rfl rfl rfl, .inr rfl, by decide⟩

theorem witness_RoundingCorrect : fmtE4 ∈ [fmt64, fmt32, fmt16, fmtB16, fmtE5, fmtE4] ∧ 3 < 4 ∧ (fmt32.round 3 false true 1 (-200)).2 &&& flOF = 0 ∧
    ∃ n m e, fmt32.value 1 = .fin n m e := ⟨by simp, by decide, by decide, _, _, _, rfl⟩

/-- 2^24 + 1 lies midway between two fp32 numbers. -/
theorem witness_RoundingCorrect_tie : (fmt32.round 0 false false (2 ^ 24 + 1) 0).2 &&& flOF = 0 ∧
    (fmt32.value 0x4B800001).rat ≠ (fmt32.value (fmt32.round 0 false false (2 ^ 24 + 1) 0).1).rat ∧
    |(fmt32.value 0x4B800001).rat - (FVal.fin false (2 ^ 24 + 1) 0).rat| =
      |(fmt32.value (fmt32.round 0 false false (2 ^ 24 + 1) 0).1).rat - (FVal.fin false (2 ^ 24 + 1) 0).rat| := by decide +kernel

theorem witness_RoundingExactAndSpecialValues :
    (fmt64 ∈ [fmt64, fmt32, fmt16, fmtB16, fmtE5, fmtE4] ∧ 1 < 2 ^ (1 + fmt64.ebits + fmt64.fbits) ∧
      fmt64.value 1 = .fin false 1 (-1074)) ∧ (FVal.nan true).isNan = true ∧ (1 : Nat) ≠ 0 := ⟨⟨by simp, by decide, rfl⟩, rfl, by decide⟩

def based : State := regs [(4, 0x20000), (3, 0x1122334455667788)] stored
def fullQueue : State := based.updT fun t => { t with dq := t.dq.set 1 (List.replicate 8 0) }

theorem witness_ScalarLoadResults : settledFor [4] based ∧
    (∀ n ∈ [1, 2, 4, 8], conflicts (settleMatrix based) 0x2FFF8 n false = false) ∧
    (∃ k s2, keyOf (settleMatrix based) .load 0x2FFF8 8 0 = .ok k s2 ∧ poisoned s2 k 8 = false) ∧
    (∃ k s2, keyOf (settleMatrix based) .load 0x2FFFF 1 0 = .ok k s2 ∧ poisoned s2 k 1 = false) ∧
    (based.t.dq.getD 1 []).length < 8 ∧ 8 ≤ (fullQueue.t.dq.getD 1 []).length :=
  ⟨settled _ _ rfl, by decide, ⟨_, _, rfl, rfl⟩, ⟨_, _, rfl, rfl⟩, by decide, by decide⟩

theorem witness_ScalarStoreResults : settledFor [4, 3] based ∧ conflicts (settleMatrix based) 0x2FFF8 8 true = false ∧
    ∃ k s2, keyOf (settleMatrix based) .store 0x2FFF8 8 0 = .ok k s2 := ⟨settled _ _ rfl, rfl, _, _, rfl⟩

theorem witness_ScalarAccessFaults : settledFor [4, 3] based ∧ conflicts (settleMatrix based) 0x20001 2 false = false ∧
    canonical 0x0100000000000000 = false ∧ (canonical 0x20001 = true ∧ (0x20001#64).toNat % 2 ≠ 0) ∧
    (canonical 0x90000 = true ∧ (0x90000#64).toNat % 8 = 0 ∧ ∃ c s2, translate based (me based) .store 0x90000 = .fault c s2) :=
  ⟨settled _ _ rfl, rfl, rfl, by decide, rfl, rfl, _, _, rfl⟩

/-- The region from 0x30000 on is guarded; the root table points outside the package at index 511. -/
def guardedLab : State := { lab with parts := [{ ours with guards := [{ pkg := 0, base := 0x30000, size := 16, owner := 1, handle := 0 }] }] }
def farTable : State := { lab with parts := [{ ours with roots := [(0, 2 ^ 44)] }] }
def readOnly : State := { lab with tlbs := [{ place := 0, entries := [{ page 0x20000 with w := false }] }] }

theorem witness_TranslationRules : (me lab).core = some 0 ∧ canonical 0x0100000000000000 = false ∧
    guarded guardedLab 0 0 0x3000F = true ∧ guarded guardedLab 0 0 0x30010 = false ∧
    (canonical 0x2FFFF = true ∧ guarded lab 0 0 0x2FFFF = false ∧
      ∃ e, ((tlbEntries lab 0).find? fun e => e.hits 0 0 0x2FFFF) = some e ∧ e.allows .store = true ∧ e.dirty = true) ∧
    (∃ e, ((tlbEntries readOnly 0).find? fun e => e.hits 0 0 0x2FFFF) = some e ∧ e.allows .store = false) ∧
    (((tlbEntries lab 0).find? fun e => e.hits 0 0 0x90000) = none ∧ ((tlbEntries lab (dieTlb 0)).find? fun e => e.hits 0 0 0x90000) = none ∧
      walk lab 0 0 0x90000 = .pageFault) ∧
    walk farTable 0 0 0x90000 = .protection :=
  ⟨rfl, rfl, rfl, rfl, ⟨rfl, rfl, _, rfl, rfl, rfl⟩, ⟨_, rfl, rfl⟩, ⟨rfl, rfl, rfl⟩, rfl⟩

/-- A ready folio entry on core 0 in space 1, bound to handle 0 by the thread. -/
def folio0 : FolioEntry where
  core := 0
  index := 3
  space := 1
  basek := 2
  sizek := 1
  src := 0x20000
  state := .ready
  owners := [1]
  launch := 0
  keep := false
  drain := false
  clean := true
  view := none
  data := none
  bad := none
  scope := 0
  pages := []
  part := 0
def folioed (e : FolioEntry) : State := { lab with folios := [e], t := { someone with handles := [some 3, none] } }

theorem witness_AtomicResults :
    (settledFor [2, 3, 4] (regs [(2, 0x20000)] stored) ∧ (3 : BitVec 5) ∈ [2#5, 3, 6, 7] ∧ 2 ≤ (2 : BitVec 3).toNat ∧
      conflicts (settleMatrix stored) 0x2FFF8 8 true = false ∧
      ∃ k s2, keyOf (settleMatrix stored) .store 0x2FFF8 8 0 = .ok k s2 ∧ pointPoisoned s2 (2 : BitVec 3).toNat k 8 = false) ∧
    ((1020#64).toNat < 2 ^ 26 ∧ nameFolio (folioed folio0) ((1020#64).toNat / 2 ^ 22 % 16) = .ready folio0 ∧ folio0.space ≠ 0 ∧
      (1020#64).toNat % 2 ^ 22 + 4 ≤ folio0.size ∧ (1020#64).toNat % 2 ^ 22 % 4 = 0 ∧ folioQueued (folioed folio0) ((1020#64).toNat / 2 ^ 22 % 16) = false) ∧
    (2 ^ 26 ≤ (0x4000000#64).toNat) ∧ (canonical 0x20002 = true ∧ (0x20002#64).toNat % 4 ≠ 0) ∧
    (1 ≤ 5 ∧ stored.home.wf = true ∧ (∀ x ∈ stored.narrow, x.seq ≤ stored.pubs) ∧ ∀ w ∈ stored.t.own, w.seq ≤ stored.pubs) :=
  ⟨⟨settled _ _ rfl, by decide, by decide, rfl, _, _, rfl, rfl⟩, ⟨by decide, rfl, by decide, by decide, by decide, rfl⟩, by decide, by decide, by decide⟩

theorem witness_AtomicResults_places : ∀ k, stored.homeSeq.get k ≤ stored.pubs := fun _ => Nat.le_refl 0

theorem witness_IntegerDelivery : 0 < 1 ∧ 3 ≤ 3 ∧ 3 < 4 := by decide

/-- vtype n8 at GRP 1 with the largest vl, a value in dq0; and the same as the lane thread of EG 1 sees it. -/
def full : State := vectors 4 1024 (lab.updT fun t => { t with dq := t.dq.set 0 [9] })
def laneAt (g : Nat) (s : State) : State :=
  s.updT fun t => { t with
    xctx := some { entry := fadd5, lane := some g }
    lanes := some { lanes := [{ g := g, pc := 0x20000, line := shortLine, status := .running, geom := 0, since := 0, issued := false }], sregs := t.s, env := t.ctl.env,
                    binds := t.binds, read := [] } }
def lane1 : State := laneAt 1 full

theorem now_in_lane (k : StartRule) (s : State) (g : Nat) (hx : s.t.xctx = some { entry := fadd5, lane := some g }) : runsNow k s := by
  refine ⟨.inl (by simp [hx]), .inr (.inr (by simp [laneOf, hx])), fun _ => ?_⟩
  simp [startElem, hx]

theorem witness_VectorIntegerResults :
    (runsNow .elements full ∧ lengthOk full (vtGrp full) 8 = true ∧ 2 % vtGrp full = 0 ∧ full.t.ctl.vl ≤ vtGrp full * 8192 / 8) ∧
    (∀ src ∈ [Src2.vec 3 false, .scal 7, .imm 5, .queue false], ∃ p sp b, popAt src full = some (p, sp) ∧
      sourcesAt (regsOf 2 1 ++ srcRegs src 1) (regsOf 1 1) none sp sp ∧ secondSource src p 4 (vtGrp full) sp = some b ∧ plainDest (regsOf 1 1) sp) ∧
    (runsNow .elements lane1 ∧ lengthOk lane1 (vtGrp lane1) 8 = true ∧ sourcesAt (regsOf 2 1) (regsOf 1 1) none lane1 lane1 ∧
      plainDest (regsOf 1 1) lane1) := by
  refine ⟨⟨idle_now _ _ rfl rfl rfl rfl, rfl, rfl, by decide⟩, ?_, now_in_lane _ _ 1 rfl, rfl, no_binds_sources _ _ _ _ rfl rfl, no_binds_plain _ _ rfl⟩
  intro src hs
  simp only [List.mem_cons, List.not_mem_nil, or_false] at hs
  rcases hs with rfl | rfl | rfl | rfl <;> exact ⟨_, _, _, rfl, no_binds_sources _ _ _ _ rfl rfl, rfl, no_binds_plain _ _ rfl⟩

/-- s16 at GRP 4 with the largest vl: a widening result fills eight registers, a narrowing one two. -/
def quads4 : State := vectors 0x801 2048 lab

theorem witness_VectorWidthChangingResults : vtGrp quads4 ≠ 8 ∧ runsNow .elements quads4 ∧ lengthOk quads4 (vtGrp quads4) 16 = true ∧
    4 % vtGrp quads4 = 0 ∧ 8 % (2 * vtGrp quads4) = 0 ∧ 2 % (max 1 (vtGrp quads4 / 2)) = 0 ∧ quads4.t.ctl.vl ≤ 2 * vtGrp quads4 * 8192 / (2 * 16) ∧
    quads4.t.ctl.vl ≤ max 1 (vtGrp quads4 / 2) * 8192 / (16 / 2) ∧ sourcesAt (regsOf 4 4 ++ regsOf 12 4) (regsOf 8 8) none quads4 quads4 ∧
    (∃ p b, popAt (.vec 12 false) quads4 = some (p, quads4) ∧ secondSource (.vec 12 false) p 1 4 quads4 = some b) ∧ plainDest (regsOf 8 8) quads4 :=
  ⟨by decide, idle_now _ _ rfl rfl rfl rfl, rfl, by decide, by decide, by decide, by decide, by decide, no_binds_sources _ _ _ _ rfl rfl, ⟨_, _, rfl, rfl⟩,
    no_binds_plain _ _ rfl⟩

/-- fp32 at GRP 1 with two elements. -/
def singles : State := vectors 0x0C 2 lab

theorem witness_VectorFloatResults : runsNow .elements singles ∧ lengthOk singles (vtGrp singles) 32 = true ∧ singles.t.ctl.vl ≤ vtGrp singles * 8192 / 32 ∧
    sourcesAt (regsOf 2 1 ++ regsOf 3 1) (regsOf 1 1) none singles singles ∧ (∃ p b, popAt (.vec 3 true) singles = some (p, singles) ∧ secondSource (.vec 3 true) p 0x0C 1 singles = some b) ∧
    plainDest (regsOf 1 1) singles :=
  ⟨idle_now _ _ rfl rfl rfl rfl, rfl, by decide, no_binds_sources _ _ _ _ rfl rfl, ⟨_, _, rfl, rfl⟩, no_binds_plain _ _ rfl⟩

theorem witness_VectorCompareAndMaskResults :
    (runsNow .elements full ∧ lengthOk full (vtGrp full) 8 = true ∧ 1 ≤ (7 : BitVec 5).toNat ∧ (7 : BitVec 5).toNat < 8 ∧
      sourcesAt (regsOf 2 1 ++ regsOf 3 1) [] (some 7) full full ∧ ∃ p b, popAt (.vec 3 false) full = some (p, full) ∧ secondSource (.vec 3 false) p 4 1 full = some b ∧
        ∀ bd ∈ full.t.binds, bd.live ≠ 7) ∧
    sourcesAt [] [] (some 1) full full ∧ (runsNow .whole full ∧ sourcesAt [] [9] none full full ∧ plainDest [9] full) :=
  ⟨⟨idle_now _ _ rfl rfl rfl rfl, rfl, by decide, by decide, no_binds_sources _ _ _ _ rfl rfl, _, _, rfl, rfl, by decide⟩,
    no_binds_sources _ _ _ _ rfl rfl, idle_now _ _ rfl rfl rfl rfl, no_binds_sources _ _ _ _ rfl rfl, no_binds_plain _ _ rfl⟩

theorem witness_VectorPermutationResults : runsNow .whole full ∧ runsNow .elements full ∧ lengthOk full (vtGrp full) 8 = true ∧
    sourcesAt (regsOf 2 1 ++ regsOf 3 1) (regsOf 1 1) none full full ∧
    ∀ src ∈ [Src2.vec 3 false, .queue false], ∃ p sp b, popAt src full = some (p, sp) ∧
      sourcesAt (regsOf 2 1 ++ srcRegs src 1) (regsOf 1 1) none sp sp ∧ secondSource src p 4 1 sp = some b ∧ sp.t.ctl.vtype = full.t.ctl.vtype ∧
      plainDest (regsOf 1 1) sp := by
  refine ⟨idle_now _ _ rfl rfl rfl rfl, idle_now _ _ rfl rfl rfl rfl, rfl, no_binds_sources _ _ _ _ rfl rfl, ?_⟩
  intro src hs
  simp only [List.mem_cons, List.not_mem_nil, or_false] at hs
  rcases hs with rfl | rfl <;> exact ⟨_, _, _, rfl, no_binds_sources _ _ _ _ rfl rfl, rfl, rfl, no_binds_plain _ _ rfl⟩

theorem witness_TreeOfAnAssociativeOperation : (∀ x y z : Nat, x + y + z = x + (y + z)) ∧ ([some 1, none, some 2] : List (Option Nat)).length ≤ 2 ^ 24 ∧
    3 ≤ ([some 1, none, some 2] : List (Option Nat)).length ∧ 3 ≤ 8192 := ⟨Nat.add_assoc, by decide, by decide, by decide⟩

theorem witness_VectorReductionResults : runsNow .whole singles ∧ lengthOk singles (vtGrp singles) 32 = true ∧
    sourcesAt (regsOf 2 1 ++ regsOf 3 1) (regsOf 1 1) none singles singles ∧
    (∃ p b, popAt (.vec 3 false) singles = some (p, singles) ∧ secondSource (.vec 3 false) p 0x0C 1 singles = some b ∧ plainDest (regsOf 1 1) singles) ∧
    (∃ p b, popAt (.scal 7) singles = some (p, singles) ∧ secondSource (.scal 7) p 0x0C 1 singles = some b) ∧ 3 % vtGrp singles = 0 :=
  ⟨idle_now _ _ rfl rfl rfl rfl, rfl, no_binds_sources _ _ _ _ rfl rfl, ⟨_, _, rfl, rfl, no_binds_plain _ _ rfl⟩, ⟨_, _, rfl, rfl⟩, by decide⟩

theorem witness_VectorConversionResults :
    (vtGrp quads4 * typeWidth 0x0C / typeWidth 1 ≤ 8 ∧ runsNow .elements quads4 ∧ lengthOk quads4 (vtGrp quads4) (typeWidth 1) = true ∧
      8 % max 1 (vtGrp quads4 * typeWidth 0x0C / typeWidth 1) = 0 ∧
      quads4.t.ctl.vl ≤ max 1 (vtGrp quads4 * typeWidth 0x0C / typeWidth 1) * 8192 / typeWidth 0x0C ∧
      sourcesAt (regsOf 4 4) (regsOf 8 8) none quads4 quads4 ∧ plainDest (regsOf 8 8) quads4) ∧
    (isFp (vtType singles) = true ∧ scaleFits singles 15 = true ∧ runsNow .whole singles ∧ lengthOk singles (max 1 (vtGrp singles * 8 / 32)) 8 = true ∧
      singles.t.ctl.vl ≤ vtGrp singles * 8192 / 32 ∧ sourcesAt (regsOf 2 1) (regsOf 1 1) none singles singles ∧ plainDest (regsOf 1 1) singles) ∧
    (2 ≤ 2 ∧ 8 ≤ 8) ∧ (∃ x ∈ [FVal.inf true], x.isNan = true ∨ ∃ n, x = .inf n) ∧ (∀ x ∈ [FVal.fin true 0 0], ∃ n e, x = .fin n 0 e) ∧
    ∀ x ∈ [FVal.fin true 3 1], ∃ n k e, x = .fin n k e :=
  ⟨⟨by decide, idle_now _ _ rfl rfl rfl rfl, rfl, by decide, by decide, no_binds_sources _ _ _ _ rfl rfl, no_binds_plain _ _ rfl⟩,
    ⟨rfl, rfl, idle_now _ _ rfl rfl rfl rfl, rfl, by decide, no_binds_sources _ _ _ _ rfl rfl, no_binds_plain _ _ rfl⟩, by decide,
    ⟨_, List.mem_singleton.2 rfl, .inr ⟨_, rfl⟩⟩, by simp, by simp⟩

/-- v1 bound to a load stream of eight n8 elements at 0x20400 in chunks of 4, none landed yet, with live mask m5; v8 bound to a store
stream. -/
def desc1 (ty : Nat) : List Word := [BitVec.ofNat 64 (ty + 0x100), 0x20400, 0x20400, 0x20440, 0, 8, 0, 0, 0, 0, 1, 0, 0, 0, 0, 0]
def loadBound : Binding :=
  { vd := 1, store := false, ety := 4, desc := desc1 4, c := 4, q := 0, live := 5, filled := false, landed := 0, bad := none,
    geom := 0, retags := [] }
def boundLab : State := (vectors 4 4 lab).updT fun t => { t with binds := [loadBound] }

theorem witness_VectorLengthTypeAndIllegal : runsNow .ignore lab ∧ typeValid (lab.t.ctl.vtype.toNat % 32) = true ∧
    typeValid ((vectors 0x0F 0 lab).t.ctl.vtype.toNat % 32) = false ∧
    (typeValid (0x16 : BitVec 5).toNat = true ∧ (3 : BitVec 5).toNat < 4 ∧ (15 : BitVec 5).toNat < 16) ∧
    (runsNow .whole full ∧ lengthOk (vectors 4 1025 lab) 1 8 = false) ∧ 2 % vtGrp quads4 ≠ 0 ∧
    (∃ b ∈ boundLab.t.binds, (b.store = false ∨ (laneOf boundLab).isSome = true) ∧ ∃ j < b.regs, b.vd + j ∈ regsOf 1 (vtGrp boundLab)) ∧
    (∃ p sp, popAt (.queue false) full = some (p, sp)) :=
  ⟨idle_now _ _ rfl rfl rfl rfl, rfl, rfl, by decide, ⟨idle_now _ _ rfl rfl rfl rfl, rfl⟩, by decide,
    ⟨_, List.mem_singleton.2 rfl, .inl rfl, 0, by decide, by decide⟩, _, _, rfl⟩

/-- Two n8 elements at the top of the mapped page at s8, and the state after the store of each. -/
def pair : State := regs [(8, 0x3FFFE), (7, 1)] (vectors 4 2 stored)

theorem always_same (s : State) (x : Nat → Nat) (load : State → Nat → Got Nat) (act : Nat → Bool) (hi : Nat) (ha : ∀ i < hi, act i = true)
    (h : ∀ i < hi, load s i = .ok (x i) s) : loadsTo load act (fun _ => s) x 0 hi := by
  intro i _ hlt
  simp [ha i hlt, h i hlt]

theorem witness_VectorLoadResults :
    let at_ := fun (addr : Nat → Word) (x : State) e => loadOne 4 (addr e) x e
    (runsNow .elements pair ∧ (settleMatrix pair).t.ctl.vl ≤ vtGrp (settleMatrix pair) * 8192 / 8 ∧ 9 % vtGrp (settleMatrix pair) = 0 ∧
      sourcesAt [] (regsOf 9 1) none (settleMatrix pair) pair ∧ plainDest (regsOf 9 1) pair ∧
      loadsTo (at_ fun e => getS pair 8 + BitVec.ofNat 64 (e * (8 / 8))) (maskOn pair 0) (fun _ => pair) (fun _ => 0) 0 2 ∧
      loadsTo (at_ fun e => getS pair 8 + BitVec.ofInt 64 (e * (getS pair 7).toInt)) (maskOn pair 0) (fun _ => pair) (fun _ => 0) 0 2) ∧
    (vtGrp (settleMatrix pair) = 1 ∧ sourcesAt (regsOf 6 1) (regsOf 9 1) none (settleMatrix pair) pair ∧
      loadsTo (at_ fun e => getS pair 8 + BitVec.ofNat 64 (element pair 6 (vtGrp pair) 8 e % 2 ^ 64)) (maskOn pair 0) (fun _ => pair) (fun _ => 0) 0 2) ∧
    (nameFolio (folioed folio0) 0 = .ready folio0 ∧ folio0.space ≠ 0 ∧ (4 : BitVec 5) ≠ 0x0E ∧ (folioed folio0).poison = [] ∧
      ∀ e : Nat, e < 2 → 0 ≤ (1022 : Int) + e ∧ (1022 : Int) + e + 1 ≤ folio0.size ∧ ((1022 : Int) + e) % 1 = 0) := by
  refine ⟨⟨idle_now _ _ rfl rfl rfl rfl, by decide, by decide, no_binds_sources _ _ _ _ rfl rfl, no_binds_plain _ _ rfl, ?_, ?_⟩,
    ⟨by decide, no_binds_sources _ _ _ _ rfl rfl, ?_⟩, rfl, by decide, by decide, rfl, by decide⟩
  all_goals
    refine always_same _ _ _ _ _ (fun _ _ => rfl) fun i h => ?_
    interval_cases i <;> rfl

/-- The states before each of the two stores of v2's elements, and after them. -/
def vs2 : State := setV pair 2 0x0201
def storeSteps (i : Nat) : State :=
  match i with
  | 0 => vs2
  | 1 => vs2.updT fun t => t.storeBytes 0x3FFFE 0x3FFFE (natLe 1 1)
  | _ => (vs2.updT fun t => t.storeBytes 0x3FFFE 0x3FFFE (natLe 1 1)).updT fun t => t.storeBytes 0x3FFFF 0x3FFFF (natLe 1 2)

def folioVec : State := vectors 4 2 { folioed folio0 with t := { (folioed folio0).t with v := (folioed folio0).t.v.set 2 0x0201 } }

theorem witness_VectorStoreResults :
    (runsNow .elements vs2 ∧ (settleMatrix vs2).t.ctl.vl ≤ vtGrp (settleMatrix vs2) * 8192 / 8 ∧ sourcesAt (regsOf 2 1) [] none (settleMatrix vs2) vs2 ∧
      storeSteps 0 = vs2 ∧ storesTo (8 / 8) (fun e => (getS vs2 8 + BitVec.ofNat 64 (e * (8 / 8))).toNat) (element vs2 2 1 8) (maskOn vs2 0) storeSteps
        (fun e => 0x3FFFE + e) 0 2) ∧
    (vtGrp (settleMatrix vs2) = 1 ∧ sourcesAt (regsOf 2 1 ++ regsOf 6 1) [] none (settleMatrix vs2) vs2) ∧
    (nameFolio (settleMatrix folioVec) 0 = .ready folio0 ∧ folio0.space = 1 ∧ runsNow .elements folioVec ∧
      (∀ e : Nat, e < 2 → 0 ≤ (1022 : Int) + e ∧ (1022 : Int) + e + 1 ≤ folio0.size ∧ ((1022 : Int) + e) % 1 = 0) ∧
      sourcesAt (regsOf 2 1) [] none (settleMatrix folioVec) folioVec) := by
  refine ⟨⟨idle_now _ _ rfl rfl rfl rfl, by decide, no_binds_sources _ _ _ _ rfl rfl, rfl, ?_⟩, ⟨by decide, no_binds_sources _ _ _ _ rfl rfl⟩,
    rfl, rfl, idle_now _ _ rfl rfl rfl rfl, by decide, no_binds_sources _ _ _ _ rfl rfl⟩
  intro i _ h
  interval_cases i
  · exact ⟨vs2, rfl, rfl⟩
  · exact ⟨_, rfl, rfl⟩

/-- Two n8 elements of which the second lies on the page behind the mapped ones; no table maps it. -/
def cliff : State := regs [(8, 0x3FFFF)] (setV { vectors 4 2 lab with parts := [{ ours with roots := [] }] } 2 0x0201)
def cliffStored (i : Nat) : State := match i with
  | 0 => cliff
  | _ => cliff.updT fun t => t.storeBytes 0x3FFFF 0x3FFFF (natLe 1 1)

theorem witness_VectorMemoryFault :
    (runsNow .elements cliff ∧ laneOf cliff = none ∧ (settleMatrix cliff).t.ctl.vl ≤ vtGrp (settleMatrix cliff) * 8192 / 8 ∧
      0 ≤ 1 ∧ 1 < cliff.t.ctl.vl ∧ maskOn cliff 0 1 = true ∧ startElem cliff = 0) ∧
    (sourcesAt [] (regsOf 9 1) none (settleMatrix cliff) cliff ∧
      loadsTo (fun y e => loadOne 4 (getS cliff 8 + BitVec.ofNat 64 (e * 1)) y e) (maskOn cliff 0) (fun _ => cliff) (fun _ => 0) 0 1 ∧
      ∃ tr s2, loadOne 4 (getS cliff 8 + BitVec.ofNat 64 (1 * 1)) cliff 1 = .bad tr s2 ∧ tr.cls ≠ 1 ∧ tr.telem = 1 ∧ s2.t.ctl.inh = false ∧ laneOf s2 = none) ∧
    (sourcesAt (regsOf 2 1) [] none (settleMatrix cliff) cliff ∧
      storesTo 1 (fun e => (getS cliff 8 + BitVec.ofNat 64 (e * 1)).toNat) (element cliff 2 1 8) (maskOn cliff 0) cliffStored (fun _ => 0x3FFFF) 0 1 ∧
      ∃ tr s2, storeOne 4 (getS cliff 8 + BitVec.ofNat 64 (1 * 1)) (cliffStored 1) 1 (element cliff 2 1 8 1) = .bad tr s2 ∧ tr.cls ≠ 1 ∧ tr.telem = 1 ∧
        s2.t.ctl.inh = false ∧ laneOf s2 = none) := by
  refine ⟨⟨idle_now _ _ rfl rfl rfl rfl, rfl, by decide, by decide, by decide, rfl, rfl⟩,
    ⟨no_binds_sources _ _ _ _ rfl rfl, ?_, _, _, rfl, by decide, rfl, rfl, rfl⟩, no_binds_sources _ _ _ _ rfl rfl, ?_, _, _, rfl, by decide, rfl, rfl, rfl⟩
  · refine always_same _ _ _ _ _ (fun _ _ => rfl) fun i h => ?_
    interval_cases i
    rfl
  · intro i _ h
    interval_cases i
    exact ⟨cliff, rfl, rfl⟩

/-- One n16 element of two bytes, from an odd address across the two pages. -/
def odd : State := regs [(8, 0x2FFFF)] (setV (vectors 5 1 lab) 2 0x0201)

theorem witness_VectorByteResults :
    (runsNow .elements odd ∧ (settleMatrix odd).t.ctl.vl ≤ vtGrp (settleMatrix odd) * 8192 / 16 ∧ startElem odd * 2 = 0) ∧
    (sourcesAt [] (regsOf 9 1) none (settleMatrix odd) odd ∧ plainDest (regsOf 9 1) odd ∧
      loadsTo (fun y j => loadAt y (getS odd 8 + BitVec.ofNat 64 j) 1 1 (j / 2)) (maskOn odd 0) (fun _ => odd) (fun _ => 0) 0 2) ∧
    (sourcesAt (regsOf 2 1) [] none (settleMatrix odd) odd ∧
      (∀ j, 0 ≤ j → j < 2 → keyOf odd .store (getS odd 8 + BitVec.ofNat 64 j) 1 (j / 2) = .ok (0x2FFFF + j) odd) ∧
      ∀ i j, 0 ≤ i → i < j → j < 2 → 0x2FFFF + i ≠ 0x2FFFF + j) := by
  refine ⟨⟨idle_now _ _ rfl rfl rfl rfl, by decide, by decide⟩, ⟨no_binds_sources _ _ _ _ rfl rfl, no_binds_plain _ _ rfl, ?_⟩,
    no_binds_sources _ _ _ _ rfl rfl, ?_, by omega⟩
  · refine always_same _ _ _ _ _ (fun _ _ => rfl) fun i h => ?_
    interval_cases i <;> rfl
  · intro j _ h
    interval_cases j <;> rfl

/-- bfp2 with 255 elements of which the mask m5 enables the last; then position 255 is the one behind vl. -/
def planes : State := setM (setV (regs [(8, 0x20000)] (vectors 0x10 255 lab)) 2 (BitVec.allOnes 8192)) 5 (BitVec.ofNat 8192 (2 ^ 254))
def planeStep (s : State) (e v : Nat) : State :=
  match storePlanes 0x20000 2 s e v with
  | .ok _ t | .bad _ t => t

theorem mask254 : ∀ e < 254, maskOn planes 5 e = false := by decide

theorem witness_BitPlaneResults :
    (runsNow .elements planes ∧ (settleMatrix planes).t.ctl.vl ≤ vtGrp (settleMatrix planes) * 1024 ∧ (getS planes 8).toNat % 32 = 0 ∧
      canonical (getS planes 8) = true ∧
      sourcesAt [] (regsOf 9 1) none (settleMatrix planes) planes ∧ plainDest (regsOf 9 1) planes ∧
      ∀ e, 0 ≤ e → e < 255 → maskOn planes 5 e = true → ∀ j < 2,
        loadAt planes (getS planes 8 + BitVec.ofNat 64 (e / 256 * (32 * 2) + 32 * j + e % 256 / 8)) 1 1 e = .ok 0 planes) ∧
    (sourcesAt (regsOf 2 1) [] none (settleMatrix planes) planes ∧
      (∀ e, 0 ≤ e → e < 255 → if maskOn planes 5 e then
          storePlanes 0x20000 2 planes e (element planes 2 1 8 e) = .ok () (planeStep planes e (element planes 2 1 8 254))
        else planes = planes) ∧
      storePlanes 0x20000 2 (planeStep planes 254 (element planes 2 1 8 254)) 255 0 =
        .ok () (planeStep (planeStep planes 254 (element planes 2 1 8 254)) 255 0) ∧ (255 + 255) / 256 * 256 = 256) ∧
    (∃ ks s1 s2, checkStores 254 ((List.range 2).map (planeAddr 0x20000 2 254)) planes = .ok ks s1 ∧ ks.Nodup ∧
      storePlanes 0x20000 2 planes 254 3 = .ok () s2) := by
  refine ⟨⟨idle_now _ _ rfl rfl rfl rfl, by decide, by decide, rfl, no_binds_sources _ _ _ _ rfl rfl, no_binds_plain _ _ rfl, ?_⟩,
    ⟨no_binds_sources _ _ _ _ rfl rfl, ?_, rfl, rfl⟩, _, _, _, rfl, by decide, rfl⟩
  · intro e _ h hm j hj
    have he : e = 254 := by
      by_contra hne
      rw [mask254 e (by omega)] at hm
      exact absurd hm (by decide)
    subst he
    interval_cases j <;> rfl
  · intro e _ h
    by_cases he : e = 254
    · subst he
      rfl
    · rw [mask254 e (by omega)]
      rfl

/-- One n8 element with its scale at 0x20000; a spill slot of a zero register at 0x20100 (R287, R288). -/
def scaled : State := regs [(8, 0x20000), (7, 1), (9, 0x20100)] ((vectors 4 1 stored).updT fun t => { t with snap := [(0x20100, 1)] })
def scaleStep (i : Nat) : State := match i with
  | 0 => scaled
  | _ => setScale scaled 15 0 0x80
def scaleStored (i : Nat) : State := match i with
  | 0 => scaled
  | _ => scaled.updT fun t => t.storeBytes 0x20000 0x20000 (natLe 1 0)

theorem witness_ScaleAndSpillResults :
    (runsNow .elements scaled ∧ scaleFits (settleMatrix scaled) 15 = true ∧ startElem (settleMatrix scaled) = 0 ∧ scaleBlocks (settleMatrix scaled) = 1 ∧
      scaleStep 0 = settleMatrix scaled ∧
      (∃ y, loadAt (scaleStep 0) (getS scaled 8 + BitVec.ofInt 64 (0 * (getS scaled 7).toInt)) 1 1 (0 * 2 ^ 3) = .ok 0x80 y ∧
        scaleStep 1 = setScale y 15 0 0x80) ∧ (settleMatrix scaled).t.ctl.vl ≤ 8192 ∧
      storeAt (scaleStored 0) (getS scaled 8 + BitVec.ofInt 64 (0 * (getS scaled 7).toInt)) 1 1 (0 * 2 ^ 3) 0 = .ok () (scaleStored 1)) ∧
    (runsNow .whole scaled ∧ (getS (settleMatrix scaled) 9).toNat % 8 = 0 ∧ sourcesAt [31] [] none (settleMatrix scaled) scaled ∧
      ∃ ks s2, checkStores 0 (byteAddrs 0x20100 1032) scaled = .ok ks s2) ∧
    sourcesAt [] [31] none (settleMatrix scaled) scaled ∧
      ∃ bs s2, loadBytesAt (fun _ => 0) 0x20100 1032 0 scaled = .ok bs s2 ∧ fillSlot bs = some 0 ∧ plainDest [31] s2 :=
  ⟨⟨idle_now _ _ rfl rfl rfl rfl, rfl, rfl, rfl, rfl, ⟨_, rfl, rfl⟩, by decide, rfl⟩,
    ⟨idle_now _ _ rfl rfl rfl rfl, by decide, no_binds_sources _ _ _ _ rfl rfl, _, _, rfl⟩,
    no_binds_sources _ _ _ _ rfl rfl, _, _, rfl, rfl, no_binds_plain _ _ rfl⟩

/-- A stream descriptor at 0x20200, eight n8 elements, in the thread's snapshot; one of dimension 0 at 0x20280. -/
def withDesc : State := regs [(8, 0x20200), (9, 0x20280)] ((vectors 4 4 lab).updT fun t => { t with
  snap := [(0x20200, 4), (0x20201, 1), (0x20209, 4), (0x2020A, 2), (0x20211, 4), (0x20212, 2), (0x20218, 0x40), (0x20219, 4), (0x2021A, 2), (0x20228, 8),
    (0x20250, 1), (0x20280, 4)] })
def sevenBound : State := withDesc.updT fun t => { t with binds := (List.range 7).map fun k => { loadBound with vd := k + 2, live := 0 } }

theorem witness_StreamBindings :
    (settledFor [8] sevenBound ∧ xBusy sevenBound = false ∧ (getS sevenBound 8).toNat % 64 = 0 ∧
      ∃ d s2, loadWords 0x20200 16 0 (settleMatrix sevenBound) = .ok d s2 ∧ descBad d = none ∧ 0 < (unbind s2 1).t.ctl.vl ∧
        (unbind s2 1).t.binds.length = 7 ∧ 1 % vtGrp (unbind s2 1) = 0 ∧ (∀ b ∈ (unbind s2 1).t.binds, b.live ≠ 7) ∧
        streamTypeOk true ((d.getD 0 0).toNat % 32) (vtType (unbind s2 1)) = true) ∧
    (∃ d s2 v, loadWords 0x20280 16 0 (settleMatrix withDesc) = .ok d s2 ∧ descBad d = some v) ∧ xBusy boundLab = false ∧
    (boundLab.t.binds.find? fun b => b.vd == (1 : BitVec 5).toNat && !b.store && !b.filled) = some loadBound ∧ 31 < 32 :=
  ⟨⟨settled _ _ rfl, rfl, by decide, _, _, rfl, rfl, by decide, rfl, by decide, by decide, rfl⟩, ⟨_, _, _, rfl, rfl⟩, rfl, rfl, by decide⟩

/-- Two EGs of elements and lane threads whose line is the one at 0x20000 of `code`. -/
def laneCode : State := vectors 4 33 code
def laneRunOf (ls : List Lane) : LaneRun := { lanes := ls, sregs := Vector.replicate 32 0, env := Ctl.start.env, binds := [], read := [] }
def laneOne (g : Nat) (st : LaneStatus) : Lane := { g := g, pc := 0x20000, line := shortLine, status := st, geom := 0, since := 0, issued := false }
def allEnded : State := lab.updT fun t => { t with lanes := some (laneRunOf [laneOne 0 .ended, laneOne 1 .ended]) }
def faultTrap : Trap := mkTrap 0x01 5
def oneFaulted : State :=
  lab.updT fun t => { t with lanes := some (laneRunOf [laneOne 0 .ended, laneOne 1 (.faulted faultTrap 0x20000 true), laneOne 2 (.faulted faultTrap 0x20000 true)]) }
def laneRuns : State := lab.updT fun t => { t with lanes := some (laneRunOf [laneOne 0 .ended, laneOne 1 .running]) }
def fetching : State := laneAt 1 (setM laneCode 5 (BitVec.ofNat 8192 (2 ^ 32)))

theorem witness_LaneThreads :
    (runsNow .whole laneCode ∧ vtGrp laneCode = 1 ∧ typeValid (vtType laneCode) = true ∧
      ∃ l s1, enterLine laneCode (relTarget (curPc laneCode) 0 0) false true = .ok l s1 ∧ laneCode.t.xctx = none) ∧
    (fetching.t.xctx = some { entry := fadd5, lane := some 1 } ∧
      (∃ e < fetching.t.ctl.vl, e / (256 / typeWidth (vtType fetching)) = 1 ∧ (getM fetching (5 : BitVec 3).toNat).getLsbD e = true) ∧
      ∃ l s1, enterLine fetching (relTarget fadd5.pc 0 0) false true = .ok l s1) ∧
    (¬((5 : BitVec 3) = 0 ∨ ∃ e < (laneAt 0 fetching).t.ctl.vl, e / (256 / typeWidth (vtType (laneAt 0 fetching))) = 0 ∧
      (getM (laneAt 0 fetching) (5 : BitVec 3).toNat).getLsbD e = true)) ∧
    laneOf lane1 = some 1 ∧ (runsNow .join lab ∧ lab.t.lanes = none) ∧
    (runsNow .join allEnded ∧ allEnded.t.lanes = some (laneRunOf [laneOne 0 .ended, laneOne 1 .ended]) ∧
      ∀ x ∈ (laneRunOf [laneOne 0 .ended, laneOne 1 .ended]).lanes, x.status = .ended) ∧
    (runsNow .join oneFaulted ∧ (laneRunOf [laneOne 0 .ended, laneOne 1 (.faulted faultTrap 0x20000 true), laneOne 2 (.faulted faultTrap 0x20000 true)]).lanes =
        [laneOne 0 .ended] ++ laneOne 1 (.faulted faultTrap 0x20000 true) :: [laneOne 2 (.faulted faultTrap 0x20000 true)] ∧
      (∀ x ∈ [laneOne 0 .ended], x.status = .ended) ∧ faultTrap.cls ≠ 0x05 ∧ faultTrap.cls ≠ 0x02) ∧
    (∀ x ∈ [laneOne 2 (.faulted faultTrap 0x20000 true)], x.status ≠ .running ∧ ∀ a b c, x.status = .faulted a b c → a.cls ≠ 0x05) ∧
    (laneRuns.t.lanes = some (laneRunOf [laneOne 0 .ended, laneOne 1 .running]) ∧
      ((laneRunOf [laneOne 0 .ended, laneOne 1 .running]).lanes.find? fun x => x.g == (laneOne 1 .running).g && x.isRunning) = some (laneOne 1 .running) ∧
      (0x0A = 0x01 ∨ 0x0A = 0x02 ∨ (0x07 ≤ 0x0A ∧ 0x0A ≤ 0x0A))) ∧
    (lab.t.status = .running ∧ lab.t.vq = [] ∧ lab.t.xdec = [] ∧ lab.t.xctx = none) :=
  ⟨⟨idle_now _ _ rfl rfl rfl rfl, rfl, rfl, _, _, rfl, rfl⟩, ⟨rfl, ⟨32, by decide, by decide, by decide⟩, _, _, rfl⟩, by decide, rfl,
    ⟨idle_now _ _ rfl rfl rfl rfl, rfl⟩, ⟨⟨.inr ⟨rfl, rfl⟩, .inl rfl, fun h => absurd h (by decide)⟩, rfl, by decide⟩,
    ⟨⟨.inr ⟨rfl, rfl⟩, .inl rfl, fun h => absurd h (by decide)⟩, rfl, by decide, by decide, by decide⟩,
    (by
      intro x hx
      simp only [List.mem_singleton] at hx
      subst hx
      exact ⟨by decide, fun a b c h => by cases h; decide⟩),
    ⟨rfl, rfl, by decide⟩, rfl, rfl, rfl, rfl⟩

/-- A spawn descriptor at 0x20300 (R198): PC 0x20000, ARG 0, a count barrier at 0x20800, PRIO 0; one with a misaligned barrier at
0x20340. The continuation record would stand at 0x20400. -/
def spawning : State := regs [(1, 0x20300), (3, 0x20340), (2, 8)] ((vectors 4 0 lab).updT fun t => { t with
  ctl := { t.ctl with crec := 0x20400 }, snap := [(0x20302, 2), (0x20311, 8), (0x20312, 2), (0x20342, 2), (0x20350, 1)] })
def spawnFull : State := { spawning with spawnUsed := [(0, 0, 1024)] }
def spawn1 : Spawn :=
  { part := 0, launch := 0, die := 0, pc := 0x20000, arg := 0, cb := 0x20800, prio := 0, kind := 0, vtype := 4, vl := 1, desc := 0x20300 }
def contWith (id uid : Nat) (w : Waiting) : Cont :=
  { id := id, th := { Thread.blank with uid := uid }, record := 0x20400, waiting := w, dests := [1], results := [] }
def waitingSpawn : State := { lab with conts := [contWith 7 9 (.spawn spawn1)], spawnQueue := [5, 7], spawnUsed := [(0, 0, 1023)] }
def doneCont : State := { lab with conts := [contWith 7 9 .done] }

theorem witness_SpawnAndNodeEnd :
    (xBusy spawning = false ∧ (getS (drainMatrix spawning) 1).toNat % 32 = 0 ∧
      ∃ d s1, loadWords (getS (drainMatrix spawning) 1) 4 0 (drainMatrix spawning) = .ok d s1 ∧ typeValid (vtType s1) = true ∧
        (getS (drainMatrix spawning) 2).toNat ≤ vlMaxOf s1.t.ctl.vtype ∧
        ¬((d.getD 2 0).toNat % 16 ≠ 0 ∨ (d.getD 3 0).extractLsb' 32 32 ≠ 0 ∨ (d.getD 3 0).extractLsb' 26 2 = 3 ∨ (d.getD 3 0).extractLsb' 0 26 ≠ 0) ∧
        ∃ k s2, keyOf s1 .store (d.getD 2 0) 16 0 = .ok k s2 ∧ pointPoisoned s2 5 k 16 = false ∧ spawnCount (publish s2 3) 0 0 < 1024) ∧
    (∃ d s1, loadWords (getS (drainMatrix spawning) 3) 4 0 (drainMatrix spawning) = .ok d s1 ∧ (d.getD 2 0).toNat % 16 ≠ 0) ∧
    (∃ ks sx, suspendCheck spawnFull = .ok ks sx ∧ xBusy sx = false ∧
      ∃ d s1, loadWords (getS (drainMatrix sx) 1) 4 0 (drainMatrix sx) = .ok d s1 ∧
        ∃ k s2, keyOf s1 .store (d.getD 2 0) 16 0 = .ok k s2 ∧ 1024 ≤ spawnCount (publish s2 3) 0 0 ∧
          (releaseUnkept (drainMatrix (publish s2 3))).1 = none) ∧
    (waitingSpawn.spawnQueue = [5] ++ 7 :: [] ∧ (∀ j ∈ [5], spawnOf waitingSpawn j = none) ∧ spawnOf waitingSpawn 7 = some spawn1 ∧ spawn1.die = 0 ∧
      spawnCount waitingSpawn 0 spawn1.part < 1024) ∧
    (contOf doneCont 7 = some (contWith 7 9 .done) ∧ (contWith 7 9 .done).waiting = .done ∧ (∀ r ∈ doneCont.ready, r.work ≠ .resume 7) ∧
      findThread doneCont 9 = none) ∧
    (xBusy launched = false ∧ hasCommands launched 1 = false ∧ hasPuts launched 1 = false ∧
      draining (releaseDrains (drainMatrix { launched.updT fun t => { t with status := .ending 0 0 0 0 } with stalled := false })) = false ∧
      launched.t.spawned = false) ∧ lab.t.status = .running :=
  ⟨⟨rfl, by decide, _, _, rfl, rfl, by decide, by decide, _, _, rfl, rfl, by decide⟩, ⟨_, _, rfl, by decide⟩,
    ⟨_, _, rfl, rfl, _, _, rfl, _, _, rfl, by decide, rfl⟩, ⟨rfl, by decide, rfl, rfl, by decide⟩, ⟨rfl, rfl, by decide, rfl⟩, ⟨rfl, rfl, rfl, rfl, rfl⟩, rfl⟩

theorem witness_SpawnAndNodeEnd_empty : (getS (drainMatrix (regs [(2, 0)] spawning)) 2).toNat = 0 := by decide

/-- Folio entries: one that drains, one that fills from zeros, one whose fill has failed, one draining. -/
def folioDrain : FolioEntry := { folio0 with drain := true, clean := false }
def folioFilling : FolioEntry := { folio0 with state := .filling, clean := false, data := some [7, 8] }
def folioBad : FolioEntry := { folio0 with state := .filling, clean := false, bad := some (5, 0x20000) }
def folioLeaving : FolioEntry := { folioDrain with state := .draining, owners := [1], pages := [0x20000], scope := 5 }

/-- A free handle, and a folio list entry at 0x20500 (R147): FROM 0x20000, 1 KiB from 3 KiB on in space 1. -/
def binding0 : State := regs [(2, 0x20500)] ({ folioed folio0 with t := { (folioed folio0).t with
  snap := [(0x20502, 2), (0x20508, 1), (0x20509, 3), (0x2050C, 1)] } })

theorem witness_FolioInstructions :
    (folioQueued (settleMatrix (folioed folioDrain)) 0 = false ∧ handleEntry (settleMatrix (folioed folioDrain)) 0 = some folioDrain ∧ folioDrain.state = .ready ∧
      folioDrain.drain = true ∧ (∀ u ∈ folioDrain.owners, u = (folioed folioDrain).t.uid) ∧ folioDrain.src ≠ 0) ∧
    (fillWaits (settleMatrix (folioed folioDrain)) folioDrain.src folioDrain.sizek = false) ∧
    (∃ ks s2, checkDrain { folioed folioDrain with tlbs := [{ place := dieTlb 0, entries := [page 0x20000] }, { place := 0, entries := [page 0x20000] }] }
      folioDrain = .ok ks s2) ∧
    (handleEntry (settleMatrix (folioed folioFilling)) 0 = some folioFilling ∧ folioFilling.state = .filling ∧
      ¬(folioFilling.state = .ready ∧ folioFilling.drain = true)) ∧
    (folioQueued (settleMatrix lab) 15 = false ∧ handleEntry (settleMatrix lab) 15 = none ∧ xBusy lab = false) ∧
    (folioAt (folioed folio0) 0 3 = some folio0 ∧ (∀ u ∈ folio0.owners, u = (folioed folio0).t.uid)) ∧
    (∃ u ∈ ({ folio0 with owners := [1, 2] } : FolioEntry).owners, u ≠ (folioed folio0).t.uid) ∧
    (settledFor [2] binding0 ∧ folioQueued (settleMatrix binding0) 1 = false ∧ 1 < binding0.t.handles.length ∧ (getS binding0 2).toNat % 16 = 0 ∧
      conflicts (settleMatrix binding0) (getS binding0 2) 16 false = false ∧
      ∃ ws s2, loadWords (getS binding0 2) 2 0 (settleMatrix binding0) = .ok ws s2 ∧ specOk (ws.getD 0 0) (ws.getD 1 0) = true ∧
        specFits s2.t.core (FolioSpec.dec (ws.getD 0 0) (ws.getD 1 0)) = true ∧
        fillWaits s2 (FolioSpec.dec (ws.getD 0 0) (ws.getD 1 0)).src (FolioSpec.dec (ws.getD 0 0) (ws.getD 1 0)).sizek = false ∧ freeIndex s2 s2.t.core ≠ none ∧ handleEntry s2 1 = none ∧
        (∀ x ∈ coreFolios s2 s2.t.core, x.meets (FolioSpec.dec (ws.getD 0 0) (ws.getD 1 0)) = false) ∧
        (∃ e, handleEntry s2 0 = some e ∧ e.owners = [s2.t.uid] ∧ e.drain = false ∧ e.state = .ready ∧
          ∀ x ∈ coreFolios s2 s2.t.core, x ≠ e → x.meets (FolioSpec.dec (ws.getD 0 0) (ws.getD 1 0)) = false)) ∧
    (folioAt (folioed folioFilling) 0 3 = some folioFilling ∧ folioFilling.data = some [7, 8] ∧ (folioed folioFilling).home.wf = true ∧
      ∀ i < 2, (folioed folioFilling).homeSeq.get (folioFilling.key i) ≤ (folioed folioFilling).pubs + 1) ∧
    (folioAt (folioed folioBad) 0 3 = some folioBad ∧ folioBad.state = .filling ∧ (folioed folioBad).saved = [] ∧ folioBad.bad = some (5, 0x20000) ∧
      (folioed folioBad).t.uid ∈ folioBad.owners ∧ (folioed folioBad).t.status = .running) ∧
    (folioAt (folioed folioLeaving) 0 3 = some folioLeaving ∧ folioLeaving.state = .draining ∧ (finishDrain (folioed folioLeaving) folioLeaving).1 = none) :=
  ⟨⟨rfl, rfl, rfl, rfl, by decide, by decide⟩, rfl, ⟨_, _, rfl⟩, ⟨rfl, rfl, by decide⟩, ⟨rfl, rfl, rfl⟩, ⟨rfl, by decide⟩, ⟨2, by decide, by decide⟩,
    ⟨settled _ _ rfl, rfl, by decide, by decide, rfl, _, _, rfl, rfl, rfl, rfl, by decide, rfl, by decide, _, rfl, rfl, rfl, rfl, by decide⟩,
    ⟨rfl, rfl, rfl, by decide⟩, ⟨rfl, rfl, rfl, rfl, by decide, rfl⟩, rfl, rfl, rfl⟩

/-- A write-back at node end that meets a page nobody maps. -/
def folioLost : FolioEntry := { folioDrain with state := .draining, owners := [1], src := 0x90000, scope := 5 }
def losing : State := { folioed folioLost with parts := [{ ours with roots := [] }], t := { (folioed folioLost).t with status := .ending 0 0 0 0 } }

theorem witness_FolioInstructions_fault : ∃ c a, (finishDrain losing folioLost).1 = some (c, a) ∧ losing.t.uid ∈ folioLost.owners ∧
    (finishDrain losing folioLost).2.t.uid = losing.t.uid ∧ (finishDrain losing folioLost).2.t.status = .ending 0 0 0 0 :=
  ⟨_, _, rfl, by decide, rfl, rfl⟩

/-- Two accumulators in fp32 mode with tiles 0 (2 × 3) and 1 (3 × 2), tile 2 in bfp4 (1 × 16); as the checks and the unit hold them. -/
def shA : TileShape := { ty := 0x0C, nr := 2, nc := 3 }
def shB : TileShape := { ty := 0x0C, nr := 3, nc := 2 }
def unit0 : MatUnit :=
  { mtype := 0x0C, steps := Vector.replicate 2 0, acc := Vector.replicate 2 0, tiles := #v[some (Tile.zero shA), some (Tile.zero shB), none, none] }
def check0 : MatCheck := { mtype := 0x0C, tiles := #v[some shA, some shB, none, none] }
def inMode : State := regs [(9, 0x20003), (10, 1), (11, 0x20000)] { vectors 0x0C 2 lab with
  granted := [(0, 1)], t := { (vectors 0x0C 2 lab).t with mchk := some check0, munit := some unit0 } }
def twoHolders : State := { (running5.updT fun t => { t with vq := [] }) with granted := [(0, 5), (0, 6)] }
def asking : State := { lab with parked := [{ someone with uid := 2, slot := 1, mwait := 4 }] }
def folioMat (sp : Nat) : State := { inMode with folios := [{ folio0 with space := sp, sizek := 8 }], t := { inMode.t with handles := [some 3] } }

theorem matrix_now (s : State) (h : runsNow .ignore s) (hv : isVCore s.t.core = false) (hq : s.t.mq = []) : matrixNow s :=
  ⟨h, hv, by rw [hq]; decide⟩

theorem witness_MatrixPosting :
    (matrixNow lab ∧ lab.t.mchk = none ∧ lab.t.mexiting = false ∧ (holders lab lab.t.core).contains lab.t.uid = false ∧ (holders lab lab.t.core).length < 2 ∧
      lab.t.status = .running ∧ ∀ t ∈ lab.parked, t.core = lab.t.core → t.mwait = 0) ∧
    (matrixNow { lab with granted := [(0, 1)] } ∧ (holders { lab with granted := [(0, 1)] } 0).contains 1 = true) ∧
    (matrixNow twoHolders ∧ twoHolders.t.mchk = none ∧ (holders twoHolders 0).contains 1 = false ∧ 2 ≤ (holders twoHolders 0).length ∧
      twoHolders.t.xctx.isSome = true) ∧
    ((holders lab 0).length < 2 ∧ nextWaiter lab 0 = none) ∧ (∃ w, nextWaiter asking 0 = some w) ∧
    (matrixNow inMode ∧ inMode.t.mchk = some check0) ∧
    ((0x202#64) &&& 0x7F7F = 0x202 ∧ modeTy 0x0C = true ∧ modeTy 0x02 = false ∧ (0x80#64) &&& 0x7F7F ≠ 0x80 ∧ shapeOk 0x0C 0 0 = false ∧ shapeOk 0x0C ((0x202#64).toNat % 128) ((0x202#64).toNat / 256) = true) ∧
    (check0.tiles.getD 0 none = some shA ∧ check0.tiles.getD 1 none = some shB ∧ shA.nr ≤ mvlOf 0x0C ∧ shB.nc ≤ mvlOf 0x0C ∧ isBfp 0x0C = false ∧
      shA.nc = shB.nr ∧ ((List.range shB.nr).filter fun k => (getM inMode 5).getLsbD k).length = 0 ∧
      shA.nc = ((List.range shB.nr).filter fun k => (getM (setM inMode 5 7) 5).getLsbD k).length) ∧
    (tileTypeOk shA.ty 0x0D = true ∧ (getS inMode 10).toNat < shA.nr ∧ sourcesAt [7] [] none inMode inMode ∧ inMode.t.mq.length < 256 ∧
      (getS inMode 10).toNat < shA.nc ∧ shA.nr ≤ 8192 / typeWidth 0x0D ∧ sourcesAt [] [7] none inMode inMode ∧ plainDest [7] inMode) ∧
    (nameFolio (folioMat 0) ((4#64).toNat / 2 ^ 22) = .ready { folio0 with space := 0, sizek := 8 } ∧ (folioMat 0).poison = [] ∧
      (4#64).toNat % 2 ^ 22 % (tileWidth shA.ty / 8) = 0 ∧ rowStride (folioMat 0) 0 shA % (tileWidth shA.ty / 8 : Nat) = 0 ∧
      ∀ r < shA.nr, 0 ≤ (4 : Int) + r * 12 ∧ (4 : Int) + r * 12 + rowSize shA ≤ ({ folio0 with space := 0, sizek := 8 } : FolioEntry).size) ∧
    (∃ rows s1, storeRows (getS inMode 11) (rowStride inMode 0 shA) (rowSize shA) (List.range shA.nr) inMode = .ok rows s1 ∧ s1.t.mq.length < 256) ∧
    ((getS inMode 10).toNat < mvlOf check0.mtype ∧ 0x0A ≤ (0x0D : BitVec 5).toNat ∧ mvlOf check0.mtype ≤ 8192 / typeWidth 0x0D ∧ inMode.t.mq = [] ∧
      inMode.t.munit ≠ none) ∧
    (nameFolio (folioMat 2) ((4096#64).toNat / 2 ^ 22) = .ready { folio0 with space := 2, sizek := 8 } ∧ (4096#64).toNat % 2 ^ 22 % 4 = 0 ∧
      (4096#64).toNat % 2 ^ 22 + 32 * 32 * 4 ≤ ({ folio0 with space := 2, sizek := 8 } : FolioEntry).size) ∧
    (runsNow .ignore lab ∧ (isVCore lab.t.core = true ∨ lab.t.mchk = none)) := by
  refine ⟨⟨matrix_now _ (idle_now _ _ rfl rfl rfl rfl) rfl rfl, rfl, rfl, rfl, by decide, rfl, by decide⟩,
    ⟨matrix_now _ (idle_now _ _ rfl rfl rfl rfl) rfl rfl, rfl⟩,
    ⟨matrix_now _ ⟨.inl rfl, .inr (.inl rfl), fun _ => rfl⟩ rfl rfl, rfl, rfl, by decide, rfl⟩, ⟨by decide, rfl⟩, ⟨_, rfl⟩,
    ⟨matrix_now _ (idle_now _ _ rfl rfl rfl rfl) rfl rfl, rfl⟩, by decide,
    ⟨rfl, rfl, by decide, by decide, rfl, rfl, by decide, by decide⟩,
    ⟨rfl, by decide, no_binds_sources _ _ _ _ rfl rfl, by decide, by decide, by decide, no_binds_sources _ _ _ _ rfl rfl, no_binds_plain _ _ rfl⟩,
    ⟨rfl, rfl, by decide, by decide, by decide⟩, ⟨_, _, rfl, by decide⟩, ⟨by decide, by decide, by decide, rfl, by decide⟩,
    ⟨rfl, by decide, by decide⟩, idle_now _ _ rfl rfl rfl rfl, .inr rfl⟩

def withOp (op : MatOp) : State := inMode.updT fun t => { t with mq := [op] }

theorem witness_MatrixResults : (withOp .mexit).t.mq = .mexit :: [] ∧ (withOp (.mmode 0x0D)).t.mq = .mmode 0x0D :: [] ∧
    (withOp (.mop 1 0 1 false none 0 0 0)).t.munit = some unit0 ∧ (3 < 4) ∧ (1 < 2) ∧ unit0.tiles.getD 0 none = some (Tile.zero shA) ∧
    unit0.tiles.getD 1 none = some (Tile.zero shB) ∧ (31 < 32 ∧ mvlOf unit0.mtype ≤ 8192 / typeWidth 0x0D ∧ 0x0D ≤ 0x0E) :=
  ⟨rfl, rfl, rfl, by decide, by decide, rfl, rfl, by decide⟩

/-- The moves of tile 0: its register forms, and a store of its two rows of 12 bytes. -/
theorem witness_MatrixResults_tiles : (withOp (.trel 0)).t.mq = .trel 0 :: [] ∧ (Tile.zero shA).shape = shA ∧
    shA.nr * shA.nc * tileWidth shA.ty ≤ 65536 ∧ 1 < shA.nr ∧ shA.nr ≤ 8192 / typeWidth 0x0D ∧ ([[(0x20000, 12)], [(0x2000C, 12)]] : List (List (Nat × Nat))).length = shA.nr ∧
    isBfp shA.ty = false ∧ shA.nc * (tileWidth shA.ty / 8) = 12 ∧
    ∀ r < shA.nr, (((([[(0x20000, 12)], [(0x2000C, 12)]] : List (List (Nat × Nat))).getD r []).map fun p => (List.range p.2).map (p.1 + ·)).flatten).length = 12 ∧
      (((([[(0x20000, 12)], [(0x2000C, 12)]] : List (List (Nat × Nat))).getD r []).map fun p => (List.range p.2).map (p.1 + ·)).flatten).Nodup := by
  decide

/-- A catalogue of five nodes: the root with the child 1, which has the child 3; 2 is free, 4 deleted. -/
def rec0 (state parent nchild : Nat) : NodeRec :=
  { nchild := nchild, rev := 0, state := state, gen := 0, parent := parent, q := [0x3FF0000000000000, 0, 0, 0], t := [0, 0, 0], split := List.replicate 8 splitEmpty }
def ours5 : Partition := { ours with catSize := 5 }
def records : List NodeRec := [rec0 1 0 1, rec0 1 0 1, rec0 0 0 0, rec0 1 1 0, rec0 2 0 0]
def recordMem : Memory :=
  (records.mapIdx fun f n => (n.enc.map fun w => natLe 8 w).flatten.mapIdx fun i b => (nodeKey ours5 f + i, b)).flatten.foldl (fun m p => m.write p.1 p.2) []
/-- The transform block of R338 at 0x20600 is the identity; an adoption list at 0x20700 names node 3. -/
def framed : State := regs [(1, 1), (2, 0x20600), (3, 2), (4, 0x20700), (5, 1), (6, 4), (7, 0x20800), (8, 9), (9, 3)]
  { vectors 0x0E 2 lab with parts := [ours5], home := recordMem, t := { (vectors 0x0E 2 lab).t with
    snap := ([(0x20606, 0xF0), (0x20607, 0x3F), (0x20700, 3)] : List (Nat × Byte)).foldl (fun m p => m.write p.1 p.2) recordMem } }

theorem witness_GeometryResults : runsNow .elements framed ∧ catalogue framed = some ours5 ∧ lengthOk framed (vtGrp framed) 128 = true ∧
    sourcesAt (regsOf 2 1 ++ regsOf 3 1) (regsOf 1 1) none framed framed ∧ framed.poison = [] ∧ plainDest (regsOf 1 1) framed ∧
    (∃ v k, resolve (nodeSeen framed ours5) (GVal.dec (element framed 2 1 128 0)) = .ok (v, k)) ∧
    (∃ v, convertFrame (nodeSeen framed ours5) (GVal.dec (1 * 2 ^ 96)) 0 = .ok v) ∧ ∃ n m e, fmt64.value (element framed 3 1 64 0) = .fin n m e :=
  ⟨idle_now _ _ rfl rfl rfl rfl, rfl, rfl, no_binds_sources _ _ _ _ rfl rfl, rfl, no_binds_plain _ _ rfl, ⟨_, _, rfl⟩, ⟨_, rfl⟩, _, _, _, rfl⟩

theorem witness_FrameEvents :
    let n := fun i => nodeAt (settleMatrix framed) ours5 2 i
    (runsNow .ignore framed ∧ catalogue framed = some ours5 ∧ framed.poison = [] ∧ (settleMatrix framed).poison = []) ∧
    (∃ ws s2, loadWords (getS framed 2) 7 0 (settleMatrix framed) = .ok ws s2 ∧ (getS framed 2).toNat % 64 = 0 ∧
      quatOk ((ws.take 4).map BitVec.toNat) = true) ∧
    (liveNode ours5 1 (n 1) ∧ (2 ≠ 0 ∧ 2 < ours5.catSize ∧ (n 2).state = 0) ∧ (n 1).nchild < 65535 ∧ (n (n 1).parent).nchild < 65535) ∧
    ((1#64).toNat < 2 ^ 26 ∧ (1#64).toNat / 2 ^ 24 ≠ 3) ∧ (nodeIdx 4 < ours5.catSize ∧ (n 4).state ≠ 1) ∧
    (nodeIdx 0x1000001 < ours5.catSize ∧ (n (nodeIdx 0x1000001)).state = 1 ∧ (n (nodeIdx 0x1000001)).gen ≠ nodeGen 0x1000001) ∧
    (liveNode ours5 3 (n 3) ∧ (n 3).nchild = 0) ∧ liveNode ours5 0 (n 0) ∧
    (∃ ids s2, (getS framed 4).toNat % 4 = 0 ∧ (getS framed 5).toNat = (n 1).nchild ∧ loadIndices (getS framed 4) (n 1).nchild 0 (settleMatrix framed) = .ok ids s2 ∧
      ids.Nodup ∧ (n (n 1).parent).nchild + (n 1).nchild ≤ 65536 ∧ (∀ k ∈ ids, k ≠ 0 ∧ k < ours5.catSize ∧ (n k).state = 1 ∧ (n k).parent = 1) ∧
      ∀ k ∈ ids, (adopted (n 1) (n k)).t.all inS64 = true) ∧
    ((n 4).gen = nodeGen 4 ∧ (n 4).state = 2 ∧ (n 4).nchild = 0) ∧
    (∃ ks s2, (getS framed 7).toNat % 128 = 0 ∧ checkStores 0 (byteAddrs (getS framed 7) 128) (settleMatrix framed) = .ok ks s2 ∧ s2.poison = []) ∧
    ours5.catSize ≤ nodeIdx 9 := by
  refine ⟨⟨idle_now _ _ rfl rfl rfl rfl, rfl, rfl, rfl⟩, ⟨_, _, rfl, by decide, rfl⟩, ⟨⟨by decide, by decide, by decide⟩, by decide, by decide, by decide⟩,
    by decide, ⟨by decide, by decide⟩, ⟨by decide, by decide, by decide⟩, ⟨⟨by decide, by decide, by decide⟩, by decide⟩, ⟨by decide, by decide, by decide⟩,
    ⟨[3], _, by decide, by decide, rfl, by decide, by decide, by decide, by decide⟩, ⟨by decide, by decide, by decide⟩, ⟨_, _, by decide, rfl, rfl⟩, by decide⟩

/-! Words of memory, and page tables that map the pages 0x20000 and 0x60000 to themselves and 0x30000 to another die. -/

def cells (l : List (Nat × Nat)) : Memory :=
  (l.map fun p => (natLe 8 p.2).mapIdx fun i b => (p.1 + i, b)).flatten.foldl (fun m p => m.write p.1 p.2) []
def tables : List (Nat × Nat) :=
  [(0x40000, 0x41001), (0x41000, 0x42001), (0x42000, 0x43001), (0x43000, 0x44001), (0x44010, 0x2000F), (0x44018, 0x800000000F), (0x44030, 0x6000F)]

/-- The engine descriptors: a copy at 0x20400, no valid copy at 0x20500, a reduction at 0x20600, a view copy of handle 0 at 0x20680,
puts at 0x20700 (no signal, to 0x60000) and 0x20740 (to the page on the other die), a bad put at 0x20780. -/
def descs : List (Nat × Nat) :=
  [(0x20400, 0x210800), (0x20408, 0x20800), (0x20410, 0x60000), (0x20418, 0x20800), (0x20420, 0x20804), (0x20428, 0x60000), (0x20430, 0x60004),
   (0x20440, 4), (0x20468, 1), (0x20490, 1),
   (0x20600, 0x6304000000000000), (0x20608, 0x20800), (0x20610, 0x60000), (0x20618, 1), (0x20620, 7),
   (0x20690, 1), (0x20698, 0x60000),
   (0x20708, 0x20800), (0x20710, 4), (0x20718, 0x60000), (0x20748, 0x20800), (0x20750, 4), (0x20758, 0x30000), (0x20780, 2)]

/-- A launch whose completion queue at 0x20000 has 4 slots. -/
def engineLab : State :=
  let s := regs [(4, 0x20400), (5, 0x20500), (6, 0x20600), (7, 0x20680), (8, 0x20700), (9, 0x20740), (10, 0x20780), (11, 0x21000), (12, 0x62000), (13, 0x20900)] launched
  { s with
    parts := [{ ours with shares := [(0, 4)] }]
    tlbs := [{ place := 0, entries := [page 0x20000, page 0x30000, page 0x60000] }, { place := dieTlb 0, entries := [page 0x20000, page 0x60000] }]
    home := cells (tables ++ [(0x20000, 4)])
    t := { s.t with snap := cells descs } }
def noQueue : State := { engineLab with launches := [] }
def leFor (fa fb fc : BitVec 5) : LE := { fd := 3, fa := fa, fb := fb, fc := fc, sc := 0, imm := 0 }

theorem issues (o : LE) (n : Nat) (s s1 : State) (d : List Word)
    (ha : n = 0 ∨ (getS (settleMatrix s) o.fa).toNat % 64 = 0 ∧ conflicts (settleMatrix s) (getS (settleMatrix s) o.fa) (8 * n) false = false)
    (hl : loadWords (getS (settleMatrix s) o.fa) n 0 (settleMatrix s) = .ok d s1) (hc : o.fc = 0) (hq : storesQueued s1 = false) :
    issuesAt o n s d none (publish (drainMatrix s1) 4) := ⟨s1, s1, ha, hl, .inl ⟨hc, rfl, rfl⟩, hq, rfl⟩

/-- A view with one fresh block of four bf16 elements in the tensor at 0x60000 of four fp32 elements. -/
def freshBlock : Block := { die := 0, state := .fresh, f := 0, marked := false, elems := [1, 2, 3, 4], scales := [], nextElems := [], nextScales := [], c := 0 }
def master0 : Master where
  id := 0
  part := 0
  born := 1
  pkg := 0
  base := 0x60000
  mtype := 0x0C
  ndim := 1
  ext := #v[4, 1, 1, 1]
  rs := 5
  pc := 2
  blockPa := [0x60000]
  podP := 0
  pkgP := 0
  dieP := []
def viewDesc : List Nat := [0xA40C, 0x60000, 0x100000004, 0x100000001, 0x0B, 0x20000, 0, 0]
def view0 (b : Block) : View := { part := 0, handle := 0, desc := viewDesc.map (BitVec.ofNat 64), copies := [{ die := 0, blocks := [b] }], fflags := 0, sat := 0 }
def viewLab (b : Block) : State := { engineLab with views := [view0 b], masters := [master0] }

def cmd1 (k : CmdKind) : Cmd := { newCmd engineLab k [] none with id := 1, count := 4, desc := [0, 0x20800, 4, 0x60000] }
def withCmd (c : Cmd) : State := { engineLab with cmds := [c], nextCmd := 2 }
def xcopy1 : Cmd := { cmd1 .xcopy with desc := (List.replicate 24 0) }
def landing : Cmd := { cmd1 .xput with srcRead := true, bytes := [1, 2, 3, 4], arg0 := 0x60000 }
def waitingPut : State := { withCmd { cmd1 .xput with waitingSlot := true } with conts := [contWith 7 9 (.put 1)] }
/-- A view copy of the first element; the second moves into folio 3, which holds it already. -/
def viewCopy1 (fol : Bool) : Cmd :=
  { cmd1 .xcopyView with desc := [if fol then 0x2000000000 else 0, 0, 1, if fol then 0 else 0x60000, 0, 0, 0, 0], folD := if fol then some 3 else none }
def viewCmds (fol : Bool) : State := { viewLab freshBlock with
  cmds := [viewCopy1 fol], nextCmd := 2, folios := [{ folio0 with view := some (viewMark (view0 freshBlock) (ViewCopy.dec (viewCopy1 true).desc) 2) }] }
def zencCmd : Cmd := { cmd1 .zenc with arg0 := 0x60000, arg1 := 0x64000, count := 1 }
def arrived1 : State := { withCmd (cmd1 .xreduce) with colls := [{ part := 0, key := 7, word0 := 0, n := 1, arrivals := [(0, 1)] }] }

theorem witness_EngineCommands :
    (settledFor [4, 0, 0] engineLab ∧
      (∃ d s2, issuesAt (leFor 4 0 0) 24 engineLab d none s2 ∧ copyOk d = true ∧ (refEntry s2 (CopyDesc.dec d).sfol (CopyDesc.dec d).sbase).2 = true ∧
        (refEntry s2 (CopyDesc.dec d).sfol (CopyDesc.dec d).sbase).1.isFilling = false ∧ (refEntry s2 (CopyDesc.dec d).dfol (CopyDesc.dec d).dbase).2 = true ∧
        (refEntry s2 (CopyDesc.dec d).dfol (CopyDesc.dec d).dbase).1.isFilling = false ∧ busy s2 0 0 = false) ∧
      (∃ d s2, issuesAt (leFor 4 0 0) 24 noQueue d none s2 ∧ copyOk d = true ∧ busy s2 0 0 = true) ∧
      (∃ d s2, issuesAt (leFor 5 0 0) 24 engineLab d none s2 ∧ copyOk d = false)) ∧
    (settledFor [11, 12, 0] engineLab ∧ (∃ d s2, issuesAt (leFor 11 12 0) 0 engineLab d none s2 ∧ busy s2 0 0 = false) ∧
      (getS engineLab 11).toNat % 4096 = 0 ∧ (getS engineLab 12).toNat % 4096 = 0 ∧
      bytesMeet (getS engineLab 11) 4096 (getS engineLab 12) 4097 = false ∧ bytesMeet (getS engineLab 11) 4096 (getS engineLab 11) 4097 = true) ∧
    ((∃ d s2, issuesAt (leFor 6 0 0) 8 engineLab d none s2 ∧ reduceOk d = true ∧ busy s2 2 0 = false) ∧
      (∃ d s2, issuesAt (leFor 6 0 0) 8 noQueue d none s2 ∧ reduceOk d = true ∧ busy s2 2 0 = true) ∧
      ∃ d s2, issuesAt (leFor 10 0 0) 8 engineLab d none s2 ∧ reduceOk d = false ∧ putDest s2 d = none ∧
        namedView s2 s2.t.part (ViewCopy.dec d).tid (ViewCopy.dec d).handle = none) ∧
    (∃ d s2 v, issuesAt (leFor 7 0 0) 8 (viewLab freshBlock) d none s2 ∧
      namedView s2 s2.t.part (ViewCopy.dec d).tid (ViewCopy.dec d).handle = some v ∧ viewCopyOk d v = true ∧ (ViewCopy.dec d).dfol = false ∧
      (ViewCopy.dec d).cfol = false ∧ busy s2 0 0 = false) ∧
    ((∃ d s2 x, issuesAt (leFor 8 0 0) 8 engineLab d none s2 ∧ putDest s2 d = some x ∧
        noBound s2 (dieOf s2.t.core) x.1 x.2.1 (rangeProbes (newPut s2 d none x).arg0 (newPut s2 d none x).count) = false ∧ busy s2 1 0 = false) ∧
      (∃ d s2 x, issuesAt (leFor 9 0 0) 8 engineLab d none s2 ∧ putDest s2 d = some x ∧
        noBound s2 (dieOf s2.t.core) x.1 x.2.1 (rangeProbes (newPut s2 d none x).arg0 (newPut s2 d none x).count) = true)) ∧
    (∃ ks sx, suspendCheck (engineLab.updC fun c => { c with crec := 0x20A00 }) = .ok ks sx ∧
      ∃ d s2 x, issuesAt (leFor 8 0 0) 8 sx d none s2 ∧ putDest s2 d = some x ∧ busy s2 1 (newPut s2 d none x).chan = false ∧
        noBound s2 (dieOf s2.t.core) x.1 x.2.1 (rangeProbes (newPut s2 d none x).arg0 (newPut s2 d none x).count) = false) ∧
    (∃ ks sx, suspendCheck (noQueue.updC fun c => { c with crec := 0x20A00 }) = .ok ks sx ∧
      ∃ d s2 x, issuesAt (leFor 8 0 0) 8 sx d none s2 ∧ putDest s2 d = some x ∧ busy s2 1 (newPut s2 d none x).chan = true ∧ xBusy s2 = false ∧
        (releaseUnkept (drainMatrix s2)).1 = none) ∧
    (cmdOf (withCmd xcopy1) 1 = some xcopy1 ∧ isOldest (withCmd xcopy1) xcopy1 = true ∧ xcopy1.kind = .xcopy ∧ (launchOf (withCmd xcopy1) xcopy1.launch).isSome = true ∧
      ∀ keys, landedBy (withCmd xcopy1) keys = false ∧ landedBy (withCmd zencCmd) keys = false) ∧
    (isOldest (withCmd zencCmd) zencCmd = true ∧ zencCmd.kind = .zenc) ∧
    (∀ f, cmdOf (viewCmds f) 1 = some (viewCopy1 f) ∧ isOldest (viewCmds f) (viewCopy1 f) = true ∧ (viewCopy1 f).kind = .xcopyView ∧
      ((viewCmds f).views.find? fun v => v.part == (viewCopy1 f).peer && v.handle == (ViewCopy.dec (viewCopy1 f).desc).handle) = some (view0 freshBlock) ∧
      masterOf (viewCmds f) (view0 freshBlock) = some master0 ∧ viewHeld (viewCmds f) (viewCopy1 f) (view0 freshBlock) (ViewCopy.dec (viewCopy1 f).desc) = f ∧
      (imageReads (view0 freshBlock) master0 (ViewCopy.dec (viewCopy1 f).desc) (readable (viewCmds f) (view0 freshBlock) master0 0 0) (viewCopy1 f).needs 1 0).2 = none ∧
      ∀ keys, landedBy (viewCmds f) keys = false) ∧
    (cmdOf (withCmd landing) 1 = some landing ∧ isOldest (withCmd landing) landing = true ∧ landing.status = 0 ∧ landing.carry.length < landing.bytes.length ∧
      landsNow (withCmd landing) landing = true ∧ peerEnded (withCmd landing) landing = false ∧ (engineKeys landing.destWho (landing.arg0 + 0) 2 0 (withCmd landing)).2.1 = none) ∧
    ((cmd1 .xput).srcRead = false ∧ (cmd1 .xput).waitingSlot = false ∧
      (engineReadBytes (cmd1 .xput).who ((cmd1 .xput).desc.getD 1 0) 4 0 (withCmd (cmd1 .xput))).2.1 = none) ∧
    (contOf waitingPut 7 = some (contWith 7 9 (.put 1)) ∧ queued waitingPut 1 1 0 < 16 ∧ cqHasSlot waitingPut 1 = true ∧
      tetherGone waitingPut (cmd1 .xput) = false ∧ tetherGone waitingPut { cmd1 .xput with desc := [0x8000000000000000] } = true) ∧
    ((arrived1.colls.find? fun y => y.part == 0 && y.key == 7) = some { part := 0, key := 7, word0 := 0, n := 1, arrivals := [(0, 1)] } ∧
      field 0 47 32 + 1 = 1 ∧ assoc [(0, 1)] 0 = some 1 ∧ cmdOf arrived1 1 = some (cmd1 .xreduce) ∧ ∀ v, resultWaits v arrived1 (cmd1 .xreduce) = false) := by
  refine ⟨⟨settled _ _ rfl,
      ⟨_, _, issues _ _ _ _ _ (.inr ⟨by decide, rfl⟩) rfl rfl rfl, by decide, rfl, rfl, rfl, rfl, rfl⟩,
      ⟨_, _, issues _ _ _ _ _ (.inr ⟨by decide, rfl⟩) rfl rfl rfl, by decide, rfl⟩,
      ⟨_, _, issues _ _ _ _ _ (.inr ⟨by decide, rfl⟩) rfl rfl rfl, by decide⟩⟩,
    ⟨settled _ _ rfl, ⟨_, _, issues _ _ _ _ _ (.inl rfl) rfl rfl rfl, rfl⟩, by decide, by decide, by decide, by decide⟩,
    ⟨⟨_, _, issues _ _ _ _ _ (.inr ⟨by decide, rfl⟩) rfl rfl rfl, by decide, rfl⟩,
      ⟨_, _, issues _ _ _ _ _ (.inr ⟨by decide, rfl⟩) rfl rfl rfl, by decide, rfl⟩,
      ⟨_, _, issues _ _ _ _ _ (.inr ⟨by decide, rfl⟩) rfl rfl rfl, by decide, rfl, rfl⟩⟩,
    ⟨_, _, _, issues _ _ _ _ _ (.inr ⟨by decide, rfl⟩) rfl rfl rfl, rfl, by decide, rfl, rfl, rfl⟩,
    ⟨⟨_, _, _, issues _ _ _ _ _ (.inr ⟨by decide, rfl⟩) rfl rfl rfl, rfl, rfl, rfl⟩,
      ⟨_, _, _, issues _ _ _ _ _ (.inr ⟨by decide, rfl⟩) rfl rfl rfl, rfl, rfl⟩⟩,
    ⟨_, _, rfl, _, _, _, issues _ _ _ _ _ (.inr ⟨by decide, rfl⟩) rfl rfl rfl, rfl, rfl, rfl⟩,
    ⟨_, _, rfl, _, _, _, issues _ _ _ _ _ (.inr ⟨by decide, rfl⟩) rfl rfl rfl, rfl, rfl, rfl, rfl⟩,
    ⟨rfl, rfl, rfl, rfl, fun _ => ⟨rfl, rfl⟩⟩, ⟨rfl, rfl⟩, fun f => ?_, ⟨rfl, rfl, rfl, by decide, rfl, rfl, rfl⟩, ⟨rfl, rfl, rfl⟩,
    ⟨rfl, by decide, by decide, rfl, rfl⟩, rfl, by decide, rfl, rfl, fun _ => rfl⟩
  cases f <;> exact ⟨rfl, rfl, rfl, rfl, rfl, rfl, rfl, fun _ => rfl⟩
/-- A barrier at 0x20900 with one arrival to come of two, phase 0; b in s14 is the largest count, in s15 one more. -/
def barrierLab : State :=
  regs [(14, 0xFFFFFFFFFFFF), (15, 0x1000000000000)] { engineLab with home := cells (tables ++ [(0x20000, 4), (0x20900, 1), (0x20908, 2)]) }
def flipped : State := { barrierLab with flips := [(0x20900, 1)], conts := [contWith 7 9 (.barrier 0x20900 true)] }

theorem reaches (o : LE) (s s2 : State) (k : Nat) (hc : conflicts (settleMatrix s) (getS s o.fa) 16 true = false)
    (hk : keyOf (settleMatrix s) .store (getS s o.fa) 16 0 = .ok k s2) (hp : pointPoisoned s2 5 k 16 = false) :
    barrierAt o s k s2 := ⟨hc, hk, hp⟩

theorem witness_CountBarrierResults :
    (2 ^ 63 + 1 < 2 ^ 64 ∧ (2 ^ 63 : Nat) % 2 ^ 48 = 0 ∧ 0 < (2 ^ 48 - 1) % 2 ^ 48 ∧ 2 ^ 48 - 2 < (2 ^ 48 - 1) % 2 ^ 48 ∧ (2 ^ 63 + 1) % 2 ^ 48 ≤ 1) ∧
    (settledFor [13, 14, 14] barrierLab ∧ (∃ k s3, barrierAt (leFor 13 14 14) barrierLab k s3 ∧ (cbWord s3 (me s3) k).testBit 63 ≠ (getS barrierLab 14).getLsbD 0) ∧
      (∃ k s3, barrierAt (leFor 13 0 0) barrierLab k s3 ∧ (cbWord s3 (me s3) k).testBit 63 = (getS barrierLab 0).getLsbD 0) ∧
      getS barrierLab 14 ≠ 0 ∧ (getS barrierLab 14).toNat < 2 ^ 48) ∧
    (∃ k s3 ks s4, barrierAt (leFor 13 0 0) (barrierLab.updC fun c => { c with crec := 0x20A00 }) k s3 ∧ suspendCheck s3 = .ok ks s4 ∧ xBusy s4 = false ∧
      (cbWord s3 (me s3) k).testBit 63 = (getS barrierLab 0).getLsbD 0 ∧ (releaseUnkept (drainMatrix s4)).1 = none) ∧
    (settledFor [13, 15, 15] barrierLab ∧ xBusy barrierLab = false ∧ 2 ^ 48 ≤ (getS barrierLab 15).toNat ∧ getS barrierLab 0 = 0) ∧
    (contOf flipped 7 = some (contWith 7 9 (.barrier 0x20900 true)) ∧
      ∃ k s1, barrierKey flipped (asked (contWith 7 9 .done).th) 0x20900 = (.ok k, s1) ∧ (cbWord s1 (asked (contWith 7 9 .done).th) k).testBit 63 ≠ true ∧
        assoc s1.flips k = some 1 ∧ Nat.testBit 1 63 = (cbWord s1 (asked (contWith 7 9 .done).th) k).testBit 63) := by
  refine ⟨by decide, ⟨settled _ _ rfl, ⟨_, _, reaches _ _ _ _ rfl rfl rfl, by decide⟩, ⟨_, _, reaches _ _ _ _ rfl rfl rfl, by decide⟩, by decide, by decide⟩,
    ⟨_, _, _, _, reaches _ _ _ _ rfl rfl rfl, rfl, rfl, by decide, rfl⟩, ⟨settled _ _ rfl, rfl, by decide, rfl⟩, rfl, _, _, rfl, by decide, rfl, by decide⟩

/-- Registration: a descriptor of a broadcast-free bf16 view at 0x20B00, and a bad one at 0x20B40; read words of handle 0 with each policy. -/
def registering : State :=
  let s := regs [(1, 0x20B00), (2, 0x20B40), (3, 0), (4, 0x10000), (5, 0x20000), (6, 0x30000), (7, 99)] (vectors 0x0B 4 engineLab)
  { s with t := { s.t with snap := cells ((viewDesc.mapIdx fun i w => (0x20B00 + 8 * i, w)) ++ [(0x20B40, 1)]) } }
def viewed (b : Block) : State := { registering with views := [view0 b], masters := [master0] }
def aged : Block := { freshBlock with state := .stale, f := 1 }
/-- The same with the thread's count of the master's publications at 2. -/
def seenTwo (b : Block) : State := (viewed b).updT fun t => { t with seen := [(1, 2)] }

theorem one_block (s : State) (die : Nat) (p : View → Block → Bool) (r : BlockRef)
    (h : (s.views.mapIdx fun i v => (v.copies.mapIdx fun j c =>
      (c.blocks.mapIdx fun k b => if b.die == die && p v b then [{ view := i, copy := j, block := k : BlockRef }] else []).flatten).flatten).flatten = [r]) :
    dieBlocks s die p = [r] := by
  unfold dieBlocks
  rw [h]
  simp

theorem no_block (s : State) (die : Nat) (p : View → Block → Bool)
    (h : (s.views.mapIdx fun i v => (v.copies.mapIdx fun j c =>
      (c.blocks.mapIdx fun k b => if b.die == die && p v b then [{ view := i, copy := j, block := k : BlockRef }] else []).flatten).flatten).flatten = []) :
    dieBlocks s die p = [] := by
  unfold dieBlocks
  rw [h]
  simp

theorem witness_ViewResults :
    (settledFor [1] registering ∧ xBusy registering = false ∧ (getS (publish (drainMatrix registering) 4) 1).toNat % 64 = 0 ∧
      (∃ d s2, loadWords (getS (publish (drainMatrix registering) 4) 1) 8 0 (publish (drainMatrix registering) 4) = .ok d s2 ∧
        ∃ x pas, registerCheck d s2 = .ok (x, pas)) ∧
      ∃ d s2, loadWords (getS (publish (drainMatrix registering) 4) 2) 8 0 (publish (drainMatrix registering) 4) = .ok d s2 ∧ registerCheck d s2 = .error 1) ∧
    (runsNow .elements (viewed freshBlock) ∧ readReserved (getS (viewed freshBlock) 3) = false ∧ namedView (viewed freshBlock) 0 0 0 = some (view0 freshBlock) ∧
      masterOf (viewed freshBlock) (view0 freshBlock) = some master0 ∧ vtType (viewed freshBlock) = 0x0B ∧ (view0 freshBlock).ty = 0x0B ∧
      readable (viewed freshBlock) (view0 freshBlock) master0 0 0 = some { die := 0, blocks := [freshBlock] } ∧
      (viewed freshBlock).t.ctl.vl ≤ vtGrp (viewed freshBlock) * 8192 / 16 ∧ (1 : BitVec 5).toNat % vtGrp (viewed freshBlock) = 0 ∧
      sourcesAt [] (regsOf 1 1) none (viewed freshBlock) (viewed freshBlock) ∧ plainDest (regsOf 1 1) (viewed freshBlock) ∧
      ∀ i < 4, viewElem (viewed freshBlock) 0 master0 (some { die := 0, blocks := [freshBlock] }) i i = .ok (i + 1)) ∧
    (3 < master0.total ∧ ([aged] : List Block)[3 / master0.perBlock]? = some aged ∧ aged.state ≠ .faulted ∧ aged.f < nObs (seenTwo aged).t master0 ∧
      readPol (getS (seenTwo aged) 3) = 0 ∧ readPol (getS (seenTwo aged) 6) = 3 ∧ readPol (getS (seenTwo aged) 5) = 2 ∧ readPol 0x1010000 = 1 ∧
      nObs (seenTwo aged).t master0 - readN 0x1010000 ≤ aged.f ∧ nObs (seenTwo freshBlock).t master0 ≤ master0.pc) ∧
    (settledFor [3, 0] (viewed freshBlock) ∧ viewWait (viewed freshBlock) (viewed freshBlock).t 0 0 ≠ none ∧ viewWait (seenTwo aged) (seenTwo aged).t 0 0 = none) ∧
    (∃ ks s1, suspendCheck ((seenTwo aged).updC fun c => { c with crec := 0x20A00 }) = .ok ks s1 ∧ xBusy s1 = false ∧ (releaseUnkept (drainMatrix s1)).1 = none) ∧
    ((getS (viewed freshBlock) 7).toNat < 2 ^ 16 ∧ (∀ v ∈ (viewed freshBlock).views, ¬(v.part = 0 ∧ v.handle = (getS (viewed freshBlock) 7).toNat)) ∧
      ((viewed freshBlock).views.find? fun v => v.part == 0 && v.handle == (getS (viewed freshBlock) 3).toNat) = some (view0 freshBlock) ∧
      (∀ c ∈ (view0 freshBlock).copies, ∀ b ∈ c.blocks, b.state ≠ .refreshing) ∧ ∀ c ∈ (viewed freshBlock).cmds, c.kind ≠ .xcopyView) ∧
    (dieBlocks (viewed aged) 0 (fun _ b => b.state == .refreshing) = [] ∧
      (dieBlocks (viewed aged) 0 fun v b => b.state == .stale && v.lands (viewed aged)).head? = some ⟨0, 0, 0⟩ ∧
      blockOfRef (viewed aged) ⟨0, 0, 0⟩ = some (view0 aged, aged) ∧ masterOf (viewed aged) (view0 aged) = some master0 ∧ (viewed aged).poison = [] ∧
      (viewed aged).zblocks = []) ∧
    ((dieBlocks (viewed { aged with state := .refreshing }) 0 fun _ b => b.state == .refreshing).head? = some ⟨0, 0, 0⟩ ∧
      blockOfRef (viewed { aged with state := .refreshing }) ⟨0, 0, 0⟩ = some (view0 { aged with state := .refreshing }, { aged with state := .refreshing }) ∧
      (view0 { aged with state := .refreshing }).lands (viewed { aged with state := .refreshing }) = true) := by
  refine ⟨⟨settled _ _ rfl, rfl, by decide, ⟨_, _, rfl, _, _, rfl⟩, _, _, rfl, rfl⟩,
    ⟨idle_now _ _ rfl rfl rfl rfl, rfl, rfl, rfl, rfl, rfl, rfl, by decide, rfl, no_binds_sources _ _ _ _ rfl rfl, no_binds_plain _ _ rfl, by decide⟩,
    ⟨by decide, rfl, by decide, by decide, rfl, rfl, rfl, rfl, by decide, by decide⟩, ⟨settled _ _ rfl, by decide, rfl⟩, ⟨_, _, rfl, rfl, rfl⟩,
    ⟨by decide, by decide, rfl, by decide, by decide⟩, ⟨no_block _ _ _ rfl, ?_, rfl, rfl, rfl, rfl⟩, ?_, rfl, rfl⟩
  · rw [one_block _ _ _ ⟨0, 0, 0⟩ rfl]
    rfl
  · rw [one_block _ _ _ ⟨0, 0, 0⟩ rfl]
    rfl
/-- The same view in bfp8 (type 0x16), and one of which the block has failed. -/
def view8 (b : Block) : View := { view0 b with desc := ([0xA40C, 0x60000, 0x100000004, 0x100000001, 0x16, 0x20000, 0, 0] : List Nat).map (BitVec.ofNat 64) }
def viewed8 : State := { registering with t := { registering.t with ctl := { registering.t.ctl with vtype := 0x16 } }, views := [view8 freshBlock], masters := [master0] }

theorem witness_ViewResults_blocks :
    (runsNow .elements viewed8 ∧ laneOf viewed8 = none ∧ readReserved (getS viewed8 3) = false ∧ namedView viewed8 0 0 0 = some (view8 freshBlock) ∧
      masterOf viewed8 (view8 freshBlock) = some master0 ∧ vtType viewed8 = 0x16 ∧ (view8 freshBlock).ty = 0x16 ∧ isBfp 0x16 = true ∧
      (view8 freshBlock).axis = 0 ∧ (view8 freshBlock).blc = vtBl viewed8 ∧ (getS viewed8 0).toNat % 2 ^ (vtBl viewed8 + 3) = 0 ∧
      scaleFits viewed8 (readK (getS viewed8 3)) = true ∧ readable viewed8 (view8 freshBlock) master0 0 0 = some { die := 0, blocks := [freshBlock] } ∧
      viewed8.t.ctl.vl ≤ vtGrp viewed8 * 1024 ∧ (1 : BitVec 5).toNat % vtGrp viewed8 = 0 ∧
      sourcesAt [] (regsOf 1 1) none viewed8 viewed8 ∧ plainDest (regsOf 1 1) viewed8 ∧
      ∀ i < viewed8.t.ctl.vl, viewElem viewed8 0 master0 (some { die := 0, blocks := [freshBlock] }) i i = .ok (i + 1)) ∧
    (namedView (viewed freshBlock) 0 0 99 = none ∧ readable (viewed freshBlock) (view0 freshBlock) master0 1 0 = none) ∧
    (readable (viewed aged) (view0 aged) master0 0 0 = some { die := 0, blocks := [aged] } ∧ master0.pc < 2 ^ 48 ∧
      readable (viewed { aged with state := .faulted }) (view0 { aged with state := .faulted }) master0 0 0 = some { die := 0, blocks := [{ aged with state := .faulted }] }) ∧
    (aged.state ≠ .faulted ∧ readPol 0 = 0 ∧ ¬(nObs (seenTwo aged).t master0 ≤ aged.f) ∧ nObs (seenTwo freshBlock).t master0 ≤ master0.pc) := by
  refine ⟨⟨idle_now _ _ rfl rfl rfl rfl, rfl, rfl, rfl, rfl, rfl, rfl, rfl, rfl, rfl, rfl, rfl, rfl, by decide, rfl, no_binds_sources _ _ _ _ rfl rfl,
    no_binds_plain _ _ rfl, by decide⟩, ⟨rfl, rfl⟩, ⟨rfl, by decide, rfl⟩, by decide⟩

/-! Pools: number 5 of partition 0 with shelves on dies 0 and 1; the thread runs on die 0. -/

def elem (k seq : Nat) : Elem := { key := k, payload := k + 100, order := (1, 1, seq), stamp := 0 }
def shelf (die : Nat) (es : List Elem) : Shelf := { Shelf.start die with elems := es, now := { count := es.length, pseq := es.length, lowest := es } }
def pool (a b : List Elem) : Pool where
  part := 0
  num := 5
  cap := 4
  limit := 4096
  pkg := 0
  closed := false
  shelves := [shelf 0 a, shelf 1 b]
  moving := []
  takes := []
  waiters := []
  held := false
  drainers := []
  tcAt := 0
  emptyRun := false
  passed := 0
def pooled (p : Pool) : State :=
  { regs [(1, 5), (2, 7), (3, 8)] lab with parts := [{ ours with units := [(.fabric 0 0, 1), (.fabric 0 1, 1)] }], pools := [p], boundary := [(0, 3)] }
def taking (served : Option Elem) : PoolTake := { id := 9, uid := 1, pc := 0, frm := 0, bound := 64, since := 1, tried := 0, served := served }
def emptyPool (closed : Bool) : Pool := { pool [] [] with closed := closed, emptyRun := true, takes := [taking none] }
def stealing : Pool := { pool [] [elem 4 0] with takes := [taking none] }
def put1 : LE := leFor 1 2 3
def drain1 (n : Option Nat) : PoolDrain := { uid := 1, pc := 0, removed := n }
/-- Two puts that wait on the shelf of die 0 for a boundary. -/
def putting : Pool := let p := pool [elem 3 0] []
  { p with shelves := p.shelves.map fun x => if x.die = 0 then { x with puts := [⟨1, 7, 8, 0⟩, ⟨2, 6, 9, 1⟩], accepted := 2 } else x }

theorem witness_PoolResults :
    (settledFor [1, 2, 3] lab ∧ xBusy lab = false ∧ ∀ p, ¬namesPool put1 lab p) ∧
    (settledFor [1, 2, 3] (pooled (pool [elem 3 0] [])) ∧ namesPool put1 (pooled (pool [elem 3 0] [])) (pool [elem 3 0] []) ∧
      storesQueued (pooled (pool [elem 3 0] [])) = false ∧
      poolOf (publish (drainMatrix (pooled (pool [elem 3 0] []))) 4) 0 (getS (publish (drainMatrix (pooled (pool [elem 3 0] []))) 4) 1).toNat = some (pool [elem 3 0] []) ∧
      (pool [elem 3 0] []).size < (pool [elem 3 0] []).cap ∧ poolNoBound (publish (drainMatrix (pooled (pool [elem 3 0] []))) 4) (pool [elem 3 0] []) = false) ∧
    ((pool [elem 1 0, elem 2 1] [elem 3 2, elem 4 3]).cap ≤ (pool [elem 1 0, elem 2 1] [elem 3 2, elem 4 3]).size ∧
      poolNoBound ({ pooled (pool [] []) with parts := [ours] }) (pool [] []) = true) ∧
    (poolNoBound (pooled (pool [elem 3 0] [elem 4 1])) (pool [elem 3 0] [elem 4 1]) = false ∧
      (∀ x ∈ (pool [elem 3 0] [elem 4 1]).shelves, ∀ y ∈ x.puts, y.uid ≠ 1) ∧ (∀ k ∈ (pool [elem 3 0] [elem 4 1]).takes, k.uid ≠ 1) ∧
      localServe (pool [elem 3 0] [elem 4 1]) 0 ((pooled (pool [elem 3 0] [elem 4 1])).t.ctl.pbnd.toList.getD ((0 : BitVec 13).toNat % 4) 64) = some (elem 3 0, false) ∧
      localServe { pool [elem 3 0] [] with tcAt := 4096 } 0 64 = some (elem 3 0, true) ∧ localServe (pool [] [elem 4 1]) 0 64 = none ∧ (pool [] [elem 4 1]).emptyRun = false) ∧
    (∀ b, namesPool put1 (pooled (emptyPool b)) (emptyPool b) ∧
      ((emptyPool b).takes.find? fun k => k.uid == 1 && k.pc == 0) = some (taking none) ∧ (taking none).served = none ∧
      localServe (emptyPool b) (taking none).frm (taking none).bound = none ∧ (emptyPool b).emptyRun = true ∧ (taking none).since < boundaryOf (pooled (emptyPool b)) (emptyPool b).pkg ∧
      (emptyPool b).closed = b ∧
      let s0 := (pooled (emptyPool b)).updC fun c => { c with crec := 0x20A00 }
      ∃ ks s1, suspendCheck s0 = .ok ks s1 ∧ xBusy s1 = false ∧ s1.t = s0.t ∧ s1.boundary = s0.boundary ∧
        (releaseUnkept (drainMatrix (endTake s1 (emptyPool b) 9))).1 = none) ∧
    (1 ≤ (getS (pooled (pool [] [])) 1).toNat ∧ (getS (pooled (pool [] [])) 1).toNat ≤ 4096 ∧
      (∀ n, (({ pool [] [] with drainers := [drain1 n] } : Pool).drainers.find? fun d => d.uid == 1 && d.pc == 0) = some (drain1 n)) ∧
      ((pool [] []).drainers.find? fun d => d.uid == 1 && d.pc == 0) = none ∧ storesQueued (pooled (pool [] [])) = false ∧
      poolNoBound (publish (drainMatrix (pooled (pool [] []))) 4) (pool [] []) = false ∧ (1 : BitVec 13).toNat % 4 = 1 ∧
      poolOf (publish (drainMatrix (pooled (pool [] []))) 4) 0 5 = some (pool [] [])) ∧
    (poolOf (pooled (pool [] [])) 0 5 = some (pool [] []) ∧ (pool [] []).waiters = []) ∧
    (putting ∈ (pooled putting).pools ∧ putting.pkg = 0 ∧ ((pooled putting).pools.map fun q => (q.part, q.num)).Nodup ∧
      (∀ q ∈ (pooled putting).pools, q.pkg = 0 → q.waiters = []) ∧ (putting.shelves.map Shelf.die).Nodup ∧
      (∀ x ∈ putting.shelves, (x.puts.map Put.seq).Nodup) ∧ (∀ d ∈ putting.drainers, d.removed ≠ none) ∧
      (∀ k ∈ putting.takes, k.bound ≠ 1 ∨ k.served ≠ none) ∧ (∀ y ∈ standing putting, y.order.1 < boundaryOf (pooled putting) 0) ∧
      ∃ x ∈ putting.shelves, x.puts.length = 2) ∧
    (((pooled stealing).pools.find? fun p => p.takes.any fun k => k.id == 9) = some stealing ∧ (stealing.takes.find? fun k => k.id == 9) = some (taking none) ∧
      (taking none).tried ≤ boundaryOf (pooled stealing) stealing.pkg ∧ localServe stealing 0 64 = none ∧ stealTarget stealing = some 1 ∧
      stealing.shelfOf 1 = some (shelf 1 [elem 4 0]) ∧ lowestElem (shelf 1 [elem 4 0]).elems = some (elem 4 0) ∧ stealing.est 1 (elem 4 0) < 64) ∧
    (({ pool [] [elem 4 0] with waiters := [7] } : Pool).waiters = 7 :: [] ∧
      lowestElem (({ pool [] [elem 4 0] with waiters := [7] } : Pool).shelves.map Shelf.elems).flatten = some (elem 4 0)) := by
  refine ⟨⟨settled _ _ rfl, rfl, fun p h => by cases h.2.1⟩, ⟨settled _ _ rfl, ⟨by decide, rfl, rfl⟩, rfl, rfl, by decide, rfl⟩, ⟨by decide, rfl⟩,
    ⟨rfl, by decide, by decide, rfl, by decide, rfl, rfl⟩, ?_, ⟨by decide, by decide, fun n => rfl, rfl, rfl, rfl, rfl, rfl⟩, ⟨rfl, rfl⟩,
    ⟨List.mem_singleton.mpr rfl, rfl, by decide, by decide, by decide, by decide, by decide, by decide, by decide, by decide⟩,
    ⟨rfl, rfl, by decide, rfl, rfl, rfl, rfl, by decide⟩, rfl, rfl⟩
  intro b
  cases b <;> exact ⟨⟨by decide, rfl, rfl⟩, rfl, rfl, rfl, rfl, by decide, rfl, _, _, rfl, rfl, rfl, rfl, rfl⟩

def calls (a0 a1 a2 a3 : Word) (frames : List Nat) : Call :=
  { part := 0, pkg := 0, core := 0, a0 := a0, a1 := a1, a2 := a2, a3 := a3, frames := frames, tables := [], bytes := [] }
def ours2 : Partition := { ours with slot := 1, quads := [1] }
def twoParts : State := { engineLab with parts := [ours, ours2], nextLaunch := 2, tethers := [] }
def tether0 : Tether :=
  { sender := 0, senderTid := 1, receiver := 1, receiverTid := 1, pkg := 0, base := 0x60000, size := 0x100, revoked := false, ended := false }

theorem witness_HorsilServices :
    (knownService (0x70 : BitVec 16).toNat = false ∧ knownService 0x31 = true ∧ svcAllowed 0x31 = false ∧ svcAllowed 0x10 = true) ∧
    (partOf twoParts 0 = some ours ∧ ours.ended = false) ∧ (launchOf twoParts (1 : Word).toNat = some launch1 ∧ launch1.part = 0) ∧
    (poolOf twoParts 0 (255 : Word).toNat = none ∧ (255 : Word).toNat ≤ 255 ∧ (0x100000000 : Word).toNat ≤ 2 ^ 32 ∧ ∃ d ∈ dieList ours, d / 8 = 0) ∧
    (poolOf (pooled (pool [] [])) 0 (5 : Word).toNat = some (pool [] [])) ∧
    (partLives twoParts 0 = true ∧ partLives twoParts (1 : Word).toNat = true ∧ freeTid twoParts 0 = some 1 ∧ freeTid twoParts (1 : Word).toNat = some 1 ∧
      rangeMapped twoParts { part := 1, pkg := 0, core := none, die := 0 } .store 0x60000 (0x100 : Word).toNat = true) ∧
    (∃ x ∈ ({ twoParts with tethers := [tether0] } : State).tethers, x.revoked = false ∧ x.sender = 0 ∧ x.senderTid = (1 : Word).toNat) ∧
    (pagesOk 0x70000 (0x10000 : Word).toNat = true ∧ rightsOk (3 : Word).toNat = true ∧
      touchesQueue twoParts (calls 0x70000 0x10000 3 0 [0x70000]) (0x10000 : Word).toNat = false ∧
      (∀ va ∈ rangePages 0x70000 (0x10000 : Word).toNat, leafOf twoParts 0 0 (BitVec.ofNat 64 va) = none) ∧ (rangePages 0x70000 (0x10000 : Word).toNat).length = 1 ∧
      0x70000 % 2 ^ 16 = 0 ∧ field 0x70000 51 44 = 0 ∧ field 0x70000 43 42 = 0 ∧ populated 0x70000 = true) ∧
    (pagesOk 0x60000 (0x10000 : Word).toNat = true ∧ touchesQueue twoParts (calls 0x60000 0x10000 0 0 []) (0x10000 : Word).toNat = false ∧
      ∀ va ∈ rangePages 0x60000 (0x10000 : Word).toNat, ∃ at_ e, walk twoParts 0 0 va = .leaf at_ e 0) ∧
    (∃ bs s1, hardRead (Call.who (calls 0x60000 4 0 0 [])) 0x60000 (4 : Word).toNat twoParts = (some bs, s1)) ∧
    (∃ nonce s1, hardRead (Call.who (calls 0x60000 0x60100 0 0 [])) 0x60000 32 twoParts = (some nonce, s1) ∧
      ∃ ks s2, engineKeys (Call.who (calls 0x60000 0x60100 0 0 [])) 0x60100 (quoteBytes 0 nonce (bootOf s1 0)).length 0 s1 = (ks, none, s2)) ∧
    (∃ s1, hardRead (Call.who (calls 0x60000 0 0 0 [])) 0x60000 (calls 0x60000 0 0 0 []).bytes.length twoParts = (some [], s1)) ∧
    xBusy twoParts = false := by
  refine ⟨by decide, ⟨rfl, rfl⟩, ⟨rfl, rfl⟩, ⟨rfl, by decide, by decide, 0, by simp [dieList, ours], rfl⟩, rfl, ⟨rfl, rfl, rfl, rfl, rfl⟩, by decide,
    ⟨by decide, by decide, rfl, by decide, by decide, by decide⟩, ⟨by decide, rfl, ?_⟩, ⟨_, _, rfl⟩, ⟨_, _, rfl, _, _, rfl⟩, ⟨_, rfl⟩, rfl⟩
  intro va h
  have e : rangePages 0x60000 (0x10000 : Word).toNat = [0x60000] := by decide
  rw [e, List.mem_singleton] at h
  subst h
  exact ⟨_, _, rfl⟩
/-- A launch packet of one node at 0x60000: its descriptor at 0x60040 with word 6 as given, its completion queue at 0x60200 with a number of slots. -/
def packetLab (w6 slots : Nat) : State := { engineLab with
  nextLaunch := 2
  home := cells (tables ++ [(0x60000, 0x10000), (0x60010, 0x60040), (0x60018, 0x60080), (0x60020, 0x60100), (0x60028, 0x60200), (0x60040, 0x20000),
    (0x60070, w6), (0x60200, slots)]) }

theorem dies_ours : dieList ours = [0] := by simp [dieList, ours]

theorem witness_LaunchAcceptedOrRefused :
    let c := calls 0x60000 0 0 0 []
    let copies := fun (hb : List Byte) (s : State) => readCopies 0 (wordsOf 8 hb) (dieList ours) s
    (∀ w6 n, partOf (packetLab w6 n) 0 = some ours ∧ ours.ended = false ∧ ∀ l ∈ (packetLab w6 n).launches, l.num < (packetLab w6 n).nextLaunch) ∧
    (∃ hb s1, hardRead (Call.who c) c.a0 64 (packetLab 0 64) = (some hb, s1) ∧
      queueOk (copies hb s1).2 (Call.who c) ((wordsOf 8 hb).getD 5 0) = true ∧ ∀ x ∈ (copies hb s1).1, dieFinds (copies hb s1).2 0 x = none) ∧
    (∃ hb s1, hardRead (Call.who c) c.a0 64 (packetLab 1 64) = (some hb, s1) ∧
      queueOk (copies hb s1).2 (Call.who c) ((wordsOf 8 hb).getD 5 0) = true ∧ ∃ x ∈ (copies hb s1).1, dieFinds (copies hb s1).2 0 x = some 2 ∧
        ∀ y ∈ (copies hb s1).1, ∀ j, dieFinds (copies hb s1).2 0 y = some j → 2 ≤ j) ∧
    ∃ hb s1, hardRead (Call.who c) c.a0 64 (packetLab 0 63) = (some hb, s1) ∧
      queueOk (copies hb s1).2 (Call.who c) ((wordsOf 8 hb).getD 5 0) = false := by
  simp only [dies_ours]
  refine ⟨fun _ _ => ⟨rfl, rfl, fun l h => ?_⟩, ⟨_, _, rfl, rfl, ?_⟩, ⟨_, _, rfl, rfl, ?_⟩, _, _, rfl, rfl⟩
  · cases List.mem_singleton.mp h
    exact Nat.lt_succ_self 1
  · intro x h
    cases List.mem_singleton.mp h
    rfl
  · refine ⟨_, List.mem_singleton.mpr rfl, rfl, fun y h j e => ?_⟩
    cases List.mem_singleton.mp h
    cases e
    exact Nat.le_refl 2

theorem witness_MapMemoryCompletes :
    let c := calls 0x70000 0x10000 3 0 [0x70000]
    partOf engineLab 0 = some ours ∧ ours.ended = false ∧ assoc ours.roots 0 = some 0x40000 ∧ 0x40000 % 8 = 0 ∧ engineLab.home.wf = true ∧
      engineLab.zblocks = [] ∧ (∀ x ∈ engineLab.homeSeq, x.2 ≤ engineLab.pubs) ∧ pagesOk c.a0 c.a1.toNat = true ∧ rightsOk c.a2.toNat = true ∧
      c.a3.toNat ≤ 2 ∧ touchesQueue engineLab c c.a1.toNat = false ∧ (rangePages c.a0 c.a1.toNat).length ≤ c.frames.length ∧ (∀ f ∈ c.frames, f < 2 ^ 52) ∧
      framesOk engineLab c (rangePages c.a0 c.a1.toNat) c.a3.toNat (field c.a2.toNat 1 1 == 1) = true ∧
      (rangePages c.a0 c.a1.toNat).map (fun va => freeLeaf engineLab.home 0 va [4, 3, 2, 1, 0] 0x40000) = [0x44038].map some ∧ [0x44038].Nodup :=
  ⟨rfl, rfl, rfl, rfl, by decide, rfl, by decide, by decide, by decide, by decide, rfl, by decide, by decide, by decide, by decide, by decide⟩

/-! The scheduler, faults and the machine's own happenings -/

def readyNode : Ready := { die := 0, part := 0, work := .node 1 1, prio := 3, since := 0, aged := false, listed := false }
def dispatching : State := { launched with ready := [readyNode] }
def readyResume (listed : Bool) : Ready := { readyNode with work := .resume 7, listed := listed }
def resuming (listed : Bool) : State :=
  { lab with
    cycle := 16384
    parts := [{ ours with quads := [0, 12], resume := if listed then [7] else [] }]
    conts := [contWith 7 9 .done]
    ready := [readyResume listed] }
def crossing : Node := { node 1 .waiting with crossLeft := 1 }
/-- Node 1 waits for its edge barrier at 0x20110, whose phase has flipped. -/
def edgeLab : State :=
  { engineLab with launches := [{ launch1 with nodes := [node 0 .running, crossing] }], home := cells (tables ++ [(0x20110, 2 ^ 63)]) }

/-- The access stream waits for an element of queue 0, the oldest execute-stream instruction for room in queue 1. -/
def stuck : State := handled.updT fun t => { t with
  pc := 0x20000
  line := some (0x20000, 0x4004 :: List.replicate 31 0)
  vq := [{ fadd5 with head := 0x4005, tail := 0x400 }]
  dq := t.dq.set 1 (List.replicate 8 0) }
def pageFaulted : State := lab.updT fun t => { t with status := .pageFault faultTrap false }

theorem witness_SchedulerAndFaultEvents :
    (dispatching.ready = [readyNode] ∧ ∃ t, placeEntry dispatching readyNode = some t) ∧ (∀ r ∈ lab.ready, r.die = 0 → placeEntry lab r = none) ∧
    ((∀ x ∈ allThreads launched, x.uid ≠ launched.nextUid) ∧ (node 1 .waiting).folios = [] ∧ launchOf launched 1 = some launch1) ∧
    (readyResume false ∈ (resuming false).ready ∧ 16384 ≤ (resuming false).cycle - (readyResume false).since ∧
      (unpinned (resuming false) (readyResume false)).isSome = true ∧ (partOf (resuming false) 0).isSome = true) ∧
    (((resuming true).parts.map Partition.resume).flatten = 7 :: [] ∧
      ((resuming true).ready.find? fun x => x.work == .resume 7 && takesListed (resuming true) 1 x) = some (readyResume true)) ∧
    (∃ l, launchOf edgeLab 1 = some l ∧ nodeOf edgeLab 1 1 = some crossing ∧ 0 < crossing.crossLeft ∧ crossing.state = .waiting ∧ crossing.left = 0 ∧
      ∃ k s1, barrierKey edgeLab (dieWho l.part crossing.die) (edgeAddr l 1) = (.ok k, s1) ∧ (cbWord s1 (dieWho l.part crossing.die) k).testBit 63 = true) ∧
    (stuck.t.status = .running ∧ accessWaits stuck = true ∧ hasCommands stuck 1 = false ∧ hasPuts stuck 1 = false ∧ stuck.t.mq = [] ∧ runningLanes stuck = [] ∧
      (∃ e, queueWait stuck = some (1, e)) ∧ stuck.t.ctl.tvec ≠ 0 ∧ stuck.t.ctl.inh = false) ∧
    (lab.t.status = .running ∧ xBusy lab = false ∧ lab.t.xctx = none) ∧
    (pageFaulted.t.status = .pageFault faultTrap false ∧ pageFaulted.codices = [] ∧ xBusy pageFaulted = false ∧ pageFaulted.t.xctx = none) ∧
    ((lab.errLog.filter fun x => x.die == 0).length < 4096 ∧ 0x18 < 256) ∧
    (lab.t.vq = [] ∧ lab.t.xdec = [] ∧ runningLanes lab = [] ∧ (folioAt (folioMat 0) 0 3).isSome = true) := by
  refine ⟨⟨rfl, ?_⟩, by decide, by decide, ⟨by decide, by decide, rfl, rfl⟩, ⟨rfl, by decide +kernel⟩, ⟨_, rfl, rfl, by decide, rfl, rfl, _, _, rfl, by decide⟩,
    ⟨rfl, rfl, rfl, rfl, rfl, rfl, ⟨_, rfl⟩, by decide, rfl⟩, ⟨rfl, rfl, rfl⟩, ⟨rfl, rfl, rfl, rfl⟩, by decide, ⟨rfl, rfl, rfl, rfl⟩⟩
  exact Option.isSome_iff_exists.mp (by decide +kernel)

/-- A migration of the page at 0x60000; the partition's share ends before 0x100000000. -/
def movingTo (pa : Nat) : State := { engineLab with moves := [{ part := 0, pkg := 0, va := 0x60000, newPa := pa }] }
def moving : State := movingTo 0x80000
def share (part demand units : Nat) : PathShare := { part := part, demand := demand, units := units, got := 0 }
def savedOne : Saved := { th := { Thread.blank with uid := 5, status := .running }, quad := 0, folios := [], area := 0 }
def resumable : State := { lab with parts := [{ ours with quads := [0, 1] }], saved := [savedOne] }
def codex0 : Codex :=
  { part := 0, codeBase := 0x20000, dataBase := 0, code := List.replicate 64 0, file := [], hashes := [], records := [], control := [], launches := [1] }
def spec5 (u : Nat) : PartitionSpec :=
  { slot := 5, quads := [2], roots := [(0, 89 * 2 ^ 30)], shares := [(2 ^ 32, 1)], units := [(.fabric 0 0, u)], catPkg := 0, catBase := 2 ^ 32,
    catSize := 1024, stackSize := 2 ^ 16
    stackTops := ((List.range 32).filter fun i => decide (i % 8 < slotsOf (8 + i / 8))).map fun i => (64 + i, BitVec.ofNat 64 (2 ^ 24 + 2 ^ 16 * i)) }
def outcome (ok : Bool) : StartOutcome := { pkg := 0, ok := ok, image := [], signature := [], codex := none }
def stoppedLab : State := updBoot lab 0 fun b => { b with stopped := true }
/-- A package whose host port trained at step 6 of its start. -/
def hosted : State := updBoot lab 0 fun b => { b with record := [[⟨6, [⟨0, true⟩]⟩]] }

/-- A codex of one code page without records, with its places, and a machine with an enrolled key. -/
def codexFile (ps : List CodexPlace) : CodexFile :=
  { pkg := 0, bytes := List.replicate 448 0, manifest := [], crela := [], codeBase := 0, dataBase := 0, listBase := 0, places := ps
    sections := [⟨1, 256, 0, 0, 0⟩, ⟨2, 256, 64, 1, 0⟩, ⟨5, 320, 0, 0, 0⟩, ⟨7, 320, 32, 1, 0⟩, ⟨8, 384, 64, 1, 0⟩] }
def place0 : CodexPlace := { pkg := 0, dataFrames := [], listFrames := [], tables := [] }
def keyed (k : BitVec 512) : State := updBoot lab 0 fun b => { b with keys := [k] }

theorem witness_MachineEvents :
    (leafOf engineLab 0 0 0x60000 = some (0x44030, 0x6000F, 0x60000, 0x10000) ∧ moveOk engineLab 0 0 0x60000 0x80000 0x10000 0x60000 true = true ∧ engineLab.moves = []) ∧
    ((moving.moves.find? fun m => m.part == 0 && m.pkg == 0 && m.va.toNat == (0x60000 : Word).toNat / 0x10000 * 0x10000) =
        some { part := 0, pkg := 0, va := 0x60000, newPa := 0x80000 } ∧
      leafOf moving 0 0 0x60000 = some (0x44030, 0x6000F, 0x60000, 0x10000) ∧ 0x60000 + 0x10000 ≤ 0x80000 ∧ 0x44030 + 8 ≤ 0x80000 ∧ moving.home.wf = true ∧ moving.zblocks = [] ∧
      (∀ x ∈ allThreads moving, x.mq = []) ∧ (∀ b, moveOk { movingTo (if b then 0x80000 else 0x400000000) with moves := [] } 0 0 ((0x60000 : Word).toNat % 2 ^ 57)
        (if b then 0x80000 else 0x400000000) 0x10000 0x60000 true = b) ∧
      ((movingTo 0x400000000).moves.find? fun m => m.part == 0 && m.pkg == 0 && m.va.toNat == (0x60000 : Word).toNat / 0x10000 * 0x10000) =
        some { part := 0, pkg := 0, va := 0x60000, newPa := 0x400000000 }) ∧
    (([share 1 40 30, share 2 40 34].map PathShare.part).Nodup ∧ ([share 1 40 30, share 2 40 34].map PathShare.units).sum ≤ 64) ∧
    (canonical 0x20000 = true ∧ (0x20000 : Word).toNat % 64 = 0 ∧ drainsPool lab 1 = false ∧ lab.t.status.live = true ∧ (∀ x ∈ lab.parked, x.status.live = true → teamMate lab.t x = false) ∧ lab.t.mq = [] ∧ hasCommands lab 1 = false ∧
      hasPuts lab 1 = false ∧ ∀ p ∈ lab.pools, ∀ k ∈ p.takes, k.uid ≠ 1) ∧
    ((∀ x ∈ allThreads resumable, x.uid ≠ 5) ∧ (partOf resumable 0).isSome = true ∧ 1 / 96 = savedOne.quad / 96 ∧
      ∃ l, assignCores resumable [savedOne] [savedOne.th.tci] ((List.range 4).map (1 * 4 + ·)) = some l) ∧
    (({ launched with codices := [codex0] } : State).t.status = .running ∧ launched.t.uid ≠ 0 ∧ codex0.codeBase.toNat / 2 ^ 16 * 2 ^ 16 ≤ 0x20000 ∧
      0x20000 < codex0.codeBase.toNat + codex0.code.length ∧ launched.t.launch ∈ codex0.launches) ∧
    (horsilRuns lab 0 = true ∧ partLives lab 1 = false ∧ partLives lab 0 = true ∧ codexImages lab (codexFile []) = none ∧ hostPort hosted 0 = true) ∧
    ((∃ ks s1, controlKeys (Call.who (calls 0x60000 0 0 0 [])) 0x60000 4 0 engineLab = (.ok ks, s1)) ∧
      ∃ bs s1, dieReadBytes (Call.who (calls 0x60000 0 0 0 [])) 0x60000 (min 4 8) 0 engineLab = (.ok bs, s1)) ∧
    ((∀ q ∈ (spec5 64).quads, horsilRuns lab (q / 96) = true) ∧ horsilRuns lab (pathPkg (.fabric 0 0)) = true) ∧
    (partitionOk lab (spec5 64) = true ∧ unitsOk lab 5 (spec5 64).units = true ∧ partitionOk lab (spec5 65) = true ∧ unitsOk lab 5 (spec5 65).units = false) ∧
    (unitsOthers lab 0 (.fabric 0 0) + 64 ≤ 64 ∧ 64 < unitsOthers lab 0 (.fabric 0 0) + 65) ∧
    ((bootOf stoppedLab 0).running = false ∧ (bootOf stoppedLab 0).stopped = true ∧ (bootOf State.reset 0).running = true ∧
      (bootOf State.reset 0).step < 10 ∧ stepSetting (bootOf State.reset 0) = some 0 ∧ stepUnits 0 = 1 ∧
      (bootOf State.reset 0).unit = (unitsAt (bootOf State.reset 0).present 0).length ∧ (bootOf State.reset 0).unit + 1 = stepUnits 0 ∧
      stepWorks 0 (outcome false) = false ∧ stepRequired 0 = true ∧ stepWorks 0 (outcome true) = true ∧ stepRegister 1 = some 0) ∧
    (lab.t.status = .running ∧ (lab.updT fun t => { t with status := .halted }).t.status = .halted) := by
  refine ⟨⟨rfl, by decide, rfl⟩, ⟨rfl, rfl, by decide, by decide, by decide, rfl, by decide, by decide, rfl⟩, by decide,
    ⟨by decide, by decide, rfl, rfl, by decide, rfl, rfl, rfl, by decide⟩, ⟨by decide, rfl, rfl, _, rfl⟩, by decide, ⟨rfl, rfl, rfl, rfl, rfl⟩,
    ⟨⟨_, _, rfl⟩, _, _, rfl⟩, by decide, ⟨by decide +kernel, by decide, by decide +kernel, by decide⟩, by decide, ⟨rfl, rfl, rfl, by decide, rfl, rfl, rfl, rfl, rfl, rfl, rfl, rfl⟩, rfl, rfl⟩

/-- The clauses that rest on a signature: whether one verifies is a constant without a body (log 14), so it stands here as the hypothesis. -/
theorem witness_MachineEvents_signed (k : BitVec 512)
    (h : Config.sm2Verify k (Config.sm3 (signedBytes (codexFile []))) (sectionBytes (codexFile []) 8) = true) :
    partOf (keyed k) 0 = some ours ∧ ours.ended = false ∧ horsilRuns (keyed k) 0 = true ∧ ∀ ps, ∃ m, codexImages (keyed k) (codexFile ps) = some m ∧
      (ps = [place0] → placesOk (keyed k) ours (codexFile ps) m = true) ∧ (ps = [] → placesOk (keyed k) ours (codexFile ps) m = false) := by
  refine ⟨rfl, rfl, rfl, fun ps => ⟨{ code := List.replicate 64 0, data := [], records := [] }, ?_, ?_, ?_⟩⟩
  · have g : ((bootOf (keyed k) (codexFile ps).pkg).keys.any fun k =>
        Config.sm2Verify k (Config.sm3 (signedBytes (codexFile ps))) (sectionBytes (codexFile ps) 8)) = true := by
      show (Config.sm2Verify k (Config.sm3 (signedBytes (codexFile []))) (sectionBytes (codexFile []) 8) || false) = true
      rw [h]
      rfl
    have r : runsNative (codexFile ps) = true := rfl
    have c : codexSectionsOk (codexFile ps) = true := by
      show codexSectionsOk (codexFile []) = true
      decide +kernel
    unfold codexImages
    rw [if_neg]
    · have d : sectionBytes (codexFile ps) 2 = List.replicate 64 0 := by
        show sectionBytes (codexFile []) 2 = List.replicate 64 0
        decide +kernel
      have q : sectionBytes (codexFile ps) 6 = [] := rfl
      have q3 : sectionBytes (codexFile ps) 3 = [] := rfl
      rw [d, q, q3]
      rfl
    · rw [g, r, c]
      intro x
      rcases x with x | x | x | x | ⟨x, _⟩ | ⟨x, _⟩ | x | x | x
      all_goals first
        | cases x
        | exact x rfl
  · rintro rfl
    simp [placesOk, partPkgs, dieList, ours, codexFile, place0, framesHold, placeLists]
  · rintro rfl
    simp [placesOk, partPkgs, dieList, ours, codexFile]

theorem witness_MachineEvents_measured (h : Config.sm2Verify Config.rootKey (Config.sm3 []) [] = true) : stepWorks 1 (outcome true) = true := by
  simp [stepWorks, outcome, stepRegister, h]

theorem witness_HorsilServices_certified (k : BitVec 512) (h : Config.certKey Config.rootKey [] = some k) :
    ((Config.rootKey :: (bootOf twoParts 0).keys).findSome? fun x => Config.certKey x []) = some k ∧ (bootOf twoParts 0).keys.length < 64 := by
  refine ⟨?_, by decide⟩
  simp only [List.findSome?_cons, h]

theorem witness_HorsilServices_refused (h : ∀ x, Config.certKey x [] = none) :
    ((Config.rootKey :: (bootOf twoParts 0).keys).findSome? fun x => Config.certKey x []) = none := by
  simp [h]

theorem witness_HorsilServices_full (k : BitVec 512) (h : Config.certKey Config.rootKey [] = some k) :
    let s := updBoot twoParts 0 fun b => { b with keys := List.replicate 64 0 }
    ((Config.rootKey :: (bootOf s 0).keys).findSome? fun x => Config.certKey x []) = some k ∧ 64 ≤ (bootOf s 0).keys.length := by
  refine ⟨?_, by decide⟩
  simp only [List.findSome?_cons, h]

theorem witness_EncodeDecodeRoundTrip :
    (wf (.add { fd := 31, fa := 1, fb := 2 }) = true ∧ SeqFlag.none.wf = true ∧ ∃ h w, encode (.add { fd := 31, fa := 1, fb := 2 }) .none = some (h, w) ∧
      decode h w = some (.add { fd := 31, fa := 1, fb := 2 }, .none)) ∧
    ((0x0100 : BitVec 16).extractLsb' 8 8 ≠ 0 ∧ (0 : BitVec 64).toNat < 2 ^ (16 * tailLen ((0x0100 : BitVec 16).extractLsb' 14 2).toNat)) :=
  ⟨⟨rfl, rfl, _, _, rfl, rfl⟩, by decide, by decide⟩

theorem witness_MemoryStaysCanonical : inLine.memoryOk = true ∧ ∃ t, step inLine = .next t := ⟨by decide, _, rfl⟩

def bits (n : Nat) : State := (regs [(4, 1)] lab).updT fun t => { t with bq := List.replicate n true }

theorem witness_BqputPushesOneBit : settledFor [4] (bits 15) ∧ (bits 15).t.bq.length < 16 ∧ 16 ≤ (bits 16).t.bq.length ∧ getS (bits 15) 4 ≠ 0 ∧ getS (bits 15) 5 = 0 :=
  ⟨settled _ _ rfl, by decide, by decide, by decide, rfl⟩

theorem witness_EncodedWords : (0x9100 : BitVec 16).extractLsb' 8 8 ≠ 0 ∧ (3 : BitVec 64).toNat < 2 ^ (16 * tailLen ((0x9100 : BitVec 16).extractLsb' 14 2).toNat) := by decide

theorem witness_JalLinksAndJumps : ∃ h w, encode (.jal { fd := 1, ld := 0, hd := 3 }) .none = some (h, w) := ⟨_, _, rfl⟩
end Sys2Proof.Tests
end

section
namespace Sys2Proof.Machine

/-! ## Bytes of one memory -/

theorem Memory.lt_of_mem {k : Nat} {c : Host.Cell} : ∀ {m : Memory}, Memory.above k m = true → m.wf = true → c ∈ m → k < c.1
  | [], _, _, hc => by cases hc
  | (j, b) :: r, hm, hw, hc => by
    obtain ⟨_, hj, hr⟩ := Memory.wf_cons hw
    have hkj : k < j := by simpa [Memory.above] using hm
    rcases List.mem_cons.1 hc with rfl | hc
    · exact hkj
    · exact hkj.trans (Memory.lt_of_mem hj hr hc)

/-- A byte without a cell reads as unlisted. -/
theorem Memory.read_of_forall_ne {k : Nat} : ∀ {m : Memory}, (∀ c ∈ m, c.1 ≠ k) → m.read k = Memory.unlisted
  | [], _ => rfl
  | (j, b) :: r, h => by
    have hj : k ≠ j := fun e => h (j, b) List.mem_cons_self e.symm
    have hr : Memory.read r k = Memory.unlisted := Memory.read_of_forall_ne fun c hc => h c (List.mem_cons_of_mem _ hc)
    simp only [Memory.read, if_neg hj, hr, ite_self]

/-- In the canonical form a cell's byte is what its key reads as. -/
theorem Memory.read_of_mem {c : Host.Cell} : ∀ {m : Memory}, m.wf = true → c ∈ m → m.read c.1 = c.2
  | [], _, hc => by cases hc
  | (j, b) :: r, hw, hc => by
    obtain ⟨_, hj, hr⟩ := Memory.wf_cons hw
    rcases List.mem_cons.1 hc with rfl | hc
    · simp [Memory.read]
    · have hlt : j < c.1 := Memory.lt_of_mem hj hr hc
      simp only [Memory.read]
      rw [if_neg (by omega), if_neg (by omega), Memory.read_of_mem hr hc]

/-- After writes in a row a byte reads as `b` when every write of it writes `b` and it is written or read as `b` before. -/
theorem Memory.read_foldl_write {α : Type} (k : α → Nat) (v : α → Byte) {x : Nat} {b : Byte} : ∀ (l : List α) (m : Memory), m.wf = true →
    (∀ a ∈ l, k a = x → v a = b) → (m.read x = b ∨ ∃ a ∈ l, k a = x) → (l.foldl (fun m a => m.write (k a) (v a)) m).read x = b
  | [], _, _, _, h => h.elim id fun ⟨_, ha, _⟩ => by cases ha
  | a :: r, m, hw, hv, h => by
    refine Memory.read_foldl_write k v r _ (Memory.write_wf m hw _ _) (fun c hc => hv c (List.mem_cons_of_mem _ hc)) ?_
    rw [Memory.read_write m hw]
    by_cases hx : x = k a
    · exact .inl ((if_pos hx).trans (hv a List.mem_cons_self hx.symm))
    · rcases h with h | ⟨c, hc, hk⟩
      · exact .inl ((if_neg hx).trans h)
      · rcases List.mem_cons.1 hc with rfl | hc
        · exact absurd hk.symm hx
        · exact .inr ⟨c, hc, hk⟩

theorem Memory.readN_congr {m m' : Memory} : ∀ (n a : Nat), (∀ i < n, m'.read (a + i) = m.read (a + i)) → m'.readN n a = m.readN n a
  | 0, _, _ => rfl
  | n + 1, a, h => by
    simp only [Memory.readN]
    rw [Memory.readN_congr (m := m) (m' := m') n (a + 1) fun i hi => by rw [Nat.add_assoc, Nat.add_comm 1]; exact h (i + 1) (by omega)]
    rw [show m'.read a = m.read a from h 0 (by omega)]

theorem Memory.readN_eq {m : Memory} : ∀ (bs : List Byte) (a : Nat), (∀ i (hi : i < bs.length), m.read (a + i) = bs[i]) → m.readN bs.length a = bs
  | [], _, _ => rfl
  | b :: r, a, h => by
    simp only [List.length_cons, Memory.readN]
    rw [Memory.readN_eq r (a + 1) fun i hi => by
      rw [Nat.add_assoc, Nat.add_comm 1]; exact h (i + 1) (by simpa using hi)]
    rw [show m.read a = b from h 0 (by simp)]

/-! ## Writes at the home while no block is compressed -/

theorem fillBlock_of_raw {s : State} (h : s.zblocks = []) (k : Nat) : fillBlock s k = s := by
  simp [fillBlock, h]

theorem fillRange_of_raw {s : State} (h : s.zblocks = []) (b n : Nat) : fillRange s b n = s := by
  simp [fillRange, h]

/-- The home is in its canonical form, without compressed blocks (log 2). -/
structure Raw (s : State) : Prop where
  wf : s.home.wf = true
  raw : s.zblocks = []

/-- No byte has a place in the coherence order beyond `q` (R367). -/
def PlacedBy (s : State) (q : Nat) : Prop := ∀ x ∈ s.homeSeq, x.2 ≤ q

theorem SeqMap.get_le {q : Nat} : ∀ {m : SeqMap}, (∀ x ∈ m, x.2 ≤ q) → ∀ k, m.get k ≤ q
  | [], _, _ => Nat.zero_le q
  | (j, p) :: r, h, k => by
    have hp : p ≤ q := h (j, p) List.mem_cons_self
    have hr : SeqMap.get r k ≤ q := SeqMap.get_le (fun x hx => h x (List.mem_cons_of_mem _ hx)) k
    simp only [SeqMap.get]
    split
    · exact hp
    · split
      · exact Nat.zero_le q
      · exact hr

theorem SeqMap.mem_set {k q : Nat} {x : Nat × Nat} : ∀ {m : SeqMap}, x ∈ m.set k q → x = (k, q) ∨ x ∈ m
  | [], h => .inl (List.mem_singleton.1 h)
  | (j, p) :: r, h => by
    simp only [SeqMap.set] at h
    split at h
    · exact (List.mem_cons.1 h).imp_right (List.mem_cons_of_mem _)
    · split at h
      · exact List.mem_cons.1 h
      · rcases List.mem_cons.1 h with rfl | h
        · exact .inr List.mem_cons_self
        · exact (SeqMap.mem_set h).imp_right (List.mem_cons_of_mem _)

theorem homeWrite_raw {s : State} (h : Raw s) (k : Nat) (v : Byte) (q : Nat) : Raw (homeWrite s k v q) := by
  refine ⟨homeWrite_wf h.wf k v q, ?_⟩
  unfold homeWrite
  split
  · rw [fillBlock_of_raw h.raw]
    exact h.raw
  · exact h.raw

theorem homeWrite_placedBy {s : State} (h : Raw s) {q : Nat} (hp : PlacedBy s q) (k : Nat) (v : Byte) : PlacedBy (homeWrite s k v q) q := by
  unfold homeWrite
  split
  · rw [fillBlock_of_raw h.raw]
    intro x hx
    rcases SeqMap.mem_set hx with rfl | hx
    · exact le_rfl
    · exact hp x hx
  · exact hp

theorem homeWrite_read_ne {s : State} (h : Raw s) {k x : Nat} (v : Byte) (q : Nat) (hx : x ≠ k) :
    (homeWrite s k v q).home.read x = s.home.read x := by
  unfold homeWrite
  split
  · rw [fillBlock_of_raw h.raw]
    exact (Memory.read_write _ h.wf k v x).trans (if_neg hx)
  · rfl

theorem homeWrite_read_same {s : State} (h : Raw s) {q : Nat} (hp : PlacedBy s q) (k : Nat) (v : Byte) :
    (homeWrite s k v q).home.read k = v := by
  unfold homeWrite
  rw [if_pos (SeqMap.get_le hp k), fillBlock_of_raw h.raw]
  exact (Memory.read_write _ h.wf k v k).trans (if_pos rfl)

/-- Writes in a row at the home leave every other byte. -/
theorem foldl_homeWrite_read_ne (q : Nat) {x : Nat} : ∀ (l : List (Nat × Byte)) (s : State), Raw s → (∀ p ∈ l, p.1 ≠ x) →
    (l.foldl (fun a p => homeWrite a p.1 p.2 q) s).home.read x = s.home.read x
  | [], _, _, _ => rfl
  | p :: r, s, h, hx => by
    rw [List.foldl_cons, foldl_homeWrite_read_ne q r _ (homeWrite_raw h ..) fun y hy => hx y (List.mem_cons_of_mem _ hy)]
    exact homeWrite_read_ne h _ _ (hx p List.mem_cons_self).symm

/-- A byte reads as the value that the writes of it all write. -/
theorem foldl_homeWrite_read_mem {q x : Nat} {b : Byte} : ∀ (l : List (Nat × Byte)) (s : State), Raw s → PlacedBy s q →
    (∀ p ∈ l, p.1 = x → p.2 = b) → (∃ p ∈ l, p.1 = x) → (l.foldl (fun a p => homeWrite a p.1 p.2 q) s).home.read x = b
  | [], _, _, _, _, ⟨_, hp, _⟩ => by cases hp
  | p :: r, s, h, hq, hv, hx => by
    rw [List.foldl_cons]
    by_cases hr : ∃ y ∈ r, y.1 = x
    · exact foldl_homeWrite_read_mem r _ (homeWrite_raw h ..) (homeWrite_placedBy h hq _ _) (fun y hy => hv y (List.mem_cons_of_mem _ hy)) hr
    · have hpx : p.1 = x := by
        obtain ⟨y, hy, e⟩ := hx
        rcases List.mem_cons.1 hy with rfl | hy
        · exact e
        · exact absurd ⟨y, hy, e⟩ hr
      rw [foldl_homeWrite_read_ne q r _ (homeWrite_raw h ..) fun y hy e => hr ⟨y, hy, e⟩, ← hv p List.mem_cons_self hpx, ← hpx]
      exact homeWrite_read_same h hq ..

/-- What every write at the home keeps, a change by the hardware keeps. -/
theorem hardWrite_keeps (P : State → Prop) {s : State} (hw : ∀ a k v, P a → P (homeWrite a k v (s.pubs + 1)))
    (h : P { s with pubs := s.pubs + 1 }) (k : Nat) (bs : List Byte) : P (hardWrite s k bs) :=
  foldl_keeps P _ (fun a p ha => hw a p.1 p.2 ha) _ _ h

theorem hardWrite_raw {s : State} (h : Raw s) (k : Nat) (bs : List Byte) : Raw (hardWrite s k bs) :=
  hardWrite_keeps Raw (fun _ k v ha => homeWrite_raw ha k v _) ⟨h.wf, h.raw⟩ k bs

theorem mem_mapIdx_key {k : Nat} {bs : List Byte} {p : Nat × Byte} :
    p ∈ bs.mapIdx (fun i b => (k + i, b)) ↔ ∃ i, ∃ hi : i < bs.length, p = (k + i, bs[i]) := by
  rw [List.mem_mapIdx]
  constructor
  · rintro ⟨i, hi, rfl⟩
    exact ⟨i, hi, rfl⟩
  · rintro ⟨i, hi, rfl⟩
    exact ⟨i, hi, rfl⟩

/-- A change by the hardware leaves every byte outside its range. -/
theorem hardWrite_read_outside {s : State} (h : Raw s) (k : Nat) (bs : List Byte) {x : Nat} (hx : x < k ∨ k + bs.length ≤ x) :
    (hardWrite s k bs).home.read x = s.home.read x := by
  unfold hardWrite
  refine foldl_homeWrite_read_ne _ _ _ ⟨h.wf, h.raw⟩ fun p hp e => ?_
  obtain ⟨i, hi, rfl⟩ := mem_mapIdx_key.1 hp
  simp only at e
  omega

/-- Its range reads as the bytes written. -/
theorem hardWrite_readN {s : State} (h : Raw s) (hp : PlacedBy s s.pubs) (k : Nat) (bs : List Byte) :
    (hardWrite s k bs).home.readN bs.length k = bs := by
  refine Memory.readN_eq bs k fun i hi => ?_
  unfold hardWrite
  refine foldl_homeWrite_read_mem _ _ ⟨h.wf, h.raw⟩ (fun x hx => (hp x hx).trans (Nat.le_succ _)) ?_
    ⟨(k + i, bs[i]), mem_mapIdx_key.2 ⟨i, hi, rfl⟩, rfl⟩
  intro p hm e
  obtain ⟨j, hj, rfl⟩ := mem_mapIdx_key.1 hm
  have : j = i := Nat.add_left_cancel e
  subst this
  rfl

theorem hardWrite_pubs (s : State) (k : Nat) (bs : List Byte) : (hardWrite s k bs).pubs = s.pubs + 1 :=
  hardWrite_keeps (fun a => a.pubs = s.pubs + 1) (fun a k v ha => by rw [homeWrite_eq]; exact ha) rfl k bs

theorem hardWrite_placedBy {s : State} (h : Raw s) (hp : PlacedBy s s.pubs) (k : Nat) (bs : List Byte) :
    PlacedBy (hardWrite s k bs) (hardWrite s k bs).pubs := by
  rw [hardWrite_pubs]
  exact (hardWrite_keeps (fun a => Raw a ∧ PlacedBy a (s.pubs + 1))
    (fun _ k v ha => ⟨homeWrite_raw ha.1 k v _, homeWrite_placedBy ha.1 ha.2 k v⟩)
    ⟨⟨h.wf, h.raw⟩, fun x hx => (hp x hx).trans (Nat.le_succ _)⟩ k bs).2

@[simp] theorem homeWrite_t (s : State) (k : Nat) (v : Byte) (q : Nat) : (homeWrite s k v q).t = s.t := by rw [homeWrite_eq]

@[simp] theorem hardWrite_t (s : State) (k : Nat) (bs : List Byte) : (hardWrite s k bs).t = s.t :=
  hardWrite_keeps (fun a => a.t = s.t) (fun a k v ha => (homeWrite_t a k v _).trans ha) rfl k bs

end Sys2Proof.Machine
end

section
namespace Sys2Proof.Machine

/-! ## Entries of page tables -/

/-- The page-table entry at an address (R156). -/
def entryAt (m : Memory) (a : Nat) : Nat := leNat (m.readN 8 a)

/-- A valid pointer entry at a level (R157). -/
structure Points (l e : Nat) : Prop where
  valid : field e 0 0 = 1
  pointer : field e 1 1 = 0
  reserved : field e 63 52 = 0
  ok : pointerOk l e = true

/-- Valid pointers lead from a table to the level 0 entry at an address, which is not valid (R156, R157). -/
inductive LeadsTo (m : Memory) (pkg va : Nat) : List Nat → Nat → Nat → Prop
  | here {table : Nat} (ls : List Nat) (hp : field (table + 8 * levelIndex 0 va) 51 44 = pkg)
      (hm : populated (table + 8 * levelIndex 0 va) = true) (hf : field (entryAt m (table + 8 * levelIndex 0 va)) 0 0 = 0) :
      LeadsTo m pkg va (0 :: ls) table (table + 8 * levelIndex 0 va)
  | next {table l a : Nat} {ls : List Nat} (hl : l ≠ 0) (hp : field (table + 8 * levelIndex l va) 51 44 = pkg)
      (hm : populated (table + 8 * levelIndex l va) = true) (he : Points l (entryAt m (table + 8 * levelIndex l va)))
      (hn : LeadsTo m pkg va ls (field (entryAt m (table + 8 * levelIndex l va)) 51 8 * 256) a) : LeadsTo m pkg va (l :: ls) table a

theorem leadsTo_of_freeLeaf {m : Memory} {pkg va a : Nat} : ∀ {ls : List Nat} {table : Nat}, freeLeaf m pkg va ls table = some a →
    LeadsTo m pkg va ls table a
  | [], _, h => by cases h
  | l :: ls, table, h => by
    simp only [freeLeaf] at h
    split at h
    · cases h
    · next hin =>
      obtain ⟨hp, hm⟩ := not_or.1 hin
      have hp := not_not.1 hp
      have hm := Bool.eq_true_of_not_eq_false hm
      split at h
      · next hl =>
        subst hl
        split at h
        · next hf =>
          cases h
          exact .here ls hp hm hf
        · cases h
      · next hl =>
        split at h
        · next he => exact .next hl hp hm ⟨he.1, he.2.1, he.2.2.1, he.2.2.2⟩ (leadsTo_of_freeLeaf h)
        · cases h

/-- Every aligned entry that is valid in one memory stands in the other as well. -/
def KeepsValid (m m' : Memory) : Prop := ∀ b, b % 8 = 0 → field (entryAt m b) 0 0 = 1 → entryAt m' b = entryAt m b

namespace LeadsTo

variable {m m' : Memory} {pkg va a : Nat} {ls : List Nat} {table : Nat}

theorem aligned (h : LeadsTo m pkg va ls table a) (ht : table % 8 = 0) : a % 8 = 0 := by
  induction h with
  | here ls hp hm hf => omega
  | next hl hp hm he hn ih => exact ih (by omega)

theorem invalid (h : LeadsTo m pkg va ls table a) : field (entryAt m a) 0 0 = 0 := by
  induction h with
  | here ls hp hm hf => exact hf
  | next hl hp hm he hn ih => exact ih

/-- A memory that keeps the valid entries and the invalid one at the end leads there too. -/
theorem congr (h : LeadsTo m pkg va ls table a) (ht : table % 8 = 0) (hk : KeepsValid m m') (ha : field (entryAt m' a) 0 0 = 0) :
    LeadsTo m' pkg va ls table a := by
  induction h with
  | here ls hp hm hf => exact .here ls hp hm ha
  | @next table l a ls hl hp hm he hn ih =>
    have e : entryAt m' (table + 8 * levelIndex l va) = entryAt m (table + 8 * levelIndex l va) := hk _ (by omega) he.valid
    have he' : Points l (entryAt m' (table + 8 * levelIndex l va)) := by rw [e]; exact he
    have hn' := ih (by omega) ha
    rw [← e] at hn'
    exact .next hl hp hm he' hn'

/-- The walk of an address that is led to an invalid entry finds no page (R156). -/
theorem walkFrom_pageFault (h : LeadsTo m pkg va ls table a) : walkFrom m pkg ls table va = .pageFault := by
  induction h with
  | here ls hp hm hf =>
    change field (leNat _) 0 0 = 0 at hf
    simp [walkFrom, hp, hm, hf]
  | next hl hp hm he hn ih =>
    obtain ⟨hv, hq, hr, ho⟩ := he
    unfold entryAt at hv hq hr ho ih
    simp [walkFrom, hp, hm, hv, hq, hr, ho, ih]

/-- The walk finds a leaf that has been written at the end of the way (R156, R157). -/
theorem walkFrom_leaf (h : LeadsTo m pkg va ls table a) (ht : table % 8 = 0) (hk : KeepsValid m m')
    (hv : field (entryAt m' a) 0 0 = 1) (hr : field (entryAt m' a) 63 52 = 0) (hl : field (entryAt m' a) 1 1 = 1)
    (ho : leafOk 0 (entryAt m' a) = true) : walkFrom m' pkg ls table va = .leaf a (entryAt m' a) 0 := by
  induction h with
  | here ls hp hm hf =>
    unfold entryAt at hv hr hl ho
    simp [walkFrom, hp, hm, hv, hr, hl, ho, entryAt]
  | @next table l a ls hl hp hm he hn ih =>
    have e : entryAt m' (table + 8 * levelIndex l va) = entryAt m (table + 8 * levelIndex l va) := hk _ (by omega) he.valid
    have ih := ih (by omega) hv hr hl ho
    rw [← e] at he ih
    obtain ⟨pv, pq, pr, po⟩ := he
    unfold entryAt at pv pq pr po ih
    simp [walkFrom, hp, hm, pv, pq, pr, po, ih, entryAt]

/-- No table is missing on the way. -/
theorem tablesMissing_eq (h : LeadsTo m pkg va ls table a) : tablesMissing m 0 va ls table = 0 := by
  induction h with
  | here ls hp hm hf => simp [tablesMissing]
  | next hl hp hm he hn ih =>
    obtain ⟨hv, hq, hr, ho⟩ := he
    unfold entryAt at hv hq ih
    simp [tablesMissing, hl, hv, hq, ih]

/-- A leaf for the address is installed at the end of the way, whatever frames there are for tables. -/
theorem installLeaf_eq {s : State} (hs : s.home = m) (h : LeadsTo m pkg va ls table a) (leaf : Nat) (frames : List Nat) :
    installLeaf leaf 0 pkg va ls table frames s =
      notePage (hardWrite s a (natLe 8 leaf)) (field leaf 51 16 * 2 ^ 16) (2 ^ 16) (field leaf 7 7 == 1) := by
  induction h with
  | here ls hp hm hf => simp [installLeaf, levelShift]
  | next hl hp hm he hn ih =>
    obtain ⟨hv, hq, hr, ho⟩ := he
    subst hs
    unfold entryAt at hv hq ih
    simp [installLeaf, hl, hv, hq, ih]

end LeadsTo

end Sys2Proof.Machine
end

section
namespace Sys2Proof.Machine

/-! ## One page is mapped -/

/-- The fields of a leaf entry for a frame of 64 KiB with its rights (R157). -/
structure LeafFields (e f r : Nat) : Prop where
  valid : field e 0 0 = 1
  leaf : field e 1 1 = 1
  read : field e 2 2 = field r 0 0
  write : field e 3 3 = field r 1 1
  exec : field e 4 4 = field r 2 2
  low : field e 15 8 = 0
  frame : field e 51 16 * 2 ^ 16 = f
  high : field e 63 52 = 0

theorem leafWord_fields {f : Nat} (hf : f < 2 ^ 52) (ha : f % 2 ^ 16 = 0) (r : Nat) : LeafFields (leafWord f r).toNat f r := by
  have h0 : field r 0 0 < 2 := Nat.mod_lt _ (by decide)
  have h1 : field r 1 1 < 2 := Nat.mod_lt _ (by decide)
  have h2 : field r 2 2 < 2 := Nat.mod_lt _ (by decide)
  have h3 : field r 3 3 < 2 := Nat.mod_lt _ (by decide)
  have he : (leafWord f r).toNat = 65536 * (f / 65536) + 128 * field r 3 3 + 16 * field r 2 2 + 8 * field r 1 1 + 4 * field r 0 0 + 3 := by
    unfold leafWord
    rw [BitVec.toNat_ofNat, Nat.mod_eq_of_lt (by omega)]
    omega
  rw [he]
  constructor <;> simp only [field, Nat.shiftRight_eq_div_pow] <;> omega

theorem leafWord_leafOk {f r : Nat} (hf : f < 2 ^ 52) (ha : f % 2 ^ 16 = 0) (hr : rightsOk r = true) :
    leafOk 0 (leafWord f r).toNat = true := by
  have h := leafWord_fields hf ha r
  simp only [rightsOk, Bool.and_eq_true] at hr
  obtain ⟨⟨_, hx⟩, hw⟩ := hr
  simp only [leafOk, h.low, h.exec, h.write, h.read, h.frame, ha, levelShift, Bool.and_eq_true]
  exact ⟨⟨⟨⟨rfl, rfl⟩, hx⟩, hw⟩, rfl⟩

/-- What maps of pages leave: the threads, the partitions, and which CXL memory is another's (R25). -/
structure MapKeeps (part : Nat) (s t : State) : Prop where
  thread : t.t = s.t
  parts : t.parts = s.parts
  cxl : ∀ pa n, cxlTaken t part pa n = cxlTaken s part pa n

theorem MapKeeps.refl (part : Nat) (s : State) : MapKeeps part s s := ⟨rfl, rfl, fun _ _ => rfl⟩

theorem MapKeeps.trans {part : Nat} {s t u : State} (h : MapKeeps part s t) (k : MapKeeps part t u) : MapKeeps part s u :=
  ⟨k.thread.trans h.thread, k.parts.trans h.parts, fun pa n => (k.cxl pa n).trans (h.cxl pa n)⟩

/-- Memory as Horsil maps pages in it: raw, and every place in the coherence order given by a publication. -/
structure Settled (s : State) : Prop where
  raw : Raw s
  placed : PlacedBy s s.pubs

theorem notePage_of_raw {s : State} (h : s.zblocks = []) (b n : Nat) (z : Bool) : ∃ zp, notePage s b n z = { s with zpages := zp } := by
  unfold notePage
  split
  · exact ⟨_, rfl⟩
  · rw [fillRange_of_raw h, ite_self]
    exact ⟨_, rfl⟩

theorem cxlTaken_cxlGiven (s : State) (part pa n pa' n' : Nat) : cxlTaken (cxlGiven s part pa n) part pa' n' = cxlTaken s part pa' n' := by
  unfold cxlGiven
  split <;> simp [cxlTaken]

theorem cxlGiven_eq (s : State) (part pa n : Nat) : ∃ l, cxlGiven s part pa n = { s with cxl := l } := by
  unfold cxlGiven
  split <;> exact ⟨_, rfl⟩

theorem frameOk_congr {s t : State} {p : Partition} (h : ∀ pa n, cxlTaken t p.slot pa n = cxlTaken s p.slot pa n)
    (pkg va pa n : Nat) (w : Bool) : frameOk t p pkg va pa n w = frameOk s p pkg va pa n w := by
  simp only [frameOk, inShares, h]

theorem frameOk_aligned {s : State} {p : Partition} {pkg va pa n : Nat} {w : Bool} (h : frameOk s p pkg va pa n w = true) : pa % n = 0 := by
  simp only [frameOk, Bool.and_eq_true, beq_iff_eq] at h
  obtain ⟨⟨⟨⟨⟨⟨_, ha⟩, _⟩, _⟩, _⟩, _⟩, _⟩ := h
  exact ha

/-- The page at an address can be given a frame: it is whole, the frame a physical address that the partition may have. -/
structure Grantable (s : State) (p : Partition) (pkg r : Nat) (x : Nat × Nat) : Prop where
  page : x.1 % 2 ^ 16 = 0
  bound : x.2 < 2 ^ 52
  frame : frameOk s p pkg x.1 x.2 (2 ^ 16) (field r 1 1 == 1) = true

section
variable {s : State} {p : Partition} {part pkg root r a : Nat} {x : Nat × Nat}

/-- The entry that a page's map writes, in the state it leaves. -/
theorem mapPage_eq (hp : partOf s part = some p) (hr : assoc p.roots pkg = some root) (hg : Grantable s p pkg r x)
    (hl : LeadsTo s.home pkg x.1 [4, 3, 2, 1, 0] root a) (tables : List Nat) :
    mapPage s part pkg x.1 { leaf := leafWord x.2 r, level := 0, tables := tables } =
      cxlGiven (notePage (hardWrite s a (natLe 8 (leafWord x.2 r).toNat)) x.2 (2 ^ 16) (field (leafWord x.2 r).toNat 7 7 == 1)) part x.2 (2 ^ 16) := by
  have hf := leafWord_fields hg.bound (frameOk_aligned hg.frame) r
  have hva : x.1 / 2 ^ 16 * 2 ^ 16 = x.1 := Nat.div_mul_cancel (Nat.dvd_of_mod_eq_zero hg.page)
  unfold mapPage
  simp only [hp, hr, Nat.zero_min, levelShift, hva, hf.frame, hf.write, hg.frame, if_true, hl.installLeaf_eq rfl]

end

theorem leNat_natLe_word (w : Word) : leNat (natLe 8 w.toNat) = w.toNat := by
  rw [leNat_natLe, Nat.mod_eq_of_lt]
  have h := w.isLt
  norm_num at h ⊢
  exact h

/-- The entry that the hardware writes reads as the word written. -/
theorem entryAt_hardWrite {s : State} (hs : Settled s) (a : Nat) (w : Word) : entryAt (hardWrite s a (natLe 8 w.toNat)).home a = w.toNat := by
  have h8 := hardWrite_readN hs.raw hs.placed a (natLe 8 w.toNat)
  rw [natLe_length] at h8
  rw [entryAt, h8, leNat_natLe_word]

/-- The map of one page: what it keeps, that memory stays settled, the leaf at its entry, every other byte. -/
structure PageMapped (part a leaf : Nat) (s t : State) : Prop where
  keeps : MapKeeps part s t
  settled : Settled t
  leaf : entryAt t.home a = leaf
  frame : ∀ k, k < a ∨ a + 8 ≤ k → t.home.read k = s.home.read k

/-- A frame that Horsil gives a partition is noted, with its leaf; nothing else changes. -/
theorem givenPage_maps {s t : State} {part a leaf : Nat} (h : PageMapped part a leaf s t) (pa n : Nat) (z : Bool) :
    PageMapped part a leaf s (cxlGiven (notePage t pa n z) part pa n) := by
  obtain ⟨zp, hz⟩ := notePage_of_raw h.settled.raw.raw pa n z
  obtain ⟨l, hc⟩ := cxlGiven_eq { t with zpages := zp } part pa n
  have hcx := cxlTaken_cxlGiven { t with zpages := zp } part pa n
  rw [hz]
  rw [hc] at hcx ⊢
  exact ⟨⟨h.keeps.thread, h.keeps.parts, fun x y => (hcx x y).trans (h.keeps.cxl x y)⟩,
    ⟨⟨h.settled.raw.wf, h.settled.raw.raw⟩, h.settled.placed⟩, h.leaf, h.frame⟩

theorem hardWrite_maps {s : State} (hs : Settled s) (part a : Nat) (w : Word) :
    PageMapped part a w.toNat s (hardWrite s a (natLe 8 w.toNat)) := by
  refine ⟨⟨hardWrite_t .., ?_, fun pa n => ?_⟩, ⟨hardWrite_raw hs.raw .., hardWrite_placedBy hs.raw hs.placed _ _⟩, entryAt_hardWrite hs a w,
    fun k hk => hardWrite_read_outside hs.raw _ _ (by rw [natLe_length]; exact hk)⟩
  · obtain ⟨_, _, _, _, _, _, _, _, _, h⟩ := OnlyPoints.hardWrite s a (natLe 8 w.toNat)
    rw [h]
  · obtain ⟨_, _, _, _, _, _, _, _, _, h⟩ := OnlyPoints.hardWrite s a (natLe 8 w.toNat)
    unfold cxlTaken
    rw [h]

theorem mapPage_maps {s : State} {p : Partition} {part pkg root r a : Nat} {x : Nat × Nat} (hs : Settled s) (hp : partOf s part = some p)
    (hr : assoc p.roots pkg = some root) (hg : Grantable s p pkg r x) (hl : LeadsTo s.home pkg x.1 [4, 3, 2, 1, 0] root a) (tables : List Nat) :
    PageMapped part a (leafWord x.2 r).toNat s (mapPage s part pkg x.1 { leaf := leafWord x.2 r, level := 0, tables := tables }) := by
  rw [mapPage_eq hp hr hg hl]
  exact givenPage_maps (hardWrite_maps hs part a _) _ _ _

end Sys2Proof.Machine
end

section
namespace Sys2Proof.Machine

/-! ## The pages of a range (R463) -/

theorem entryAt_congr {m m' : Memory} {b : Nat} (h : ∀ k, b ≤ k → k < b + 8 → m'.read k = m.read k) : entryAt m' b = entryAt m b := by
  unfold entryAt
  rw [Memory.readN_congr (m := m) (m' := m') 8 b fun i hi => h _ (by omega) (by omega)]

/-- Where only entries that were not valid change, the valid ones stand. -/
theorem keepsValid_of_frame {m m' : Memory} {as : List Nat} (ha : ∀ a ∈ as, a % 8 = 0 ∧ field (entryAt m a) 0 0 = 0)
    (h : ∀ k, (∀ a ∈ as, k < a ∨ a + 8 ≤ k) → m'.read k = m.read k) : KeepsValid m m' := by
  intro b hb hv
  refine entryAt_congr fun k h1 h2 => h k fun a hm => ?_
  obtain ⟨ha8, hi⟩ := ha a hm
  have hne : a ≠ b := fun e => by rw [e, hv] at hi; cases hi
  omega

theorem exists_of_forall₂_left {α β : Type} {R : α → β → Prop} {l : List α} {l' : List β} (h : List.Forall₂ R l l') {x : α} (hx : x ∈ l) :
    ∃ y ∈ l', R x y := by
  obtain ⟨i, hi, rfl⟩ := List.mem_iff_getElem.1 hx
  exact ⟨_, List.getElem_mem (h.length_eq ▸ hi), h.get hi _⟩

theorem exists_of_forall₂_right {α β : Type} {R : α → β → Prop} {l : List α} {l' : List β} (h : List.Forall₂ R l l') {y : β} (hy : y ∈ l') :
    ∃ x ∈ l, R x y := exists_of_forall₂_left h.flip hy

/-- Maps of pages in a row: what they keep, a leaf at every entry, every other byte. -/
structure PagesMapped (part r : Nat) (l : List (Nat × Nat)) (as : List Nat) (s t : State) : Prop where
  keeps : MapKeeps part s t
  leaves : List.Forall₂ (fun x a => entryAt t.home a = (leafWord x.2 r).toNat) l as
  frame : ∀ k, (∀ a ∈ as, k < a ∨ a + 8 ≤ k) → t.home.read k = s.home.read k

theorem mapPages_cons {part pkg root a : Nat} {p : Partition} {s : State} {x : Nat × Nat} (hp : partOf s part = some p)
    (hr : assoc p.roots pkg = some root) (hl : LeadsTo s.home pkg x.1 [4, 3, 2, 1, 0] root a) (leaf : Nat → Word) (l : List (Nat × Nat))
    (tables : List Nat) : mapPages part pkg leaf (x :: l) tables s =
      mapPages part pkg leaf l tables (mapPage s part pkg x.1 { leaf := leaf x.2, level := 0, tables := tables }) := by
  simp [mapPages, hp, hr, hl.tablesMissing_eq]

theorem partOf_slot {s : State} {part : Nat} {p : Partition} (h : partOf s part = some p) : p.slot = part := by
  simpa using List.find?_some h

theorem Grantable.congr {s t : State} {p : Partition} {pkg r : Nat} {x : Nat × Nat} (h : Grantable s p pkg r x) (k : MapKeeps p.slot s t) :
    Grantable t p pkg r x := ⟨h.page, h.bound, (frameOk_congr k.cxl ..).trans h.frame⟩

/-- After one page is mapped the way to another page's entry stands. -/
theorem PageMapped.leadsTo {part a b leaf pkg va vb root : Nat} {ls : List Nat} {s u : State} (h : PageMapped part a leaf s u)
    (hroot : root % 8 = 0) (ha : LeadsTo s.home pkg va ls root a) (hb : LeadsTo s.home pkg vb ls root b) (hne : b ≠ a) :
    LeadsTo u.home pkg vb ls root b := by
  have ha8 := ha.aligned hroot
  have hb8 := hb.aligned hroot
  have hk : KeepsValid s.home u.home := keepsValid_of_frame (as := [a])
    (fun c hc => by rw [List.mem_singleton.1 hc]; exact ⟨ha8, ha.invalid⟩) (fun k h' => h.frame k (h' a List.mem_cons_self))
  refine hb.congr hroot hk ?_
  rw [entryAt_congr fun k h1 h2 => h.frame k (by omega)]
  exact hb.invalid

/-- A page's map and those of the other pages. -/
theorem PagesMapped.cons {part r a : Nat} {x : Nat × Nat} {l : List (Nat × Nat)} {as : List Nat} {s u t : State}
    (h : PageMapped part a (leafWord x.2 r).toNat s u) (k : PagesMapped part r l as u t) (ha : ∀ b ∈ as, b + 8 ≤ a ∨ a + 8 ≤ b) :
    PagesMapped part r (x :: l) (a :: as) s t := by
  refine ⟨h.keeps.trans k.keeps, .cons ?_ k.leaves, fun i hi => ?_⟩
  · rw [← h.leaf]
    exact entryAt_congr fun i h1 h2 => k.frame i fun b hb => by have := ha b hb; omega
  · rw [k.frame i fun b hb => hi b (List.mem_cons_of_mem _ hb)]
    exact h.frame i (hi a List.mem_cons_self)

theorem mapPages_maps {part pkg root r : Nat} {p : Partition} (hr : assoc p.roots pkg = some root) (hroot : root % 8 = 0) (tables : List Nat)
    {l : List (Nat × Nat)} : ∀ {as : List Nat} {s : State}, Settled s → partOf s part = some p → as.Nodup →
      List.Forall₂ (fun x a => LeadsTo s.home pkg x.1 [4, 3, 2, 1, 0] root a) l as → (∀ x ∈ l, Grantable s p pkg r x) →
      PagesMapped part r l as s (mapPages part pkg (fun f => leafWord f r) l tables s) := by
  induction l with
  | nil =>
    intro as s _ _ _ h _
    rw [List.forall₂_nil_left_iff.1 h]
    exact ⟨.refl part s, .nil, fun _ _ => rfl⟩
  | cons x l ih =>
    intro as s hs hp hn h hg
    obtain ⟨a, as, hx, hl, rfl⟩ := List.forall₂_cons_left_iff.1 h
    obtain ⟨hna, hn⟩ := List.nodup_cons.1 hn
    have hone := mapPage_maps hs hp hr (hg x List.mem_cons_self) hx tables
    rw [mapPages_cons hp hr hx]
    generalize mapPage s part pkg x.1 { leaf := leafWord x.2 r, level := 0, tables := tables } = u at hone ⊢
    have hpu : partOf u part = some p := by rw [← hp, partOf, partOf, hone.keeps.parts]
    refine PagesMapped.cons hone (ih hone.settled hpu hn ?_ fun y hy => (hg y (List.mem_cons_of_mem _ hy)).congr (partOf_slot hp ▸ hone.keeps)) ?_
    · refine List.forall₂_iff_zip.2 ⟨hl.length_eq, fun {y b} hyb => ?_⟩
      have hb : b ∈ as := (List.of_mem_zip hyb).2
      exact hone.leadsTo hroot hx (List.forall₂_zip hl hyb) fun e => hna (e ▸ hb)
    · intro b hb
      obtain ⟨y, _, hy⟩ := exists_of_forall₂_right hl hb
      have ha8 := hx.aligned hroot
      have hb8 := hy.aligned hroot
      have hne : b ≠ a := fun e => hna (e ▸ hb)
      omega

theorem walk_eq_walkFrom {s : State} {part pkg root : Nat} {p : Partition} (hp : partOf s part = some p) (hr : assoc p.roots pkg = some root)
    (va : Nat) : walk s part pkg va = walkFrom s.home pkg [4, 3, 2, 1, 0] root va := by
  unfold partOf at hp
  simp [walk, hp, hr]

/-- After the maps the walk of every page finds its leaf (R156). -/
theorem PagesMapped.walks {part pkg root r : Nat} {p : Partition} {l : List (Nat × Nat)} {as : List Nat} {s t : State}
    (h : PagesMapped part r l as s t) (hp : partOf s part = some p) (hr : assoc p.roots pkg = some root) (hroot : root % 8 = 0)
    (hl : List.Forall₂ (fun x a => LeadsTo s.home pkg x.1 [4, 3, 2, 1, 0] root a) l as) (hg : ∀ x ∈ l, Grantable s p pkg r x)
    (hrights : rightsOk r = true) : List.Forall₂ (fun x a => walk t part pkg x.1 = .leaf a (leafWord x.2 r).toNat 0) l as := by
  have hk : KeepsValid s.home t.home := keepsValid_of_frame (fun a ha => by
    obtain ⟨x, _, hx⟩ := exists_of_forall₂_right hl ha
    exact ⟨hx.aligned hroot, hx.invalid⟩) h.frame
  have hpt : partOf t part = some p := by rw [← hp, partOf, partOf, h.keeps.parts]
  refine List.forall₂_iff_zip.2 ⟨hl.length_eq, fun {x a} hxa => ?_⟩
  have hx := hg x (List.of_mem_zip hxa).1
  have he : entryAt t.home a = _ := List.forall₂_zip h.leaves hxa
  have hf := leafWord_fields hx.bound (frameOk_aligned hx.frame) r
  have ho := leafWord_leafOk hx.bound (frameOk_aligned hx.frame) hrights
  rw [← he] at hf ho ⊢
  rw [walk_eq_walkFrom hpt hr]
  exact (List.forall₂_zip hl hxa : LeadsTo ..).walkFrom_leaf hroot hk hf.valid hf.high hf.leaf ho

theorem rangePages_aligned {va : Word} {n x : Nat} (h : pagesOk va n = true) (hx : x ∈ rangePages va n) : x % 2 ^ 16 = 0 := by
  simp only [pagesOk, Bool.and_eq_true, beq_iff_eq] at h
  obtain ⟨⟨⟨⟨_, ha⟩, _⟩, _⟩, _⟩ := h
  obtain ⟨i, _, rfl⟩ := List.mem_map.1 hx
  omega

theorem leadsTo_pages {m : Memory} {pkg root : Nat} {pages frames ats : List Nat} (hlen : pages.length ≤ frames.length)
    (h : (pages.map fun va => freeLeaf m pkg va [4, 3, 2, 1, 0] root) = ats.map some) :
    List.Forall₂ (fun x a => LeadsTo m pkg x.1 [4, 3, 2, 1, 0] root a) (pages.zip frames) ats := by
  have hz : pages = (pages.zip frames).map Prod.fst := (List.map_fst_zip hlen).symm
  have hall : List.Forall₂ (· = ·) (pages.map fun va => freeLeaf m pkg va [4, 3, 2, 1, 0] root) (ats.map some) := List.forall₂_eq_eq_eq ▸ h
  rw [hz, List.map_map, List.forall₂_map_left_iff, List.forall₂_map_right_iff] at hall
  exact hall.imp fun x a e => leadsTo_of_freeLeaf e

/-- What the premises of MAP_MEMORY say of the pages and frames of a call. -/
theorem grantable_pages {c : Call} {s : State} {p : Partition} (hp : partOf s c.part = some p) (hpages : pagesOk c.a0 c.a1.toNat = true)
    (hbound : ∀ f ∈ c.frames, f < 2 ^ 52)
    (hframes : framesOk s c (rangePages c.a0 c.a1.toNat) c.a3.toNat (field c.a2.toNat 1 1 == 1) = true) :
    ∀ x ∈ (rangePages c.a0 c.a1.toNat).zip c.frames, Grantable s p c.pkg c.a2.toNat x := fun x hx => by
  simp only [framesOk, hp, List.all_eq_true, Bool.and_eq_true] at hframes
  obtain ⟨h1, h2⟩ := List.of_mem_zip hx
  exact ⟨rangePages_aligned hpages h1, hbound _ h2, (hframes x hx).1⟩

/-- MAP_MEMORY maps the range when no page of it has a leaf yet and every page finds its leaf afterwards (R463). -/
theorem mapService_eq {c : Call} {s : State} {p : Partition} (hp : partOf s c.part = some p) (hlive : p.ended = false)
    (hpages : pagesOk c.a0 c.a1.toNat = true) (hrights : rightsOk c.a2.toNat = true) (hregion : c.a3.toNat ≤ 2)
    (hqueue : touchesQueue s c c.a1.toNat = false) (hlen : (rangePages c.a0 c.a1.toNat).length ≤ c.frames.length)
    (hframes : framesOk s c (rangePages c.a0 c.a1.toNat) c.a3.toNat (field c.a2.toNat 1 1 == 1) = true)
    (hnone : ∀ va ∈ rangePages c.a0 c.a1.toNat, walk s c.part c.pkg va = .pageFault) {t : State}
    (ht : mapPages c.part c.pkg (fun f => leafWord f c.a2.toNat) ((rangePages c.a0 c.a1.toNat).zip c.frames) c.tables s = t)
    (hplaced : ∀ x ∈ (rangePages c.a0 c.a1.toNat).zip c.frames, ∃ a, walk t c.part c.pkg x.1 = .leaf a (leafWord x.2 c.a2.toNat).toNat 0 ∧
      field (leafWord x.2 c.a2.toNat).toNat 51 16 = x.2 / 2 ^ 16) : mapService c s = okay none t := by
  have hl : partLives s c.part = true := by simp [partLives, hp, hlive]
  unfold mapService
  extract_lets n r pages s1 placed
  have hs1 : s1 = t := ht
  have hall : placed = true := List.all_eq_true.2 fun x hx => by
    obtain ⟨a, hw, hf⟩ := hplaced x hx
    rw [hs1, hw]
    exact beq_iff_eq.2 hf
  rw [if_neg (by simp [hl]), if_neg (by simp [n, r, hpages, hrights, hqueue, hregion]), if_neg, if_neg (by simp [pages, n, r, hlen, hframes]),
    if_pos hall, hs1]
  rw [Bool.not_eq_true, List.any_eq_false]
  intro va hva
  rw [hnone va hva]
  exact Bool.false_ne_true

/-- Settles O60: valid pointers lead every page to an entry of its own, which the map alone writes, so that the way to each stands through
the maps of the others. -/
theorem mapMemoryCompletes : Obligations.MapMemoryCompletes := by
  intro c s p root ats pages hp hlive hr hroot hwf hz hseq hpages hrights hregion hqueue hlen hbound hframes hfree hnodup
  have hl := leadsTo_pages hlen hfree
  have hg := grantable_pages hp hpages hbound hframes
  have hm := mapPages_maps hr hroot c.tables ⟨⟨hwf, hz⟩, hseq⟩ hp hnodup hl hg
  generalize ht : mapPages c.part c.pkg (fun f => leafWord f c.a2.toNat) (pages.zip c.frames) c.tables s = t at hm
  have hw := hm.walks hp hr hroot hl hg hrights
  have hnone : ∀ va ∈ pages, walk s c.part c.pkg va = .pageFault := fun va hva => by
    rw [← List.map_fst_zip hlen] at hva
    obtain ⟨x, hx, rfl⟩ := List.mem_map.1 hva
    obtain ⟨a, _, ha⟩ := exists_of_forall₂_left hl hx
    rw [walk_eq_walkFrom hp hr, ha.walkFrom_pageFault]
  have hs : mapService c s = okay none t := by
    refine mapService_eq hp hlive hpages hrights hregion hqueue hlen hframes hnone ht fun x hx => ?_
    obtain ⟨a, _, ha⟩ := exists_of_forall₂_left hw hx
    have hf := (leafWord_fields (hg x hx).bound (frameOk_aligned (hg x hx).frame) c.a2.toNat).frame
    exact ⟨a, ha, by omega⟩
  refine ⟨t, resultWord (okay none t), ?_, hm.keeps.thread, hm.keeps.parts, fun x hx => ?_, hm.frame⟩
  · change callService 0x0030 c s = _
    simp only [callService, service, hs]
    rfl
  · obtain ⟨i, hi, rfl⟩ := List.mem_iff_getElem.1 hx
    simp only [List.length_zip, lt_inf_iff] at hi
    have h := hw.get (i := i) (by simp; omega) hi.2.1
    simpa using h

end Sys2Proof.Machine
end

section
namespace Sys2Proof.Machine

/-! ## What memory's hardware leaves

Translation, maps of pages and writes at the home change memory, its places and what translates it, and no thread. -/

/-- Everything is as before but the home, its places, the narrower copies, the poison, the compressed blocks, what is known of pages, the TLBs,
the CXL pages given, the masters and views, the count of publications. -/
def OnlyMemory (s u : State) : Prop :=
  ∃ home homeSeq narrow poison zblocks zpages tlbs cxl masters views pubs, u = { s with
    home := home, homeSeq := homeSeq, narrow := narrow, poison := poison, zblocks := zblocks, zpages := zpages, tlbs := tlbs, cxl := cxl,
    masters := masters, views := views, pubs := pubs }

theorem touchMaster_t (die sc : Nat) (ks : List (Nat × Nat)) (s : State) (m : Master) : (touchMaster die sc ks s m).t = s.t := by
  unfold touchMaster
  extract_lets mine bs s1
  split
  · rfl
  · split
    · rfl
    · split <;> rfl

theorem publishMasters_t (s : State) (pkg die sc : Nat) (ks : List (Nat × Nat)) : (publishMasters s pkg die sc ks).t = s.t :=
  foldl_keeps (fun a : State => a.t = s.t) _ (fun a m ha => (touchMaster_t die sc ks a m).trans ha) _ _ rfl

theorem engineWriteAt_t (s : State) (pkg sc : Nat) (kvs : List (Nat × Byte)) : (engineWriteAt s pkg sc kvs).1.t = s.t := by
  unfold engineWriteAt
  split
  · rfl
  · exact (publishMasters_t ..).trans (foldl_keeps (fun a : State => a.t = s.t) _ (fun a p ha => (homeWrite_t ..).trans ha) _ _ rfl)

theorem fillBlock_t (s : State) (k : Nat) : (fillBlock s k).t = s.t := by rw [fillBlock_eq]

namespace OnlyMemory

theorem refl (s : State) : OnlyMemory s s := ⟨_, _, _, _, _, _, _, _, _, _, _, rfl⟩

theorem trans {s u v : State} (h : OnlyMemory s u) (k : OnlyMemory u v) : OnlyMemory s v := by
  obtain ⟨_, _, _, _, _, _, _, _, _, _, _, rfl⟩ := h
  obtain ⟨_, _, _, _, _, _, _, _, _, _, _, rfl⟩ := k
  exact ⟨_, _, _, _, _, _, _, _, _, _, _, rfl⟩

theorem of_points {s u : State} (h : OnlyPoints s u) (ht : u.t = s.t) : OnlyMemory s u := by
  obtain ⟨home, homeSeq, narrow, poison, zblocks, masters, views, pubs, own, rfl⟩ := h
  change { s.t with own := own } = s.t at ht
  rw [ht]
  exact ⟨_, _, _, _, _, _, _, _, _, _, _, rfl⟩

theorem foldl {α : Type} {f : State → α → State} (h : ∀ a x, OnlyMemory a (f a x)) (l : List α) (s : State) : OnlyMemory s (l.foldl f s) :=
  foldl_keeps (OnlyMemory s) f (fun a x ha => ha.trans (h a x)) l s (.refl s)

section
variable {s u : State}

theorem t (h : OnlyMemory s u) : u.t = s.t := by obtain ⟨_, _, _, _, _, _, _, _, _, _, _, rfl⟩ := h; rfl
theorem parked (h : OnlyMemory s u) : u.parked = s.parked := by obtain ⟨_, _, _, _, _, _, _, _, _, _, _, rfl⟩ := h; rfl
theorem badPages (h : OnlyMemory s u) : u.badPages = s.badPages := by obtain ⟨_, _, _, _, _, _, _, _, _, _, _, rfl⟩ := h; rfl
theorem parts (h : OnlyMemory s u) : u.parts = s.parts := by obtain ⟨_, _, _, _, _, _, _, _, _, _, _, rfl⟩ := h; rfl
theorem saved (h : OnlyMemory s u) : u.saved = s.saved := by obtain ⟨_, _, _, _, _, _, _, _, _, _, _, rfl⟩ := h; rfl
theorem codices (h : OnlyMemory s u) : u.codices = s.codices := by obtain ⟨_, _, _, _, _, _, _, _, _, _, _, rfl⟩ := h; rfl
theorem replies (h : OnlyMemory s u) : u.replies = s.replies := by obtain ⟨_, _, _, _, _, _, _, _, _, _, _, rfl⟩ := h; rfl
theorem boots (h : OnlyMemory s u) : u.boots = s.boots := by obtain ⟨_, _, _, _, _, _, _, _, _, _, _, rfl⟩ := h; rfl
theorem moves (h : OnlyMemory s u) : u.moves = s.moves := by obtain ⟨_, _, _, _, _, _, _, _, _, _, _, rfl⟩ := h; rfl

end

theorem fillBlock (s : State) (k : Nat) : OnlyMemory s (fillBlock s k) := of_points (.fillBlock s k) (fillBlock_t s k)

theorem fillRange (s : State) (b n : Nat) : OnlyMemory s (fillRange s b n) := OnlyMemory.foldl (fun a _ => fillBlock a _) _ s

theorem homeWrite (s : State) (k : Nat) (v : Byte) (q : Nat) : OnlyMemory s (homeWrite s k v q) := of_points (.homeWrite s k v q) (homeWrite_t ..)

theorem hardWrite (s : State) (k : Nat) (bs : List Byte) : OnlyMemory s (hardWrite s k bs) := of_points (.hardWrite s k bs) (hardWrite_t ..)

theorem engineWrite (s : State) (pkg : Nat) (kvs : List (Nat × Byte)) : OnlyMemory s (engineWrite s pkg kvs).1 :=
  of_points (.engineWriteAt s pkg 5 kvs) (engineWriteAt_t ..)

theorem notePage (s : State) (b n : Nat) (z : Bool) : OnlyMemory s (notePage s b n z) := by
  unfold Machine.notePage
  extract_lets others s1
  split
  · exact .refl s
  · have h1 : OnlyMemory s s1 := by
      change OnlyMemory s (if z then s else _)
      split
      · exact .refl s
      · exact .fillRange s b n
    exact h1.trans ⟨_, _, _, _, _, _, _, _, _, _, _, rfl⟩

theorem clearRange (s : State) (b n : Nat) : OnlyMemory s (clearRange s b n) :=
  (OnlyMemory.fillRange s b n).trans ⟨_, _, _, _, _, _, _, _, _, _, _, rfl⟩

theorem cxlGiven (s : State) (part pa n : Nat) : OnlyMemory s (cxlGiven s part pa n) := by
  obtain ⟨_, h⟩ := cxlGiven_eq s part pa n
  exact ⟨_, _, _, _, _, _, _, _, _, _, _, h⟩

theorem tlbAdd (s : State) (place cap : Nat) (e : TlbEntry) : OnlyMemory s (tlbAdd s place cap e) := ⟨_, _, _, _, _, _, _, _, _, _, _, rfl⟩

theorem markLeaf (s : State) (a e : Nat) (w : Bool) : OnlyMemory s (markLeaf s a e w) := by
  unfold Machine.markLeaf
  extract_lets b e'
  split
  · exact .refl s
  · exact .hardWrite ..

/-- Where a leaf can be written or a table begun, that is all that changes. -/
theorem installLeaf (leaf level pkg va : Nat) : ∀ (ls : List Nat) (table : Nat) (frames : List Nat) (s : State),
    OnlyMemory s (installLeaf leaf level pkg va ls table frames s)
  | [], _, _, s => .refl s
  | l :: ls, table, frames, s => by
    unfold Machine.installLeaf
    extract_lets a e size
    split
    · exact (OnlyMemory.hardWrite s a _).trans (.notePage ..)
    · split
      · split
        · exact .refl s
        · exact installLeaf leaf level pkg va ls _ _ s
      · split
        · exact .refl s
        · split
          · exact ((OnlyMemory.clearRange ..).trans (.hardWrite ..)).trans (installLeaf leaf level pkg va ls _ _ _)
          · exact .refl s

theorem mapPage (s : State) (part pkg va : Nat) (g : PageGrant) : OnlyMemory s (mapPage s part pkg va g) := by
  unfold Machine.mapPage
  split
  · exact .refl s
  · split
    · exact .refl s
    · extract_lets l e pa
      split
      · exact (OnlyMemory.installLeaf ..).trans (.cxlGiven ..)
      · exact .refl s

theorem mapPages (part pkg : Nat) (leaf : Nat → Word) : ∀ (l : List (Nat × Nat)) (tables : List Nat) (s : State),
    OnlyMemory s (mapPages part pkg leaf l tables s)
  | [], _, s => .refl s
  | _ :: r, _, s => (OnlyMemory.mapPage s ..).trans (mapPages part pkg leaf r _ _)

end OnlyMemory

/-- The state that a translation leaves, whatever it came to. -/
def Translated.state : Translated → State
  | .ok _ s | .fault _ s => s

theorem OnlyMemory.translateWalk (s : State) (w : Who) (acc : Access) (va : Word) : OnlyMemory s (translateWalk s w acc va).state := by
  unfold Machine.translateWalk
  extract_lets a
  split
  · exact .refl s
  · exact .refl s
  · extract_lets t pa s1 s2
    split
    · exact .refl s
    · split
      · exact .refl s
      · have h1 : OnlyMemory s s1 := .markLeaf ..
        have h2 : OnlyMemory s1 s2 := by
          change OnlyMemory s1 (match w.core with | some c => _ | none => s1)
          split
          · exact .tlbAdd ..
          · exact .refl s1
        exact ((h1.trans h2).trans (.tlbAdd ..)).trans (.notePage ..)

theorem OnlyMemory.translate (s : State) (w : Who) (acc : Access) (va : Word) : OnlyMemory s (translate s w acc va).state := by
  unfold Machine.translate
  split
  · exact .refl s
  · split
    · exact .refl s
    · extract_lets a find hit
      clear_value hit
      cases hit with
      | none => exact .translateWalk ..
      | some e =>
        dsimp only
        split
        · exact .refl s
        · split
          · exact .translateWalk ..
          · split <;> exact .refl s

theorem OnlyMemory.of_translate_ok {s u : State} {w : Who} {acc : Access} {va : Word} {k : Nat} (h : Machine.translate s w acc va = .ok k u) :
    OnlyMemory s u := by
  have := OnlyMemory.translate s w acc va
  rwa [h] at this

theorem OnlyMemory.of_translate_fault {s u : State} {w : Who} {acc : Access} {va : Word} {c : Nat} (h : Machine.translate s w acc va = .fault c u) :
    OnlyMemory s u := by
  have := OnlyMemory.translate s w acc va
  rwa [h] at this

end Sys2Proof.Machine
end

section
namespace Sys2Proof.Machine

/-! ## Nodes that Horsil ends (R435, R449)

What ends a launch's nodes leaves the running thread as it was, or ends it with the class; pages that failed their hash stay noted. -/

/-- The running thread goes on as it was or its node ends with a class; the pages that failed their hash are as before. -/
structure EndsOnly (cls : Nat) (s u : State) : Prop where
  pages : u.badPages = s.badPages
  uid : u.t.uid = s.t.uid
  launch : u.t.launch = s.t.launch
  status : u.t.status = s.t.status ∨ u.t.status = .ending 1 cls 0 0

namespace EndsOnly

variable {cls : Nat}

theorem same {s u : State} (hp : u.badPages = s.badPages) (ht : u.t = s.t) : EndsOnly cls s u :=
  ⟨hp, by rw [ht], by rw [ht], .inl (by rw [ht])⟩

theorem refl (s : State) : EndsOnly cls s s := same rfl rfl

theorem trans {s u v : State} (h : EndsOnly cls s u) (k : EndsOnly cls u v) : EndsOnly cls s v :=
  ⟨k.pages.trans h.pages, k.uid.trans h.uid, k.launch.trans h.launch, k.status.elim (fun e => e ▸ h.status) .inr⟩

theorem foldl {α : Type} {f : State → α → State} (h : ∀ a x, EndsOnly cls a (f a x)) (l : List α) (s : State) : EndsOnly cls s (l.foldl f s) :=
  foldl_keeps (EndsOnly cls s) f (fun a x ha => ha.trans (h a x)) l s (.refl s)

theorem of_memory {s u : State} (h : OnlyMemory s u) : EndsOnly cls s u := same h.badPages h.t

theorem of_points {s u : State} (h : OnlyPoints s u) : EndsOnly cls s u := by
  obtain ⟨_, _, _, _, _, _, _, _, _, rfl⟩ := h
  exact ⟨rfl, rfl, rfl, .inl rfl⟩

theorem updLaunch (s : State) (num : Nat) (f : Launch → Launch) : EndsOnly cls s (updLaunch s num f) := same rfl rfl

theorem logError (s : State) (die c event unit part addr : Nat) : EndsOnly cls s (logError s die c event unit part addr) := by
  have h := logError_eq s die c event unit part addr
  have hp := congrArg State.badPages h
  have ht := congrArg State.t h
  exact same hp ht

end EndsOnly

/-! ### Entries of completion queues (R378) -/

theorem OnlyMemory.of_cqKey {s u : State} {l : Launch} {off k : Nat} (h : cqKey s l off = some (k, u)) : OnlyMemory s u := by
  unfold cqKey at h
  split at h
  · next ht =>
    have hu : Machine.fillBlock _ _ = u := congrArg Prod.snd (Option.some.inj h)
    exact hu ▸ (OnlyMemory.of_translate_ok ht).trans (.fillBlock ..)
  · cases h

theorem OnlyMemory.of_cqHead {s u : State} {l : Launch} {h : CqHead} (e : cqHead s l = some (h, u)) : OnlyMemory s u := by
  unfold cqHead at e
  obtain ⟨⟨k, x⟩, hk, hx⟩ := Option.map_eq_some_iff.1 e
  have hu : x = u := congrArg Prod.snd hx
  exact hu ▸ .of_cqKey hk

theorem OnlyMemory.writeEntry (s : State) (l : Launch) (ws : List Word) : OnlyMemory s (writeEntry s l ws) := by
  unfold Machine.writeEntry
  split
  · exact .refl s
  · next h s1 e1 =>
    have h1 := OnlyMemory.of_cqHead e1
    split
    · exact h1
    · next k s2 e2 =>
      have h2 := h1.trans (.of_cqKey e2)
      extract_lets s3
      have h3 : OnlyMemory s s3 := h2.trans (.engineWrite ..)
      split
      · exact h3
      · next w s4 e4 => exact (h3.trans (.of_cqKey e4)).trans (.hardWrite ..)

namespace EndsOnly

variable {cls : Nat}

theorem flushEntries (num : Nat) : ∀ (n : Nat) (s : State), EndsOnly cls s (flushEntries num n s)
  | 0, s => .refl s
  | n + 1, s => by
    unfold Machine.flushEntries
    split
    · exact .refl s
    · split
      · exact .refl s
      · split
        · exact ((of_memory (.writeEntry ..)).trans (.updLaunch ..)).trans (flushEntries num n _)
        · exact .refl s

theorem finishLaunch (s : State) (num : Nat) : EndsOnly cls s (finishLaunch s num) := by
  unfold Machine.finishLaunch
  split
  · exact .refl s
  · extract_lets c ws
    split
    · exact .updLaunch ..
    · exact .refl s

theorem postNodeEntry (s : State) (num : Nat) (failed : Option Nat) (ws : List Word) : EndsOnly cls s (postNodeEntry s num failed ws) :=
  ((EndsOnly.updLaunch s ..).trans (.finishLaunch ..)).trans (.flushEntries ..)

theorem decrement (s : State) (w : Who) (key d : Nat) (bytes : List (Nat × Nat × Byte)) : EndsOnly cls s (decrement s w key d bytes).2 := by
  unfold Machine.decrement
  extract_lets r p s1 s2
  split
  · exact .refl s
  · have h1 : EndsOnly cls s s1 := of_memory (.engineWrite ..)
    clear_value s1
    have h2 : EndsOnly cls s1 s2 := by
      change EndsOnly cls s1 (if bytes.isEmpty then s1 else _)
      split
      · exact .refl s1
      · exact same rfl rfl
    clear_value s2
    refine (h1.trans h2).trans ?_
    dsimp only
    split
    · exact same rfl rfl
    · exact .refl s2

theorem barrierKey (s : State) (w : Who) (va : Word) : EndsOnly cls s (barrierKey s w va).2 := by
  unfold Machine.barrierKey
  split
  · next h => exact of_memory ((OnlyMemory.of_translate_ok h).trans (.fillBlock ..))
  · next h => exact of_memory (.of_translate_fault h)

theorem endSpawn (sp : Spawn) (s : State) : EndsOnly cls s (endSpawn sp cls s) := by
  unfold Machine.endSpawn
  extract_lets s1 s2 s3
  have h1 : EndsOnly cls s s1 := same rfl rfl
  have h2 : EndsOnly cls s1 s2 := by
    have hb := EndsOnly.barrierKey (cls := cls) s1 (dieWho sp.part sp.die) sp.cb
    change EndsOnly cls s1 (match Machine.barrierKey s1 (dieWho sp.part sp.die) sp.cb with
      | (.ok k, a) => (Machine.decrement a (dieWho sp.part sp.die) k 1 []).2
      | (.error _, a) => a)
    split
    · next e => rw [e] at hb; exact hb.trans (.decrement ..)
    · next e => rw [e] at hb; exact hb
  exact ((h1.trans h2).trans (.updLaunch ..)).trans (.postNodeEntry ..)

end EndsOnly

/-! ### Write-backs of folios (R150) -/

theorem OnlyMemory.drainKeys (w : Who) : ∀ (n va : Nat) (s : State), OnlyMemory s (drainKeys w va n s).2.2
  | 0, _, s => .refl s
  | n + 1, va, s => by
    unfold Machine.drainKeys
    split
    · next h => exact (OnlyMemory.of_translate_fault h).trans (drainKeys w n ..)
    · next h => exact ((OnlyMemory.of_translate_ok h).trans (.fillBlock ..)).trans (drainKeys w n ..)

namespace EndsOnly

variable {cls : Nat}

theorem updAnyThread_addWrites (s : State) (uid : Nat) (ws : List OwnWrite) : EndsOnly cls s (updAnyThread s uid fun t => t.addWrites ws) := by
  unfold updAnyThread updThread
  split <;> exact ⟨rfl, rfl, rfl, .inl rfl⟩

theorem publishBytes (s : State) (uid core part scope : Nat) (kvs : List (Nat × Byte)) :
    EndsOnly cls s (publishBytes s uid core part scope kvs) := by
  unfold Machine.publishBytes
  extract_lets n s1 s2 s3
  split
  · exact .refl s
  · have h1 : EndsOnly cls s s1 :=
      of_points (OnlyPoints.foldl _ (fun a p => .pointWrite ..) _ _ ⟨_, _, _, _, _, _, _, _, _, rfl⟩)
    have h2 : EndsOnly cls s1 s2 := by
      change EndsOnly cls s1 (if 4 ≤ scope then _ else s1)
      split
      · exact EndsOnly.foldl (fun a l => of_points (.promoteLine ..)) _ s1
      · exact .refl s1
    have h3 : EndsOnly cls s2 s3 := by
      change EndsOnly cls s2 (if 4 ≤ scope then s2 else _)
      split
      · exact .refl s2
      · exact .updAnyThread_addWrites ..
    exact ((h1.trans h2).trans h3).trans (of_points (.publishMasters ..))

theorem drainSaved (uid : Nat) (s : State) (e : FolioEntry) : EndsOnly cls s (drainSaved uid s e) := by
  unfold Machine.drainSaved
  split
  · split
    · exact (of_memory (.drainKeys ..)).trans (.publishBytes ..)
    · exact .refl s
  · exact .refl s

/-! ### Nodes and launches -/

theorem endThread (s : State) (uid : Nat) : EndsOnly cls s (endThread s uid cls 0 0) := by
  unfold Machine.endThread updThread
  split
  · unfold State.updT
    dsimp only
    split
    · exact same rfl rfl
    · exact same rfl rfl
    all_goals exact ⟨rfl, rfl, rfl, .inr rfl⟩
  · exact same rfl rfl

theorem dropCont (s : State) (c : Cont) : EndsOnly cls s (dropCont s c) := same rfl rfl

theorem endNode (s : State) (uid : Nat) : EndsOnly cls s (endNode s uid cls 0 0) := by
  unfold Machine.endNode
  extract_lets gone s1
  have h1 : EndsOnly cls s s1 := EndsOnly.foldl EndsOnly.dropCont gone s
  clear_value gone s1
  split
  · exact h1.trans (.endThread s1 uid)
  · split
    · refine h1.trans (EndsOnly.trans ?_ (EndsOnly.foldl (fun a e => .drainSaved uid a e) _ _))
      exact same rfl rfl
    · split
      · exact h1.trans (same rfl rfl)
      · exact h1

end EndsOnly

end Sys2Proof.Machine
end

section
namespace Sys2Proof.Machine

/-- A condition that one element of a fold brings about, and that every step keeps, holds after the fold. -/
theorem foldl_reaches {α β : Type} (P Q : β → Prop) (f : β → α → β) {x : α} (hP : ∀ b a, P b → P (f b a)) (hQ : ∀ b a, Q b → Q (f b a))
    (hx : ∀ b, P b → Q (f b x)) : ∀ (l : List α) (b : β), x ∈ l → P b → Q (l.foldl f b)
  | a :: r, b, h, hb => by
    rcases List.mem_cons.1 h with rfl | h
    · exact foldl_keeps Q f hQ r _ (hx b hb)
    · exact foldl_reaches P Q f hP hQ hx r _ h (hP b a hb)

/-- The running thread of a number runs, or its node has ended with a class. -/
structure RunsOrEnded (cls uid launch : Nat) (s : State) : Prop where
  uid : s.t.uid = uid
  launch : s.t.launch = launch
  status : s.t.status = .running ∨ s.t.status = .ending 1 cls 0 0

theorem EndsOnly.runsOrEnded {cls uid launch : Nat} {s u : State} (h : EndsOnly cls s u) (k : RunsOrEnded cls uid launch s) :
    RunsOrEnded cls uid launch u := ⟨h.uid.trans k.uid, h.launch.trans k.launch, h.status.elim (fun e => e ▸ k.status) .inr⟩

theorem EndsOnly.ended {cls : Nat} {s u : State} (h : EndsOnly cls s u) (k : s.t.status = .ending 1 cls 0 0) : u.t.status = .ending 1 cls 0 0 :=
  h.status.elim (fun e => e.trans k) id

theorem endThread_ends {cls uid launch : Nat} {s : State} (h : RunsOrEnded cls uid launch s) :
    (endThread s uid cls 0 0).t.status = .ending 1 cls 0 0 := by
  unfold endThread updThread
  rw [if_pos h.uid, State.updT_t]
  rcases h.status with e | e
  · rw [e]
    rfl
  · rw [e]
    exact e

/-- Horsil ends the running thread's node (R437). -/
theorem endNode_ends {cls uid launch : Nat} {s : State} (h : RunsOrEnded cls uid launch s) :
    (endNode s uid cls 0 0).t.status = .ending 1 cls 0 0 := by
  unfold endNode
  extract_lets gone s1
  have h1 : RunsOrEnded cls uid launch s1 := (EndsOnly.foldl EndsOnly.dropCont gone s).runsOrEnded h
  have hf : (findThread s1 uid).isSome = true := by
    have hs : s1.t.status ≠ .free := by rcases h1.status with e | e <;> simp [e]
    simp [findThread, allThreads, h1.uid, hs]
  rw [if_pos hf]
  exact endThread_ends h1

theorem EndsOnly.endLaunch (cls : Nat) (s : State) (num : Nat) : EndsOnly cls s (endLaunch cls s num) := by
  unfold Machine.endLaunch
  extract_lets spawns s1 idle s2 s3 s4 mine
  have h2 : EndsOnly cls s s2 := EndsOnly.trans (u := s1) (same rfl rfl) (.updLaunch ..)
  have h3 : EndsOnly cls s2 s3 := EndsOnly.foldl (fun a n => .postNodeEntry ..) idle s2
  have h4 : EndsOnly cls s3 s4 := EndsOnly.foldl (fun a sp => .endSpawn sp a) spawns s3
  exact ((h2.trans h3).trans h4).trans (EndsOnly.foldl (fun a u => .endNode a u) _ s4)

/-- The end of its launch ends the running thread's node (R449). -/
theorem endLaunch_ends {cls uid launch : Nat} {s : State} (h : RunsOrEnded cls uid launch s) (hu : uid ≠ 0) :
    (endLaunch cls s launch).t.status = .ending 1 cls 0 0 := by
  unfold endLaunch
  extract_lets spawns s1 idle s2 s3 s4 mine
  have e2 : EndsOnly cls s s2 := EndsOnly.trans (u := s1) (.same rfl rfl) (.updLaunch ..)
  have e3 : EndsOnly cls s2 s3 := EndsOnly.foldl (fun a n => .postNodeEntry ..) idle s2
  have e4 : EndsOnly cls s3 s4 := EndsOnly.foldl (fun a sp => .endSpawn sp a) spawns s3
  have h4 : RunsOrEnded cls uid launch s4 := ((e2.trans e3).trans e4).runsOrEnded h
  have hm : uid ∈ (mine.map Thread.uid).dedup := by
    rw [List.mem_dedup]
    refine List.mem_map.2 ⟨s4.t, List.mem_filter.2 ⟨?_, ?_⟩, h4.uid⟩
    · simp [everyThread, allThreads]
    · simp [h4.launch, h4.uid, hu]
  exact foldl_reaches (RunsOrEnded cls uid launch) (fun a => a.t.status = .ending 1 cls 0 0) _
    (fun a u ha => (EndsOnly.endNode a u).runsOrEnded ha) (fun a u ha => (EndsOnly.endNode a u).ended ha) (fun a ha => endNode_ends ha) _ s4 hm h4

theorem hashFail_badPages (s : State) (part pkg page : Nat) : (part, pkg, page) ∈ (hashFail s part pkg page).badPages := by
  unfold hashFail
  extract_lets holds launches die
  rw [(EndsOnly.foldl (EndsOnly.endLaunch 0x0E) _ _).pages, (EndsOnly.logError (cls := 0x0E) ..).pages]
  exact List.mem_cons_self

/-- A code page that fails its hash ends the running thread when its launch is one of the page's codex (R449). -/
theorem hashFail_ends {s : State} {part pkg page : Nat} {c : Codex} (hs : s.t.status = .running) (hu : s.t.uid ≠ 0) (hc : c ∈ s.codices)
    (hp : c.part = part) (hlo : c.codeBase.toNat / 2 ^ 16 * 2 ^ 16 ≤ page) (hhi : page < c.codeBase.toNat + c.code.length)
    (hl : s.t.launch ∈ c.launches) : (hashFail s part pkg page).t.status = .ending 1 0x0E 0 0 := by
  unfold hashFail
  extract_lets holds launches die
  have hm : s.t.launch ∈ launches := by
    refine List.mem_dedup.2 (List.mem_flatten.2 ⟨c.launches, List.mem_map.2 ⟨c, List.mem_filter.2 ⟨hc, ?_⟩, rfl⟩, hl⟩)
    simp only [holds, Bool.and_eq_true, beq_iff_eq, decide_eq_true_eq]
    exact ⟨hp, hlo, hhi⟩
  refine foldl_reaches (RunsOrEnded 0x0E s.t.uid s.t.launch) (fun a => a.t.status = .ending 1 0x0E 0 0) _
    (fun a n ha => (EndsOnly.endLaunch 0x0E a n).runsOrEnded ha) (fun a n ha => (EndsOnly.endLaunch 0x0E a n).ended ha)
    (fun a ha => endLaunch_ends ha hu) launches _ hm ((EndsOnly.logError ..).runsOrEnded ⟨rfl, rfl, .inl hs⟩)

/-- CODE_PAGE_HASH_FAIL (R449). -/
theorem codePageHashFail_does (part pkg : Nat) (va : Word) (s : State) : ∃ t, exec (.codePageHashFail part pkg va) s = .next t ∧ t.stalled = false ∧
    (part, pkg, va.toNat / 2 ^ 16 * 2 ^ 16) ∈ t.badPages ∧
    (s.t.status = .running → s.t.uid ≠ 0 → (∃ c ∈ s.codices, c.part = part ∧ c.codeBase.toNat / 2 ^ 16 * 2 ^ 16 ≤ va.toNat / 2 ^ 16 * 2 ^ 16 ∧
      va.toNat / 2 ^ 16 * 2 ^ 16 < c.codeBase.toNat + c.code.length ∧ s.t.launch ∈ c.launches) → t.t.status = .ending 1 0x0E 0 0) :=
  ⟨_, rfl, rfl, hashFail_badPages .., fun hs hu ⟨_, hc, hp, hlo, hhi, hl⟩ => hashFail_ends hs hu hc hp hlo hhi hl⟩

/-! ## A partition ends (R386, R468) -/

theorem settleViews_eq (s : State) : { settleViews s with conts := s.conts } = s := by
  unfold settleViews
  refine foldl_keeps (fun a : State => { a with conts := s.conts } = s) _ (fun a c ha => ?_) _ _ rfl
  split
  · split
    · exact ha
    · exact ha
  all_goals exact ha

theorem settleViews_parts (s : State) : (settleViews s).parts = s.parts := by
  have h := congrArg State.parts (settleViews_eq s)
  exact h

theorem settleViews_tethers (s : State) : (settleViews s).tethers = s.tethers := by
  have h := congrArg State.tethers (settleViews_eq s)
  exact h

/-- An element of the updated list that `p` admits is a changed one. -/
theorem of_mem_updWhere {α : Type} {l : List α} {p : α → Bool} {f : α → α} {q : α → Prop} (hq : ∀ x, q (f x)) {y : α}
    (h : y ∈ updWhere l p f) (hy : p y = true) : q y := by
  obtain ⟨x, _, rfl⟩ := List.mem_map.1 h
  by_cases hx : p x = true
  · rw [if_pos hx]
    exact hq x
  · rw [if_neg hx] at hy
    exact absurd hy hx

/-- TETHER_PEER_END. -/
theorem tetherPeerEnd_does (part : Nat) (s : State) : ∃ t, exec (.tetherPeerEnd part) s = .next t ∧ t.stalled = false ∧
    (∀ p ∈ t.parts, p.slot = part → p.ended = true) ∧ ∀ x ∈ t.tethers, x.receiver = part ∨ x.sender = part → x.ended = true := by
  refine ⟨_, rfl, rfl, fun p hp hs => ?_, fun x hx hs => ?_⟩
  · dsimp only at hp
    rw [settleViews_parts] at hp
    exact of_mem_updWhere (q := fun p : Partition => p.ended = true) (fun _ => rfl) hp (beq_iff_eq.2 hs)
  · dsimp only at hx
    rw [settleViews_tethers] at hx
    exact of_mem_updWhere (q := fun x : Tether => x.ended = true) (fun _ => rfl) hx (by simpa using hs)

end Sys2Proof.Machine
end

section
namespace Sys2Proof.Machine

/-! ## Evictions and shootdowns (R158, R159, R366) -/

theorem homeChanged_t (s : State) (ks : List Nat) : (homeChanged s ks).t = s.t :=
  foldl_keeps (fun a : State => a.t = s.t) _ (fun a m ha => by dsimp only; split <;> exact ha) _ _ rfl

theorem homeChanged_narrow (s : State) (ks : List Nat) : (homeChanged s ks).narrow = s.narrow :=
  foldl_keeps (fun a : State => a.narrow = s.narrow) _ (fun a m ha => by dsimp only; split <;> exact ha) _ _ rfl

theorem promoteLine_t (s : State) (die line : Nat) : (promoteLine s die line).t = s.t :=
  (homeChanged_t ..).trans (foldl_keeps (fun a : State => a.t = s.t) _ (fun _ _ ha => (homeWrite_t ..).trans ha) _ _ rfl)

theorem mem_homeWrite_narrow {s : State} {k q : Nat} {v : Byte} {n : Narrow} (h : n ∈ (homeWrite s k v q).narrow) : n ∈ s.narrow := by
  unfold homeWrite at h
  split at h
  · rw [fillBlock_eq] at h
    exact List.mem_of_mem_filter h
  · exact h

/-- A narrower copy that is left after a line's promotion was there before and is none of the line on the die. -/
theorem mem_promoteLine_narrow {s : State} {die line : Nat} {n : Narrow} (h : n ∈ (promoteLine s die line).narrow) :
    n ∈ s.narrow ∧ ¬(n.key / 128 = line ∧ n.die = die) := by
  unfold promoteLine at h
  rw [homeChanged_narrow] at h
  have hm := foldl_keeps (fun a : State => n ∈ a.narrow → n ∈ s.narrow ∧ ¬(n.key / 128 = line ∧ n.die = die)) _
    (fun a x ha hn => ha (mem_homeWrite_narrow hn)) _ _ (fun hn => ?_) h
  · exact hm
  · simpa [-not_and, not_and_or] using List.mem_filter.1 hn

theorem compressBlock_t (s : State) (b : Nat) : (compressBlock s b).t = s.t := by
  unfold compressBlock
  dsimp only
  split <;> rfl

theorem compressBlock_narrow (s : State) (b : Nat) : (compressBlock s b).narrow = s.narrow := by
  unfold compressBlock
  dsimp only
  split <;> rfl

theorem evictLine_t (s : State) (die line : Nat) : (evictLine s die line).t = s.t := by
  unfold evictLine
  extract_lets pa first
  split
  · exact (compressBlock_t ..).trans (foldl_keeps (fun a : State => a.t = s.t) _ (fun a i ha => (promoteLine_t ..).trans ha) _ _ rfl)
  · exact promoteLine_t ..

/-- An evicted line leaves no narrower copy on its die, alone or with the 31 lines of its block. -/
theorem not_mem_evictLine_narrow {s : State} {die line : Nat} {n : Narrow} (h : n ∈ (evictLine s die line).narrow) :
    ¬(n.key / 128 = line ∧ n.die = die) := by
  unfold evictLine at h
  extract_lets pa first at h
  split at h
  · rw [compressBlock_narrow] at h
    have hl : line - first ∈ List.range 32 := List.mem_range.2 (by omega)
    have hf : first + (line - first) = line := by omega
    exact foldl_reaches (fun _ => True) (fun a : State => n ∈ a.narrow → ¬(n.key / 128 = line ∧ n.die = die)) _ (fun _ _ _ => trivial)
      (fun a i ha hn => ha (mem_promoteLine_narrow hn).1) (fun a _ hn => (mem_promoteLine_narrow (by rwa [hf] at hn)).2) _ s hl trivial h
  · exact (mem_promoteLine_narrow h).2

/-- DIE_CACHE_EVICT. -/
theorem dieCacheEvict_does (die line : Nat) (s : State) : ∃ t, exec (.dieCacheEvict die line) s = .next t ∧ t.stalled = false ∧ t.t = s.t ∧
    ∀ n ∈ t.narrow, ¬(n.key / 128 = line ∧ n.die = die) :=
  ⟨_, rfl, rfl, evictLine_t .., fun _ hn => not_mem_evictLine_narrow hn⟩

theorem not_mem_shootdown {s : State} {part pkg : Nat} : ∀ x ∈ (shootdown s part pkg).tlbs, ∀ e ∈ x.entries, ¬(e.part = part ∧ e.pkg = pkg) := by
  intro x hx e he
  obtain ⟨y, _, rfl⟩ := List.mem_map.1 hx
  simpa [-not_and, not_and_or] using (List.mem_filter.1 he).2

/-- TLB_SHOOTDOWN (R158). -/
theorem tlbShootdown_does (part pkg : Nat) (s : State) : ∃ t, exec (.tlbShootdown part pkg) s = .next t ∧ t.stalled = false ∧ t.t = s.t ∧
    t.home = s.home ∧ ∀ x ∈ t.tlbs, ∀ e ∈ x.entries, ¬(e.part = part ∧ e.pkg = pkg) := ⟨_, rfl, rfl, rfl, rfl, not_mem_shootdown⟩

/-! ## Page migration (R397) -/

/-- A page of memory reads at its new place as it read at the old one. -/
theorem Shift.read_bytes (m : Shift) {mem : Memory} (hw : mem.wf = true) {i : Nat} (hi : i < m.size) :
    (m.bytes mem).read (m.new + i) = mem.read (m.old + i) := by
  have hin : ∀ c ∈ mem.filter (fun c => m.inOld c.1), c ∈ mem ∧ m.old ≤ c.1 ∧ m.key c.1 = c.1 - m.old + m.new := fun c hc => by
    obtain ⟨h1, h2⟩ := List.mem_filter.1 hc
    simp only [Shift.inOld, decide_eq_true_eq] at h2
    exact ⟨h1, h2.1, by simp [Shift.key, Shift.inOld, h2]⟩
  refine Memory.read_foldl_write _ _ _ _ (Memory.filter_wf _ _ hw) (fun c hc hk => ?_) ?_
  · obtain ⟨h1, h2, h3⟩ := hin c hc
    have hc1 : c.1 = m.old + i := by omega
    rw [← hc1, Memory.read_of_mem hw h1]
  · by_cases he : ∃ c ∈ mem, c.1 = m.old + i
    · obtain ⟨c, hc, hk⟩ := he
      have hc' : c ∈ mem.filter (fun c => m.inOld c.1) := List.mem_filter.2 ⟨hc, by simp [Shift.inOld]; omega⟩
      obtain ⟨_, h2, h3⟩ := hin c hc'
      exact .inr ⟨c, hc', by omega⟩
    · refine .inl ?_
      rw [Memory.read_of_forall_ne (k := m.old + i) fun c hc hk => he ⟨c, hc, hk⟩]
      refine Memory.read_of_forall_ne fun c hc hk => ?_
      have := (List.mem_filter.1 hc).2
      simp [Shift.inNew, hk] at this
      omega

theorem settleAll_of_empty {s : State} (h : ∀ x ∈ allThreads s, x.mq = []) : settleAll s = s := by
  unfold settleAll
  rw [List.filter_eq_nil_iff.2 fun x hx => by simp [h x hx]]
  rfl

theorem Shift.state_raw (m : Shift) {s : State} (h : Raw s) : Raw (m.state s) :=
  ⟨m.bytes_wf h.wf, by simp [Shift.state, h.raw]⟩

/-- The bytes of a page that has moved, but for its own leaf entry's, once the leaf has been rewritten. -/
theorem Shift.read_switched (m : Shift) {s : State} (h : Raw s) {at_ : Nat}
    (hat : at_ + 8 ≤ m.new ∨ m.new + m.size ≤ at_) {i : Nat} (hi : i < m.size) (hne : at_ + 8 ≤ m.old + i ∨ m.old + i < at_) (leaf : Nat) :
    (hardWrite (m.state s) (m.key at_) (natLe 8 leaf)).home.read (m.new + i) = s.home.read (m.old + i) := by
  rw [hardWrite_read_outside (m.state_raw h)]
  · exact m.read_bytes h.wf hi
  · rw [natLe_length]
    unfold Shift.key Shift.inOld
    split
    · next hin =>
      simp only [decide_eq_true_eq] at hin
      omega
    · omega

section
variable {part pkg newPa at_ e old size : Nat} {va : Word} {s : State} (hl : leafOf s part pkg va = some (at_, e, old, size))
include hl

theorem pageMigration_begins (hm : moveOk s part pkg (va.toNat / size * size % 2 ^ 57) newPa size old (field e 3 3 == 1) = true) (hs : s.moves = []) :
    exec (.pageMigration part pkg va newPa) s = .next { s with
      moves := [{ part := part, pkg := pkg, va := BitVec.ofNat 64 (va.toNat / size * size), newPa := newPa }], stalled := false } := by
  change execPageMigration part pkg va newPa s = _
  have hva : (BitVec.ofNat 64 (va.toNat / size * size)).toNat = va.toNat / size * size := by
    rw [BitVec.toNat_ofNat, Nat.mod_eq_of_lt ((Nat.div_mul_le_self ..).trans_lt va.isLt)]
  unfold execPageMigration
  simp only [hl, hva, hm, hs, List.any_nil, Bool.true_eq_false, Bool.false_eq_true, or_self, if_false, List.nil_append]
  rfl

theorem pageSwitch_gives_up {mv : Move} (hf : (s.moves.find? fun m => m.part == part && m.pkg == pkg && m.va.toNat == va.toNat / size * size) = some mv)
    (hm : moveOk { s with moves := s.moves.erase mv } part pkg (mv.va.toNat % 2 ^ 57) mv.newPa size old (field e 3 3 == 1) = false) :
    exec (.pageSwitch part pkg va) s = .next { s with moves := s.moves.erase mv, stalled := false } := by
  change execPageSwitch part pkg va s = _
  unfold execPageSwitch
  simp only [hl, hf, hm, if_true]
  rfl

theorem pageSwitch_eq {mv : Move} (hf : (s.moves.find? fun m => m.part == part && m.pkg == pkg && m.va.toNat == va.toNat / size * size) = some mv)
    (hm : moveOk { s with moves := s.moves.erase mv } part pkg (mv.va.toNat % 2 ^ 57) mv.newPa size old (field e 3 3 == 1) = true)
    (hq : ∀ x ∈ allThreads s, x.mq = []) {m : Shift} (hmv : m = { old := old, new := mv.newPa, size := size }) {u : State}
    (hu : u = hardWrite (m.state { s with moves := s.moves.erase mv }) (m.key at_) (natLe 8 (movedLeaf e mv.newPa))) :
    ∃ l, exec (.pageSwitch part pkg va) s = .next { shootdown { u with cxl := l } part pkg with stalled := false } := by
  obtain ⟨l, hc⟩ := cxlGiven_eq u part mv.newPa size
  refine ⟨l, ?_⟩
  rw [← hc, hu, hmv]
  change execPageSwitch part pkg va s = _
  unfold execPageSwitch
  simp only [hl, hf, hm, Bool.true_eq_false, if_false]
  rw [settleAll_of_empty (s := { s with moves := s.moves.erase mv }) hq]
  rfl

end

/-- PAGE_MIGRATION and PAGE_SWITCH (R397). -/
theorem pageMoves_do (part pkg newPa at_ e old size : Nat) (va : Word) (s : State) (hl : leafOf s part pkg va = some (at_, e, old, size)) :
    (moveOk s part pkg (va.toNat / size * size % 2 ^ 57) newPa size old (field e 3 3 == 1) = true → s.moves = [] → exec (.pageMigration part pkg va newPa) s = .next { s with
      moves := [{ part := part, pkg := pkg, va := BitVec.ofNat 64 (va.toNat / size * size), newPa := newPa }], stalled := false }) ∧
    ∀ mv, (s.moves.find? fun m => m.part == part && m.pkg == pkg && m.va.toNat == va.toNat / size * size) = some mv →
      (moveOk { s with moves := s.moves.erase mv } part pkg (mv.va.toNat % 2 ^ 57) mv.newPa size old (field e 3 3 == 1) = false →
        exec (.pageSwitch part pkg va) s = .next { s with moves := s.moves.erase mv, stalled := false }) ∧
      (moveOk { s with moves := s.moves.erase mv } part pkg (mv.va.toNat % 2 ^ 57) mv.newPa size old (field e 3 3 == 1) = true →
      mv.newPa + size ≤ old ∨ old + size ≤ mv.newPa → at_ + 8 ≤ mv.newPa ∨ mv.newPa + size ≤ at_ → s.home.wf = true → s.zblocks = [] →
      (∀ x ∈ allThreads s, x.mq = []) →
      ∃ t, exec (.pageSwitch part pkg va) s = .next t ∧ t.stalled = false ∧ t.moves = s.moves.erase mv ∧
        (∀ x ∈ t.tlbs, ∀ e ∈ x.entries, ¬(e.part = part ∧ e.pkg = pkg)) ∧
        ∀ i < size, (at_ + 8 ≤ old + i ∨ old + i < at_) → t.home.read (mv.newPa + i) = s.home.read (old + i)) := by
  refine ⟨fun hm hs => pageMigration_begins hl hm hs, fun mv hf => ⟨fun hm => pageSwitch_gives_up hl hf hm, fun hm _ hat hw hz hq => ?_⟩⟩
  let m : Shift := { old := old, new := mv.newPa, size := size }
  obtain ⟨u, hu⟩ : ∃ u, u = hardWrite (m.state { s with moves := s.moves.erase mv }) (m.key at_) (natLe 8 (movedLeaf e mv.newPa)) := ⟨_, rfl⟩
  obtain ⟨l, ht⟩ := pageSwitch_eq hl hf hm hq rfl hu
  have hmoves : u.moves = s.moves.erase mv := by
    rw [hu, (OnlyMemory.hardWrite ..).moves]
    rfl
  have hread : ∀ i < size, (at_ + 8 ≤ old + i ∨ old + i < at_) → u.home.read (mv.newPa + i) = s.home.read (old + i) := fun i hi hne => by
    rw [hu]
    exact m.read_switched (s := { s with moves := s.moves.erase mv }) ⟨hw, hz⟩ hat hi hne _
  exact ⟨_, ht, rfl, hmoves, not_mem_shootdown, hread⟩

end Sys2Proof.Machine
end

section
namespace Sys2Proof.Machine

/-! ## Shared paths (R26, R27) -/

/-- One more unit for the share of a partition. -/
def grantTo (x : PathShare) (l : List PathShare) : List PathShare := updWhere l (fun y => y.part == x.part) fun y => { y with got := y.got + 1 }

theorem grantTo_parts (x : PathShare) (l : List PathShare) : (grantTo x l).map PathShare.part = l.map PathShare.part := by
  unfold grantTo updWhere
  rw [List.map_map]
  refine List.map_congr_left fun y _ => ?_
  simp only [Function.comp]
  split <;> rfl

theorem grantTo_of_not_mem {x : PathShare} : ∀ {l : List PathShare}, x.part ∉ l.map PathShare.part → grantTo x l = l
  | [], _ => rfl
  | y :: r, h => by
    simp only [List.map_cons, List.mem_cons, not_or] at h
    have hr : grantTo x r = r := grantTo_of_not_mem h.2
    have hy : (y.part == x.part) = false := by simpa using Ne.symm h.1
    simp only [grantTo, updWhere, List.map_cons, hy] at hr ⊢
    rw [hr]
    rfl

/-- The grants of all rise by one, because each partition has one share. -/
theorem grantTo_sum {x : PathShare} : ∀ {l : List PathShare}, (l.map PathShare.part).Nodup → x ∈ l →
    ((grantTo x l).map PathShare.got).sum = (l.map PathShare.got).sum + 1
  | [], _, hx => by cases hx
  | y :: r, hn, hx => by
    rw [List.map_cons] at hn
    obtain ⟨hy, hr⟩ := List.nodup_cons.1 hn
    have hcons : grantTo x (y :: r) = (if y.part == x.part then { y with got := y.got + 1 } else y) :: grantTo x r := rfl
    rw [hcons]
    rcases List.mem_cons.1 hx with rfl | hx
    · rw [grantTo_of_not_mem hy]
      simp only [beq_self_eq_true, if_true, List.map_cons, List.sum_cons]
      omega
    · have hne : (y.part == x.part) = false := by
        refine beq_false_of_ne fun e => hy ?_
        rw [e]
        exact List.mem_map_of_mem hx
      simp only [hne, Bool.false_eq_true, if_false, List.map_cons, List.sum_cons, grantTo_sum hr hx]
      omega

/-- A share within its demand and not below the lesser of demand and reservation. -/
structure PathShare.Fair (x : PathShare) : Prop where
  most : x.got ≤ x.demand
  least : min x.demand x.units ≤ x.got

theorem grantTo_fair {x : PathShare} {l : List PathShare} (hn : (l.map PathShare.part).Nodup) (hx : x ∈ l) (hh : x.hungry = true)
    (hf : ∀ y ∈ l, y.Fair) : ∀ y ∈ grantTo x l, y.Fair := by
  intro y hy
  obtain ⟨z, hz, rfl⟩ := List.mem_map.1 hy
  have hfz := hf z hz
  split
  · next e =>
    have hzx : z = x := List.inj_on_of_nodup_map hn hz hx (beq_iff_eq.1 e)
    have hlt : z.got < z.demand := by rw [hzx]; simpa [PathShare.hungry] using hh
    exact ⟨hlt, hfz.least.trans (Nat.le_succ _)⟩
  · exact hfz

/-- What handing out units keeps: the shares' partitions, the units in all, fairness. -/
structure Shared (l : List PathShare) (n : Nat) (r : List PathShare × Nat) : Prop where
  parts : r.1.map PathShare.part = l.map PathShare.part
  total : (r.1.map PathShare.got).sum + r.2 = (l.map PathShare.got).sum + n
  fair : (∀ x ∈ l, x.Fair) → ∀ x ∈ r.1, x.Fair

theorem shareOut_shared (p : PathShare → Bool) (better : PathShare → PathShare → Bool) : ∀ (n : Nat) (l : List PathShare),
    (l.map PathShare.part).Nodup → Shared l n (shareOut p better n l)
  | 0, _, _ => ⟨rfl, rfl, id⟩
  | n + 1, l, hn => by
    unfold shareOut
    extract_lets pick
    have hpick : ∀ x, pick = some x → x ∈ l ∧ x.hungry = true := by
      refine List.foldlRecOn (motive := fun a : Option PathShare => ∀ x, a = some x → x ∈ l ∧ x.hungry = true) _ _ (fun x h => by cases h) ?_
      intro a ha y hy x hx
      obtain ⟨hyl, hyp⟩ := List.mem_filter.1 hy
      have hyh : y.hungry = true := (Bool.and_eq_true .. ▸ hyp).2
      cases a with
      | none => exact Option.some.inj hx ▸ ⟨hyl, hyh⟩
      | some z =>
        dsimp only at hx
        split at hx
        · exact Option.some.inj hx ▸ ⟨hyl, hyh⟩
        · exact ha x hx
    clear_value pick
    cases pick with
    | none => exact ⟨rfl, rfl, id⟩
    | some x =>
      obtain ⟨hx, hh⟩ := hpick x rfl
      have ih := shareOut_shared p better n (grantTo x l) (by rw [grantTo_parts]; exact hn)
      refine ⟨ih.parts.trans (grantTo_parts x l), ?_, fun hf => ih.fair (grantTo_fair hn hx hh hf)⟩
      have ht := ih.total
      rw [grantTo_sum hn hx] at ht
      exact ht.trans (by omega)

theorem foldl_add_eq_sum {α : Type} (f : α → Nat) (l : List α) : l.foldl (fun a x => a + f x) 0 = (l.map f).sum := by
  rw [List.sum_eq_foldl, List.foldl_map]

/-- R27's first step: each partition gets the lesser of its demand and its reservation. -/
def reserved (l : List PathShare) : List PathShare := l.map fun x => { x with got := min x.demand x.units }

theorem reserved_parts (l : List PathShare) : (reserved l).map PathShare.part = l.map PathShare.part := by
  simp [reserved, Function.comp_def]

theorem reserved_fair {l : List PathShare} : ∀ x ∈ reserved l, x.Fair := by
  intro x hx
  obtain ⟨y, _, rfl⟩ := List.mem_map.1 hx
  exact ⟨Nat.min_le_left .., le_rfl⟩

theorem reserved_sum_le (l : List PathShare) : ((reserved l).map PathShare.got).sum ≤ (l.map PathShare.units).sum := by
  rw [reserved, List.map_map]
  exact List.sum_le_sum fun x _ => Nat.min_le_right ..

/-- PATH_ARBITRATION's grants (R27). -/
theorem arbitrate_grants (l : List PathShare) (hn : (l.map PathShare.part).Nodup) (hu : (l.map PathShare.units).sum ≤ 64) :
    (arbitrate l).map PathShare.part = l.map PathShare.part ∧ ((arbitrate l).map PathShare.got).sum ≤ 64 ∧
    ∀ x ∈ arbitrate l, x.got ≤ x.demand ∧ min x.demand x.units ≤ x.got := by
  unfold arbitrate
  extract_lets l1 left r2
  have hl1 : l1 = reserved l := rfl
  have hp1 : l1.map PathShare.part = l.map PathShare.part := hl1 ▸ reserved_parts l
  have h2 : Shared l1 left r2 := shareOut_shared _ _ left l1 (hp1 ▸ hn)
  have h3 := shareOut_shared (fun x => x.units == 0) (fun a b => decide (a.got < b.got)) r2.2 r2.1 (by rw [h2.parts, hp1]; exact hn)
  refine ⟨h3.parts.trans (h2.parts.trans hp1), ?_, fun x hx => ?_⟩
  · have hs : (l1.map PathShare.got).sum ≤ 64 := (reserved_sum_le l).trans hu
    have hleft : left = 64 - (l1.map PathShare.got).sum := congrArg (64 - ·) (foldl_add_eq_sum ..)
    have ht2 := h2.total
    have ht3 := h3.total
    omega
  · obtain ⟨h1, h2⟩ := h3.fair (h2.fair (hl1 ▸ reserved_fair)) x hx
    exact ⟨h1, h2⟩

end Sys2Proof.Machine
end

section
namespace Sys2Proof.Machine

/-! ## Threads that move with their registers -/

/-- A thread's number, place, registers and position are another's. -/
structure Thread.Like (t u : Thread) : Prop where
  uid : u.uid = t.uid
  core : u.core = t.core
  slot : u.slot = t.slot
  part : u.part = t.part
  regs : u.s = t.s
  pc : u.pc = t.pc
  ctl : u.ctl = t.ctl

theorem Thread.Like.refl (t : Thread) : Thread.Like t t := ⟨rfl, rfl, rfl, rfl, rfl, rfl, rfl⟩

theorem Thread.Like.trans {t u v : Thread} (h : Thread.Like t u) (k : Thread.Like u v) : Thread.Like t v :=
  ⟨k.uid.trans h.uid, k.core.trans h.core, k.slot.trans h.slot, k.part.trans h.part, k.regs.trans h.regs, k.pc.trans h.pc, k.ctl.trans h.ctl⟩

/-- What stopping a thread and bringing back its snapshot and folios leave: the thread's number, place, registers and position, and what is
saved. -/
structure GoesOn (s u : State) : Prop where
  thread : Thread.Like s.t u.t
  saved : u.saved = s.saved

namespace GoesOn

theorem refl (s : State) : GoesOn s s := ⟨.refl _, rfl⟩

theorem trans {s u v : State} (h : GoesOn s u) (k : GoesOn u v) : GoesOn s v := ⟨h.thread.trans k.thread, k.saved.trans h.saved⟩

theorem same {s u : State} (ht : u.t = s.t) (hs : u.saved = s.saved) : GoesOn s u := ⟨ht ▸ .refl _, hs⟩

theorem of_memory {s u : State} (h : OnlyMemory s u) : GoesOn s u := same h.t h.saved

theorem of_points {s u : State} (h : OnlyPoints s u) : GoesOn s u := by
  obtain ⟨_, _, _, _, _, _, _, _, _, rfl⟩ := h
  exact ⟨⟨rfl, rfl, rfl, rfl, rfl, rfl, rfl⟩, rfl⟩

end GoesOn

/-! ## Pre-emption (R450, R451) -/

theorem settleTake_of_none {s : State} (h : ∀ p ∈ s.pools, ∀ k ∈ p.takes, k.uid ≠ s.t.uid) : settleTake s = s := by
  unfold settleTake
  extract_lets mine
  have hm : mine = [] := by
    refine List.flatten_eq_nil_iff.2 fun l hl => ?_
    obtain ⟨p, hp, rfl⟩ := List.mem_map.1 hl
    rw [List.filter_eq_nil_iff.2 fun k hk => by simpa using h p hp k hk]
    rfl
  rw [hm]
  rfl

theorem drainMatrix_of_empty {s : State} (h : s.t.mq = []) : drainMatrix s = s := by simp [drainMatrix, h]

theorem stopThread_goesOn {s : State} (hm : s.t.mq = []) (ht : ∀ p ∈ s.pools, ∀ k ∈ p.takes, k.uid ≠ s.t.uid) : GoesOn s (stopThread s) := by
  unfold stopThread
  rw [settleTake_of_none ht, drainMatrix_of_empty hm]
  exact (GoesOn.of_points (.publish s 5)).trans ⟨⟨rfl, rfl, rfl, rfl, rfl, rfl, rfl⟩, rfl⟩

theorem le_areaSize (t : Thread) (fs : List FolioEntry) : 2048 ≤ t.areaSize fs := by
  unfold Thread.areaSize
  dsimp only
  omega

theorem Thread.kept_like (t : Thread) : Thread.Like t t.kept := by
  constructor <;> simp only [Thread.kept]

/-- A saved thread frees its slot, stands among the saved ones as it was, and its area is guarded (R451). -/
theorem saveThread_saves (area : Word) (s : State) : (saveThread area s).t = Thread.blank ∧
    (∃ v, (saveThread area s).saved = s.saved ++ [v] ∧ Thread.Like s.t v.th ∧ v.quad = quadOf s.t.core ∧ v.area = area) ∧
    ∀ p ∈ (saveThread area s).parts, p.slot = s.t.part → ∃ g ∈ p.guards, g.pkg = pkgOf s.t.core ∧ g.base = area.toNat ∧ 2048 ≤ g.size := by
  unfold saveThread
  extract_lets t mine sv g s1 parts
  have hs1 : s1.saved = s.saved := foldl_keeps (fun a : State => a.saved = s.saved) _ (fun a e ha => by dsimp only; split <;> exact ha) mine s rfl
  have hv : Thread.Like s.t sv.th ∧ sv.quad = quadOf s.t.core ∧ sv.area = area := ⟨s.t.kept_like, rfl, rfl⟩
  have hg : g.pkg = pkgOf s.t.core ∧ g.base = area.toNat ∧ 2048 ≤ g.size := ⟨rfl, rfl, le_areaSize ..⟩
  clear_value sv g
  refine ⟨rfl, ⟨sv, ?_, hv⟩, fun p hp hs => ?_⟩
  · change s1.saved ++ [sv] = _
    rw [hs1]
  · exact of_mem_updWhere (q := fun p : Partition => ∃ g ∈ p.guards, g.pkg = pkgOf s.t.core ∧ g.base = area.toNat ∧ 2048 ≤ g.size)
      (fun _ => ⟨g, List.mem_cons_self, hg⟩) hp (beq_iff_eq.2 hs)

theorem asThread_self {s : State} {uid : Nat} (h : s.t.uid = uid) (f : State → State) : asThread s uid f = f s := by
  simp [asThread, h]

/-- A thread without living mates is stopped and saved alone (R450). -/
theorem preempt_eq {area : Word} {s : State} (hc : canonical area = true) (ha : area.toNat % 64 = 0) (hl : s.t.status.live = true)
    (hmates : ∀ x ∈ s.parked, x.status.live = true → teamMate s.t x = false) (hcmd : hasCommands s s.t.uid = false)
    (hput : hasPuts s s.t.uid = false) (hdrain : drainsPool s s.t.uid = false) (hstop : (stopThread s).t.uid = s.t.uid) :
    exec (.preempt s.t.uid area) s = happening (dropBlanks (saveThread area (stopThread s))) := by
  have hfind : ((allThreads s).find? fun t => t.uid == s.t.uid && t.status.live) = some s.t := by simp [allThreads, hl]
  have hteam : ((allThreads s).filter fun x => x.status.live && teamMate s.t x) = [s.t] := by
    have hself : teamMate s.t s.t = true := by simp [teamMate]
    have hrest : (s.parked.filter fun x => x.status.live && teamMate s.t x) = [] := by
      refine List.filter_eq_nil_iff.2 fun x hx => ?_
      by_cases hxl : x.status.live = true
      · simp [hmates x hx hxl]
      · simp [hxl]
    simp [allThreads, hl, hself, hrest]
  change execPreempt s.t.uid area s = _
  unfold execPreempt
  rw [hfind]
  dsimp only
  rw [if_neg (by simp [hc, ha]), hteam]
  simp only [List.map_cons, List.map_nil, List.any_cons, List.any_nil, hcmd, hput, hdrain, Bool.or_self, Bool.false_eq_true, if_false,
    List.foldl_cons, List.foldl_nil]
  rw [asThread_self rfl, saveTeam]
  simp only [saveTeam, asThread_self hstop]

/-- PREEMPT. -/
theorem preempt_does (area : Word) (s : State) (hc : canonical area = true) (ha : area.toNat % 64 = 0) (hl : s.t.status.live = true)
    (hmates : ∀ x ∈ s.parked, x.status.live = true → teamMate s.t x = false) (hm : s.t.mq = []) (hcmd : hasCommands s s.t.uid = false)
    (hput : hasPuts s s.t.uid = false) (hdrain : drainsPool s s.t.uid = false) (ht : ∀ p ∈ s.pools, ∀ k ∈ p.takes, k.uid ≠ s.t.uid) :
    ∃ t v, exec (.preempt s.t.uid area) s = .next t ∧ t.stalled = false ∧ t.t = Thread.blank ∧ t.saved = s.saved ++ [v] ∧
      v.th.uid = s.t.uid ∧ v.th.s = s.t.s ∧ v.th.pc = s.t.pc ∧ v.th.ctl = s.t.ctl ∧ v.quad = quadOf s.t.core ∧ v.area = area ∧
      ∀ p ∈ t.parts, p.slot = s.t.part → ∃ g ∈ p.guards, g.pkg = pkgOf s.t.core ∧ g.base = area.toNat ∧ 2048 ≤ g.size := by
  have hs := stopThread_goesOn hm ht
  obtain ⟨hblank, ⟨v, hsaved, hv, hquad, harea⟩, hguards⟩ := saveThread_saves area (stopThread s)
  have hlike := hs.thread.trans hv
  rw [hs.thread.core] at hquad hguards
  rw [hs.thread.part] at hguards
  rw [hs.saved] at hsaved
  exact ⟨_, v, preempt_eq hc ha hl hmates hcmd hput hdrain hs.thread.uid, rfl, hblank, hsaved, hlike.uid, hlike.regs, hlike.pc, hlike.ctl, hquad,
    harea, hguards⟩

/-! ## Resumption (R453) -/

theorem fillBytes_zero (va : Nat) (s : State) : fillBytes va 0 s = (.ok [], s) := by with_unfolding_all rfl

/-- One KiB of a fill (R149). Lean's own equation for `fillBytes` runs into the recursion limit on the literal 1024, which is made a variable
here. -/
theorem fillBytes_succ (va n : Nat) (s : State) : fillBytes va (n + 1) s =
    match translate s { me s with core := none } .load (BitVec.ofNat 64 va) with
    | .fault c s1 => (.error (c, va), s1)
    | .ok k s1 =>
      match guardedIn s1 s1.t.part (pkgOf s1.t.core) va 1024 with
      | some a => (.error (0x04, a), s1)
      | none =>
        let s2 := fillBlock s1 k
        match (List.range 1024).find? fun i => poisoned s2 (k + i) 1 with
        | some i => (.error (0x0E, va + i), s2)
        | none =>
          let r := fillBytes (va + 1024) n s2
          match r.1 with
          | .ok bs => (.ok (s2.t.readBytes 1024 k ++ bs), r.2)
          | .error e => (.error e, r.2) := by
  delta fillBytes fillBytes._f
  generalize (1024 : Nat) = kib
  rfl

theorem OnlyMemory.fillBytes (n : Nat) : ∀ (va : Nat) (s : State), OnlyMemory s (fillBytes va n s).2 := by
  induction n with
  | zero =>
    intro va s
    rw [fillBytes_zero]
    exact .refl s
  | succ n ih =>
    intro va s
    rw [fillBytes_succ]
    split
    · next h => exact .of_translate_fault h
    · next k s1 h =>
      have h1 := OnlyMemory.of_translate_ok h
      split
      · exact h1
      · have h2 := h1.trans (.fillBlock s1 k)
        dsimp only
        split
        · exact h2
        · have h3 := h2.trans (ih (va + 1024) _)
          split <;> exact h3

namespace GoesOn

theorem snapshot (s : State) (sc : Nat) : GoesOn s (snapshot s sc) := ⟨⟨rfl, rfl, rfl, rfl, rfl, rfl, rfl⟩, rfl⟩

theorem seeFolio (s : State) (e : FolioEntry) : GoesOn s (seeFolio s e) := by
  unfold Machine.seeFolio
  split
  · exact ⟨⟨rfl, rfl, rfl, rfl, rfl, rfl, rfl⟩, rfl⟩
  · exact .refl s

theorem makeRoom (s : State) (core : Nat) : GoesOn s (makeRoom s core) := by
  unfold Machine.makeRoom
  split
  · exact .refl s
  · split
    · exact same rfl rfl
    · exact .refl s

theorem updFolio (s : State) (core i : Nat) (f : FolioEntry → FolioEntry) : GoesOn s (updFolio s core i f) := same rfl rfl

theorem setHandle (s : State) (h : Nat) (i : Option Nat) : GoesOn s (setHandle s h i) := ⟨⟨rfl, rfl, rfl, rfl, rfl, rfl, rfl⟩, rfl⟩

theorem startFill (s : State) (e : FolioEntry) : GoesOn s (startFill s e) := by
  unfold Machine.startFill
  extract_lets r e' s1
  have hr : GoesOn s r.2 := by
    by_cases h : e.src = 0
    · rw [show r = (Except.ok (List.replicate e.size 0), s) from if_pos h]
      exact .refl s
    · rw [show r = Machine.fillBytes e.src e.sizek s from if_neg h]
      exact of_memory (.fillBytes ..)
  exact hr.trans (same rfl rfl)

theorem landFill (s : State) (e : FolioEntry) (bs : List Byte) : GoesOn s (landFill s e bs) := by
  unfold Machine.landFill
  extract_lets n cells s1 see s2
  have h1 : GoesOn s s1 := GoesOn.trans (u := { s with pubs := n }) (same rfl rfl) (of_memory (OnlyMemory.foldl (fun a p => .homeWrite ..) ..))
  have h2 : GoesOn s1 s2 := .updFolio ..
  have hsee : ∀ t, Thread.Like t (see t) := fun t => by
    dsimp only [see]
    split
    · exact ⟨rfl, rfl, rfl, rfl, rfl, rfl, rfl⟩
    · exact .refl t
  have hforget : Thread.Like s2.t (s2.t.forget e) := by
    unfold Thread.forget
    split
    · exact ⟨rfl, rfl, rfl, rfl, rfl, rfl, rfl⟩
    · exact .refl _
  exact (h1.trans h2).trans ⟨hforget.trans (hsee _), rfl⟩

theorem restoreFolio (h : Nat) (e : FolioEntry) (s : State) : GoesOn s (restoreFolio h e s) := by
  unfold Machine.restoreFolio
  extract_lets core s1
  have h1 : GoesOn s s1 := by
    change GoesOn s (Machine.makeRoom _ core)
    refine GoesOn.trans ?_ (.makeRoom ..)
    exact same rfl rfl
  clear_value s1
  split
  · exact ((GoesOn.updFolio ..).trans (.seeFolio ..)).trans (.setHandle ..)
  · split
    · exact h1.trans (.setHandle ..)
    · dsimp only
      split
      · refine ((h1.trans (GoesOn.trans ?_ (.landFill ..))).trans (.updFolio ..)).trans (.setHandle ..)
        exact same rfl rfl
      · exact (h1.trans (.startFill ..)).trans (.setHandle ..)

theorem resumeSaved (v : Saved) (s : State) : GoesOn s (resumeSaved v s) := by
  unfold Machine.resumeSaved
  extract_lets s1
  have h1 : GoesOn s s1 := by
    change GoesOn s (Machine.snapshot _ 1)
    refine GoesOn.trans ?_ (.snapshot ..)
    exact same rfl rfl
  clear_value s1
  refine foldl_keeps (GoesOn s) _ (fun a h ha => ?_) _ _ h1
  split
  · exact ha
  · split
    · exact ha.trans (.restoreFolio ..)
    · exact ha.trans (.setHandle ..)

end GoesOn

/-- A parked thread that a change runs as the current one is resident afterwards, as the change leaves it. -/
theorem asThread_parked {s : State} {uid : Nat} {f : State → State} {t : Thread} (hne : s.t.uid ≠ uid)
    (hf : (s.parked.find? fun x => x.uid == uid) = some t) :
    let u := f { s with t := t, parked := updWhere s.parked (fun x => x.uid == uid) fun _ => s.t }
    u.t ∈ allThreads (asThread s uid f) ∧ (asThread s uid f).saved = u.saved := by
  intro u
  unfold asThread
  rw [if_neg hne, hf]
  dsimp only
  split
  · exact ⟨List.mem_cons_self, rfl⟩
  · next m hm =>
    refine ⟨List.mem_cons_of_mem _ (List.mem_map.2 ⟨m, List.mem_of_find?_eq_some hm, ?_⟩), rfl⟩
    rw [if_pos (List.find?_some hm)]

/-- A saved thread goes on in its slot on a core (R453). -/
theorem placeSaved_places {s : State} {v : Saved} (hv : ∀ x ∈ allThreads s, x.uid ≠ v.th.uid) (core : Nat) :
    (placeSaved s core v).saved = s.saved.erase v ∧ ∃ th ∈ allThreads (placeSaved s core v), Thread.Like { v.th with core := core } th := by
  unfold placeSaved placeThread
  extract_lets src s1
  have hs1 : s1.t = s.t ∧ s1.parked = s.parked ∧ s1.saved = s.saved.erase v := ⟨rfl, rfl, rfl⟩
  clear_value s1
  obtain ⟨ht, hp, hs⟩ := hs1
  have hne : s1.t.uid ≠ v.th.uid := ht ▸ hv s.t List.mem_cons_self
  have hnone : (s.parked.find? fun x => x.uid == v.th.uid) = none :=
    List.find?_eq_none.2 fun x hx => by simpa using hv x (List.mem_cons_of_mem _ hx)
  have hf : ((s1.parked ++ [{ v.th with core := core }]).find? fun x => x.uid == v.th.uid) = some { v.th with core := core } := by
    rw [hp, List.find?_append, hnone]
    simp
  obtain ⟨hmem, hsaved⟩ := asThread_parked (s := { s1 with parked := s1.parked ++ [{ v.th with core := core }] }) (f := resumeSaved v) hne hf
  have hgo := GoesOn.resumeSaved v { s1 with
    t := { v.th with core := core }
    parked := updWhere (s1.parked ++ [{ v.th with core := core }]) (fun x => x.uid == v.th.uid) fun _ => s1.t }
  exact ⟨(hsaved.trans hgo.saved).trans hs, _, hmem, hgo.thread⟩

/-- PREEMPT_RESUME. -/
theorem preemptResume_does (s : State) (v : Saved) (p : Partition) (quad : Nat) (l : List (Nat × Nat)) (hs : s.saved = [v])
    (hv : ∀ x ∈ allThreads s, x.uid ≠ v.th.uid) (hp : partOf s v.th.part = some p) (hq : quad ∈ p.quads) (hpkg : quad / 96 = v.quad / 96)
    (hl : assignCores s [v] [v.th.tci] ((List.range 4).map (quad * 4 + ·)) = some l) :
    ∃ t th, exec (.preemptResume v.th.uid quad) s = .next t ∧ t.stalled = false ∧ t.saved = [] ∧ th ∈ allThreads t ∧ th.uid = v.th.uid ∧
      th.core = (assoc l v.th.tci).getD 0 ∧ th.slot = v.th.slot ∧ th.s = v.th.s ∧ th.pc = v.th.pc ∧ th.ctl = v.th.ctl := by
  obtain ⟨hsaved, th, hth, hlike⟩ := placeSaved_places hv ((assoc l v.th.tci).getD 0)
  have he : exec (.preemptResume v.th.uid quad) s = happening (placeSaved s ((assoc l v.th.tci).getD 0) v) := by
    have hself : teamMate v.th v.th = true := by simp [teamMate]
    change execPreemptResume v.th.uid quad s = _
    unfold execPreemptResume
    simp [hs, hself, hp, hq, hpkg, hl]
  refine ⟨_, th, he, rfl, ?_, hth, hlike.uid, hlike.core, hlike.slot, hlike.regs, hlike.pc, hlike.ctl⟩
  change (placeSaved ..).saved = []
  rw [hsaved, hs]
  simp

end Sys2Proof.Machine
end

section
namespace Sys2Proof.Machine

/-! ## Codices (R456, R458, R464) -/

theorem OnlyMemory.bootOf {s u : State} (h : OnlyMemory s u) (k : Nat) : bootOf u k = bootOf s k := by
  unfold Machine.bootOf
  rw [h.boots]

theorem OnlyMemory.placeBytes (s : State) (part pkg : Nat) (va : Word) (rights : Nat) (frames tables : List Nat) (bs : List Byte) :
    OnlyMemory s (placeBytes s part pkg va rights frames tables bs) := (OnlyMemory.mapPages ..).trans (.engineWrite ..)

/-- A change of the starts of some packages leaves those of the others. -/
theorem bootOf_foldl_updBoot_of_not_mem (f : Boot → Boot) {k : Nat} (l : List Nat) (s : State) (h : k ∉ l) :
    bootOf (l.foldl (fun a q => updBoot a q f) s) k = bootOf s k := by
  induction l generalizing s with
  | nil => rfl
  | cons q r ih =>
    obtain ⟨hq, hr⟩ := not_or.1 (mt List.mem_cons.2 h)
    rw [List.foldl_cons, ih _ hr, bootOf_updBoot_ne s f hq]

/-- A change of the starts of different packages changes each once. -/
theorem bootOf_foldl_updBoot (f : Boot → Boot) {k : Nat} (l : List Nat) (s : State) (hn : l.Nodup) (h : k ∈ l) :
    bootOf (l.foldl (fun a q => updBoot a q f) s) k = f (bootOf s k) := by
  induction l generalizing s with
  | nil => cases h
  | cons q r ih =>
    obtain ⟨hq, hr⟩ := List.nodup_cons.1 hn
    rw [List.foldl_cons]
    by_cases hk : k = q
    · rw [bootOf_foldl_updBoot_of_not_mem f r _ (hk ▸ hq), hk, bootOf_updBoot]
    · rw [ih _ hr ((List.mem_cons.1 h).resolve_left hk), bootOf_updBoot_ne s f hk]

/-- A loaded codex stands among the codices with its control program, measured into M2 of every package of its partition. -/
theorem loadCodex_loads (p : Partition) (f : CodexFile) (m : Images) (s : State) : (loadCodex p f m s).t = s.t ∧
    (loadCodex p f m s).replies = s.replies ∧
    (∃ c, (loadCodex p f m s).codices = s.codices ++ [c] ∧ c.part = p.slot ∧ c.codeBase = f.codeBase ∧ c.launches = [] ∧
      c.control = sectionBytes f 1) ∧
    ∀ k ∈ partPkgs p, (bootOf (loadCodex p f m s) k).mlog = (bootOf s k).mlog ++ [(2, Config.sm3 f.bytes)] := by
  obtain ⟨s0, h0⟩ : ∃ s0, s0 = (partPkgs p).foldl (fun a k => updBoot a k fun b => b.measure 2 f.bytes) s := ⟨_, rfl⟩
  have hsame : s0.t = s.t ∧ s0.replies = s.replies ∧ s0.codices = s.codices := by
    rw [h0]
    exact foldl_keeps (fun a : State => a.t = s.t ∧ a.replies = s.replies ∧ a.codices = s.codices)
      (fun a k => updBoot a k fun b => b.measure 2 f.bytes) (fun _ _ ha => ha) _ _ ⟨rfl, rfl, rfl⟩
  obtain ⟨ht, hr, hc⟩ := hsame
  unfold loadCodex
  extract_lets lists place s1 c
  have h1 : OnlyMemory s0 s1 := by
    rw [h0]
    exact OnlyMemory.foldl (fun a x => (OnlyMemory.placeBytes ..).trans (.placeBytes ..)) ..
  have hcx : c.part = p.slot ∧ c.codeBase = f.codeBase ∧ c.launches = [] ∧ c.control = sectionBytes f 1 := ⟨rfl, rfl, rfl, rfl⟩
  clear_value s1 c
  refine ⟨h1.t.trans ht, h1.replies.trans hr, ⟨c, ?_, hcx⟩, fun k hk => ?_⟩
  · change s1.codices ++ [c] = _
    rw [h1.codices, hc]
  · change (bootOf s1 k).mlog = _
    rw [h1.bootOf, h0, bootOf_foldl_updBoot (fun b => b.measure 2 f.bytes) (partPkgs p) s (List.nodup_dedup _) hk]
    rfl

theorem codexLoad_eq {s : State} {f : CodexFile} (h : horsilRuns s f.pkg = true) (part : Nat) :
    exec (.codexLoad part f) s = reply (admitCodex part f s).1 0 (admitCodex part f s).2 := by
  change takeCodex part f s = _
  unfold takeCodex
  rw [if_neg (by simp [h])]

theorem admitCodex_refuses {s : State} {part : Nat} {f : CodexFile} (h : partLives s part = false ∨ codexImages s f = none) :
    admitCodex part f s = (4, s) := by
  unfold admitCodex
  unfold partLives at h
  cases hp : partOf s part with
  | none => rfl
  | some p =>
    have hn : (if p.ended = true then none else codexImages s f) = none := by
      simp only [hp, Bool.not_eq_false'] at h
      rcases h with he | hi
      · rw [if_pos he]
      · rw [hi, ite_self]
    dsimp only
    rw [hn]

theorem admitCodex_eq {s : State} {part : Nat} {f : CodexFile} {p : Partition} {m : Images} (hp : partOf s part = some p) (he : p.ended = false)
    (hm : codexImages s f = some m) : admitCodex part f s = if placesOk s p f m then (0, loadCodex p f m s) else (3, s) := by
  unfold admitCodex
  simp only [hp, he, hm, Bool.false_eq_true, if_false]

/-- A request whose port or Horsil is there is served. -/
theorem hostRequest_of_ready {r : MailboxRequest} {s : State} (h : requestReady r s = true) :
    exec (.hostMailboxRequest r) s = hostRequest r s :=
  if_pos h

/-- CODEX_LOAD, by Horsil itself or through the host's mailbox (R467). -/
theorem codexLoad_does (part : Nat) (f : CodexFile) (s : State) (h : horsilRuns s f.pkg = true) :
    (hostPort s f.pkg = true → exec (.hostMailboxRequest (.codex part f)) s = exec (.codexLoad part f) s) ∧
    (partLives s part = false ∨ codexImages s f = none → exec (.codexLoad part f) s = .next { s with replies := s.replies ++ [(4, 0)], stalled := false }) ∧
    ∀ p m, partOf s part = some p → p.ended = false → codexImages s f = some m →
      (placesOk s p f m = false → exec (.codexLoad part f) s = .next { s with replies := s.replies ++ [(3, 0)], stalled := false }) ∧
      (placesOk s p f m = true → ∃ t c, exec (.codexLoad part f) s = .next t ∧ t.stalled = false ∧ t.t = s.t ∧ t.replies = s.replies ++ [(0, 0)] ∧
        t.codices = s.codices ++ [c] ∧ c.part = part ∧ c.codeBase = f.codeBase ∧ c.launches = [] ∧ c.control = sectionBytes f 1 ∧
        ∀ k ∈ partPkgs p, (bootOf t k).mlog = (bootOf s k).mlog ++ [(2, Config.sm3 f.bytes)]) := by
  refine ⟨fun hh => ?_, fun hr => ?_, fun p m hp he hm => ⟨fun hpl => ?_, fun hpl => ?_⟩⟩
  · exact hostRequest_of_ready (r := .codex part f) hh
  · rw [codexLoad_eq h, admitCodex_refuses hr]
    rfl
  · rw [codexLoad_eq h, admitCodex_eq hp he hm, if_neg (by simp [hpl])]
    rfl
  · obtain ⟨ht, hr, ⟨c, hc, hpart, hrest⟩, hlog⟩ := loadCodex_loads p f m s
    obtain ⟨hbase, hlaunches, hcontrol⟩ := hrest
    have he : exec (.codexLoad part f) s = reply 0 0 (loadCodex p f m s) := by
      rw [codexLoad_eq h, admitCodex_eq hp he hm, if_pos hpl]
    exact ⟨_, c, he, rfl, ht, congrArg (· ++ [(0, 0)]) hr, hc, hpart.trans (partOf_slot hp), hbase, hlaunches, hcontrol, hlog⟩

/-! ## The host's calls and control programs (R20, R467) -/

theorem hostService_does (n : BitVec 16) (c : Call) (s : State) (h : hostPort s c.pkg = true) :
    exec (.hostMailboxRequest (.service n.toNat c)) s = exec (.unknownService n c) s := by
  rw [hostRequest_of_ready (r := .service n.toNat c) h]
  rfl

/-- A control program's accesses. -/
theorem controlAccess_does (c : Call) (s s1 : State) (h : horsilRuns s c.pkg = true) (hl : partLives s c.part = true) :
    (∀ ks, controlKeys (Call.who c) c.a0 c.bytes.length 0 s = (.ok ks, s1) → exec (.hostMailboxRequest (.controlStore c)) s =
      .next { (engineWrite s1 c.pkg (ks.zip c.bytes)).1 with
        replies := (engineWrite s1 c.pkg (ks.zip c.bytes)).1.replies ++ [(0, 0)], stalled := false }) ∧
    ∀ size bs, dieReadBytes (Call.who c) c.a0 (min size 8) 0 s = (.ok bs, s1) →
      exec (.hostMailboxRequest (.controlLoad c size)) s =
        .next { s1 with replies := s1.replies ++ [(0, BitVec.ofNat 64 (leNat bs))], stalled := false } := by
  have hw : partLives s (Call.who c).part = true := hl
  refine ⟨fun ks hk => ?_, fun size bs hb => ?_⟩
  · rw [hostRequest_of_ready (r := .controlStore c) h]
    change storeFor (Call.who c) c.a0 c.bytes s = _
    unfold storeFor
    rw [if_neg (by simp [hw]), hk]
    rfl
  · rw [hostRequest_of_ready (r := .controlLoad c size) h]
    change loadFor (Call.who c) c.a0 size s = _
    unfold loadFor
    rw [if_neg (by simp [hw]), hb]
    rfl

/-- What changes the start of one package changes nothing else. -/
theorem next_of_updBoot {o : Host.Outcome State Fault Refusal} {s : State} {k : Nat} {f : Boot → Boot} (ho : o = happening (updBoot s k f)) :
    ∃ t, o = .next t ∧ t.stalled = false ∧ t.t = s.t ∧ t.home = s.home ∧ (∀ q ≠ k, bootOf t q = bootOf s q) ∧ bootOf t k = f (bootOf s k) := by
  refine ⟨{ updBoot s k f with stalled := false }, ho, rfl, rfl, rfl, fun q hq => ?_, ?_⟩
  · exact (show bootOf _ q = bootOf (updBoot s k f) q from rfl).trans (bootOf_updBoot_ne s f hq)
  · exact (show bootOf _ k = bootOf (updBoot s k f) k from rfl).trans (bootOf_updBoot s k f)

/-- QUOTE_REQUEST (R466). -/
theorem quoteRequest_does (q : QuoteAsk) (s : State) (h : horsilRuns s q.pkg = true) : ∃ t, exec (.quoteRequest q) s = .next t ∧ t.stalled = false ∧
    t.t = s.t ∧ t.home = s.home ∧ (∀ k ≠ q.pkg, bootOf t k = bootOf s k) ∧ bootOf t q.pkg = { bootOf s q.pkg with
      quotes := (bootOf s q.pkg).quotes ++ [quoteBytes q.pkg (natLe 32 q.nonce.toNat) (bootOf s q.pkg)] } := by
  have he : exec (.quoteRequest q) s = happening (updBoot s q.pkg fun b => { b with
      quotes := b.quotes ++ [quoteBytes q.pkg (natLe 32 q.nonce.toNat) b] }) := if_neg (by simp [h])
  exact next_of_updBoot he

/-! ## Partitions (R25, R26, R318) -/

theorem OnlyMemory.startCatalogue (s : State) (p : PartitionSpec) : OnlyMemory s (startCatalogue s p) :=
  (OnlyMemory.clearRange ..).trans (.hardWrite ..)

theorem partOf_append_new {s : State} {q : Partition} (h : ∀ o ∈ s.parts, o.slot ≠ q.slot) :
    (s.parts ++ [q]).find? (fun p => p.slot == q.slot) = some q := by
  rw [List.find?_append, List.find?_eq_none.2 fun o ho => by simpa using h o ho]
  simp

/-- A call that is answered leaves the thread, the partitions and the earlier replies. -/
theorem next_of_reply {o : Host.Outcome State Fault Refusal} {status : Nat} {result : Word} {s : State} (ho : o = reply status result s) :
    ∃ t, o = .next t ∧ t.stalled = false ∧ t.t = s.t ∧ t.replies = s.replies ++ [(BitVec.ofNat 64 status, result)] ∧ t.parts = s.parts :=
  ⟨{ s with replies := s.replies ++ [(BitVec.ofNat 64 status, result)], stalled := false }, ho, rfl, rfl, rfl, rfl⟩

/-- PARTITION_CREATE. -/
theorem partitionCreate_does (p : PartitionSpec) (s : State) (hr : ∀ q ∈ p.quads, horsilRuns s (q / 96) = true) (hok : partitionOk s p = true) :
    (unitsOk s p.slot p.units = false → exec (.partitionCreate p) s = .next { s with replies := s.replies ++ [(4, 7)], stalled := false }) ∧
    (unitsOk s p.slot p.units = true → ∃ t q, exec (.partitionCreate p) s = .next t ∧ t.stalled = false ∧ t.t = s.t ∧
      t.replies = s.replies ++ [(0, 0)] ∧ partOf t p.slot = some q ∧ q.quads = p.quads ∧ q.roots = p.roots ∧ q.units = p.units ∧
      q.catBase = p.catBase ∧ q.catSize = p.catSize ∧ q.tc = 0 ∧ q.ended = false) := by
  have hall : (p.quads.all fun q => horsilRuns s (q / 96)) = true := List.all_eq_true.2 hr
  have hnew : ∀ o ∈ s.parts, o.slot ≠ p.slot := fun o ho => by
    simp only [partitionOk, Bool.and_eq_true, List.all_eq_true, bne_iff_ne] at hok
    obtain ⟨⟨⟨⟨⟨⟨⟨⟨⟨h, _⟩, _⟩, _⟩, _⟩, _⟩, _⟩, _⟩, _⟩, _⟩ := hok
    exact h o ho
  refine ⟨fun hu => ?_, fun hu => ?_⟩
  · change execPartitionCreate p s = _
    unfold execPartitionCreate
    rw [if_neg (by simp [hall]), if_neg (by simp [hok]), if_pos hu]
    rfl
  · obtain ⟨q, hq⟩ : ∃ q : Partition, q =
      { slot := p.slot, quads := p.quads, roots := p.roots, shares := p.shares, units := p.units, catPkg := p.catPkg,
        catBase := p.catBase, catSize := p.catSize, tc := 0, guards := [], stackTops := p.stackTops, stackSize := p.stackSize,
        resume := [], ended := false } := ⟨_, rfl⟩
    have hslot : q.slot = p.slot := by rw [hq]
    have h := OnlyMemory.startCatalogue { s with parts := s.parts ++ [q] } p
    have he : exec (.partitionCreate p) s = reply 0 0 (startCatalogue { s with parts := s.parts ++ [q] } p) := by
      change execPartitionCreate p s = _
      unfold execPartitionCreate
      rw [if_neg (by simp [hall]), if_neg (by simp [hok]), if_neg (by simp [hu]), hq]
    obtain ⟨t, hnext, hst, ht, hrep, hparts⟩ := next_of_reply he
    refine ⟨t, q, hnext, hst, ht.trans h.t, hrep.trans (congrArg (· ++ [(0, 0)]) h.replies), ?_, ?_⟩
    · change t.parts.find? (fun o => o.slot == p.slot) = some q
      rw [hparts, h.parts, ← hslot]
      exact partOf_append_new fun o ho => hslot ▸ hnew o ho
    · rw [hq]
      exact ⟨rfl, rfl, rfl, rfl, rfl, rfl, rfl⟩

theorem find?_updWhere {α : Type} (c : α → Bool) (f : α → α) (hc : ∀ x, c (f x) = c x) (l : List α) :
    (updWhere l c f).find? c = (l.find? c).map f := by
  induction l with
  | nil => rfl
  | cons x r ih =>
    have hcons : updWhere (x :: r) c f = (if c x then f x else x) :: updWhere r c f := rfl
    rw [hcons]
    by_cases hx : c x = true
    · simp [hx, hc]
    · simp [hx, ih]

theorem partOf_updWhere {s t : State} {part : Nat} {f : Partition → Partition}
    (ht : t.parts = updWhere s.parts (fun p => p.slot == part) f) (hf : ∀ p, (f p).slot = p.slot) : partOf t part = (partOf s part).map f := by
  unfold partOf
  rw [ht]
  exact find?_updWhere (fun p : Partition => p.slot == part) f (fun p => by rw [hf]) s.parts

/-- PARTITION_RESIZE (R26). -/
theorem partitionResize_does (part units : Nat) (path : Path) (s : State) (hr : horsilRuns s (pathPkg path) = true) (hl : partLives s part = true) :
    (64 < unitsOthers s part path + units →
      exec (.partitionResize part path units) s = .next { s with replies := s.replies ++ [(4, 7)], stalled := false }) ∧
    (unitsOthers s part path + units ≤ 64 → ∃ t q, exec (.partitionResize part path units) s = .next t ∧ t.stalled = false ∧
      t.replies = s.replies ++ [(0, 0)] ∧ partOf t part = some q ∧ unitsOn q path = units) := by
  refine ⟨fun hu => ?_, fun hu => ?_⟩
  · change execPartitionResize part path units s = _
    unfold execPartitionResize
    rw [if_neg (by simp [hr]), if_neg (by simp [hl]), if_pos hu]
    rfl
  · obtain ⟨p, hp⟩ : ∃ p, partOf s part = some p := by
      unfold partLives at hl
      cases hp : partOf s part with
      | none => simp [hp] at hl
      | some p => exact ⟨p, rfl⟩
    have he : exec (.partitionResize part path units) s = reply 0 0 { s with
        parts := updWhere s.parts (fun p => p.slot == part) fun p =>
          { p with units := (path, units) :: p.units.filter fun u => u.1 != path } } := by
      change execPartitionResize part path units s = _
      unfold execPartitionResize
      rw [if_neg (by simp [hr]), if_neg (by simp [hl]), if_neg (by omega)]
    obtain ⟨t, hnext, hst, -, hrep, hparts⟩ := next_of_reply he
    refine ⟨t, { p with units := (path, units) :: p.units.filter fun u => u.1 != path }, hnext, hst, hrep, ?_, ?_⟩
    · rw [partOf_updWhere hparts (fun _ => rfl), hp]
      rfl
    · have hnone : ((p.units.filter fun u => u.1 != path).filter fun u => u.1 == path) = [] :=
        List.filter_eq_nil_iff.2 fun u hu => by simpa using (List.mem_filter.1 hu).2
      simp [unitsOn, hnone]

end Sys2Proof.Machine
end

section
namespace Sys2Proof.Machine

/-! ## Starts (R464, R465, R468) -/

/-- What a note of the present start leaves, and what the next unit is found by. -/
theorem Boot.note_keeps (b : Boot) (r : UnitResult) : (b.note r).step = b.step ∧ (b.note r).unit = b.unit ∧ (b.note r).mlog = b.mlog ∧
    (b.note r).keys = b.keys ∧ (b.note r).secrets = b.secrets :=
  ⟨rfl, rfl, rfl, rfl, rfl⟩

/-- A unit's result stands last in the entry of its step while the entry has room. -/
theorem Boot.unitsAt_note (b : Boot) (r : UnitResult) (h : (unitsAt b.present b.step).length < 16) :
    unitsAt (b.note r).present b.step = unitsAt b.present b.step ++ [r] := by
  have hp : (b.note r).present = (b.present.filter fun x => x.step != b.step) ++ [{ step := b.step, units := unitsAt b.present b.step ++ [r] }] := by
    unfold Boot.present Boot.note
    rw [List.getLastD_concat, List.take_of_length_le (by simpa using h)]
    rfl
  have hnone : (b.present.filter fun x => x.step != b.step).find? (fun e => e.step == b.step) = none :=
    List.find?_eq_none.2 fun x hx => by simpa using (List.mem_filter.1 hx).2
  unfold unitsAt at hp ⊢
  rw [hp, List.find?_append, hnone]
  simp

/-- The way to the next unit leaves the record and the measurements. -/
theorem Boot.next_keeps (b : Boot) : b.next.record = b.record ∧ b.next.mlog = b.mlog := by
  unfold Boot.next
  split
  · exact ⟨rfl, rfl⟩
  · split
    · exact ⟨rfl, rfl⟩
    · exact ⟨rfl, rfl⟩

theorem Boot.next_present (b : Boot) : b.next.present = b.present := by
  unfold Boot.present
  rw [(Boot.next_keeps b).1]

/-- A required step without a working unit stops the start. -/
theorem Boot.next_of_failed {b : Boot} (hlast : stepUnits b.step ≤ b.unit + 1) (hr : stepRequired b.step = true)
    (hf : (unitsAt b.present b.step).any UnitResult.ok = false) : b.next.stopped = true ∧ b.next.running = false := by
  unfold Boot.next
  rw [if_neg (by omega), if_pos (by simp [hr, hf])]
  exact ⟨rfl, rfl⟩

/-- After the last unit of a step with a working unit comes the next step. -/
theorem Boot.next_of_worked {b : Boot} (hlast : stepUnits b.step ≤ b.unit + 1) (hw : (unitsAt b.present b.step).any UnitResult.ok = true) :
    b.next.step = b.step + 1 ∧ b.next.unit = 0 := by
  unfold Boot.next
  rw [if_neg (by omega), if_neg (by simp [hw])]
  exact ⟨rfl, rfl⟩

theorem stepUnits_le (k : Nat) : stepUnits k ≤ 16 := by
  unfold stepUnits
  split <;> omega

/-- A unit with a setting left is run: it measures the image of a step that loads one if its work came out well, and is noted with its
setting. -/
theorem runUnit_eq {b : Boot} {k : Nat} (o : StartOutcome) (hk : stepSetting b = some k) :
    ∃ c : Boot, runUnit b o = (c.note { setting := k, ok := stepWorks b.step o }).next ∧ c.step = b.step ∧ c.unit = b.unit ∧
      c.present = b.present ∧ ∀ r, stepWorks b.step o = true → stepRegister b.step = some r → c.mlog = b.mlog ++ [(r, Config.sm3 o.image)] := by
  unfold runUnit
  simp only [hk]
  refine ⟨_, rfl, ?_, ?_, ?_, fun r hw hr => ?_⟩
  case refine_4 =>
    simp only [hw, hr]
    rfl
  all_goals
    cases stepWorks b.step o with
    | false => rfl
    | true =>
      cases stepRegister b.step with
      | none => rfl
      | some r => rfl

/-- What the run of a unit does to its package's start. -/
theorem runUnit_does {b : Boot} {k : Nat} (o : StartOutcome) (hk : stepSetting b = some k) (hn : b.unit = (unitsAt b.present b.step).length)
    (hu : b.unit < stepUnits b.step) :
    (unitsAt (runUnit b o).present b.step).getLast? = some { setting := k, ok := stepWorks b.step o } ∧
    (stepUnits b.step = 1 → stepRequired b.step = true → stepWorks b.step o = false →
      (runUnit b o).stopped = true ∧ (runUnit b o).running = false) ∧
    (stepWorks b.step o = true → b.unit + 1 = stepUnits b.step → (runUnit b o).step = b.step + 1 ∧ (runUnit b o).unit = 0) ∧
    ∀ r, stepWorks b.step o = true → stepRegister b.step = some r → (runUnit b o).mlog = b.mlog ++ [(r, Config.sm3 o.image)] := by
  obtain ⟨c, hrun, hstep, hunit, hpres, hlog⟩ := runUnit_eq o hk
  obtain ⟨r, hr⟩ : ∃ r : UnitResult, r = { setting := k, ok := stepWorks b.step o } := ⟨_, rfl⟩
  have hok : r.ok = stepWorks b.step o := by rw [hr]
  have hroom : (unitsAt c.present c.step).length < 16 := by
    rw [hpres, hstep, ← hn]
    exact hu.trans_le (stepUnits_le _)
  have hnoted : unitsAt (c.note r).present b.step = unitsAt b.present b.step ++ [r] := by
    rw [← hpres, ← hstep]
    exact c.unitsAt_note r hroom
  obtain ⟨nstep, nunit, nlog, -, -⟩ := c.note_keeps r
  rw [hrun, ← hr]
  refine ⟨?_, fun h1 hreq hw => ?_, fun hw hlast => ?_, fun q hw hq => ?_⟩
  · rw [Boot.next_present, hnoted, List.getLast?_concat]
  · have hfirst : unitsAt b.present b.step = [] := List.eq_nil_of_length_eq_zero (by omega)
    refine Boot.next_of_failed ?_ ?_ ?_
    · rw [nstep, nunit, hstep, hunit]
      omega
    · rw [nstep, hstep, hreq]
    · rw [nstep, hstep, hnoted, hfirst]
      simp [hok, hw]
  · rw [← hstep, ← nstep]
    refine Boot.next_of_worked ?_ ?_
    · rw [nstep, nunit, hstep, hunit]
      omega
    · rw [nstep, hstep, hnoted]
      simp [hok, hw]
  · rw [(Boot.next_keeps _).2, nlog, hlog q hw hq]

/-- PACKAGE_START. -/
theorem packageStart_does (o : StartOutcome) (s : State) :
    let b := bootOf s o.pkg
    let result := fun (c : Boot) => (unitsAt c.present b.step).getLast?
    (b.running = false → b.stopped = true → ∃ t, exec (.packageStart o) s = .next t ∧ t.stalled = false ∧ t.t = s.t ∧ t.home = s.home ∧
      (∀ k ≠ o.pkg, bootOf t k = bootOf s k) ∧ bootOf t o.pkg = b.restart) ∧
    ∀ k, b.running = true → b.step < 10 → stepSetting b = some k → b.unit = (unitsAt b.present b.step).length → b.unit < stepUnits b.step →
      ∃ t, exec (.packageStart o) s = .next t ∧ t.stalled = false ∧ t.t = s.t ∧ t.home = s.home ∧ (∀ k ≠ o.pkg, bootOf t k = bootOf s k) ∧
        result (bootOf t o.pkg) = some { setting := k, ok := stepWorks b.step o } ∧
        (stepUnits b.step = 1 → stepRequired b.step = true → stepWorks b.step o = false →
          (bootOf t o.pkg).stopped = true ∧ (bootOf t o.pkg).running = false) ∧
        (stepWorks b.step o = true → b.unit + 1 = stepUnits b.step → (bootOf t o.pkg).step = b.step + 1 ∧ (bootOf t o.pkg).unit = 0) ∧
        (∀ r, stepWorks b.step o = true → stepRegister b.step = some r →
          (bootOf t o.pkg).mlog = b.mlog ++ [(r, Config.sm3 o.image)]) := by
  intro b result
  refine ⟨fun hrun hstop => ?_, fun k hrun hstep hk hn hu => ?_⟩
  · have he : exec (.packageStart o) s = happening (updBoot s o.pkg Boot.restart) := by
      change execPackageStart o s = _
      unfold execPackageStart
      rw [if_pos hrun, if_pos hstop]
    exact next_of_updBoot he
  · have he : exec (.packageStart o) s = happening (updBoot s o.pkg fun b => runUnit b o) := by
      change execPackageStart o s = _
      unfold execPackageStart
      rw [if_neg (show ¬(bootOf s o.pkg).running = false by rw [show (bootOf s o.pkg).running = true from hrun]; decide), if_pos hstep]
    obtain ⟨t, hnext, hst, ht, hhome, hothers, hboot⟩ := next_of_updBoot he
    refine ⟨t, hnext, hst, ht, hhome, hothers, ?_⟩
    rw [hboot]
    exact runUnit_does o hk hn hu

/-- The next start keeps the keys and the sealed secrets, and of the record at most 8 starts, its own last and empty. -/
theorem Boot.restart_keeps (b : Boot) : b.restart.running = true ∧ b.restart.step = 0 ∧ b.restart.keys = b.keys ∧
    b.restart.secrets = b.secrets ∧ b.restart.record.length ≤ 8 ∧ b.restart.record.getLast? = some [] := by
  obtain ⟨l, hl⟩ : ∃ l, l = b.record.dropLast ++ [closeRecord (b.record.dropLast.getLastD []) b.present, []] := ⟨_, rfl⟩
  have hlast : l.getLast? = some [] := by rw [hl]; simp
  have hrec : b.restart.record = l.drop (l.length - 8) := by rw [hl]; rfl
  have hpos : 0 < l.length := by rw [hl]; simp
  refine ⟨rfl, rfl, rfl, rfl, ?_, ?_⟩
  · rw [hrec, List.length_drop]
    omega
  · rw [hrec, List.getLast?_drop, if_neg (by omega), hlast]

/-- A cut start keeps its keys and its sealed secrets. -/
theorem Boot.cut_keeps (b : Boot) : b.cut.keys = b.keys ∧ b.cut.secrets = b.secrets := by
  unfold Boot.cut
  split
  · exact ⟨rfl, rfl⟩
  · exact ⟨rfl, rfl⟩

theorem assoc_map_snd {α β : Type} (f : α → β) (l : List (Nat × α)) (k : Nat) :
    assoc (l.map fun x => (x.1, f x.2)) k = (assoc l k).map f := by
  induction l with
  | nil => rfl
  | cons x r ih =>
    unfold assoc at ih ⊢
    by_cases hx : x.1 = k
    · simp [hx]
    · simpa [hx] using ih

theorem bootOf_newStart {s : State} {x : Nat × Boot} (h : x ∈ s.boots) : bootOf (newStart s) x.1 = (bootOf s x.1).cut.restart := by
  obtain ⟨b, hb⟩ : ∃ b, assoc s.boots x.1 = some b := by
    cases hb : assoc s.boots x.1 with
    | some b => exact ⟨b, rfl⟩
    | none =>
      simp only [assoc, Option.map_eq_none_iff, List.find?_eq_none] at hb
      exact absurd (beq_self_eq_true x.1) (hb x h)
  unfold bootOf newStart
  rw [assoc_map_snd (fun b : Boot => b.cut.restart), hb]
  rfl

/-- POWER_LOSS. -/
theorem powerLoss_does (s : State) : ∃ t, exec .powerLoss s = .next t ∧ t.stalled = false ∧ t.home = [] ∧ t.parts = [] ∧ t.t = Thread.blank ∧
    ∀ x ∈ s.boots, let b := bootOf t x.1
      b.running = true ∧ b.step = 0 ∧ b.keys = (bootOf s x.1).keys ∧ b.secrets = (bootOf s x.1).secrets ∧ b.record.length ≤ 8 ∧
        b.record.getLast? = some [] := by
  refine ⟨{ newStart s with stalled := false }, rfl, rfl, rfl, rfl, rfl, fun x hx => ?_⟩
  have hb : bootOf { newStart s with stalled := false } x.1 = (bootOf s x.1).cut.restart :=
    (show bootOf _ x.1 = bootOf (newStart s) x.1 from rfl).trans (bootOf_newStart hx)
  obtain ⟨hkeys, hsecrets⟩ := (bootOf s x.1).cut_keeps
  obtain ⟨hrun, hstep, rkeys, rsecrets, hlen, hlast⟩ := (bootOf s x.1).cut.restart_keeps
  rw [hb]
  exact ⟨hrun, hstep, rkeys.trans hkeys, rsecrets.trans hsecrets, hlen, hlast⟩

/-- DEBUG_STEP (R87). -/
theorem debugStep_does (s : State) :
    (s.t.status = .running → exec .debugStep s = .next { s with t := { s.t with status := .halted, stepping := false }, stalled := false }) ∧
    (s.t.status = .halted → exec .debugStep s = .next { s with t := { s.t with status := .running, stepping := true }, stalled := false }) := by
  constructor
  · intro h
    change execDebugStep s = _
    unfold execDebugStep
    rw [h]
    rfl
  · intro h
    change execDebugStep s = _
    unfold execDebugStep
    rw [h]
    rfl

/-- Settles O52: the conjunction of what each happening does, proved above one by one. -/
theorem machineEvents : Obligations.MachineEvents :=
  ⟨dieCacheEvict_does, tlbShootdown_does,
    fun part pkg newPa at_ e old size va s hl => pageMoves_do part pkg newPa at_ e old size va s hl,
    fun _ _ _ => rfl, arbitrate_grants, preempt_does, preemptResume_does, codePageHashFail_does, tetherPeerEnd_does, codexLoad_does,
    hostService_does, controlAccess_does, quoteRequest_does, partitionCreate_does, partitionResize_does, packageStart_does, powerLoss_does,
    debugStep_does⟩

end Sys2Proof.Machine
end

section
namespace Sys2Proof.Machine

/-! ## A step of the machine (R79, R82, R85, R87; log 3) -/

@[simp] theorem andThen_next (s : State) (f : State → Host.Outcome State Fault Refusal) : andThen (.next s) f = f s := rfl

theorem andThen_assoc (r : Host.Outcome State Fault Refusal) (f g : State → Host.Outcome State Fault Refusal) :
    andThen (andThen r f) g = andThen r fun s => andThen (f s) g := by
  cases r <;> rfl

/-- What follows a step that has nothing to do is tried next, on the state marked as waiting. -/
@[simp] theorem ifStalled_waits (s : State) (f : State → Host.Outcome State Fault Refusal) :
    ifStalled (waits s) f = f { s with stalled := true } := rfl

theorem ifStalled_next_of_runs {s : State} (h : s.stalled = false) (f : State → Host.Outcome State Fault Refusal) :
    ifStalled (.next s) f = .next s := by
  simp [ifStalled, h]

theorem decode_wf {h : BitVec 16} {tl : BitVec 64} {i : Instr} {fl : SeqFlag} (hd : decode h tl = some (i, fl)) : wf i = true := by
  unfold decode at hd
  dsimp only at hd
  split at hd
  · cases hd
  · split at hd
    · cases hd
    · split at hd
      · split at hd
        · cases hd
          assumption
        · cases hd
      · cases hd

/-- With no agenda and no start under way, the running thread takes its turn. -/
theorem step_eq_stepThread {s : State} (hstop : (bootOf s (pkgOf s.t.core)).stopped = false)
    (hrun : (bootOf s (pkgOf s.t.core)).running = false) (hagenda : s.agenda = []) (hstatus : s.t.status = .running)
    (hturn : s.cycle % turnLength ≠ turnLength - 1) : step s = stepThread s := by
  unfold step cycleStep stepOwn
  rw [hagenda]
  simp [hstop, hrun, hstatus, hturn]

theorem stepLanes_waits {s : State} (h : runningLanes s = []) : stepLanes s = waits s := by
  simp [stepLanes, h]

theorem stepHead_waits {s : State} (h : s.t.vq = []) : stepHead s = waits s := by
  simp [stepHead, beginHead, h]

theorem stepEnter_waits {s : State} (h : s.t.xdec = []) : stepEnter s = waits s := by
  simp [stepEnter, enterQueue, h]

/-- With no lane threads and no older work in its queues, the thread's turn is its access stream's. -/
theorem stepThread_access {s : State} (hlanes : runningLanes s = []) (hvq : s.t.vq = []) (hxdec : s.t.xdec = []) :
    stepThread s = andThen (stepAccess { s with stalled := true }) fun s1 =>
      if s1.stalled then .next (rest s1) else .next (tick (afterStep s s1)) := by
  unfold stepThread
  rw [stepLanes_waits hlanes, ifStalled_waits, stepHead_waits (s := { s with stalled := true }) hvq, ifStalled_waits,
    stepEnter_waits (s := { s with stalled := true }) hxdec, ifStalled_waits]

/-- In an entered line, the access stream runs the instruction at the PC that its sequencer flag lets run. -/
theorem stepAccess_runs {s : State} {h : BitVec 16} {tl : BitVec 64} {i : Instr} {fl : SeqFlag} (hentered : entered s = true)
    (hhead : accessHead (beginPass s) = some (h, tl)) (hd : decode h tl = some (i, fl)) (hflag : flagRuns (beginPass s) fl = true) :
    stepAccess s = andThen (exec i (beginPass s)) fun s1 => .next (afterAccess (beginPass s) (passedOne (beginPass s) s1)) := by
  unfold stepAccess runAccess
  rw [if_pos hentered]
  simp only [hhead, hd, hflag, if_true]

theorem endHead_stalled (uid : Nat) (e : XEntry) (s : State) : (endHead uid e s).stalled = s.stalled := by
  unfold endHead
  split
  · split <;> rfl
  · rfl

/-- The oldest entry of the vector queue runs in its own context (R79, R133). -/
theorem stepHead_runs {s : State} {e : XEntry} {r : List XEntry} {i : Instr} {fl : SeqFlag} (hvq : s.t.vq = e :: r)
    (hd : decode e.head e.tail = some (i, fl)) :
    stepHead s = andThen (exec i { s with t := { s.t with vq := r, xctx := some { entry := e, lane := none } } }) fun s1 =>
      .next (endHead s.t.uid e s1) := by
  unfold stepHead beginHead runEntry
  simp only [hvq, hd]
  rfl

/-- A head that has issued ends the thread's turn. -/
theorem stepThread_head {s s1 : State} {e : XEntry} {r : List XEntry} {i : Instr} {fl : SeqFlag} (hlanes : runningLanes s = [])
    (hvq : s.t.vq = e :: r) (hd : decode e.head e.tail = some (i, fl))
    (hexec : exec i { s with stalled := true, t := { s.t with vq := r, xctx := some { entry := e, lane := none } } } = .next s1)
    (hs : s1.stalled = false) : stepThread s = .next (tick (afterStep s (endHead s.t.uid e s1))) := by
  have hend : (endHead s.t.uid e s1).stalled = false := (endHead_stalled ..).trans hs
  unfold stepThread
  rw [stepLanes_waits hlanes, ifStalled_waits, stepHead_runs (s := { s with stalled := true }) hvq hd, hexec, andThen_next,
    ifStalled_next_of_runs hend, ifStalled_next_of_runs hend, andThen_next, hend]
  rfl

/-- Settles O6: a step is the access stream's turn, the first happening of the agenda, or the turn of the vector queue's head. -/
theorem stepRunsDecoded : Obligations.StepRunsDecoded := by
  refine ⟨fun s h tl i fl hstop hrun hagenda hstatus hturn hlanes hvq hxdec hentered hhead hd hflag => ⟨decode_wf hd, ?_⟩,
    fun s s1 i r hagenda hexec hs => ?_, fun s s1 e r i fl hstop hrun hagenda hstatus hturn hlanes hvq hd hexec hs => ?_⟩
  · have hentered' : entered { s with stalled := true } = true := hentered
    rw [step_eq_stepThread hstop hrun hagenda hstatus hturn, stepThread_access hlanes hvq hxdec, stepAccess_runs hentered' hhead hd hflag,
      andThen_assoc]
    rfl
  · unfold step cycleStep
    rw [hagenda]
    dsimp only
    rw [hexec]
    exact ifStalled_next_of_runs hs _
  · rw [step_eq_stepThread hstop hrun hagenda hstatus hturn, stepThread_head hlanes hvq hd hexec hs]

end Sys2Proof.Machine
end

section
namespace Sys2Proof.Machine

/-! ## Execute-stream instructions that wait, are dropped or commit (R79, R82, R83, R142) -/

theorem executeBody_stall {k : StartRule} {s s1 : State} {f : State → Res} (h : runsNow k s) (hf : f s = .stall s1) :
    executeBody k f s = .stall s1 := by
  obtain ⟨_, hlane, hwhole⟩ := h
  unfold executeBody
  rw [if_neg, if_neg, hf]
  · rintro ⟨hk, h0⟩
    exact h0 (hwhole hk)
  · rintro ⟨hk, hsome, hnone⟩
    rcases hlane with h | h | h
    · exact hk h
    · simp [h] at hsome
    · simp [laneOf, Option.isNone_iff_eq_none.1 hnone] at h

/-- An instruction whose turn has come and whose body waits stands at the queue's head again, or enters the queue. -/
theorem executeWith_stall {pop : Option Nat} {rd : List (BitVec 5)} {k : StartRule} {s : State} {f : Word → State → Res}
    (h : runsNow k s) (hf : ∀ v, f v s = .stall s) (hpop : popQueue pop s = some (0, s)) :
    executeWith pop rd k f s = .next (if s.t.xctx.isSome then { s with stalled := true } else enqueue s) := by
  unfold executeWith
  rw [executeBody_stall h (hf _)]
  by_cases hx : s.t.xctx.isSome = true
  · rw [if_pos hx, if_pos hx]
    rfl
  · obtain ⟨hx' | ⟨hq, hd⟩, _, _⟩ := id h
    · exact absurd hx' hx
    · rw [if_neg hx, if_neg hx, if_neg (by rw [not_pending (settledFor_of_idle hq rd)]; exact Bool.false_ne_true), if_neg (by simp [hq]),
        if_neg (by omega)]
      simp only [hpop, executeBody_stall h (hf _)]
      rfl

/-- With nothing older before it, an instruction that pops an empty data queue enters the queue. -/
theorem executeWith_pop_waits {pop : Option Nat} {rd : List (BitVec 5)} {k : StartRule} {s : State} (f : Word → State → Res)
    (h : runsNow k s) (hx : s.t.xctx = none) (hpop : popQueue pop s = none) : executeWith pop rd k f s = .next (enqueue s) := by
  obtain ⟨hx' | ⟨hq, hd⟩, _, _⟩ := h
  · simp [hx] at hx'
  · unfold executeWith
    rw [if_neg (by simp [hx]), if_neg (by rw [not_pending (settledFor_of_idle hq rd)]; exact Bool.false_ne_true), if_neg (by simp [hq]),
      if_neg (by omega)]
    simp only [hpop]
    rfl

theorem advance_withStalled (s : State) (b : Bool) : advance { s with stalled := b } = { advance s with stalled := b } := by
  unfold advance
  dsimp only
  split
  · split <;> rfl
  · rfl

/-- In the run that a bqx drops, an instruction has no effect but its place (R142). -/
theorem executeWith_dropped {pop : Option Nat} {rd : List (BitVec 5)} {k : StartRule} {s : State} (f : Word → State → Res)
    (hq : xBusy s = false) (hx : s.t.xctx = none) (hd : 0 < s.t.dropRun) :
    executeWith pop rd k f s = .next (passed (s.updT fun t => { t with dropRun := t.dropRun - 1 })) := by
  unfold executeWith
  rw [if_neg (by simp [hx]), if_neg (by rw [not_pending (settledFor_of_idle hq rd)]; exact Bool.false_ne_true), if_neg (by simp [hq]),
    if_pos hd, advance_withStalled]
  rfl

/-! ## The frame of vector registers (R136, R218, R219) -/

theorem produceDests_plain {dsts : List Nat} {s : State} (h : plainDest dsts s) (act : Nat → Bool) : produceDests dsts act s = .ok s := by
  have hnone : (s.t.binds.filter fun b => b.store && dsts.contains b.vd) = [] := by
    rw [List.filter_eq_nil_iff]
    intro b hb
    simpa using h b hb
  rw [produceDests, hnone]
  rfl

/-- A body that completes on its available sources, with no destination bound to a store stream, consumes them. -/
theorem vecFrame_ok {rule : StopRule} {srcs dsts : List Nat} {dm : Option Nat} {s s1 s2 : State} {f : State → Res}
    (hs : sourcesAt srcs dsts dm s s1) (act : State → Nat → Bool) (hf : f s1 = .ok s2) (hd : plainDest dsts s2) :
    vecFrame rule srcs dsts dm act f s = .ok (consumeSources srcs s2) := by
  obtain ⟨hw, hbad, rfl⟩ := hs
  unfold vecFrame frameTo
  rw [if_neg (by simp [hw])]
  simp only [hbad, hf, produceDests_plain hd]

theorem plainDest_nil (s : State) : plainDest [] s := fun _ _ _ => List.not_mem_nil

/-- Without vector sources nothing is consumed but a lane thread's list of what it has read. -/
theorem consumeSources_nil (s : State) : consumeSources [] s = { s with t := { s.t with lanes := (consumeSources [] s).t.lanes } } := by
  unfold consumeSources countSources
  dsimp only [boundSources, List.dedup_nil, List.filterMap_nil, List.map_nil, List.foldl_nil]
  split <;> rfl

/-- All that a commit can change: the thread's place, vstart, vcommit and the mark of a wait. -/
theorem committed_eq (k : StartRule) (s : State) : committed k s = { s with
    stalled := false
    t := { s.t with
      pc := (committed k s).t.pc, lanes := (committed k s).t.lanes
      ctl := { s.t.ctl with vcommit := (committed k s).t.ctl.vcommit, vstart := (committed k s).t.ctl.vstart } } } := by
  unfold committed commitX
  split
  · rw [advance_eq]
  · rw [advance_eq]
    rfl

theorem getV_congr {s t : State} (h : t.t.v = s.t.v) (q : Nat) : getV t q = getV s q := by
  unfold getV
  rw [h]

/-! ## Words of a vector register (R178) -/

/-- The bits of a number in three parts, `m` in the middle 64. -/
theorem testBit_threeParts {l m n : Nat} (hl : l < 2 ^ n) (hm : m < 2 ^ 64) (h i : Nat) :
    (2 ^ n * (2 ^ 64 * h + m) + l).testBit i =
      if i < n then l.testBit i else if i - n < 64 then m.testBit (i - n) else h.testBit (i - n - 64) := by
  rw [Nat.testBit_two_pow_mul_add _ hl, Nat.testBit_two_pow_mul_add _ hm]

/-- Replacing word `w` of a number changes that word's bits only. -/
theorem testBit_replaceWord {v : Nat} (hv : v < 2 ^ 64) (old w i : Nat) :
    (old - elemAt old 64 w * 2 ^ (64 * w) + v * 2 ^ (64 * w)).testBit i = if i / 64 = w then v.testBit (i % 64) else old.testBit i := by
  have hpos : 0 < 2 ^ (64 * w) := Nat.two_pow_pos _
  have hmid : elemAt old 64 w < 2 ^ 64 := Nat.mod_lt _ (Nat.two_pow_pos _)
  have hlo : old % 2 ^ (64 * w) < 2 ^ (64 * w) := Nat.mod_lt _ hpos
  have hold : old = 2 ^ (64 * w) * (2 ^ 64 * (old / 2 ^ (64 * w) / 2 ^ 64) + elemAt old 64 w) + old % 2 ^ (64 * w) := by
    unfold elemAt
    rw [Nat.shiftRight_eq_div_pow, Nat.div_add_mod, Nat.div_add_mod]
  have hnew : old - elemAt old 64 w * 2 ^ (64 * w) + v * 2 ^ (64 * w) =
      2 ^ (64 * w) * (2 ^ 64 * (old / 2 ^ (64 * w) / 2 ^ 64) + v) + old % 2 ^ (64 * w) := by
    have hsub : old - elemAt old 64 w * 2 ^ (64 * w) = 2 ^ (64 * w) * (2 ^ 64 * (old / 2 ^ (64 * w) / 2 ^ 64)) + old % 2 ^ (64 * w) := by
      rw [Nat.mul_add] at hold
      rw [Nat.mul_comm (elemAt old 64 w)]
      omega
    rw [hsub, Nat.mul_add, Nat.mul_comm v]
    omega
  rw [hnew, testBit_threeParts hlo hv]
  conv_rhs => rw [hold]
  rw [testBit_threeParts hlo hmid]
  have hword : i / 64 = w ↔ ¬i < 64 * w ∧ i - 64 * w < 64 := by omega
  by_cases hi : i < 64 * w
  · simp [hi, hword]
  · by_cases hj : i - 64 * w < 64
    · have hm : i % 64 = i - 64 * w := by omega
      simp [hi, hj, hword, hm]
    · simp [hi, hj, hword]

theorem ofNat_elemAt (x : VReg) (w : Nat) : BitVec.ofNat 64 (elemAt x.toNat 64 w) = x.extractLsb' (64 * w) 64 := by
  apply BitVec.eq_of_toNat_eq
  simp [elemAt, BitVec.extractLsb'_toNat]

/-! ## Data queues and bq (R177 to R180) -/

theorem dqput_does (o : Q3) (s : State) (h : settledFor [o.fa] s) :
    let q := s.t.dq.getD o.fd.toNat []
    exec (.dqput o) s = .next (if q.length < 8 then passed (s.updT fun t => { t with dq := t.dq.setIfInBounds o.fd.toNat (q ++ [getS s o.fa]) })
      else { s with stalled := true }) := by
  intro q
  by_cases hq : q.length < 8
  · rw [if_pos hq]
    refine accessOp_ok h ?_
    exact if_neg (Nat.not_le.2 hq)
  · rw [if_neg hq]
    refine accessOp_stall h ?_
    exact if_pos (Nat.not_lt.1 hq)

theorem dqget_does (o : Q3) (s : State) :
    (s.t.dq.getD o.fa.toNat [] = [] → exec (.dqget o) s = .next { s with stalled := true }) ∧
    ∀ v r, s.t.dq.getD o.fa.toNat [] = v :: r →
      exec (.dqget o) s = writesS (s.updT fun t => { t with dq := t.dq.setIfInBounds o.fa.toNat r }) o.fd v := by
  have hset : settledFor [] s := fun _ hr => absurd hr List.not_mem_nil
  change (_ → execDqget o s = _) ∧ ∀ v r, _ → execDqget o s = _
  unfold execDqget
  refine ⟨fun h => accessOp_stall hset ?_, fun v r h => accessOp_ok hset ?_⟩
  · rw [h]
  · rw [h]

theorem bqxBody_pops (n : Nat) {s : State} {b : Bool} {r : List Bool} (hd : s.t.dropRun = 0) (hb : s.t.bq = b :: r) :
    bqxBody n s = .ok (s.updT fun t => { t with bq := r, dropRun := if b then n else 0 }) := by
  simp only [bqxBody, hb, State.updT, hd]

/-- bqx at its place in the execute stream, with its bit there. -/
theorem bqx_pops (o : QN) (s : State) (hq : xBusy s = false) (hd : s.t.dropRun = 0) (hx : s.t.xctx = none) (hl : s.t.lanes = none)
    (b : Bool) (r : List Bool) (hb : s.t.bq = b :: r) :
    exec (.bqx o) s = .next (passed (s.updT fun t => { t with bq := r, dropRun := if b then o.cnt.toNat else 0 })) := by
  change execBqx o s = _
  unfold execBqx
  rw [if_neg (by simp [hx, hl]), if_neg (by simp [hq]), if_neg (by omega), bqxBody_pops _ hd hb]
  rfl

theorem bqx_waits (o : QN) (s : State) (hx : s.t.xctx = none) (hl : s.t.lanes = none)
    (h : xBusy s = true ∨ s.t.dropRun = 0 ∧ s.t.bq = []) : exec (.bqx o) s = .next (enqueue s) := by
  change execBqx o s = _
  unfold execBqx bqxBody
  rw [if_neg (by simp [hx, hl])]
  by_cases hq : xBusy s = true
  · rw [if_pos hq]
    rfl
  · obtain ⟨hd, hb⟩ := h.resolve_left hq
    rw [if_neg hq, if_neg (by omega), hb]
    rfl

theorem bqx_dropped (o : QN) (s : State) (hq : xBusy s = false) (hx : s.t.xctx = none) (hd : 0 < s.t.dropRun) :
    exec (.bqx o) s = .next (passed (s.updT fun t => { t with dropRun := t.dropRun - 1 })) := by
  change execBqx o s = _
  unfold execBqx
  rw [if_neg (by simp [hx]; omega), if_neg (by simp [hq]), if_pos hd, advance_withStalled]
  rfl

theorem enterQueue_bqx_waits {s : State} {e : XEntry} {r : List XEntry} (hx : s.t.xdec = e :: r) (he : e.isBqx = true) (hd : s.t.dropRun = 0)
    (hv : afterVblk s = false) (hb : s.t.bq = []) : enterQueue true s = none := by
  have hbody : ∀ n, bqxBody n (s.updT fun t => { t with xdec := r }) = .stall (s.updT fun t => { t with xdec := r }) := fun n => by
    simp [bqxBody, hb]
  unfold enterQueue
  simp [hx, he, hd, hv, hbody]

/-- xqput of an available register onto a queue with room (R178). -/
theorem xqput_does (o : Q3) (s s1 : State) (h : runsNow .ignore s) (hs : sourcesAt [o.fa.toNat] [] none s s1) (hw : o.fb.toNat < 128)
    (hq : (s.t.dq.getD o.fd.toNat []).length < 8) (hq1 : (s1.t.dq.getD o.fd.toNat []).length < 8) :
    exec (.xqput o) s = .next (committed .ignore (consumeSources [o.fa.toNat] (s1.updT fun t =>
      { t with dq := t.dq.setIfInBounds o.fd.toNat (t.dq.getD o.fd.toNat [] ++ [(getV s1 o.fa.toNat).extractLsb' (64 * o.fb.toNat) 64]) }))) := by
  refine executeOp_ok h ?_
  rw [if_neg (by omega)]
  refine vecFrame_ok hs _ ?_ (plainDest_nil _)
  unfold pushData
  rw [if_neg (by omega), Nat.mod_eq_of_lt hw, ofNat_elemAt]
  rfl

/-- What xqget leaves of the state behind its pop, with its destination free (R178). -/
def wordPut (o : Q3) (v : Word) (s : State) : State :=
  let old := (getV s o.fd.toNat).toNat
  markDirty (setV s o.fd.toNat (BitVec.ofNat 8192 (old - elemAt old 64 o.fb.toNat * 2 ^ (64 * o.fb.toNat) + v.toNat * 2 ^ (64 * o.fb.toNat))))
    o.fd.toNat 1

theorem getV_wordPut (o : Q3) (v : Word) (s : State) (q : Nat) : getV (wordPut o v s) q = if q = o.fd.toNat then
    BitVec.ofNat 8192 ((getV s o.fd.toNat).toNat - elemAt (getV s o.fd.toNat).toNat 64 o.fb.toNat * 2 ^ (64 * o.fb.toNat) +
      v.toNat * 2 ^ (64 * o.fb.toNat)) else getV s q :=
  getV_setV s o.fd.toNat q _ o.fd.isLt

theorem wordPut_vdirty (o : Q3) (v : Word) (s : State) :
    (wordPut o v s).t.ctl.vdirty = s.t.ctl.vdirty ||| (1#32 <<< o.fd.toNat) := by
  show s.t.ctl.vdirty ||| BitVec.ofNat 32 ((2 ^ 1 - 1) * 2 ^ o.fd.toNat) = _
  congr 1
  apply BitVec.eq_of_toNat_eq
  simp [Nat.shiftLeft_eq]

theorem xqget_eq (o : Q3) {s sp s1 : State} {v : Word} (h : runsNow .ignore s)
    (hp : (if s.t.xctx.isSome then some (poppedValue s, s) else popQueue (some o.fa.toNat) s) = some (v, sp)) (hn : runsNow .ignore sp)
    (hs : sourcesAt [] [o.fd.toNat] none sp s1) (hd : plainDest [o.fd.toNat] s1) :
    exec (.xqget o) s = .next (committed .ignore (consumeSources [] (wordPut o v s1))) := by
  refine executeWith_ok h hp (executeBody_ok hn (vecFrame_ok hs _ ?_ hd))
  rfl

/-- The word that xqget writes, and what else it leaves. -/
theorem xqget_does (o : Q3) (s sp s1 : State) (v : Word) (h : runsNow .ignore s)
    (hp : if s.t.xctx.isSome then v = poppedValue s ∧ sp = s
      else s.t.dq.getD o.fa.toNat [] = v :: sp.t.dq.getD o.fa.toNat [] ∧
        sp = s.updT fun t => { t with dq := t.dq.setIfInBounds o.fa.toNat (sp.t.dq.getD o.fa.toNat []) })
    (hs : sourcesAt [] [o.fd.toNat] none sp s1) (hd : plainDest [o.fd.toNat] s1) :
    ∃ t, exec (.xqget o) s = .next t ∧ t.stalled = false ∧ t.t.dq = s1.t.dq ∧
      (∀ i < 8192, (getV t o.fd.toNat).getLsbD i =
        if i / 64 = o.fb.toNat then v.getLsbD (i % 64) else (getV s1 o.fd.toNat).getLsbD i) ∧
      (∀ q : Nat, q ≠ o.fd.toNat → getV t q = getV s1 q) ∧ t.t.ctl.vdirty = s1.t.ctl.vdirty ||| (1#32 <<< o.fd.toNat) := by
  have hpop : (if s.t.xctx.isSome then some (poppedValue s, s) else popQueue (some o.fa.toNat) s) = some (v, sp) := by
    by_cases hx : s.t.xctx.isSome = true
    · rw [if_pos hx] at hp ⊢
      rw [hp.1, hp.2]
    · rw [if_neg hx] at hp ⊢
      obtain ⟨hq, hsp⟩ := hp
      simp only [popQueue, hq]
      rw [← hsp]
  have hn : runsNow .ignore sp := by
    split at hp
    · rw [hp.2]
      exact h
    · rw [hp.2]
      exact h
  have hv : ∀ q, getV (committed .ignore (consumeSources [] (wordPut o v s1))) q = getV (wordPut o v s1) q :=
    getV_congr (by rw [committed_eq, consumeSources_nil])
  refine ⟨_, xqget_eq o h hpop hn hs hd, by rw [committed_eq], by rw [committed_eq, consumeSources_nil]; rfl, fun i hi => ?_,
    fun q hq => ?_, ?_⟩
  · rw [hv, getV_wordPut, if_pos rfl]
    simp only [BitVec.getLsbD_ofNat, hi, decide_true, Bool.true_and, testBit_replaceWord v.isLt]
    rfl
  · rw [hv, getV_wordPut, if_neg hq]
  · rw [committed_eq, consumeSources_nil]
    exact wordPut_vdirty o v s1

/-- Settles O8: each instruction's outcome while its queue has room or a value, and while it has to wait. -/
theorem queuesBetweenStreams : Obligations.QueuesBetweenStreams := by
  refine ⟨⟨fun o s h _ => dqput_does o s h, dqget_does, bqx_pops, fun o d s hq hx hd => ⟨bqx_dropped o s hq hx hd, ?_⟩, bqx_waits,
    fun s e r => enterQueue_bqx_waits⟩, fun o s h hq => ?_, fun o s h hx hq => ?_,
    fun o s s1 h hs _ hw hq hq1 => xqput_does o s s1 h hs hw hq hq1, fun o s sp s1 v h hp hs hd _ => xqget_does o s sp s1 v h hp hs hd⟩
  · exact executeWith_dropped _ hq hx hd
  · change execXqput o s = _
    unfold execXqput executeOp
    exact executeWith_stall h (fun _ => if_pos hq) rfl
  · refine executeWith_pop_waits _ h hx ?_
    simp only [popQueue, hq]

end Sys2Proof.Machine
end

section
namespace Sys2Proof.Machine

/-! ## What reading a launch packet leaves (R64) -/

namespace OnlyMemory

section
variable {s u : State}

theorem launches (h : OnlyMemory s u) : u.launches = s.launches := by obtain ⟨_, _, _, _, _, _, _, _, _, _, _, rfl⟩ := h; rfl
theorem nextLaunch (h : OnlyMemory s u) : u.nextLaunch = s.nextLaunch := by obtain ⟨_, _, _, _, _, _, _, _, _, _, _, rfl⟩ := h; rfl

end

theorem dieReadBytes (w : Who) (va : Word) : ∀ (n j : Nat) (s : State), OnlyMemory s (dieReadBytes w va n j s).2
  | 0, _, s => by
    unfold Machine.dieReadBytes
    exact .refl s
  | n + 1, j, s => by
    unfold Machine.dieReadBytes
    split
    · next h => exact .of_translate_fault h
    · next k s1 h =>
      extract_lets s2
      have h2 : OnlyMemory s s2 := (OnlyMemory.of_translate_ok h).trans (.fillBlock ..)
      split
      · exact h2
      · have h3 := h2.trans (dieReadBytes w va n (j + 1) s2)
        split <;> next e => rwa [e] at h3

theorem hardRead (w : Who) (va : Word) (n : Nat) (s : State) : OnlyMemory s (hardRead w va n s).2 := .dieReadBytes w va n 0 s

theorem of_hardRead {s u : State} {w : Who} {va : Word} {n : Nat} {r : Option (List Byte)} (h : Machine.hardRead w va n s = (r, u)) :
    OnlyMemory s u := by
  have := OnlyMemory.hardRead w va n s
  rwa [h] at this

theorem readFolios (w : Who) (d : List Word) (s : State) : OnlyMemory s (readFolios w d s).2 := .hardRead ..

theorem readPacket (w : Who) (h : List Word) (s : State) : OnlyMemory s (readPacket w h s).2 := by
  unfold Machine.readPacket
  extract_lets n
  split
  · next e => exact .of_hardRead e
  · next tb s1 e1 =>
    extract_lets nodes len
    have h1 := OnlyMemory.of_hardRead e1
    split
    · next e2 => exact h1.trans (.of_hardRead e2)
    · next sb s2 e2 =>
      extract_lets succs r
      have h2 := h1.trans (.of_hardRead e2)
      refine foldl_keeps (fun a : List (Option (List (Word × Word))) × State => OnlyMemory s a.2) _ (fun a d ha => ?_) _ _ h2
      dsimp only
      split
      · exact ha.trans (.readFolios ..)
      · exact ha

theorem readCopies (part : Nat) (h : List Word) (dies : List Nat) (s : State) : OnlyMemory s (readCopies part h dies s).2 :=
  foldl_keeps (fun a : List (Nat × Option Packet) × State => OnlyMemory s a.2) _ (fun _ _ ha => ha.trans (.readPacket ..)) _ _ (.refl s)

theorem of_barrierKey {s u : State} {w : Who} {va : Word} {r : Except Nat Nat} (h : barrierKey s w va = (r, u)) : OnlyMemory s u := by
  unfold barrierKey at h
  split at h
  · next ht =>
    have hu : Machine.fillBlock _ _ = u := congrArg Prod.snd h
    exact hu ▸ (OnlyMemory.of_translate_ok ht).trans (.fillBlock ..)
  · next ht =>
    have hu : _ = u := congrArg Prod.snd h
    exact hu ▸ .of_translate_fault ht

theorem armEdge (l : Launch) (s : State) (n : Node) : OnlyMemory s (armEdge l s n) := by
  unfold Machine.armEdge
  split
  · exact .refl s
  · split
    · next e => exact (OnlyMemory.of_barrierKey e).trans (.hardWrite ..)
    · next e => exact .of_barrierKey e

theorem startQueue (s : State) (l : Launch) : OnlyMemory s (startQueue s l) := by
  unfold Machine.startQueue
  split
  · next e => exact (OnlyMemory.of_cqKey e).trans (.hardWrite ..)
  · exact .refl s

end OnlyMemory

/-! ## Nodes that become ready (R69) -/

/-- A node after the nodes `ns` of its launch have been marked as ready. -/
def Node.marked (ns : List Node) (x : Node) : Node := if ns.any (fun n => n.index == x.index) then { x with state := .ready } else x

/-- The entry of a ready node in its die's pool. -/
def Node.entry (n : Node) (cycle part num : Nat) : Ready :=
  { die := n.die, part := part, work := .node num n.index, prio := n.prio, since := cycle, aged := false, listed := false }

theorem Node.marked_index (ns : List Node) (x : Node) : (x.marked ns).index = x.index := by
  unfold Node.marked
  split <;> rfl

/-- Marking changes a node's state only. -/
theorem Node.marked_eq (ns : List Node) (x : Node) : x.marked ns = { x with state := (x.marked ns).state } := by
  unfold Node.marked
  split <;> rfl

theorem Node.marked_of_mem {ns : List Node} {x : Node} (h : x ∈ ns) : (x.marked ns).state = .ready := by
  unfold Node.marked
  have hany : ns.any (fun n => n.index == x.index) = true := List.any_eq_true.2 ⟨x, h, beq_self_eq_true _⟩
  rw [if_pos hany]

theorem Node.marked_cons (n : Node) (ns : List Node) (x : Node) :
    (if x.index == n.index then { x with state := .ready } else x).marked ns = x.marked (n :: ns) := by
  unfold Node.marked
  by_cases hx : x.index = n.index
  · simp [hx]
  · simp [hx, Ne.symm hx]

theorem updWhere_updWhere {α : Type} (l : List α) (p : α → Bool) (f g : α → α) (hp : ∀ x, p (f x) = p x) :
    updWhere (updWhere l p f) p g = updWhere l p fun x => g (f x) := by
  simp only [updWhere, List.map_map]
  refine List.map_congr_left fun x _ => ?_
  by_cases hx : p x = true
  · simp [hx, hp]
  · simp [hx]

theorem updWhere_id {α : Type} (l : List α) (p : α → Bool) : updWhere l p (fun x => x) = l := by
  simp [updWhere]

/-- The launches and the ready pools after the nodes `ns` of a launch have become ready. -/
theorem foldl_ready (num part : Nat) : ∀ (ns : List Node) (s : State),
    ns.foldl (fun a n => postReady (updNode a num n.index fun x => { x with state := .ready }) n.die part (.node num n.index) n.prio) s =
      { s with
        launches := updWhere s.launches (fun l => l.num == num) fun l => { l with nodes := l.nodes.map (Node.marked ns) }
        ready := s.ready ++ ns.map fun n => n.entry s.cycle part num }
  | [], s => by
    have hm : Node.marked [] = id := rfl
    simp [hm, updWhere_id]
  | n :: ns, s => by
    have hl : updWhere (updNode s num n.index fun x => { x with state := .ready }).launches (fun l => l.num == num)
        (fun l => { l with nodes := l.nodes.map (Node.marked ns) }) =
        updWhere s.launches (fun l => l.num == num) fun l => { l with nodes := l.nodes.map (Node.marked (n :: ns)) } := by
      unfold updNode updLaunch
      rw [updWhere_updWhere]
      · simp only [updWhere, List.map_map, Function.comp_def, Node.marked_cons]
      · exact fun _ => rfl
    rw [List.foldl_cons, foldl_ready num part ns]
    change { s with
      launches := updWhere (updNode s num n.index fun x => { x with state := .ready }).launches (fun l => l.num == num) _
      ready := s.ready ++ [n.entry s.cycle part num] ++ ns.map fun n : Node => n.entry s.cycle part num } = _
    rw [hl, List.append_assoc]
    rfl

theorem makeReady_eq {s : State} {num : Nat} {l : Launch} (h : launchOf s num = some l) :
    makeReady s num = { s with
      launches := updWhere s.launches (fun l => l.num == num) fun x => { x with nodes := x.nodes.map (Node.marked (l.nodes.filter Node.isReady)) }
      ready := s.ready ++ (l.nodes.filter Node.isReady).map fun n => n.entry s.cycle l.part num } := by
  unfold makeReady
  rw [h]
  exact foldl_ready num l.part _ s

theorem launchOf_num {s : State} {num : Nat} {l : Launch} (h : launchOf s num = some l) : l.num = num := by
  simpa using List.find?_some h

/-- The launch whose nodes have become ready. -/
theorem launchOf_makeReady {s : State} {num : Nat} {l : Launch} (h : launchOf s num = some l) :
    launchOf (makeReady s num) num = some { l with nodes := l.nodes.map (Node.marked (l.nodes.filter Node.isReady)) } := by
  rw [makeReady_eq h]
  unfold launchOf at h ⊢
  dsimp only
  rw [find?_updWhere, h]
  · rfl
  · exact fun _ => rfl

/-- Of a launch, nodes that become ready change the nodes only. -/
theorem mem_makeReady_launches {s : State} {l : Launch} (hl : l ∈ s.launches) (num : Nat) :
    ∃ x ∈ (makeReady s num).launches, x = { l with nodes := x.nodes } := by
  cases h : launchOf s num with
  | none => exact ⟨l, by simpa [makeReady, h] using hl, rfl⟩
  | some k =>
    rw [makeReady_eq h]
    refine ⟨_, List.mem_map_of_mem hl, ?_⟩
    split <;> rfl

/-- Nodes that become ready change launches and ready pools only. -/
theorem makeReady_others (s : State) (num : Nat) :
    makeReady s num = { s with launches := (makeReady s num).launches, ready := (makeReady s num).ready } := by
  cases h : launchOf s num with
  | none => simp [makeReady, h]
  | some l => rw [makeReady_eq h]

/-! ## An accepted launch (R64 to R69) -/

/-- The launch of an accepted packet, before any of its nodes is ready. -/
def acceptedLaunch (num part pkg : Nat) (h : List Word) (copies : List (Nat × Packet)) : Launch :=
  { num := num, part := part, edge := h.getD 4 0, cq := h.getD 5 0, args := h.getD 6 0, cqPkg := pkg, nodes := packetNodes copies,
    spawnedLeft := 0, reserved := 0, failed := none, finished := false, waiting := [] }

theorem acceptLaunch_eq (part pkg : Nat) (h : List Word) (copies : List (Nat × Packet)) (s : State) : ∃ u cs,
    OnlyMemory { s with launches := s.launches ++ [acceptedLaunch s.nextLaunch part pkg h copies], nextLaunch := s.nextLaunch + 1, codices := cs } u ∧
      acceptLaunch part pkg h copies s = makeReady u s.nextLaunch :=
  ⟨_, _, (OnlyMemory.startQueue ..).trans (OnlyMemory.foldl (fun a n => .armEdge _ a n) _ _), rfl⟩

theorem acceptLaunch_keeps (part pkg : Nat) (h : List Word) (copies : List (Nat × Packet)) (s : State) :
    (acceptLaunch part pkg h copies s).t = s.t ∧ (acceptLaunch part pkg h copies s).replies = s.replies ∧
      (acceptLaunch part pkg h copies s).nextLaunch = s.nextLaunch + 1 := by
  obtain ⟨u, cs, hu, he⟩ := acceptLaunch_eq part pkg h copies s
  rw [he, makeReady_others]
  exact ⟨hu.t, hu.replies, hu.nextLaunch⟩

theorem mem_acceptLaunch_launches (part pkg : Nat) (h : List Word) (copies : List (Nat × Packet)) (s : State) :
    ∃ l ∈ (acceptLaunch part pkg h copies s).launches, l.num = s.nextLaunch ∧ l.part = part ∧ l.finished = false := by
  obtain ⟨u, cs, hu, he⟩ := acceptLaunch_eq part pkg h copies s
  have hl : acceptedLaunch s.nextLaunch part pkg h copies ∈ u.launches := by
    rw [hu.launches]
    exact List.mem_append_right _ List.mem_cons_self
  obtain ⟨x, hx, hxl⟩ := mem_makeReady_launches hl s.nextLaunch
  refine ⟨x, he ▸ hx, ?_⟩
  rw [hxl]
  exact ⟨rfl, rfl, rfl⟩

/-- The new launch, under a number that no older one has. -/
theorem launchOf_acceptLaunch (part pkg : Nat) (h : List Word) (copies : List (Nat × Packet)) {s : State}
    (hnew : ∀ l ∈ s.launches, l.num < s.nextLaunch) :
    let ns := packetNodes copies
    launchOf (acceptLaunch part pkg h copies s) s.nextLaunch =
      some { acceptedLaunch s.nextLaunch part pkg h copies with nodes := ns.map (Node.marked (ns.filter Node.isReady)) } ∧
    ∀ n ∈ ns, n.isReady = true → n.entry s.cycle part s.nextLaunch ∈ (acceptLaunch part pkg h copies s).ready := by
  obtain ⟨u, cs, hu, he⟩ := acceptLaunch_eq part pkg h copies s
  have hfind : launchOf u s.nextLaunch = some (acceptedLaunch s.nextLaunch part pkg h copies) := by
    have hnone : s.launches.find? (fun l => l.num == s.nextLaunch) = none := by
      rw [List.find?_eq_none]
      intro l hl
      have := hnew l hl
      simp
      omega
    unfold launchOf
    rw [hu.launches, List.find?_append, hnone]
    simp [acceptedLaunch]
  intro ns
  rw [he]
  refine ⟨launchOf_makeReady hfind, fun n hn hr => ?_⟩
  have hc : u.cycle = s.cycle := by
    obtain ⟨_, _, _, _, _, _, _, _, _, _, _, rfl⟩ := hu
    rfl
  rw [makeReady_eq hfind, hc]
  exact List.mem_append_right _ (List.mem_map_of_mem (List.mem_filter.2 ⟨hn, hr⟩))

/-- A node of an accepted launch is owned by a die, as that die's copy describes it (R64, R67). -/
theorem mem_packetNodes {copies : List (Nat × Packet)} {n : Node} (h : n ∈ packetNodes copies) :
    ∃ k, (n.die, k) ∈ copies ∧ n.index < k.n ∧ n.desc = k.nodes.getD n.index [] ∧ n.succs = k.succsOf n.index ∧ n.state = .waiting := by
  simp only [packetNodes, List.mem_mergeSort, List.mem_flatten, List.mem_map] at h
  obtain ⟨_, ⟨c, hc, rfl⟩, hn⟩ := h
  simp only [dieNodes, List.mem_map, List.mem_filter, List.mem_range] at hn
  obtain ⟨i, ⟨hi, _⟩, rfl⟩ := hn
  exact ⟨c.2, hc, hi, rfl, rfl, rfl⟩

/-! ## What the dies find (R66, R463) -/

theorem packetResult_bounds {s : State} {w : Who} {p : Option Packet} {k : Nat} (h : packetResult s w p = some k) : 1 ≤ k ∧ k ≤ 6 := by
  unfold packetResult at h
  split at h
  · cases h
    decide
  · repeat' split at h
    all_goals cases h
    all_goals decide

/-- The least of a list of numbers, from `m` on: one of them, and no greater than any. -/
theorem foldl_min_spec {α : Type} (f : α → Nat) : ∀ (l : List α) (m : Nat), let r := l.foldl (fun m x => min m (f x)) m
    (r = m ∨ ∃ x ∈ l, r = f x) ∧ r ≤ m ∧ ∀ x ∈ l, r ≤ f x
  | [], m => ⟨.inl rfl, Nat.le_refl m, fun _ hx => absurd hx List.not_mem_nil⟩
  | x :: l, m => by
    obtain ⟨hmem, hle, hall⟩ := foldl_min_spec f l (min m (f x))
    refine ⟨?_, by simp only [List.foldl_cons]; omega, fun y hy => ?_⟩
    · rcases hmem with h | ⟨y, hy, h⟩
      · rcases Nat.le_total m (f x) with hm | hm
        · exact .inl (h.trans (Nat.min_eq_left hm))
        · exact .inr ⟨x, List.mem_cons_self, h.trans (Nat.min_eq_right hm)⟩
      · exact .inr ⟨y, List.mem_cons_of_mem _ hy, h⟩
    · rcases List.mem_cons.1 hy with rfl | hy
      · simp only [List.foldl_cons]
        omega
      · exact hall y hy

/-- The least number that a die finds, or 8. -/
theorem copiesResult_spec (part : Nat) (copies : List (Nat × Option Packet)) (s : State) :
    (copiesResult part copies s = 8 ∨ ∃ x ∈ copies, dieFinds s part x = some (copiesResult part copies s)) ∧
      ∀ x ∈ copies, ∀ k, dieFinds s part x = some k → copiesResult part copies s ≤ k := by
  obtain ⟨hmem, _, hall⟩ := foldl_min_spec (fun x => (dieFinds s part x).getD 8) copies 8
  refine ⟨?_, fun x hx k hk => ?_⟩
  · rcases hmem with h | ⟨x, hx, h⟩
    · exact .inl h
    · cases hf : dieFinds s part x with
      | none => exact .inl (h.trans (by simp [hf]))
      | some k =>
        have hk : copiesResult part copies s = k := h.trans (by simp [hf])
        exact .inr ⟨x, hx, hf.trans (by rw [hk])⟩
  · exact (hall x hx).trans (by simp [hk])

theorem copiesResult_of_good {part : Nat} {copies : List (Nat × Option Packet)} {s : State} (h : ∀ x ∈ copies, dieFinds s part x = none) :
    copiesResult part copies s = 8 := by
  rcases (copiesResult_spec part copies s).1 with h8 | ⟨x, hx, hk⟩
  · exact h8
  · rw [h x hx] at hk
    cases hk

theorem copiesResult_of_least {part k : Nat} {copies : List (Nat × Option Packet)} {s : State} {x : Nat × Option Packet} (hx : x ∈ copies)
    (hk : dieFinds s part x = some k) (hle : ∀ y ∈ copies, ∀ j, dieFinds s part y = some j → k ≤ j) : copiesResult part copies s = k := by
  obtain ⟨hmem, hall⟩ := copiesResult_spec part copies s
  have hlow := hall x hx k hk
  rcases hmem with h8 | ⟨y, hy, hj⟩
  · have := packetResult_bounds hk
    omega
  · have := hle y hy _ hj
    omega

/-- A result below 8 is one of R463's. -/
theorem copiesResult_pos {part : Nat} {copies : List (Nat × Option Packet)} {s : State} (h : copiesResult part copies s < 8) :
    1 ≤ copiesResult part copies s ∧ copiesResult part copies s ≤ 6 := by
  rcases (copiesResult_spec part copies s).1 with h8 | ⟨x, hx, hk⟩
  · omega
  · exact packetResult_bounds hk

/-! ## Horsil's calls (R463) -/

theorem callService_answers {n : Nat} {c : Call} {s : State} {a : Answer} (h : service false n c s = some a) :
    callService n c s = replies a.s a.status (resultWord a) := by
  unfold callService
  rw [h]
  rfl

/-- LAUNCH on a header that Horsil reads: refused by the queue or by what the dies find, or accepted. -/
theorem launchService_eq {c : Call} {s s1 : State} {p : Partition} {hb : List Byte} (hp : partOf s c.part = some p) (he : p.ended = false)
    (hr : hardRead (Call.who c) c.a0 64 s = (some hb, s1)) :
    let h := wordsOf 8 hb
    let r := readCopies c.part h (dieList p) s1
    let worst := if queueOk r.2 (Call.who c) (h.getD 5 0) then copiesResult c.part r.1 r.2 else 1
    launchService c s = if worst < 8 then refusedCall (some (BitVec.ofNat 64 worst)) r.2
      else okay (some (BitVec.ofNat 64 r.2.nextLaunch)) (acceptLaunch c.part c.pkg h (r.1.filterMap fun x => x.2.map fun k => (x.1, k)) r.2) := by
  unfold launchService
  rw [hp]
  dsimp only
  rw [if_neg (by simp [he]), hr]

theorem launch_answers (c : Call) (s : State) :
    exec (.launch c) s = replies (launchService c s).s (launchService c s).status (resultWord (launchService c s)) := by
  change callService 1 c s = _
  exact callService_answers rfl

/-- Settles O59: the least result that the queue and the dies give decides between refusal and acceptance. -/
theorem launchAcceptedOrRefused : Obligations.LaunchAcceptedOrRefused := by
  intro c s s1 p hb hp he hread h r good
  have hmem : OnlyMemory s r.2 := (OnlyMemory.of_hardRead hread).trans (.readCopies ..)
  have heq := launchService_eq hp he hread
  rw [launch_answers, heq]
  refine ⟨fun hq hgood hnew => ?_, fun hq x k hx hk hle => ?_, fun hq => ?_⟩
  · rw [if_neg (by rw [if_pos hq, copiesResult_of_good hgood]; omega)]
    obtain ⟨ht, _, hnext⟩ := acceptLaunch_keeps c.part c.pkg h good r.2
    obtain ⟨hl, hready⟩ := launchOf_acceptLaunch c.part c.pkg h good (s := r.2) (by rwa [hmem.launches, hmem.nextLaunch])
    refine ⟨_, _, ?_, rfl, ht.trans hmem.t, by rw [hnext, hmem.nextLaunch], by rw [← hmem.nextLaunch]; exact hl, rfl, rfl, rfl, rfl, rfl,
      rfl, rfl, fun n hn => ?_, fun n hn hleft hcross => ?_⟩
    · rw [← hmem.nextLaunch]
      rfl
    · obtain ⟨m, hm, rfl⟩ := List.mem_map.1 hn
      obtain ⟨k, hk, hi, hd, hs, _⟩ := mem_packetNodes hm
      rw [Node.marked_eq]
      exact ⟨k, hk, hi, hd, hs⟩
    · obtain ⟨m, hm, rfl⟩ := List.mem_map.1 hn
      obtain ⟨_, _, _, _, _, hw⟩ := mem_packetNodes hm
      rw [Node.marked_eq] at hleft hcross
      have hr : m.isReady = true := by simp_all [Node.isReady]
      refine ⟨Node.marked_of_mem (List.mem_filter.2 ⟨hm, hr⟩), _, hready m hm hr, ?_⟩
      rw [Node.marked_eq]
      exact ⟨rfl, rfl⟩
  · have hw := packetResult_bounds hk
    rw [if_pos hq, copiesResult_of_least hx hk hle, if_pos (by omega)]
    rfl
  · have hbad : ¬queueOk r.2 (Call.who c) (h.getD 5 0) = true := by simp only [hq, Bool.false_eq_true, not_false_eq_true]
    rw [if_neg hbad, if_pos (by decide)]
    rfl

end Sys2Proof.Machine
end

section
namespace Sys2Proof.Machine

/-! ## What Horsil's services answer (R463) -/

theorem service_unknown {n : Nat} (h : knownService n = false) (own : Bool) (c : Call) (s : State) :
    service own n c s = some { status := 1, result := some 0, s := s } := by
  unfold service
  split
  case h_14 => rfl
  all_goals exact absurd h (by decide)

/-- LAUNCH of a living partition is refused with one of R463's numbers, or accepted, on what reading the packet leaves. -/
theorem launchService_cases {c : Call} {s : State} {p : Partition} (hp : partOf s c.part = some p) (he : p.ended = false) :
    (∃ k u, OnlyMemory s u ∧ 1 ≤ k ∧ k ≤ 6 ∧ launchService c s = refusedCall (some (BitVec.ofNat 64 k)) u) ∨
      ∃ h copies u, OnlyMemory s u ∧
        launchService c s = okay (some (BitVec.ofNat 64 u.nextLaunch)) (acceptLaunch c.part c.pkg h copies u) := by
  obtain ⟨r, s1, hread⟩ : ∃ r s1, hardRead (Call.who c) c.a0 64 s = (r, s1) := ⟨_, _, rfl⟩
  have hm1 := OnlyMemory.of_hardRead hread
  cases r with
  | none =>
    refine .inl ⟨1, s1, hm1, by omega, by omega, ?_⟩
    unfold launchService
    rw [hp]
    dsimp only
    rw [if_neg (by simp [he]), hread]
    rfl
  | some hb =>
    have heq := launchService_eq hp he hread
    have hm := hm1.trans (.readCopies c.part (wordsOf 8 hb) (dieList p) s1)
    extract_lets h r worst at heq
    rw [heq]
    by_cases hw : worst < 8
    · rw [if_pos hw]
      have hb : 1 ≤ worst ∧ worst ≤ 6 := by
        unfold worst at hw ⊢
        split
        · next hq => exact copiesResult_pos (by rwa [if_pos hq] at hw)
        · omega
      exact .inl ⟨worst, r.2, hm, hb.1, hb.2, rfl⟩
    · rw [if_neg hw]
      exact .inr ⟨h, _, r.2, hm, rfl⟩

theorem launch_does (c : Call) (s : State) (p : Partition) (hp : partOf s c.part = some p) (he : p.ended = false) :
    ∃ (t : State) (st : Nat) (w : Word), exec (.launch c) s = replies t st w ∧ t.t = s.t ∧ t.replies = s.replies ∧
      (st = 0 → w = BitVec.ofNat 64 s.nextLaunch ∧ t.nextLaunch = s.nextLaunch + 1 ∧
        ∃ l ∈ t.launches, l.num = s.nextLaunch ∧ l.part = c.part ∧ l.finished = false) ∧
      (st ≠ 0 → st = 4 ∧ 1 ≤ w.toNat ∧ w.toNat ≤ 7 ∧ t.launches = s.launches) := by
  refine ⟨_, _, _, launch_answers c s, ?_⟩
  rcases launchService_cases hp he with ⟨k, u, hm, h1, h6, heq⟩ | ⟨h, copies, u, hm, heq⟩
  · have hw : (BitVec.ofNat 64 k).toNat = k := by
      rw [BitVec.toNat_ofNat]
      omega
    rw [heq]
    have hst : (refusedCall (some (BitVec.ofNat 64 k)) u).status ≠ 0 := by simp [refusedCall]
    exact ⟨hm.t, hm.replies, fun h0 => absurd h0 hst, fun _ => ⟨rfl, h1.trans_eq hw.symm, hw.trans_le (by omega), hm.launches⟩⟩
  · obtain ⟨ht, hr, hn⟩ := acceptLaunch_keeps c.part c.pkg h copies u
    obtain ⟨l, hl, hnum, hrest⟩ := mem_acceptLaunch_launches c.part c.pkg h copies u
    rw [heq, ← hm.nextLaunch]
    exact ⟨ht.trans hm.t, hr.trans hm.replies, fun _ => ⟨rfl, hn, l, hl, hnum, hrest⟩, fun h0 => absurd rfl h0⟩

theorem waitForLaunch_does (c : Call) (s : State) (l : Launch) (hl : launchOf s c.a0.toNat = some l) (hp : l.part = c.part) :
    exec (.waitForLaunch c) s = if launchOver l then replies s 0 (Config.freeWord s.fresh) else .next { s with stalled := true } := by
  change callService 2 c s = _
  have hw : service false 2 c s = if launchOver l then some (okay none s) else none := by
    change waitService c s = _
    unfold waitService
    rw [hl]
    simp [hp]
  by_cases ho : launchOver l = true
  · rw [if_pos ho] at hw ⊢
    exact callService_answers hw
  · rw [if_neg ho] at hw ⊢
    unfold callService
    rw [hw]
    rfl

/-- The empty pool that a call asks for (R414). -/
def newPool (c : Call) (p : Partition) : Pool :=
  { part := c.part, num := c.a0.toNat, cap := c.a1.toNat, limit := if c.a2 = 0 then 4096 else c.a2.toNat, pkg := c.pkg, closed := false,
    shelves := ((dieList p).filter fun d => d / 8 == c.pkg).map Shelf.start, moving := [], takes := [], waiters := [], held := false,
    drainers := [], tcAt := p.tc, emptyRun := false, passed := 0 }

theorem poolCreate_does (c : Call) (s : State) (p : Partition) (hp : partOf s c.part = some p) (hnum : c.a0.toNat ≤ 255)
    (hnew : poolOf s c.part c.a0.toNat = none) (hcap : 0 < c.a1.toNat) (hmax : c.a1.toNat ≤ 2 ^ 32)
    (hlim : c.a2 = 0 ∨ (64 ≤ c.a2.toNat ∧ c.a2.toNat ≤ 2 ^ 24)) (hdies : ∃ d ∈ dieList p, d / 8 = c.pkg) :
    ∃ (t : State) (q : Pool) (w : Word), exec (.poolCreate c) s = replies t 0 w ∧ t.t = s.t ∧ t.pools = s.pools ++ [q] ∧ q.part = c.part ∧
      q.num = c.a0.toNat ∧ q.cap = c.a1.toNat ∧ q.limit = (if c.a2 = 0 then 4096 else c.a2.toNat) ∧ q.closed = false ∧
      q.shelves.map Shelf.die = (dieList p).filter (fun d => d / 8 == c.pkg) ∧ ∀ x ∈ q.shelves, x.elems = [] ∧ x.puts = [] := by
  have hd : ((dieList p).filter fun d => d / 8 == c.pkg).isEmpty = false := by
    obtain ⟨d, hd, hk⟩ := hdies
    rw [Bool.eq_false_iff, ne_eq, List.isEmpty_iff, List.filter_eq_nil_iff]
    exact fun h => h d hd (beq_iff_eq.2 hk)
  have hl : 64 ≤ (if c.a2 = 0 then 4096 else c.a2.toNat) ∧ (if c.a2 = 0 then 4096 else c.a2.toNat) ≤ 2 ^ 24 := by
    split
    · decide
    · next h => exact hlim.resolve_left h
  refine ⟨{ s with pools := s.pools ++ [newPool c p] }, newPool c p, Config.freeWord s.fresh, ?_, ?_⟩
  · change callService 0x10 c s = _
    refine callService_answers (a := okay none { s with pools := s.pools ++ [newPool c p] }) ?_
    change some (poolCreateService c s) = _
    unfold poolCreateService
    rw [hp]
    dsimp only
    rw [if_neg]
    · rfl
    · rw [hnew, hd]
      simp only [Option.isSome_none, Bool.false_eq_true, false_or, or_false]
      omega
  · refine ⟨rfl, rfl, rfl, rfl, rfl, rfl, rfl, ?_, fun x hx => ?_⟩
    · simp only [newPool, List.map_map]
      exact List.map_id _
    · obtain ⟨d, _, rfl⟩ := List.mem_map.1 hx
      exact ⟨rfl, rfl⟩

/-- Waking suspended takes changes the continuations only. -/
theorem foldl_wakeTake_eq (key payload : Nat) (st : Word) : ∀ (l : List Nat) (s : State),
    ∃ cs, l.foldl (fun a w => wakeTake a w key payload st) s = { s with conts := cs }
  | [], s => ⟨s.conts, rfl⟩
  | w :: l, s => foldl_wakeTake_eq key payload st l (wakeTake s w key payload st)

theorem poolEnd_does (c : Call) (s : State) (p : Pool) (hp : poolOf s c.part c.a0.toNat = some p) : ∃ (t : State) (w : Word),
    exec (.poolEnd c) s = replies t 0 w ∧ t.t = s.t ∧ t.pools = s.pools.filter fun q => !(q.part == c.part && q.num == c.a0.toNat) := by
  have hid : p.part = c.part ∧ p.num = c.a0.toNat := by simpa using List.find?_some hp
  obtain ⟨cs, hcs⟩ := foldl_wakeTake_eq 0 0 (poolStatus 4 false) p.waiters s
  let t := { s with conts := cs, pools := s.pools.filter fun q => !(q.part == c.part && q.num == c.a0.toNat) }
  refine ⟨t, Config.freeWord t.fresh, ?_, rfl, rfl⟩
  change callService 0x11 c s = _
  refine callService_answers (a := okay none t) ?_
  change some (poolEndService c s) = _
  unfold poolEndService
  rw [hp]
  dsimp only
  rw [hcs, hid.1, hid.2]

theorem settleViews_t (s : State) : (settleViews s).t = s.t := by
  have h := congrArg State.t (settleViews_eq s)
  exact h

theorem tetherGrant_does (c : Call) (s : State) (a b : Nat) (hl : partLives s c.part = true) (hpeer : partLives s c.a0.toNat = true)
    (hne : c.a0.toNat ≠ c.part) (hsize : c.a1 ≠ 0) (hdir : c.a2 = 0) (ha : freeTid s c.part = some a) (hb : freeTid s c.a0.toNat = some b) :
    let pkg := c.frames.getD 0 0
    let base := c.frames.getD 1 0
    rangeMapped s { part := c.a0.toNat, pkg := pkg, core := none, die := pkg * 8 } .store (BitVec.ofNat 64 base) c.a1.toNat = true →
    let x : Tether := { sender := c.part, senderTid := a, receiver := c.a0.toNat, receiverTid := b, pkg := pkg, base := base,
                        size := c.a1.toNat, revoked := false, ended := false }
    exec (.tetherGrant c) s = replies { s with tethers := s.tethers ++ [x] } 0 (BitVec.ofNat 64 a) := by
  intro pkg base hm x
  have hsize' : c.a1.toNat ≠ 0 := fun h => hsize (BitVec.eq_of_toNat_eq h)
  have hdir' : c.a2.toNat = 0 := by rw [hdir]; rfl
  change callService 0x20 c s = _
  refine callService_answers (a := okay (some (BitVec.ofNat 64 a)) _) ?_
  change some (tetherGrantService c s) = _
  unfold tetherGrantService
  dsimp only
  rw [if_neg (by simp [hl]), if_neg (by simp [hpeer, hne, hsize', hdir']), if_pos hdir, if_pos hdir, ha, hb]
  dsimp only
  rw [if_pos hm, if_pos hdir]

theorem tetherRevoke_does (c : Call) (s : State)
    (h : ∃ x ∈ s.tethers, x.revoked = false ∧ x.sender = c.part ∧ x.senderTid = c.a0.toNat) :
    ∃ (t : State) (w : Word), exec (.tetherRevoke c) s = replies t 0 w ∧ t.t = s.t ∧
      ∀ x ∈ t.tethers, (x.sender = c.part ∧ x.senderTid = c.a0.toNat) ∨ (x.receiver = c.part ∧ x.receiverTid = c.a0.toNat) → x.revoked = true := by
  let mine := fun (t : Tether) =>
    !t.revoked && ((t.sender == c.part && t.senderTid == c.a0.toNat) || (t.receiver == c.part && t.receiverTid == c.a0.toNat))
  let s1 := { s with tethers := updWhere s.tethers mine fun t => { t with revoked := true } }
  refine ⟨settleViews s1, Config.freeWord (settleViews s1).fresh, ?_, ?_⟩
  · change callService 0x21 c s = _
    refine callService_answers (a := okay none (settleViews s1)) ?_
    change some (tetherRevokeService c s) = _
    unfold tetherRevokeService
    dsimp only
    rw [if_pos]
    obtain ⟨x, hx, hr, hs, ht⟩ := h
    exact List.any_eq_true.2 ⟨x, hx, by simp [hr, hs, ht]⟩
  · refine ⟨settleViews_t s1, fun x hx hmine => ?_⟩
    change x ∈ (settleViews s1).tethers at hx
    rw [settleViews_tethers] at hx
    by_contra hr
    have hmx : mine x = true := by simpa [mine, Bool.eq_false_iff.2 hr] using hmine
    exact hr (of_mem_updWhere (q := fun x => x.revoked = true) (fun _ => rfl) hx hmx)

theorem rangePages_lt {va : Word} {n x : Nat} (h : pagesOk va n = true) (hx : x ∈ rangePages va n) : x < 2 ^ 57 := by
  simp only [pagesOk, Bool.and_eq_true, beq_iff_eq, decide_eq_true_eq] at h
  obtain ⟨_, hn⟩ := h
  obtain ⟨i, hi, rfl⟩ := List.mem_map.1 hx
  rw [List.mem_range] at hi
  omega

theorem toNat_ofNat_va {x : Nat} (hx : x < 2 ^ 57) : (BitVec.ofNat 64 x).toNat % 2 ^ 57 = x := by
  rw [BitVec.toNat_ofNat]
  omega

theorem leafOf_of_walk {s : State} {part pkg x at_ e l : Nat} (hx : x < 2 ^ 57) (hw : walk s part pkg x = .leaf at_ e l) :
    leafOf s part pkg (BitVec.ofNat 64 x) = some (at_, e, field e 51 16 * 2 ^ 16, 2 ^ levelShift l) := by
  unfold leafOf
  rw [toNat_ofNat_va hx, hw]

theorem walk_ne_leaf {s : State} {part pkg x : Nat} (hx : x < 2 ^ 57) (hn : leafOf s part pkg (BitVec.ofNat 64 x) = none) (at_ e l : Nat) :
    walk s part pkg x ≠ .leaf at_ e l := by
  intro hw
  rw [leafOf_of_walk hx hw] at hn
  cases hn

theorem mapMemory_does (c : Call) (s : State) (hl : partLives s c.part = true) (hpages : pagesOk c.a0 c.a1.toNat = true)
    (hrights : rightsOk c.a2.toNat = true) (hregion : c.a3.toNat ≤ 2) (hqueue : touchesQueue s c c.a1.toNat = false)
    (hfree : ∀ va ∈ rangePages c.a0 c.a1.toNat, leafOf s c.part c.pkg (BitVec.ofNat 64 va) = none)
    (hframes : ∀ f ∈ c.frames, f % 2 ^ 16 = 0) :
    ∃ (t : State) (st : Nat) (w : Word), exec (.mapMemory c) s = replies t st w ∧ t.t = s.t ∧
      (st = 0 ∧ (∀ x ∈ (rangePages c.a0 c.a1.toNat).zip c.frames, ∃ at_ e size, leafOf t c.part c.pkg (BitVec.ofNat 64 x.1) =
        some (at_, e, x.2, size)) ∨ st = 3 ∧ t = s) := by
  refine ⟨(mapService c s).s, (mapService c s).status, resultWord (mapService c s), ?_, ?_⟩
  · change callService 0x30 c s = _
    exact callService_answers rfl
  · unfold mapService
    extract_lets n r pages s1 placed
    rw [if_neg (by simp [hl]), if_neg (by simp [n, r, hpages, hrights, hqueue, hregion]), if_neg]
    swap
    · rw [Bool.not_eq_true, List.any_eq_false]
      intro va hva
      cases hw : walk s c.part c.pkg va with
      | leaf at_ e l => exact absurd hw (walk_ne_leaf (rangePages_lt hpages hva) (hfree va hva) at_ e l)
      | pageFault => exact Bool.false_ne_true
      | protection => exact Bool.false_ne_true
    split
    · exact ⟨rfl, .inr ⟨rfl, rfl⟩⟩
    · split
      · next hplaced =>
        refine ⟨(OnlyMemory.mapPages ..).t, .inl ⟨rfl, fun x hx => ?_⟩⟩
        have hx1 := List.all_eq_true.1 hplaced x hx
        obtain ⟨hva, hf⟩ := List.of_mem_zip hx
        change ∃ at_ e size, leafOf s1 c.part c.pkg (BitVec.ofNat 64 x.1) = some (at_, e, x.2, size)
        cases hw : walk s1 c.part c.pkg x.1 with
        | leaf at_ e l =>
          rw [hw] at hx1
          have he : field e 51 16 = x.2 / 2 ^ 16 := beq_iff_eq.1 hx1
          have hal := hframes x.2 hf
          refine ⟨at_, e, 2 ^ levelShift l, ?_⟩
          rw [leafOf_of_walk (rangePages_lt hpages hva) hw, he, Nat.div_mul_cancel (Nat.dvd_of_mod_eq_zero hal)]
        | pageFault => simp [hw] at hx1
        | protection => simp [hw] at hx1
      · exact ⟨rfl, .inr ⟨rfl, rfl⟩⟩

theorem unmap_does (c : Call) (s : State) (hl : partLives s c.part = true) (hpages : pagesOk c.a0 c.a1.toNat = true)
    (hqueue : touchesQueue s c c.a1.toNat = false)
    (hmapped : ∀ va ∈ rangePages c.a0 c.a1.toNat, ∃ at_ e, walk s c.part c.pkg va = .leaf at_ e 0) :
    ∃ (t : State) (w : Word), exec (.unmap c) s = replies t 0 w ∧ t.t = s.t ∧
      ∀ x ∈ t.tlbs, ∀ e ∈ x.entries, ¬(e.part = c.part ∧ e.pkg = c.pkg) := by
  have hanswer : ∃ s1, OnlyMemory s s1 ∧ unmapService c s = okay none (shootdown s1 c.part c.pkg) := by
    unfold unmapService
    extract_lets n pages entry s1
    refine ⟨s1, OnlyMemory.foldl (fun a at_ => .hardWrite a at_ _) _ _, ?_⟩
    have hbad : (pages.any fun va => (entry va).isNone) = false := by
      rw [List.any_eq_false]
      intro va hva
      obtain ⟨at_, e, hw⟩ := hmapped va hva
      simp [entry, hw]
    rw [if_neg (by simp [hl]), if_neg]
    · rfl
    · rw [hbad]
      simp [n, hpages, hqueue]
  obtain ⟨s1, hm, ha⟩ := hanswer
  refine ⟨shootdown s1 c.part c.pkg, Config.freeWord (shootdown s1 c.part c.pkg).fresh, ?_, hm.t, not_mem_shootdown⟩
  change callService 0x31 c s = _
  exact callService_answers (a := okay none (shootdown s1 c.part c.pkg)) (congrArg some ha)

theorem log_does (c : Call) (s s1 : State) (bs : List Byte) (hlen : c.a1.toNat ≤ 4096)
    (hread : hardRead (Call.who c) c.a0 c.a1.toNat s = (some bs, s1)) :
    exec (.log c) s = replies { s1 with hlog := s1.hlog ++ bs } 0 (Config.freeWord s1.fresh) := by
  change callService 0x40 c s = _
  refine callService_answers (a := okay none { s1 with hlog := s1.hlog ++ bs }) ?_
  change some (logService false c s) = _
  unfold logService
  rw [if_neg (by omega), if_neg Bool.false_ne_true, hread]

theorem attestationQuote_does (c : Call) (s s1 s2 : State) (nonce : List Byte) (ks : List Nat)
    (hread : hardRead (Call.who c) c.a0 32 s = (some nonce, s1)) :
    let q := quoteBytes c.pkg nonce (bootOf s1 c.pkg)
    engineKeys (Call.who c) c.a1 q.length 0 s1 = (ks, none, s2) →
    exec (.attestationQuote c) s = replies (engineWrite s2 c.pkg (ks.zip q)).1 0 (BitVec.ofNat 64 q.length) := by
  intro q hk
  change callService 0x50 c s = _
  refine callService_answers (a := okay (some (BitVec.ofNat 64 q.length)) (engineWrite s2 c.pkg (ks.zip q)).1) ?_
  change some (quoteService c s) = _
  unfold quoteService
  rw [hread]
  change some (match (engineKeys (Call.who c) c.a1 q.length 0 s1).2.1 with
    | some _ => _
    | none => _) = _
  rw [hk]

theorem enrolSigningKey_does (c : Call) (s s1 : State) (bs : List Byte)
    (hread : hardRead (Call.who c) c.a0 c.bytes.length s = (some bs, s1)) :
    let keys := (bootOf s1 c.pkg).keys
    let found := (Config.rootKey :: keys).findSome? fun k => Config.certKey k bs
    (∀ k, found = some k → keys.length < 64 → ∃ t, exec (.enrolSigningKey c) s = replies t 0 (BitVec.ofNat 64 keys.length) ∧ t.t = s1.t ∧
      t.home = s1.home ∧ (bootOf t c.pkg).keys = keys ++ [k] ∧ ∀ q ≠ c.pkg, bootOf t q = bootOf s1 q) ∧
    (found = none → ∃ w, exec (.enrolSigningKey c) s = replies s1 2 w) ∧
    ∀ k, found = some k → 64 ≤ keys.length → ∃ w, exec (.enrolSigningKey c) s = replies s1 3 w := by
  intro keys found
  have heq : enrolService c s = match found with
      | none => badCall s1
      | some k => if 64 ≤ keys.length then noSpace s1
        else okay (some (BitVec.ofNat 64 keys.length)) (updBoot s1 c.pkg fun b => { b with keys := b.keys ++ [k] }) := by
    unfold enrolService
    rw [hread] <;> rfl
  have hexec : exec (.enrolSigningKey c) s = replies (enrolService c s).s (enrolService c s).status (resultWord (enrolService c s)) := by
    change callService 0x60 c s = _
    exact callService_answers rfl
  rw [heq] at hexec
  refine ⟨fun k hk hlen => ?_, fun hk => ?_, fun k hk hlen => ?_⟩
  · rw [hk] at hexec
    dsimp only at hexec
    rw [if_neg (by omega)] at hexec
    refine ⟨_, hexec, rfl, rfl, ?_, fun q hq => bootOf_updBoot_ne _ _ hq⟩
    exact congrArg Boot.keys (bootOf_updBoot ..)
  · rw [hk] at hexec
    exact ⟨_, hexec⟩
  · rw [hk] at hexec
    dsimp only at hexec
    rw [if_pos hlen] at hexec
    exact ⟨_, hexec⟩

theorem clearBootRecordAlternatives_does (c : Call) (s : State) :
    ∃ (t : State) (w : Word), exec (.clearBootRecordAlternatives c) s = replies t 0 w ∧ t.t = s.t ∧
      t.home = s.home ∧ (∀ q ≠ c.pkg, bootOf t q = bootOf s q) ∧
      ∀ e ∈ (bootOf t c.pkg).record.flatten, ∀ u ∈ e.units, u.ok = true → u.setting = 0 := by
  refine ⟨(clearService c s).s, resultWord (clearService c s), ?_, rfl, rfl, fun q hq => bootOf_updBoot_ne _ _ hq, ?_⟩
  · change callService 0x61 c s = _
    exact callService_answers (a := clearService c s) rfl
  · intro e he u hu hok
    have hrec := congrArg Boot.record (bootOf_updBoot s c.pkg fun b => { b with record := b.record.map fun l => l.map fun e =>
      { e with units := e.units.map fun u => if u.ok then { u with setting := 0 } else u } })
    change (bootOf (clearService c s).s c.pkg).record = _ at hrec
    rw [hrec, List.mem_flatten] at he
    obtain ⟨l, hl, he⟩ := he
    obtain ⟨l0, _, rfl⟩ := List.mem_map.1 hl
    obtain ⟨e0, _, rfl⟩ := List.mem_map.1 he
    obtain ⟨u0, _, rfl⟩ := List.mem_map.1 hu
    split at hok
    · next h => rw [if_pos h]
    · next h => exact absurd hok h

/-! ## svc (R193) -/

/-- The call that a thread makes by svc. -/
def svcCall (s : State) : Call :=
  { part := s.t.part, pkg := pkgOf s.t.core, core := dieOf s.t.core % 8 * 2, a0 := getS s 10, a1 := getS s 11, a2 := getS s 12,
    a3 := getS s 13, frames := [], tables := [], bytes := [] }

theorem svc_answers (o : QI) {s : State} {a : Answer} (hx : xBusy s = false)
    (h : (if knownService o.imm.toNat && !svcAllowed o.imm.toNat then some (deniedCall (drainMatrix s))
      else service true o.imm.toNat (svcCall (drainMatrix s)) (drainMatrix s)) = some a) :
    exec (.svc o) s =
      .next (passed (setS (setS { a.s with fresh := a.s.fresh + 1 } 10 (BitVec.ofNat 64 a.status)) 11 (resultWord a))) := by
  change execSvc o s = _
  unfold execSvc
  refine accessOp_ok (settledFor_of_idle hx []) ?_
  rw [if_neg (by simp [hx])]
  change (match (if knownService o.imm.toNat && !svcAllowed o.imm.toNat then some (deniedCall (drainMatrix s))
      else service true o.imm.toNat (svcCall (drainMatrix s)) (drainMatrix s)) with
    | none => _
    | some a => _) = _
  rw [h]

theorem svc_does (o : QI) (s : State) (hx : xBusy s = false) :
    let s0 := drainMatrix s
    (knownService o.imm.toNat = true → svcAllowed o.imm.toNat = false →
      exec (.svc o) s = .next (passed (setS (setS { s0 with fresh := s0.fresh + 1 } 10 5) 11 (Config.freeWord s0.fresh)))) ∧
    (o.imm = 0 → exec (.svc o) s = .next (passed (setS (setS { s0 with fresh := s0.fresh + 1 } 10 0) 11 Config.horsilRelease))) ∧
    (knownService o.imm.toNat = false → exec (.svc o) s = .next (passed (setS (setS { s0 with fresh := s0.fresh + 1 } 10 1) 11 0))) ∧
    (∀ a, svcAllowed o.imm.toNat = true → service true o.imm.toNat (svcCall s0) s0 = some a →
      exec (.svc o) s = .next (passed (setS (setS { a.s with fresh := a.s.fresh + 1 } 10 (BitVec.ofNat 64 a.status)) 11 (resultWord a)))) := by
  intro s0
  refine ⟨fun hk ha => svc_answers o (a := deniedCall s0) hx (by simp [hk, ha, s0]), fun h0 => svc_answers o (a := okay (some Config.horsilRelease) s0) hx ?_,
    fun hk => svc_answers o (a := { status := 1, result := some 0, s := s0 }) hx ?_, fun a ha hs => svc_answers o hx ?_⟩
  · rw [h0]
    rfl
  · rw [hk]
    exact service_unknown hk true _ _
  · rw [if_neg (by simp [ha])]
    exact hs

/-- Settles O50: the conjunction of what each service does, proved above one by one. -/
theorem horsilServices : Obligations.HorsilServices :=
  ⟨fun c s => callService_answers (n := 0) (c := c) (a := okay (some Config.horsilRelease) s) rfl,
    fun n c s h => callService_answers (n := n.toNat) (a := { status := 1, result := some 0, s := s }) (service_unknown h false c s),
    launch_does, waitForLaunch_does, poolCreate_does, poolEnd_does, tetherGrant_does, tetherRevoke_does,
    fun c s hl hp hr hg hq hfree _ hf => mapMemory_does c s hl hp hr hg hq hfree fun f h => (hf f h).1, unmap_does, log_does,
    attestationQuote_does, enrolSigningKey_does, clearBootRecordAlternatives_does, svc_does⟩

end Sys2Proof.Machine
end

section
namespace Sys2Proof.Machine

/-! ## Matrix instructions that pass their checks, wait or are refused (R80, R296) -/

theorem executeBody_trap {k : StartRule} {s s1 : State} {f : State → Res} {tr : Trap} (h : runsNow k s) (hf : f s = .trap tr s1) :
    executeBody k f s = .trap tr (faultX k tr s1) := by
  obtain ⟨_, hlane, hwhole⟩ := h
  unfold executeBody
  rw [if_neg, if_neg, hf]
  · rintro ⟨hk, h0⟩
    exact h0 (hwhole hk)
  · rintro ⟨hk, hsome, hnone⟩
    rcases hlane with h | h | h
    · exact hk h
    · simp [h] at hsome
    · simp [laneOf, Option.isNone_iff_eq_none.1 hnone] at h

/-- The fault of an instruction whose turn has come, other than a page fault, is taken at once. -/
theorem executeOp_traps {rd : List (BitVec 5)} {k : StartRule} {s s1 : State} {f : State → Res} {tr : Trap} (h : runsNow k s)
    (hf : f s = .trap tr s1) (h5 : tr.cls ≠ 0x05) : executeOp rd k f s = .next { takeTrap tr (faultX k tr s1) with stalled := false } := by
  have hb := executeBody_trap h hf
  unfold executeOp executeWith
  by_cases hx : s.t.xctx.isSome = true
  · rw [if_pos hx, hb]
    simp only [finish, Option.isSome_iff_ne_none] at hx ⊢
    rw [if_neg (by simp [hx])]
    rfl
  · obtain ⟨hx' | ⟨hq, hd⟩, _, _⟩ := h
    · exact absurd hx' hx
    · rw [if_neg hx, if_neg (by rw [not_pending (settledFor_of_idle hq rd)]; exact Bool.false_ne_true), if_neg (by simp [hq]), if_neg (by omega)]
      simp only [popQueue, hb]
      rw [finish_trap hq, if_neg h5]
      rfl

/-- An illegal instruction leaves vstart as it was (R439). -/
theorem faultX_illegal {k : StartRule} {s : State} {tr : Trap} (hc : tr.cls = 0x01) : faultX k tr s = stopAt none s := by
  simp only [faultX, hc, true_or, or_true, if_true]

theorem executeOp_illegal {rd : List (BitVec 5)} {k : StartRule} {s s1 : State} {f : State → Res} {tr : Trap} (h : runsNow k s)
    (hf : f s = .trap tr s1) (hc : tr.cls = 0x01) :
    executeOp rd k f s = .next { takeTrap tr (stopAt none s1) with stalled := false } := by
  rw [executeOp_traps h hf (by rw [hc]; decide), faultX_illegal hc]

/-- A queued instruction whose body waits stands marked as waiting, with what its body has noted. -/
theorem executeWith_stalls_queued {pop : Option Nat} {rd : List (BitVec 5)} {k : StartRule} {s s1 : State} {f : Word → State → Res}
    (h : runsNow k s) (hx : s.t.xctx.isSome = true) (hf : f (poppedValue s) s = .stall s1) :
    executeWith pop rd k f s = .next { s1 with stalled := true } := by
  unfold executeWith
  rw [if_pos hx, executeBody_stall h hf]
  rfl

theorem matrixOp_ok {rd : List (BitVec 5)} {s s1 : State} {f : State → Res} (h : matrixNow s) (hf : f s = .ok s1) :
    matrixOp rd f s = .next (committed .ignore s1) := by
  obtain ⟨hrun, hcore, _⟩ := h
  refine executeOp_ok hrun ?_
  rw [if_neg (by simp [hcore]), hf]

theorem heldOp_ok {rd : List (BitVec 5)} {s s1 : State} {c : MatCheck} {f : MatCheck → State → Res} (h : matrixNow s)
    (hc : s.t.mchk = some c) (hf : f c s = .ok s1) : heldOp rd f s = .next (committed .ignore s1) := by
  refine matrixOp_ok h ?_
  rw [hc]
  exact hf

theorem heldOp_illegal {rd : List (BitVec 5)} {s s1 : State} {c : MatCheck} {f : MatCheck → State → Res} {tr : Trap} (h : matrixNow s)
    (hc : s.t.mchk = some c) (hf : f c s = .trap tr s1) (ht : tr.cls = 0x01) :
    heldOp rd f s = .next { takeTrap tr (stopAt none s1) with stalled := false } := by
  obtain ⟨hrun, hcore, _⟩ := h
  refine executeOp_illegal hrun ?_ ht
  rw [if_neg (by simp [hcore])]
  simp only [hc, hf]

/-- Outside matrix mode or on a V-core an instruction that needs it is illegal (R296). -/
theorem heldOp_outside {rd : List (BitVec 5)} {s : State} (f : MatCheck → State → Res) (h : runsNow .ignore s)
    (ho : isVCore s.t.core = true ∨ s.t.mchk = none) :
    heldOp rd f s = .next { takeTrap (mkTrap 0x01 ((curHead s).1.setWidth 64)) (stopAt none s) with stalled := false } := by
  refine executeOp_illegal h ?_ rfl
  by_cases hv : isVCore s.t.core = true
  · rw [if_pos hv]
    rfl
  · rw [if_neg hv]
    simp only [ho.resolve_left hv]
    rfl

theorem tileOp_ok {ta : Nat} {rd : List (BitVec 5)} {s s1 : State} {c : MatCheck} {sh : TileShape} {f : TileShape → State → Res}
    (h : matrixNow s) (hc : s.t.mchk = some c) (ht : c.tiles.getD ta none = some sh) (hf : f sh s = .ok s1) :
    tileOp ta rd f s = .next (committed .ignore s1) := by
  refine heldOp_ok h hc ?_
  rw [ht]
  exact hf

/-- With room in the queue an instruction is posted (R80). -/
theorem post_of_room {s : State} (h : s.t.mq.length < 256) (op : MatOp) : post op s = .ok (posted op s) := by
  unfold post
  rw [if_neg (by omega)]
  rfl

theorem postWrite_ok {s s1 : State} {vd : Nat} (op : MatOp) (n : Nat) (hs : sourcesAt [] [vd] none s s1) (hd : plainDest [vd] s1)
    (h : s1.t.mq.length < 256) : postWrite op vd n s = .ok (consumeSources [] (posted op s1)) := by
  refine vecFrame_ok hs _ ?_ hd
  have hb : (posted op s1).t.binds.any (fun b => b.store && b.vd == vd) = false := by
    rw [List.any_eq_false]
    intro b hb
    simpa using hd b hb
  rw [post_of_room h]
  simp only [Res.map, hb]
  rfl

/-! ## Matrix mode (R301, R302) -/

theorem takeMode_ok {s : State} (h : s.t.mq.length < 256) (ty : Nat) : takeMode ty s =
    .ok ((posted (.mmode ty) s).updT fun t => { t with mchk := some (MatCheck.start ty), mwait := 0 }) := by
  unfold takeMode
  rw [post_of_room h]
  rfl

theorem mmode_holds (o : WX) (s : State) (h : matrixNow s) (hc : s.t.mchk = none) (he : s.t.mexiting = false)
    (hp : (holders s s.t.core).contains s.t.uid = true) : exec (.mmode o) s = .next (committed .ignore
      ((posted (.mmode o.ty.toNat) s).updT fun t => { t with mchk := some (MatCheck.start o.ty.toNat), mwait := 0 })) := by
  change execMmode o s = _
  unfold execMmode
  refine matrixOp_ok h ?_
  simp only [hc, he, hp, Option.isSome_none, Bool.false_eq_true, if_false, if_true]
  exact takeMode_ok h.2.2 _

/-- The mmode that waits alone on its core takes a free place. -/
theorem grantMatrix_alone {s : State} (hfree : (holders s s.t.core).length < 2) (hrun : s.t.status = .running) (hwait : s.t.mwait ≠ 0)
    (halone : ∀ t ∈ s.parked, t.core = s.t.core → t.mwait = 0) :
    grantMatrix s s.t.core = { s with granted := s.granted ++ [(s.t.core, s.t.uid)], t := { s.t with mwait := 0 } } := by
  have hparked : s.parked.filter (fun t => t.core == s.t.core && t.mwait != 0 && t.status == .running) = [] := by
    rw [List.filter_eq_nil_iff]
    intro t ht
    by_cases hc : t.core = s.t.core
    · simp [halone t ht hc]
    · simp [hc]
  have hself : (s.t.core == s.t.core && s.t.mwait != 0 && s.t.status == .running) = true := by simp [hwait, hrun]
  have hnext : nextWaiter s s.t.core = some s.t := by
    unfold nextWaiter matrixWaiters allThreads
    rw [List.filter_cons, if_pos hself, hparked]
    rfl
  unfold grantMatrix
  rw [if_neg (by omega), hnext]
  simp [updThread, State.updT]

/-- mmode's body with no place held and no mmode of its own before it: it waits for a place, or takes one. -/
theorem mmode_takes (o : WX) (s : State) (h : matrixNow s) (hc : s.t.mchk = none) (he : s.t.mexiting = false)
    (hp : (holders s s.t.core).contains s.t.uid = false) (hfree : (holders s s.t.core).length < 2) (hrun : s.t.status = .running)
    (halone : ∀ t ∈ s.parked, t.core = s.t.core → t.mwait = 0) :
    ∃ t, exec (.mmode o) s = .next t ∧ t.granted = s.granted ++ [(s.t.core, s.t.uid)] ∧ t.t.mq = s.t.mq ++ [.mmode o.ty.toNat] ∧
      t.t.mchk = some (MatCheck.start o.ty.toNat) ∧ t.t.v = s.t.v := by
  let w := if s.t.mwait = 0 then s.cycle + 1 else s.t.mwait
  let s2 := s.updT fun t => { t with mwait := w }
  let s3 := { s with granted := s.granted ++ [(s.t.core, s.t.uid)], t := { s.t with mwait := 0 } }
  have hs2 : (if s.t.mwait = 0 then s.updT fun t => { t with mwait := s.cycle + 1 } else s) = s2 := by
    by_cases hw : s.t.mwait = 0
    · simp [s2, w, hw]
    · simp [s2, w, hw, State.updT]
  have hw : w ≠ 0 := by
    unfold w
    split <;> omega
  have hs3 : grantMatrix s2 s2.t.core = s3 := grantMatrix_alone (s := s2) hfree hrun hw halone
  have hin : (holders s3 s3.t.core).contains s3.t.uid = true := by simp [holders, s3]
  refine ⟨committed .ignore ((posted (.mmode o.ty.toNat) s3).updT fun t => { t with mchk := some (MatCheck.start o.ty.toNat), mwait := 0 }), ?_, ?_⟩
  · change execMmode o s = _
    unfold execMmode
    refine matrixOp_ok h ?_
    simp only [hc, he, hp, hs2, hs3, hin, Option.isSome_none, Bool.false_eq_true, if_false, if_true]
    exact takeMode_ok (s := s3) h.2.2 _
  · rw [committed_eq]
    exact ⟨rfl, rfl, rfl, rfl⟩

/-- Without a free place a queued mmode waits (R301). -/
theorem mmode_waits (o : WX) (s : State) (h : matrixNow s) (hc : s.t.mchk = none) (he : s.t.mexiting = false)
    (hp : (holders s s.t.core).contains s.t.uid = false) (hfull : 2 ≤ (holders s s.t.core).length) (hx : s.t.xctx.isSome = true) :
    ∃ t, exec (.mmode o) s = .next t ∧ t.stalled = true ∧ t.granted = s.granted ∧ t.t.mchk = none := by
  obtain ⟨w, hw⟩ : ∃ w, (if s.t.mwait = 0 then s.updT fun t => { t with mwait := s.cycle + 1 } else s) =
      s.updT fun t => { t with mwait := w } := by
    by_cases hw : s.t.mwait = 0
    · exact ⟨s.cycle + 1, by rw [if_pos hw]⟩
    · exact ⟨s.t.mwait, by rw [if_neg hw]; rfl⟩
  let s2 := s.updT fun t => { t with mwait := w }
  have hs3 : grantMatrix s2 s2.t.core = s2 := if_pos hfull
  refine ⟨{ s2 with stalled := true }, ?_, rfl, rfl, hc⟩
  change execMmode o s = _
  unfold execMmode matrixOp
  refine executeWith_stalls_queued h.1 hx (s1 := s2) ?_
  have hp2 : (holders s2 s2.t.core).contains s2.t.uid = false := hp
  simp only [h.2.1, hc, he, hp, hw, Option.isSome_none, Bool.false_eq_true, if_false]
  change (if (holders (grantMatrix s2 s2.t.core) (grantMatrix s2 s2.t.core).t.core).contains (grantMatrix s2 s2.t.core).t.uid = true then _
    else Res.stall (grantMatrix s2 s2.t.core)) = _
  rw [hs3, if_neg (by rw [hp2]; exact Bool.false_ne_true)]

theorem mmodeGrant_does (core : Nat) (s : State) (hfree : (holders s core).length < 2) :
    (nextWaiter s core = none → exec (.mmodeGrant core) s = .next { s with stalled := false }) ∧
    ∀ w, nextWaiter s core = some w → ∃ t, exec (.mmodeGrant core) s = .next t ∧ t.granted = s.granted ++ [(core, w.uid)] := by
  have heq : exec (.mmodeGrant core) s = .next { grantMatrix s core with stalled := false } := rfl
  rw [heq]
  unfold grantMatrix
  rw [if_neg (by omega)]
  refine ⟨fun hn => by rw [hn], fun w hw => ⟨_, rfl, ?_⟩⟩
  rw [hw]
  dsimp only [updThread]
  split <;> rfl

theorem mexit_does (o : WX) (s : State) (h : matrixNow s) :
    exec (.mexit o) s = .next (committed .ignore (if s.t.mchk = none then s
      else (posted .mexit s).updT fun t => { t with mchk := none, mexiting := true })) := by
  change execMexit o s = _
  unfold execMexit
  refine matrixOp_ok h ?_
  by_cases hc : s.t.mchk = none
  · rw [if_pos hc, if_pos (by simp [hc])]
  · rw [if_neg hc, if_neg (by simp [hc]), post_of_room h.2.2]
    rfl

/-! ## Tiles (R303 to R306) -/

theorem extractLsb'_eq_zero_iff_lt (g : Word) : g.extractLsb' 15 49 = 0 ↔ g.toNat < 2 ^ 15 := by
  rw [← BitVec.toNat_inj, BitVec.extractLsb'_toNat, Nat.shiftRight_eq_div_pow]
  change g.toNat / 2 ^ 15 % 2 ^ 49 = 0 ↔ _
  have := g.isLt
  omega

/-- The words that hold a shape: bits 0 to 6 and 8 to 14 (R304). -/
theorem shapeWord_iff (g : Word) : g &&& 0x7F7F = g ↔ g.getLsbD 7 = false ∧ g.extractLsb' 15 49 = 0 := by
  constructor
  · intro h
    refine ⟨?_, BitVec.eq_of_getLsbD_eq fun i hi => ?_⟩
    · rw [← h]
      simp
    · have hm : (0x7F7F : Word).getLsbD (15 + i) = false := Nat.testBit_lt_two_pow (Nat.lt_of_lt_of_le (by decide : 0x7F7F < 2 ^ 15) (Nat.pow_le_pow_right (by decide) (by omega)))
      rw [BitVec.getLsbD_extractLsb', ← h, BitVec.getLsbD_and, hm]
      simp
  · rintro ⟨h7, hhigh⟩
    refine BitVec.eq_of_getLsbD_eq fun i hi => ?_
    rw [BitVec.getLsbD_and]
    by_cases hl : i < 15
    · have h7' : g[7] = false := h7
      interval_cases i <;> simp [h7']
    · have hb : g.getLsbD i = false := by
        have := congrArg (fun x : BitVec 49 => x.getLsbD (i - 15)) hhigh
        simp only [BitVec.getLsbD_extractLsb'] at this
        rw [show 15 + (i - 15) = i by omega] at this
        simpa [show i - 15 < 49 by omega] using this
      simp [hb]

theorem shapeWord_fields {g : Word} (h : g.extractLsb' 15 49 = 0) :
    (g.extractLsb' 0 7).toNat = g.toNat % 128 ∧ (g.extractLsb' 8 7).toNat = g.toNat / 256 := by
  rw [extractLsb'_eq_zero_iff_lt] at h
  simp only [BitVec.extractLsb'_toNat, Nat.shiftRight_eq_div_pow]
  omega

/-- A tile's configuration as the checks of younger instructions see it. -/
theorem setTileCheck_eq (s : State) (ta : Nat) (x : Option TileShape) : setTileCheck s ta x = s.updT fun t =>
    { t with mchk := t.mchk.map fun k => { k with tiles := k.tiles.setIfInBounds ta x } } := rfl

section
variable {o : WX} {s : State} {c : MatCheck} (h : matrixNow s) (hc : s.t.mchk = some c)
include h hc

theorem tcfg_posts (hg : getS s o.sk &&& 0x7F7F = getS s o.sk) (hty : modeTy o.ty.toNat = true)
    (hsh : shapeOk o.ty.toNat ((getS s o.sk).toNat % 128) ((getS s o.sk).toNat / 256) = true) :
    let sh : TileShape := { ty := o.ty.toNat, nr := (getS s o.sk).toNat % 128, nc := (getS s o.sk).toNat / 256 }
    exec (.tcfg o) s = .next (committed .ignore ((posted (.tcfg o.ta.toNat sh) s).updT fun t =>
      { t with mchk := t.mchk.map fun k => { k with tiles := k.tiles.setIfInBounds o.ta.toNat (some sh) } })) := by
  obtain ⟨h7, hhigh⟩ := (shapeWord_iff _).1 hg
  obtain ⟨hnr, hnc⟩ := shapeWord_fields hhigh
  intro sh
  refine heldOp_ok h hc ?_
  dsimp only
  rw [hnr, hnc, if_neg (by rw [h7]; simp [hhigh, hty, hsh]), post_of_room h.2.2]
  rfl

theorem tcfg_refuses (hbad : getS s o.sk &&& 0x7F7F ≠ getS s o.sk ∨ modeTy o.ty.toNat = false ∨
      shapeOk o.ty.toNat ((getS s o.sk).toNat % 128) ((getS s o.sk).toNat / 256) = false) :
    exec (.tcfg o) s = .next { takeTrap (mkTrap 0x01 (getS s o.sk)) (stopAt none s) with stalled := false } := by
  refine heldOp_illegal h hc ?_ rfl
  refine if_pos ?_
  by_cases hg : getS s o.sk &&& 0x7F7F = getS s o.sk
  · obtain ⟨hnr, hnc⟩ := shapeWord_fields ((shapeWord_iff _).1 hg).2
    rw [hnr, hnc]
    exact .inr (.inr (hbad.resolve_left (not_not_intro hg)))
  · by_cases h7 : (getS s o.sk).getLsbD 7 = true
    · exact .inl h7
    · exact .inr (.inl fun hhigh => hg ((shapeWord_iff _).2 ⟨Bool.eq_false_iff.2 h7, hhigh⟩))

theorem trel_posts : exec (.trel o) s = .next (committed .ignore ((posted (.trel o.ta.toNat) s).updT fun t =>
    { t with mchk := t.mchk.map fun k => { k with tiles := k.tiles.setIfInBounds o.ta.toNat none } })) := by
  refine heldOp_ok h hc ?_
  rw [post_of_room h.2.2]
  rfl

theorem acczero_posts : exec (.acczero o) s = .next (committed .ignore (posted (.acczero o.ad.toNat) s)) :=
  heldOp_ok h hc (post_of_room h.2.2 _)

theorem tmvr_posts {sh : TileShape} {s1 : State} (ht : c.tiles.getD o.ta.toNat none = some sh) (hty : tileTypeOk sh.ty o.ty.toNat = true)
    (hr : (getS s o.sk).toNat < sh.nr) (hs : sourcesAt [o.vs.toNat] [] none s s1) (hroom : s1.t.mq.length < 256) :
    exec (.tmvr o) s = .next (committed .ignore (consumeSources [o.vs.toNat] (posted (.tmvr o.ta.toNat o.ty.toNat (getS s o.sk).toNat
      s1.t.ctl.vl (getV s1 o.vs.toNat) (frmMode s1) (vtSat s1)) s1))) := by
  refine tileOp_ok h hc ht ?_
  dsimp only
  rw [if_neg (by omega), if_neg (by simp [hty])]
  exact vecFrame_ok hs _ (post_of_room hroom _) (plainDest_nil _)

theorem tmvc_posts {sh : TileShape} {s1 : State} (ht : c.tiles.getD o.ta.toNat none = some sh) (hty : tileTypeOk sh.ty o.ty.toNat = true)
    (hcol : (getS s o.sk).toNat < sh.nc) (hnr : sh.nr ≤ 8192 / typeWidth o.ty.toNat) (hs : sourcesAt [] [o.vs.toNat] none s s1)
    (hd : plainDest [o.vs.toNat] s1) (hroom : s1.t.mq.length < 256) :
    exec (.tmvc o) s = .next (committed .ignore (consumeSources [] (posted (.tmvc o.vs.toNat o.ta.toNat o.ty.toNat (getS s o.sk).toNat
      (frmMode s) (vtSat s) (vtTp s)) s1))) := by
  refine tileOp_ok h hc ht ?_
  dsimp only
  rw [if_neg (by omega), if_neg (by simp [hty, hnr])]
  exact postWrite_ok _ _ hs hd hroom

theorem tst_posts {sh : TileShape} {rows : List (List (Nat × Nat))} {s1 : State} (ht : c.tiles.getD o.ta.toNat none = some sh)
    (hty : o.ty.toNat = sh.ty)
    (hrows : storeRows (getS s o.sk) (rowStride s o.vs sh) (rowSize sh) (List.range sh.nr) s = .ok rows s1) (hroom : s1.t.mq.length < 256) :
    exec (.tst o) s = .next (committed .ignore (posted (.tst o.ta.toNat rows) s1)) := by
  refine tileOp_ok h hc ht ?_
  rw [if_neg (by simp [hty]), hrows]
  exact post_of_room hroom _

/-! ## Outer products (R309, R312) -/

theorem outerProduct_posts (neg sparse : Bool) {x y : TileShape} (hx : c.tiles.getD o.ta.toNat none = some x)
    (hy : c.tiles.getD o.tb.toNat none = some y) (hty : o.ty.toNat = c.mtype) (hxt : x.ty = c.mtype) (hyt : y.ty = c.mtype)
    (hnr : x.nr ≤ mvlOf c.mtype) (hnc : y.nc ≤ mvlOf c.mtype) (hb : isBfp c.mtype = true → y.nr = 16)
    (hk : if sparse then x.nc = ((List.range y.nr).filter fun k => (getM s o.msk.toNat).getLsbD k).length ∨
      ((List.range y.nr).filter fun k => (getM s o.msk.toNat).getLsbD k).length = 0 else x.nc = y.nr) :
    outerProduct o neg sparse s = .next (committed .ignore (posted (.mop o.ad.toNat o.ta.toNat o.tb.toNat neg
      (if sparse then some ((getM s o.msk.toNat).toNat % 2 ^ y.nr) else none) (if isBfp c.mtype then getE s o.sk.toNat else 0)
      (if isBfp c.mtype then getE s o.vs.toNat else 0) (frmMode s)) s)) := by
  refine heldOp_ok h hc ?_
  dsimp only
  rw [hx, hy]
  dsimp only
  rw [if_neg (by omega), if_neg, if_neg, if_neg, post_of_room h.2.2, hty]
  · rintro ⟨hsp, h0, hne⟩
    rw [if_pos hsp] at hk
    exact hk.elim hne h0
  · rintro ⟨hbf, hne⟩
    exact hne (hb (hty ▸ hbf))
  · rintro ⟨hsp, hne⟩
    rw [hsp] at hk
    exact hne hk

/-! ## Folios (R307, R315) and accumulators (R313, R314) -/

end

/-- A folio reference that passes its checks (R307, R315). -/
theorem folioRows_ok {a : Word} {sp : Nat → Bool} {rows n al : Nat} {st : Int} {rd : Bool} {f : FolioEntry → Nat → State → Res} {s : State}
    {e : FolioEntry} (ha : a.toNat < 2 ^ 26) (hn : nameFolio s (a.toNat / 2 ^ 22) = .ready e) (hsp : sp e.space = true)
    (hd : a.toNat % 2 ^ 22 % al = 0) (hst : st % (al : Int) = 0)
    (hin : ∀ r < rows, 0 ≤ ((a.toNat % 2 ^ 22 : Nat) : Int) + r * st ∧ ((a.toNat % 2 ^ 22 : Nat) : Int) + r * st + n ≤ e.size)
    (hp : rd = true → s.poison = []) :
    folioRows a sp rows n al st rd f s = f e (a.toNat % 2 ^ 22) s := by
  have hhigh : a.extractLsb' 26 38 = 0 := by
    apply BitVec.eq_of_toNat_eq
    rw [BitVec.extractLsb'_toNat, Nat.shiftRight_eq_div_pow, Nat.div_eq_of_lt ha]
    rfl
  have hoff : (a.extractLsb' 0 22).toNat = a.toNat % 2 ^ 22 := by
    rw [BitVec.extractLsb'_toNat, Nat.shiftRight_zero]
  have hhandle : (a.extractLsb' 22 4).toNat = a.toNat / 2 ^ 22 := by
    rw [BitVec.extractLsb'_toNat, Nat.shiftRight_eq_div_pow]
    omega
  unfold folioRows
  rw [hoff, hhandle]
  dsimp only
  rw [if_neg (not_not_intro hhigh), hn]
  dsimp only
  have hfind : ((List.range rows).find? fun r : Nat => decide (((a.toNat % 2 ^ 22 : Nat) : Int) + (r : Int) * st < 0 ∨
      (e.size : Int) < ((a.toNat % 2 ^ 22 : Nat) : Int) + (r : Int) * st + n)) = none := by
    rw [List.find?_eq_none]
    intro r hr
    obtain ⟨h0, h1⟩ := hin r (List.mem_range.1 hr)
    simp only [decide_eq_true_eq]
    omega
  have hclean : (if rd then (List.range rows).find? fun r : Nat =>
      poisoned s (e.key (((a.toNat % 2 ^ 22 : Nat) : Int) + (r : Int) * st).toNat) n else none) = none := by
    cases rd with
    | false => rfl
    | true => simp [poisoned, hp rfl]
  rw [if_neg (by simp [hsp]), hfind]
  dsimp only
  rw [if_neg (by rw [hd]; simp [hst]), hclean]

section
variable {o : WX} {s : State} {c : MatCheck} (h : matrixNow s) (hc : s.t.mchk = some c)
include h hc

theorem tld_posts {sh : TileShape} {e : FolioEntry} (ht : c.tiles.getD o.ta.toNat none = some sh) (hty : o.ty.toNat = sh.ty)
    (ha : (getS s o.sk).toNat < 2 ^ 26) (hn : nameFolio s ((getS s o.sk).toNat / 2 ^ 22) = .ready e) (hsp : e.space ≠ 2)
    (hp : s.poison = []) :
    let d := (getS s o.sk).toNat % 2 ^ 22
    let st := rowStride s o.vs sh
    let al := if isBfp sh.ty then rowSize sh else tileWidth sh.ty / 8
    d % al = 0 → st % (al : Int) = 0 → (∀ r < sh.nr, 0 ≤ (d : Int) + r * st ∧ (d : Int) + r * st + rowSize sh ≤ e.size) →
      exec (.tld o) s = .next (committed .ignore (posted (.tld o.ta.toNat (e.key d) st) s)) := by
  intro d st al hd hst hin
  refine tileOp_ok h hc ht ?_
  rw [if_neg (by simp [hty])]
  rw [folioRows_ok ha hn (by simpa using hsp) hd hst hin fun _ => hp]
  exact post_of_room h.2.2 _

/-- An accumulator's rows lie in a buffer that holds them all. -/
theorem accFolio_posts {rd : Bool} {f : FolioEntry → Nat → State → Res} {op : MatOp} {e : FolioEntry}
    (ha : (getS s o.sk).toNat < 2 ^ 26) (hn : nameFolio s ((getS s o.sk).toNat / 2 ^ 22) = .ready e) (hsp : e.space = 2)
    (hp : rd = true → s.poison = []) :
    let d := (getS s o.sk).toNat % 2 ^ 22
    let n := mvlOf c.mtype
    let cb := typeWidth (cellTy c.mtype) / 8
    d % cb = 0 → d + n * n * cb ≤ e.size → f e d s = post op s → accFolio o rd f s = .next (committed .ignore (posted op s)) := by
  intro d n cb hd hin hf
  refine heldOp_ok h hc ?_
  have hst : ((n * cb : Nat) : Int) % (cb : Int) = 0 := by
    rw [Nat.cast_mul]
    exact Int.mul_emod_left ..
  refine (folioRows_ok ha hn (by simp [hsp]) hd hst (fun r hr => ?_) hp).trans (hf.trans (post_of_room h.2.2 op))
  have hrow : r * (n * cb) + n * cb ≤ n * n * cb := by
    have := Nat.mul_le_mul_right (n * cb) (Nat.succ_le_of_lt hr)
    rw [Nat.succ_mul] at this
    rw [Nat.mul_assoc]
    exact this
  have hend : d + r * (n * cb) + n * cb ≤ e.size := by omega
  exact ⟨by positivity, by exact_mod_cast hend⟩

theorem accRow_ok {f : Nat → Nat → State → Res} {s1 : State} (hr : (getS s o.sk).toNat < mvlOf c.mtype) (hlo : 0x0A ≤ o.ty.toNat)
    (hhi : o.ty.toNat ≤ 0x0D) (hfit : mvlOf c.mtype ≤ 8192 / typeWidth o.ty.toNat)
    (hf : f (getS s o.sk).toNat (mvlOf c.mtype) s = .ok s1) : accRow o f s = .next (committed .ignore s1) := by
  refine heldOp_ok h hc ?_
  dsimp only
  rw [if_neg (by omega), if_neg (by omega), hf]

theorem accmv_posts {s1 : State} (hr : (getS s o.sk).toNat < mvlOf c.mtype) (hlo : 0x0A ≤ o.ty.toNat) (hhi : o.ty.toNat ≤ 0x0D)
    (hfit : mvlOf c.mtype ≤ 8192 / typeWidth o.ty.toNat) (hs : sourcesAt [] [o.vs.toNat] none s s1) (hd : plainDest [o.vs.toNat] s1)
    (hroom : s1.t.mq.length < 256) :
    exec (.accmv o) s = .next (committed .ignore (consumeSources [] (posted (.accmv o.vs.toNat o.ad.toNat o.ty.toNat (getS s o.sk).toNat
      (frmMode s) (vtSat s) (vtTp s)) s1))) := by
  change execAccmv o s = _
  unfold execAccmv
  refine accRow_ok h hc hr hlo hhi hfit ?_
  exact postWrite_ok _ _ hs hd hroom

end

/-- With nothing posted no source or destination waits for posted work. -/
theorem settleFrame_of_empty (srcs dsts : List Nat) {s : State} (hq : s.t.mq = []) : settleFrame srcs dsts s = s := by
  have hr : settleRegs s (srcs ++ dsts) = s := by simp [settleRegs, hq]
  have hm : settleMatrix s = s := by simp [settleMatrix, hq]
  simp only [settleFrame, hr, hm, ite_self]

theorem sourcesAt_nil_of_empty {dsts : List Nat} {dm : Option Nat} {s s1 : State} (hq : s.t.mq = []) (hs : sourcesAt [] dsts dm s s1) :
    s1 = stopAt none s := by
  obtain ⟨-, -, rfl⟩ := hs
  rw [settleFrame_of_empty _ _ hq]
  rfl

/-- What acc.peek writes of a row: the values read, with their flags and the steps shown. -/
def rowPeeked (o : WX) (r n : Nat) (u : MatUnit) (s : State) : State :=
  let q := queueStates s.t.mq.length s
  let cells := (List.range n).map fun j => peekCell s u q o.ad.toNat r j
  let cv := fun (j : Nat) => convertElem o.ty.toNat (cellTy u.mtype) (frmMode s) (vtSat s) (cells.getD j (0, 0)).1
  let fl := (List.range n).foldl (fun a j => a ||| (cv j).2) (0 : Fl)
  let s3 := raise (writeRow { s with fresh := s.fresh + n } o.vs.toNat o.ty.toNat n (vtTp s) fun j => (cv j).1) fl
  let shown := cells.mapIdx fun j c => (floorKey o.ad.toNat r j, c.2)
  s3.updT fun t => { t with floors := shown ++ t.floors.filter fun f => !(shown.any fun x => x.1 == f.1) }

/-- Of the vector registers only the destination of acc.peek is written. -/
theorem rowPeeked_v (o : WX) (r n : Nat) (u : MatUnit) (s : State) : ∃ x, (rowPeeked o r n u s).t.v = (setV s o.vs.toNat x).t.v := by
  simp only [rowPeeked, State.updT_t, raise, orFlags, writeRow, markDirty, State.updC, setV]
  exact ⟨_, rfl⟩

theorem rowPeeked_keeps (o : WX) (r n : Nat) (u : MatUnit) (s : State) :
    (∀ q : Nat, q ≠ o.vs.toNat → getV (rowPeeked o r n u s) q = getV s q) ∧ (rowPeeked o r n u s).home = s.home ∧
      (rowPeeked o r n u s).t.mq = s.t.mq ∧ (rowPeeked o r n u s).t.binds = s.t.binds := by
  refine ⟨fun q hq => ?_, ?_⟩
  · obtain ⟨x, hx⟩ := rowPeeked_v o r n u s
    rw [getV_congr hx, getV_setV _ _ _ _ o.vs.isLt, if_neg hq]
  · simp only [rowPeeked, State.updT_t, State.updT_home, raise, orFlags, writeRow, markDirty, State.updC, setV, and_self]

section
variable {o : WX} {s : State} {c : MatCheck} (h : matrixNow s) (hc : s.t.mchk = some c)
include h hc

/-- acc.peek reads the accumulator in its turn, with no posted instruction before it. -/
theorem accPeek_does {s1 : State} (hr : (getS s o.sk).toNat < mvlOf c.mtype) (hlo : 0x0A ≤ o.ty.toNat) (hhi : o.ty.toNat ≤ 0x0D)
    (hfit : mvlOf c.mtype ≤ 8192 / typeWidth o.ty.toNat) (hq : s.t.mq = []) (hu : s.t.munit ≠ none)
    (hs : sourcesAt [] [o.vs.toNat] none s s1) (hd : plainDest [o.vs.toNat] s1) :
    ∃ t, exec (.accPeek o) s = .next t ∧ t.stalled = false ∧ (∀ q : Nat, q ≠ o.vs.toNat → getV t q = getV s1 q) ∧
      t.home = s1.home ∧ t.t.mq = s1.t.mq := by
  obtain ⟨u, hu⟩ := Option.ne_none_iff_exists'.1 hu
  have h1 := sourcesAt_nil_of_empty hq hs
  have hu1 : s1.t.munit = some u := by rw [h1]; exact hu
  obtain ⟨hv, hhome, hmq, hbinds⟩ := rowPeeked_keeps o (getS s o.sk).toNat (mvlOf c.mtype) u s1
  have hexec : exec (.accPeek o) s = .next (committed .ignore (consumeSources [] (rowPeeked o (getS s o.sk).toNat (mvlOf c.mtype) u s1))) := by
    change execAccPeek o s = _
    unfold execAccPeek
    refine accRow_ok h hc hr hlo hhi hfit ?_
    rw [hq]
    refine vecFrame_ok hs _ ?_ ?_
    · dsimp only
      rw [hu1] <;> rfl
    · rw [plainDest, hbinds]
      exact hd
  refine ⟨_, hexec, ?_, fun q hne => ?_, ?_, ?_⟩ <;> rw [committed_eq, consumeSources_nil]
  · exact (getV_congr (by rfl) q).trans (hv q hne)
  · exact hhome
  · exact hmq

end

/-- Settles O42, a lemma for each instruction: the checks of its turn pass, and it commits by posting itself (R296). -/
theorem matrixPosting : Obligations.MatrixPosting := by
  unfold Obligations.MatrixPosting
  refine ⟨fun o s h hm hx => ⟨fun hp => mmode_holds o s h hm hx hp, fun hp hroom hrun hw => mmode_takes o s h hm hx hp hroom hrun hw,
    fun hp hfull hq => mmode_waits o s h hm hx hp hfull hq⟩, fun core s hroom => mmodeGrant_does core s hroom, fun o s h => mexit_does o s h,
    fun o s c h hc => ?_, fun o s h hout => ?_⟩
  · refine ⟨fun hw hty hsh => tcfg_posts h hc hw hty hsh, fun hbad => tcfg_refuses h hc hbad, trel_posts h hc, acczero_posts h hc,
      fun x y hx hy hty hxt hyt hnr hnc hb => ?_, fun sh s1 ht hok => ?_, fun sh e ht hty ha hn hsp hp hd hst hin => ?_,
      fun sh rows s1 ht hty hrows hroom => ?_, fun s1 hr hlo hhi hfit => ⟨fun hs hd hroom => ?_, fun hq hu hs hd => ?_⟩,
      fun e ha hn hsp hd hin => ⟨?_, fun hp => ?_⟩⟩
    · exact ⟨fun hk => ⟨outerProduct_posts h hc false false hx hy hty hxt hyt hnr hnc hb hk,
        outerProduct_posts h hc true false hx hy hty hxt hyt hnr hnc hb hk⟩,
        fun hk => outerProduct_posts h hc false true hx hy hty hxt hyt hnr hnc hb hk⟩
    · exact ⟨fun hr hs hroom => tmvr_posts h hc ht hok hr hs hroom,
        fun hcol hnr hs hd hroom => tmvc_posts h hc ht hok hcol hnr hs hd hroom⟩
    · exact tld_posts h hc ht hty ha hn hsp hp hd hst hin
    · exact tst_posts h hc ht hty hrows hroom
    · exact accmv_posts h hc hr hlo hhi hfit hs hd hroom
    · exact accPeek_does h hc hr hlo hhi hfit hq hu hs hd
    · exact accFolio_posts h hc ha hn hsp (fun hf => absurd hf Bool.false_ne_true) hd hin rfl
    · exact accFolio_posts h hc ha hn hsp (fun _ => hp) hd hin rfl
  · have hbad := fun rd f => heldOp_outside (rd := rd) (f := f) h hout
    exact ⟨hbad _ _, hbad _ _, hbad _ _, hbad _ _, hbad _ _, hbad _ _, hbad _ _, hbad _ _, hbad _ _, hbad _ _, hbad _ _, hbad _ _,
      hbad _ _, hbad _ _⟩

end Sys2Proof.Machine
end

section
namespace Sys2Proof.Machine

/-! ## Scheduler events (R68, R70 to R72, R78) -/

theorem dispatchOne_none {die : Nat} {s : State} (h : ∀ r ∈ s.ready, r.die = die → placeEntry s r = none) : dispatchOne s die = none := by
  unfold dispatchOne
  rw [List.findSome?_eq_none_iff]
  intro r hr
  rw [List.mem_mergeSort, List.mem_filter, beq_iff_eq] at hr
  exact h r hr.1 hr.2

theorem dispatch_idle {die : Nat} {s : State} (h : ∀ r ∈ s.ready, r.die = die → placeEntry s r = none) :
    exec (.dispatch die) s = .next { s with stalled := false } := by
  have hall : ∀ n, dispatchAll die n s = s
    | 0 => rfl
    | n + 1 => by rw [dispatchAll, dispatchOne_none h]
  change happening (dispatchAll die s.ready.length s) = _
  rw [hall]
  rfl

/-- A die whose pool holds one entry that can be placed places it, and then has none left to place. -/
theorem dispatch_places {die : Nat} {s t : State} {r : Ready} (hr : s.ready = [r]) (hd : r.die = die) (hp : placeEntry s r = some t) :
    exec (.dispatch die) s = .next { t with stalled := false } := by
  have hone : dispatchOne s die = some t := by
    unfold dispatchOne
    simp [hr, hd, hp]
  change happening (dispatchAll die s.ready.length s) = _
  rw [hr]
  simp only [List.length_singleton, dispatchAll, hone]
  rfl

/-- A thread that stands behind the parked ones runs a change, and is then among the parked ones as the change leaves it. -/
theorem placeThread_parked {s : State} {th : Thread} {f : State → State} (hnew : ∀ x ∈ allThreads s, x.uid ≠ th.uid)
    (hf : ∀ a, (f a).parked = a.parked) :
    ∃ a : State, a.t = th ∧ (f a).t ∈ (placeThread s th f).parked := by
  have hne : s.t.uid ≠ th.uid := hnew s.t List.mem_cons_self
  have hnone : (s.parked.find? fun x => x.uid == th.uid) = none :=
    List.find?_eq_none.2 fun x hx => by simpa using hnew x (List.mem_cons_of_mem _ hx)
  have hfind : ((s.parked ++ [th]).find? fun x => x.uid == th.uid) = some th := by
    rw [List.find?_append, hnone]
    simp
  let a : State := { s with t := th, parked := updWhere (s.parked ++ [th]) (fun x => x.uid == th.uid) fun _ => s.t }
  have hmem : s.t ∈ (f a).parked := by
    rw [hf]
    refine List.mem_map.2 ⟨th, by simp, ?_⟩
    simp
  have hplace : placeThread s th f = match (f a).parked.find? fun x => x.uid == s.t.uid with
      | none => f a
      | some m => { f a with t := m, parked := updWhere (f a).parked (fun x => x.uid == s.t.uid) fun _ => (f a).t } := by
    unfold placeThread asThread
    rw [if_neg hne]
    dsimp only
    rw [hfind] <;> rfl
  refine ⟨a, rfl, ?_⟩
  rw [hplace]
  split
  · next hn => exact absurd (List.find?_eq_none.1 hn s.t hmem) (by simp)
  · next m hm =>
    refine List.mem_map.2 ⟨m, List.mem_of_find?_eq_some hm, ?_⟩
    rw [if_pos (List.find?_some hm)]

theorem launchOf_updNode {s : State} {launch : Nat} {l : Launch} (h : launchOf s launch = some l) (idx : Nat) (f : Node → Node) :
    launchOf (updNode s launch idx f) launch = some { l with nodes := updWhere l.nodes (fun n => n.index == idx) f } := by
  unfold launchOf at h ⊢
  unfold updNode updLaunch
  dsimp only
  rw [find?_updWhere, h]
  · rfl
  · exact fun _ => rfl

/-- The node starts in the lowest free slot with what R72 gives its registers. -/
theorem startNode_starts {s : State} {part launch core : Nat} {n : Node} {l : Launch} (hnew : ∀ x ∈ allThreads s, x.uid ≠ s.nextUid)
    (hf : n.folios = []) (hl : launchOf s launch = some l) :
    ∃ th ∈ (startNode s part launch n core).parked, th.uid = s.nextUid ∧ th.core = core ∧ th.slot = (freeSlots s core).headD 0 ∧
      th.status = .running ∧ th.pc = n.word 0 ∧ th.ctl = Ctl.start ∧ th.s.toList.getD 3 0 = n.word 1 ∧
      th.s.toList.getD 4 0 = BitVec.ofNat 64 n.index ∧ th.s.toList.getD 5 0 = l.args ∧ th.s.toList.getD 2 0 = stackTop s part core th.slot := by
  unfold startNode
  extract_lets slot src base s1
  have hargs : launchOf s1 launch = some { l with nodes := updWhere l.nodes (fun x => x.index == n.index) fun x => { x with state := .running } } :=
    launchOf_updNode (s := { s with nextUid := s.nextUid + 1 }) hl _ _
  have hb : base.launch = launch := rfl
  rw [hf]
  obtain ⟨a, ha, hmem⟩ := placeThread_parked (s := s1) (th := startThread s1 base core slot (n.word 0))
    (f := beginThread (([] : List (Word × Word)).map fun p => FolioSpec.dec p.1 p.2)) hnew fun _ => rfl
  refine ⟨_, hmem, ?_⟩
  have hstart : (beginThread (([] : List (Word × Word)).map fun p => FolioSpec.dec p.1 p.2) a).t =
      { startThread s1 base core slot (n.word 0) with
        snap := (snapshot a 1).t.snap, snapSeq := (snapshot a 1).t.snapSeq, own := (snapshot a 1).t.own, seen := (snapshot a 1).t.seen } := by
    rw [← ha]
    rfl
  rw [hstart]
  refine ⟨rfl, rfl, rfl, rfl, rfl, rfl, rfl, rfl, ?_, rfl⟩
  change ((launchOf s1 base.launch).map Launch.args).getD 0 = l.args
  rw [hb, hargs]
  rfl

theorem priorityAging_ages (die : Nat) (s : State) : exec (.priorityAging die) s = .next { s with
    ready := s.ready.map (fun r => if r.die = die ∧ 65536 ≤ s.cycle - r.since then { r with aged := true } else r), stalled := false } := rfl

theorem resumeListTake_moves {die : Nat} {s : State} {r : Ready} {id : Nat} {ids : List Nat} (hid : (s.parts.map Partition.resume).flatten = id :: ids)
    (hr : (s.ready.find? fun x => x.work == .resume id && takesListed s die x) = some r) :
    exec (.resumeListTake die) s = .next { takeEntry s r with
      ready := (takeEntry s r).ready ++ [{ r with die := die, listed := false, since := s.cycle }], stalled := false } := by
  change execResumeListTake die s = _
  unfold execResumeListTake
  have hfound : (id :: ids).findSome? (fun id => s.ready.find? fun r => r.work == .resume id && takesListed s die r) = some r := by
    rw [List.findSome?_cons, hr]
  rw [hid]
  dsimp only
  rw [hfound] <;> rfl

/-- A record that has waited long enough stands in its partition's resume list as well (R78). -/
def postRecord (a : State) (r : Ready) : State :=
  match r.work with
  | .resume id => { a with parts := updWhere a.parts (fun p => p.slot == r.part) fun p => { p with resume := p.resume ++ [id] } }
  | .node _ _ | .spawned _ => a

theorem postRecord_keeps (a : State) (r : Ready) : (postRecord a r).t = a.t ∧ (postRecord a r).ready = a.ready := by
  unfold postRecord
  split <;> exact ⟨rfl, rfl⟩

/-- Posting a record loses none of a resume list. -/
theorem postRecord_grows (a : State) (r : Ready) {part : Nat} {p : Partition} (hp : partOf a part = some p) :
    ∃ q, partOf (postRecord a r) part = some q ∧ p.resume ⊆ q.resume ∧ (r.part = part → ∀ id, r.work = .resume id → id ∈ q.resume) := by
  unfold partOf at hp ⊢
  unfold postRecord
  split
  · next id hid =>
    have hslot : p.slot = part := by simpa using List.find?_some hp
    have hcomp : ((fun p : Partition => p.slot == part) ∘ fun p => if p.slot == r.part then { p with resume := p.resume ++ [id] } else p) =
        fun p => p.slot == part := by
      funext p
      rw [Function.comp_apply]
      split <;> rfl
    dsimp only [updWhere]
    rw [List.find?_map, hcomp, hp, Option.map_some]
    refine ⟨_, rfl, ?_, fun hpart id' hid' => ?_⟩
    · split
      · exact List.subset_append_left ..
      · exact List.Subset.refl _
    · rw [if_pos (by simp [hslot, hpart])]
      cases hid.symm.trans hid'
      exact List.mem_append_right _ (List.mem_singleton_self _)
  · next hne => exact ⟨p, hp, List.Subset.refl _, fun _ id hid => by simp_all⟩
  · next hne => exact ⟨p, hp, List.Subset.refl _, fun _ id hid => by simp_all⟩

theorem foldl_postRecord_keeps (l : List Ready) (s : State) :
    (l.foldl postRecord s).t = s.t ∧ (l.foldl postRecord s).ready = s.ready := by
  refine foldl_keeps (fun a : State => a.t = s.t ∧ a.ready = s.ready) postRecord (fun a r ha => ?_) l s ⟨rfl, rfl⟩
  obtain ⟨ht, hready⟩ := postRecord_keeps a r
  exact ⟨ht.trans ha.1, hready.trans ha.2⟩

/-- Every record posted stands in its partition's list. -/
theorem mem_foldl_postRecord {part id : Nat} {r : Ready} (hpart : r.part = part) (hw : r.work = .resume id) : ∀ (l : List Ready) (s : State)
    (p : Partition), partOf s part = some p → r ∈ l ∨ id ∈ p.resume → ∃ q, partOf (l.foldl postRecord s) part = some q ∧ id ∈ q.resume
  | [], _, p, hp, h => ⟨p, hp, h.resolve_left List.not_mem_nil⟩
  | x :: l, s, p, hp, h => by
    obtain ⟨q, hq, hsub, hnew⟩ := postRecord_grows s x hp
    refine mem_foldl_postRecord hpart hw l _ q hq ?_
    rcases h with h | h
    · rcases List.mem_cons.1 h with rfl | h
      · exact .inr (hnew hpart id hw)
      · exact .inl h
    · exact .inr (hsub h)

theorem resumeListPost_lists {die : Nat} {s : State} {r : Ready} {id : Nat} {p : Partition} (hr : r ∈ s.ready) (hw : r.work = .resume id)
    (hd : r.die = die) (hn : r.listed = false) (hage : 16384 ≤ s.cycle - r.since) (hu : (unpinned s r).isSome = true)
    (hp : partOf s r.part = some p) :
    ∃ (t : State) (q : Partition), exec (.resumeListPost die) s = .next t ∧ t.stalled = false ∧ t.t = s.t ∧ partOf t r.part = some q ∧
      id ∈ q.resume ∧ ({ r with listed := true } : Ready) ∈ t.ready := by
  let due := fun (r : Ready) => r.die == die && !r.listed && decide (16384 ≤ s.cycle - r.since) && (unpinned s r).isSome
  let s1 := { s with ready := s.ready.map fun r => if due r then { r with listed := true } else r }
  have hdue : due r = true := by simp [due, hd, hn, hage, hu]
  have hexec : exec (.resumeListPost die) s = happening ((s.ready.filter due).foldl postRecord s1) := rfl
  obtain ⟨ht, hready⟩ := foldl_postRecord_keeps (s.ready.filter due) s1
  obtain ⟨q, hq, hid⟩ := mem_foldl_postRecord (part := r.part) rfl hw (s.ready.filter due) s1 p hp (.inl (List.mem_filter.2 ⟨hr, hdue⟩))
  refine ⟨_, q, hexec, rfl, ht, hq, hid, ?_⟩
  change _ ∈ ((s.ready.filter due).foldl postRecord s1).ready
  rw [hready]
  exact List.mem_map.2 ⟨r, hr, if_pos hdue⟩

/-- A node whose edge barrier has flipped, with no other edge open, is ready (R68). -/
theorem crossDieEdge_readies {launch node k : Nat} {s s1 : State} {l : Launch} {n : Node} (hl : launchOf s launch = some l)
    (hn : nodeOf s launch node = some n) (hcross : 0 < n.crossLeft) (hw : n.state = .waiting) (hleft : n.left = 0)
    (hk : barrierKey s (dieWho l.part n.die) (edgeAddr l node) = (.ok k, s1))
    (hph : (cbWord s1 (dieWho l.part n.die) k).testBit 63 = true) :
    ∃ t, exec (.crossDieEdge launch node) s = .next t ∧ t.stalled = false ∧ t.t = s1.t ∧
      ∃ r ∈ t.ready, r.work = .node launch node ∧ r.die = n.die := by
  have hl1 : launchOf s1 launch = some l := by
    unfold launchOf at hl ⊢
    rw [(OnlyMemory.of_barrierKey hk).launches, hl]
  have hfind : (l.nodes.find? fun x => x.index == node) = some n := by
    simpa [nodeOf, hl] using hn
  have hidx : n.index = node := by simpa using List.find?_some hfind
  have hready := makeReady_eq (launchOf_updNode hl1 node fun x => { x with crossLeft := 0 })
  have hexec : exec (.crossDieEdge launch node) s = happening (makeReady (updNode s1 launch node fun x => { x with crossLeft := 0 }) launch) := by
    change execCrossDieEdge launch node s = _
    unfold execCrossDieEdge
    simp only [hl, hn]
    rw [if_neg (by simp [hw]; omega), hk]
    exact if_pos hph
  refine ⟨_, hexec, rfl, ?_, ?_⟩
  · change (makeReady _ _).t = _
    rw [hready] <;> rfl
  · refine ⟨({ n with crossLeft := 0 } : Node).entry s1.cycle l.part launch, ?_, by rw [← hidx]; rfl, rfl⟩
    change _ ∈ (makeReady _ _).ready
    rw [hready]
    have hmem : ({ n with crossLeft := 0 } : Node) ∈ updWhere l.nodes (fun x => x.index == node) fun x => { x with crossLeft := 0 } :=
      List.mem_map.2 ⟨n, List.mem_of_find?_eq_some hfind, if_pos (by simp [hidx])⟩
    exact List.mem_append_right _ (List.mem_map_of_mem (List.mem_filter.2 ⟨hmem, by simp [Node.isReady, hw, hleft]⟩))

/-! ## Traps and errors from outside (R83, R435, R436, R443, R446, R447) -/

theorem standOldest_idle {s : State} (h : xBusy s = false) : standOldest s = s := by
  obtain ⟨⟨hv, hd⟩, -⟩ : (s.t.vq = [] ∧ s.t.xdec = []) ∧ _ := by simpa [xBusy] using h
  unfold standOldest
  rw [hv, hd]

theorem trapEntry_takes {tr : Trap} {s : State} (hrun : s.t.status = .running) (hb : xBusy s = false) (hx : s.t.xctx = none) :
    exec (.trapEntry tr) s = .next { takeTrap tr s with stalled := false } := by
  change execTrapEntry tr s = _
  unfold execTrapEntry
  rw [if_neg (not_not_intro hrun), standOldest_idle hb]
  simp only [hx]
  rfl

/-- What a handler finds of a trap of a queued instruction (R189). -/
theorem takeTrap_handled {tr : Trap} {s : State} {e : XEntry} (hx : s.t.xctx = some { entry := e, lane := none }) (hh : handlerClass tr.cls = true)
    (hc : tr.cls ≠ 0x05) (hv : s.t.ctl.tvec ≠ 0) (hi : s.t.ctl.inh = false) :
    (takeTrap tr s).t.pc = s.t.ctl.tvec ∧ (takeTrap tr s).t.ctl.tcause = tr.cls ∧ (takeTrap tr s).t.ctl.tval = tr.tval ∧
      (takeTrap tr s).t.ctl.telem = tr.telem ∧ (takeTrap tr s).t.ctl.tpc = e.pc ∧ (takeTrap tr s).t.ctl.inh = true := by
  have hpc : curPc s = e.pc := by
    unfold curPc
    rw [hx]
  unfold takeTrap takeTrapAt
  simp only [hx, Option.bind_some, if_neg hc, hh, if_true]
  unfold enterTrap
  rw [if_neg (not_or.2 ⟨hv, by simp [hi]⟩)]
  exact ⟨rfl, rfl, rfl, rfl, hpc, rfl⟩

theorem queueStallTimeout_traps {s : State} {k : Nat} {e : XEntry} (hrun : s.t.status = .running) (hw : accessWaits s = true)
    (hc : hasCommands s s.t.uid = false) (hp : hasPuts s s.t.uid = false) (hm : s.t.mq = []) (hl : runningLanes s = [])
    (hq : queueWait s = some (k, e)) (hv : s.t.ctl.tvec ≠ 0) (hi : s.t.ctl.inh = false) :
    ∃ t, exec .queueStallTimeout s = .next t ∧ t.stalled = false ∧ t.t.pc = s.t.ctl.tvec ∧ t.t.ctl.tcause = 1 ∧ t.t.ctl.tval = BitVec.ofNat 64 k ∧
      t.t.ctl.telem = 0 ∧ t.t.ctl.tpc = e.pc ∧ t.t.ctl.inh = true := by
  obtain ⟨th, hth, hctl, hx⟩ : ∃ th : Thread, exec .queueStallTimeout s = happening (takeTrap (mkTrap 0x01 (BitVec.ofNat 64 k)) { s with t := th }) ∧
      th.ctl = s.t.ctl ∧ th.xctx = some { entry := e, lane := none } := by
    change ∃ th, execQueueStallTimeout s = _ ∧ _
    unfold execQueueStallTimeout
    rw [if_neg (by simp [hrun, hw, hc, hp, hm, hl]), hq]
    refine ⟨_, rfl, ?_, rfl⟩
    dsimp only
    split <;> rfl
  refine ⟨_, hth, rfl, ?_⟩
  have h := takeTrap_handled (tr := mkTrap 0x01 (BitVec.ofNat 64 k)) (s := { s with t := th }) hx rfl (by change (1 : Nat) ≠ 5; decide) (hctl ▸ hv) (hctl ▸ hi)
  rw [← hctl]
  exact h

theorem pageFaultService_current {s : State} {tr : Trap} (g : Option PageGrant) (hst : s.t.status = .pageFault tr false) :
    exec (.pageFaultService g) s = happening (servePage g s) := by
  change execPageFaultService g s = _
  unfold execPageFaultService allThreads
  rw [List.find?_cons, hst]
  exact congrArg happening (asThread_self rfl _)

/-- Without a codex a page that a thread waited for needs no loading (R449). -/
theorem demandLoad_of_none {s : State} (h : s.codices = []) (part pkg va : Nat) : demandLoad s part pkg va = s := by
  unfold demandLoad
  rw [h]
  rfl

theorem pageFaultService_maps {s : State} {tr : Trap} (g : PageGrant) (hst : s.t.status = .pageFault tr false) (hc : s.codices = []) :
    exec (.pageFaultService (some g)) s = .next { mapPage s s.t.part (pkgOf s.t.core) (tr.tval.toNat % 2 ^ 57) g with
      t := { (mapPage s s.t.part (pkgOf s.t.core) (tr.tval.toNat % 2 ^ 57) g).t with status := .running }, stalled := false } := by
  rw [pageFaultService_current _ hst]
  have hserve : servePage (some g) s = (mapPage s s.t.part (pkgOf s.t.core) (tr.tval.toNat % 2 ^ 57) g).updT fun t => { t with status := .running } := by
    unfold servePage
    rw [hst]
    dsimp only
    rw [if_neg Bool.false_ne_true]
    exact demandLoad_of_none (s := State.updT _ _) ((OnlyMemory.mapPage ..).codices.trans hc) ..
  rw [hserve]
  rfl

theorem pageFaultService_refuses {s : State} {tr : Trap} (hst : s.t.status = .pageFault tr false) (hb : xBusy s = false) :
    exec (.pageFaultService none) s =
      .next { takeTrap { tr with cls := 0x04 } (s.updT fun t => { t with status := .running }) with stalled := false } := by
  rw [pageFaultService_current _ hst]
  have hserve : servePage none s = takeTrap { tr with cls := 0x04 } (s.updT fun t => { t with status := .running }) := by
    unfold servePage
    rw [hst]
    dsimp only
    rw [standOldest_idle (by exact hb)]
    rfl
  rw [hserve]
  rfl

theorem laneReexecute_repaired {s : State} (lane eg elem : Nat) (sampled : Bool) (hrun : s.t.status = .running) :
    exec (.laneReexecute lane eg ⟨sampled, true, elem⟩) s =
      .next { (logError s (dieOf s.t.core) 0 (if sampled then 0x03 else 0x02) (laneUnit s.t.core (lane % lanesOf s.t.core)) s.t.part 0) with
        stalled := false } := by
  change execLaneReexecute lane eg ⟨sampled, true, elem⟩ s = _
  unfold execLaneReexecute
  rw [if_neg (not_not_intro hrun)]
  rfl

theorem laneReexecute_damaged {s : State} (lane eg elem : Nat) (sampled : Bool) (hrun : s.t.status = .running) :
    ∃ t u, exec (.laneReexecute lane eg ⟨sampled, false, elem⟩) s = .next t ∧ t.stalled = false ∧
      t.t.status = .ending 1 (if sampled then 0x11 else 0x12) u 0 := by
  change ∃ t u, execLaneReexecute lane eg ⟨sampled, false, elem⟩ s = .next t ∧ _
  unfold execLaneReexecute
  rw [if_neg (not_not_intro hrun)]
  exact ⟨_, _, rfl, rfl, rfl⟩

/-- An uncorrectable error in memory poisons its bytes (R447). -/
theorem scrub_memory (s : State) (pa len : Nat) : ∃ t, exec (.scrub (.memory pa len)) s = .next t ∧ t.stalled = false ∧ t.t = s.t ∧
    ∀ i < len, pa + i ∈ t.poison := by
  obtain ⟨bytes, die, unit, part, heq⟩ : ∃ bytes die unit part, scrubbed (.memory pa len) s =
      logError { fillBlock s pa with poison := (bytes ++ (List.range len).map (pa + ·) ++ (fillBlock s pa).poison).dedup } die 0 0x05 unit part 0 :=
    ⟨_, _, _, _, rfl⟩
  refine ⟨{ scrubbed (.memory pa len) s with stalled := false }, rfl, rfl, ?_, fun i hi => ?_⟩
  · rw [heq]
    exact (congrArg State.t (logError_eq ..)).trans (fillBlock_t s pa)
  · have hp := congrArg State.poison (logError_eq { fillBlock s pa with
      poison := (bytes ++ (List.range len).map (pa + ·) ++ (fillBlock s pa).poison).dedup } die 0 0x05 unit part 0)
    rw [heq]
    refine (congrArg (pa + i ∈ ·) hp).mpr ?_
    exact List.mem_dedup.2 (List.mem_append_left _ (List.mem_append_right _ (List.mem_map_of_mem (List.mem_range.2 hi))))

theorem logError_adds {s : State} {die cls event : Nat} (unit part addr : Nat) (hroom : (s.errLog.filter fun x => x.die == die).length < 4096)
    (hc : cls < 256) (he : event < 256) :
    ∃ e, (logError s die cls event unit part addr).errLog = s.errLog ++ [e] ∧ e.die = die ∧ e.word0.toNat / 2 ^ 56 = cls ∧
      e.word0.toNat / 2 ^ 48 % 2 ^ 8 = event ∧ e.word0.toNat / 2 ^ 32 % 2 ^ 16 = unit % 2 ^ 16 ∧ e.word1.toNat = addr % 2 ^ 57 := by
  unfold logError
  rw [if_pos hroom]
  refine ⟨_, rfl, rfl, ?_⟩
  have h0 : (BitVec.ofNat 64 (cls * 2 ^ 56 + event * 2 ^ 48 + unit % 2 ^ 16 * 2 ^ 32 + part % 2 ^ 6 * 2 ^ 26)).toNat =
      cls * 2 ^ 56 + event * 2 ^ 48 + unit % 2 ^ 16 * 2 ^ 32 + part % 2 ^ 6 * 2 ^ 26 := by
    rw [BitVec.toNat_ofNat]
    omega
  have h1 : (BitVec.ofNat 64 (addr % 2 ^ 57)).toNat = addr % 2 ^ 57 := by
    rw [BitVec.toNat_ofNat]
    omega
  rw [h0, h1]
  omega

/-- Settles O51, a lemma for each event: what it places, counts, ends or logs. -/
theorem schedulerAndFaultEvents : Obligations.SchedulerAndFaultEvents := by
  unfold Obligations.SchedulerAndFaultEvents
  refine ⟨fun die s t r hr hd hp => dispatch_places hr hd hp, fun die s h => dispatch_idle h,
    fun s part launch core n l hnew hf hl => startNode_starts hnew hf hl, priorityAging_ages,
    fun die s r id p hr hw hd hn hage hu hp => resumeListPost_lists hr hw hd hn hage hu hp,
    fun die s r id ids hid hr => resumeListTake_moves hid hr,
    fun launch node k s s1 l n hl hn hcross hw hleft hk hph => crossDieEdge_readies hl hn hcross hw hleft hk hph,
    fun s k e hrun hw hc hp hm hl hq hv hi => queueStallTimeout_traps hrun hw hc hp hm hl hq hv hi,
    fun tr s hrun hb hx => trapEntry_takes hrun hb hx, fun s tr g hst hc => pageFaultService_maps g hst hc,
    fun s tr hst hb _ => pageFaultService_refuses hst hb,
    fun lane eg elem sampled s hrun => ⟨laneReexecute_repaired lane eg elem sampled hrun,
      fun _ _ _ _ => laneReexecute_damaged lane eg elem sampled hrun⟩,
    fun s => ⟨scrub_memory s, fun _ _ _ => rfl, fun _ _ _ => rfl, fun core entry addr e he => ?_, rfl⟩,
    fun s die cls event unit part addr hroom hc he => logError_adds unit part addr hroom hc he⟩
  change happening (logError s (dieOf core) 0 0x01 (laneUnit core 0) (((folioAt s core entry).map FolioEntry.part).getD horsilPart) addr) = _
  rw [he]
  rfl

end Sys2Proof.Machine
end

section
namespace Sys2Proof.Machine

/-! ## nspawn.w with the spawn area full (R200, R201) -/

/-- A spawn whose checks pass and that finds its area full goes on with what its form does then. -/
theorem spawnOp_full {o : W4} {full : Spawn → State → Res} {s s1 s2 : State} {d : List Word} {k : Nat} (hb : xBusy s = false)
    (ha : (getS (drainMatrix s) o.fa).toNat % 32 = 0) (hd : loadWords (getS (drainMatrix s) o.fa) 4 0 (drainMatrix s) = .ok d s1)
    (ht : typeValid (vtType s1) = true) (hn : (getS (drainMatrix s) o.fb).toNat ≤ vlMaxOf s1.t.ctl.vtype)
    (hgood : ¬((d.getD 2 0).toNat % 16 ≠ 0 ∨ (d.getD 3 0).extractLsb' 32 32 ≠ 0 ∨ (d.getD 3 0).extractLsb' 26 2 = 3 ∨
      (d.getD 3 0).extractLsb' 0 26 ≠ 0))
    (hk : keyOf s1 .store (d.getD 2 0) 16 0 = .ok k s2) (hp : pointPoisoned s2 5 k 16 = false)
    (h0 : (getS (drainMatrix s) o.fb).toNat ≠ 0)
    (hfull : 1024 ≤ spawnCount (publish s2 3) (dieOf (publish s2 3).t.core) (publish s2 3).t.part) :
    ∃ sp, spawnOp o full s = full sp (publish s2 3) := by
  have hvalid : ¬(typeValid (vtType s1) = false ∨ vlMaxOf s1.t.ctl.vtype < (getS (drainMatrix s) o.fb).toNat) := by
    rw [ht]
    simpa using hn
  unfold spawnOp
  rw [if_neg (by simp [hb])]
  dsimp only
  rw [if_neg (fun h => h.2 ha), hd]
  dsimp only
  rw [if_neg hvalid, if_neg hgood, hk]
  dsimp only
  rw [if_neg (by simp [hp]), if_neg h0, if_pos hfull]
  exact ⟨_, rfl⟩

theorem dropFolio_conts (s : State) (core i : Nat) : (dropFolio s core i).conts = s.conts := rfl

theorem storeKeys_conts (s : State) (ks : List Nat) (bs : List Byte) : (storeKeys s ks bs).conts = s.conts := rfl

theorem OnlyPoints.conts {s u : State} (h : OnlyPoints s u) : u.conts = s.conts := by
  obtain ⟨_, _, _, _, _, _, _, _, _, rfl⟩ := h
  rfl

theorem publish_conts (s : State) (sc : Nat) : (publish s sc).conts = s.conts := (OnlyPoints.publish s sc).conts

/-- A suspension adds its continuation to those that the release of the folios has left. -/
theorem suspendWith_conts {w : Waiting} {dests : List (BitVec 5)} {keys : List Nat} {post : Nat → State → State} {s : State}
    (hb : xBusy s = false) (hr : (releaseUnkept (drainMatrix s)).1 = none) :
    ∃ x c, suspendWith w dests keys post s = .ok (post (Cont.id c) x) ∧ x.conts = (releaseUnkept (drainMatrix s)).2.conts ++ [c] := by
  let s1 := publish (storeKeys (releaseUnkept (drainMatrix s)).2 keys (recordBytes (drainMatrix s))) 5
  let c : Cont :=
    { id := s1.nextCont, th := s1.t.suspended (keptHandles s1), record := s1.t.ctl.crec, waiting := w, dests := dests, results := [] }
  have hconts : s1.conts = (releaseUnkept (drainMatrix s)).2.conts := publish_conts ..
  refine ⟨{ s1 with t := Thread.blank, conts := s1.conts ++ [c], nextCont := s1.nextCont + 1 }, c, ?_, congrArg (· ++ [c]) hconts⟩
  unfold suspendWith
  rw [if_neg (by simp [hb])]
  dsimp only
  rw [hr]

/-- What nspawn.w leaves of the continuations when it finds the spawn area full. -/
theorem nspawnW_suspends {o : W4} {s sx s1 s2 : State} {ks : List Nat} {d : List Word} {k : Nat} (hidle : xBusy s = false)
    (hsus : suspendCheck s = .ok ks sx) (hb : xBusy sx = false)
    (ha : (getS (drainMatrix sx) o.fa).toNat % 32 = 0) (hd : loadWords (getS (drainMatrix sx) o.fa) 4 0 (drainMatrix sx) = .ok d s1)
    (ht : typeValid (vtType s1) = true) (hn : (getS (drainMatrix sx) o.fb).toNat ≤ vlMaxOf s1.t.ctl.vtype)
    (hgood : ¬((d.getD 2 0).toNat % 16 ≠ 0 ∨ (d.getD 3 0).extractLsb' 32 32 ≠ 0 ∨ (d.getD 3 0).extractLsb' 26 2 = 3 ∨
      (d.getD 3 0).extractLsb' 0 26 ≠ 0))
    (hk : keyOf s1 .store (d.getD 2 0) 16 0 = .ok k s2) (hp : pointPoisoned s2 5 k 16 = false)
    (h0 : (getS (drainMatrix sx) o.fb).toNat ≠ 0)
    (hfull : 1024 ≤ spawnCount (publish s2 3) (dieOf (publish s2 3).t.core) (publish s2 3).t.part) (hb3 : xBusy (publish s2 3) = false)
    (hr : (releaseUnkept (drainMatrix (publish s2 3))).1 = none) :
    ∃ c, ∀ t, exec (.nspawnW o) s = .next t → t.conts = (releaseUnkept (drainMatrix (publish s2 3))).2.conts ++ [c] := by
  obtain ⟨sp, hsp⟩ := spawnOp_full (full := fun sp x => suspendWith (.spawn sp) [o.fd] ks
    (fun id x => { x with spawnQueue := x.spawnQueue ++ [id] }) x) hb ha hd ht hn hgood hk hp h0 hfull
  obtain ⟨x, c, hx, hc⟩ := suspendWith_conts (w := .spawn sp) (dests := [o.fd]) (keys := ks)
    (post := fun id x => { x with spawnQueue := x.spawnQueue ++ [id] }) hb3 hr
  refine ⟨c, fun t ht => ?_⟩
  have hexec : exec (.nspawnW o) s = .next { x with spawnQueue := x.spawnQueue ++ [c.id], stalled := false } := by
    change execNspawnW o s = _
    unfold execNspawnW
    refine jumpOp_ok (s1 := { x with spawnQueue := x.spawnQueue ++ [c.id] }) (settledFor_of_idle hidle _) ?_
    rw [hsus]
    exact hsp.trans hx
  rw [hexec] at ht
  cases ht
  exact hc

/-! ## A drain that another thread's handle names -/

theorem updAnyThread_conts (s : State) (uid : Nat) (f : Thread → Thread) :
    (updAnyThread s uid f).conts = updWhere s.conts (fun c => c.th.uid == uid) fun c => { c with th := f c.th } := by
  have h : (updThread s uid f).conts = s.conts := by
    unfold updThread
    split <;> rfl
  exact congrArg (fun l => updWhere l (fun c : Cont => c.th.uid == uid) fun c => { c with th := f c.th }) h

/-- Bytes that a write-back publishes below .die stand among the writes of its writer, a suspended one too (R366). -/
theorem publishBytes_conts {s : State} {uid core part scope : Nat} {kvs : List (Nat × Byte)} (hk : kvs.isEmpty = false) (hs : scope < 4) :
    ∃ ws : List OwnWrite, ws.isEmpty = false ∧ (publishBytes s uid core part scope kvs).conts =
      updWhere s.conts (fun c => c.th.uid == uid) fun c => { c with th := c.th.addWrites ws } := by
  have hlow : ¬4 ≤ scope := by omega
  unfold publishBytes
  rw [if_neg (by simp [hk])]
  extract_lets n s1 s2 s3
  have h1 : OnlyPoints s s1 := OnlyPoints.foldl _ (fun a p => .pointWrite ..) _ _ ⟨_, _, _, _, _, _, _, _, _, rfl⟩
  have hs2 : s2 = s1 := if_neg hlow
  have hs3 : s3 = updAnyThread s2 uid fun t => t.addWrites (kvs.map fun p =>
      { key := p.1, val := p.2, unit := p.1 / 8 * 8, seq := n, scope := scope, seen := true }) := if_neg hlow
  refine ⟨kvs.map fun p => { key := p.1, val := p.2, unit := p.1 / 8 * 8, seq := n, scope := scope, seen := true },
    by simpa using hk, ?_⟩
  have hm : (publishMasters s3 (pkgOf core) (dieOf core) scope (kvs.map fun p => (p.1, n))).conts = s3.conts := (OnlyPoints.publishMasters ..).conts
  rw [hm, hs3, hs2, updAnyThread_conts, h1.conts]

/-- A page that no guard meets is written back whole. -/
theorem writeBack_conts {s : State} {uid k scope : Nat} {e : FolioEntry} (bs : List Byte) (hg : guardedIn s e.part (pkgOf e.core) e.src 1024 = none)
    (hs : scope < 4) : ∃ ws : List OwnWrite, ws.isEmpty = false ∧ (writeBack s uid e bs [some k] scope).conts =
      updWhere s.conts (fun c => c.th.uid == uid) fun c => { c with th := c.th.addWrites ws } := by
  unfold writeBack
  refine publishBytes_conts ?_ hs
  simp [hg, List.range_eq_nil]

theorem addWrites_own {ws : List OwnWrite} (h : ws.isEmpty = false) (t : Thread) : (t.addWrites ws).own ≠ [] := by
  cases ws with
  | nil => cases h
  | cons w ws => exact List.cons_ne_nil _ _


/-- A folio entry that drains at .core for thread 9. -/
def drainingShare : FolioEntry where
  core := 0
  index := 3
  space := 1
  basek := 2
  sizek := 1
  src := 0x20000
  state := .draining
  owners := [9]
  launch := 0
  keep := false
  drain := true
  clean := false
  view := none
  data := none
  bad := none
  scope := 1
  pages := [0x20000]
  part := 0

/-- Thread 9, suspended with its operation finished. -/
def suspendedNine : Cont :=
  { id := 7, th := { Thread.blank with uid := 9 }, record := 0x20480, waiting := .done, dests := [], results := [] }

/-- Thread 1 on core 0 with an nspawn.w to run: its descriptor at 0x20300, one element group of 8, its record at 0x20400, and a handle that
names thread 9's draining entry. The spawn area of die 0 is full. -/
def sharedDrain : State :=
  { State.reset with
    t := { Thread.blank with
      uid := 1, status := .running, handles := [some 3], s := ((Vector.replicate 32 0).set 1 0x20300).set 2 8
      ctl := { Ctl.start with vtype := 4, crec := 0x20400 }, snap := [(0x20302, 2), (0x20311, 8), (0x20312, 2)] }
    parts := [{ slot := 0, quads := [0], roots := [], shares := [(0, 4)], units := [], catPkg := 0, catBase := 0, catSize := 0, tc := 0, guards := [],
                stackTops := [], stackSize := 0, resume := [], ended := false }]
    tlbs := [{ place := 0, entries := [{ part := 0, pkg := 0, va := 0x20000, size := 16, pa := 0x20000, r := true, w := true, x := false, z := false,
                                         dirty := true }] }]
    spawnUsed := [(0, 0, 1024)]
    conts := [suspendedNine]
    folios := [drainingShare] }

def spawnOne : W4 := { fd := 1, fa := 1, fb := 2, fc := 0, ty := 0, sc := 0 }

theorem sharedDrain_checks : ∃ ks sx d s1 k s2, suspendCheck sharedDrain = .ok ks sx ∧ xBusy sx = false ∧
    (getS (drainMatrix sx) 1).toNat % 32 = 0 ∧ loadWords (getS (drainMatrix sx) 1) 4 0 (drainMatrix sx) = .ok d s1 ∧
    typeValid (vtType s1) = true ∧ (getS (drainMatrix sx) 2).toNat ≤ vlMaxOf s1.t.ctl.vtype ∧
    ¬((d.getD 2 0).toNat % 16 ≠ 0 ∨ (d.getD 3 0).extractLsb' 32 32 ≠ 0 ∨ (d.getD 3 0).extractLsb' 26 2 = 3 ∨ (d.getD 3 0).extractLsb' 0 26 ≠ 0) ∧
    keyOf s1 .store (d.getD 2 0) 16 0 = .ok k s2 ∧ pointPoisoned s2 5 k 16 = false ∧ (getS (drainMatrix sx) 2).toNat ≠ 0 ∧
    1024 ≤ spawnCount (publish s2 3) (dieOf (publish s2 3).t.core) (publish s2 3).t.part ∧ xBusy (publish s2 3) = false ∧
    (publish s2 3).conts = [suspendedNine] ∧
    ∃ a, releaseUnkept (drainMatrix (publish s2 3)) = (none, dropFolio (writeBack a 9 drainingShare [] [some 0x20000] 1) 0 3) ∧
      guardedIn a 0 0 0x20000 1024 = none ∧ a.conts = [suspendedNine] :=
  ⟨_, _, _, _, _, _, rfl, rfl, by decide, rfl, rfl, by decide, by decide, rfl, rfl, by decide, by decide, rfl, rfl, _, rfl, rfl, rfl⟩

/-- Refutes O40: while a handle of a thread names a folio entry that drains below .die for another thread, the thread's suspension completes
that write-back (R148), whose bytes then stand among the writes of the other thread, a suspended one, so that the continuations before the new
one are not those that were there. -/
theorem not_spawnAndNodeEnd : ¬ Obligations.SpawnAndNodeEnd := by
  unfold Obligations.SpawnAndNodeEnd
  rintro ⟨hspawn, -⟩
  obtain ⟨ks, sx, d, s1, k, s2, hsus, hbx, ha, hd, ht, hn, hgood, hk, hp, h0, hfull, hb3, hc3, a, hrel, hg, hca⟩ := sharedDrain_checks
  have hr : (releaseUnkept (drainMatrix (publish s2 3))).1 = none := by rw [hrel]
  -- What the statement says of the continuations.
  obtain ⟨-, hgoods⟩ := hspawn spawnOne true sharedDrain sx s1 ks d hsus rfl hbx ha hd ht hn
  obtain ⟨-, -, -, hsuspends⟩ := hgoods k s2 hgood hk hp
  obtain ⟨t, c, hexec, -, -, hconts, -⟩ := hsuspends h0 hfull rfl hr
  -- What the model makes of them.
  obtain ⟨c', hconts'⟩ := nspawnW_suspends (o := spawnOne) rfl hsus hbx ha hd ht hn hgood hk hp h0 hfull hb3 hr
  obtain ⟨ws, hws, hwritten⟩ := writeBack_conts (uid := 9) (k := 0x20000) (e := drainingShare) (scope := 1) [] hg (by decide)
  have hleft : (releaseUnkept (drainMatrix (publish s2 3))).2.conts = [{ suspendedNine with th := suspendedNine.th.addWrites ws }] := by
    rw [hrel]
    dsimp only
    rw [dropFolio_conts, hwritten, hca]
    exact congrArg (· :: []) (if_pos rfl)
  have heq := (hconts' t hexec).symm.trans hconts
  rw [hleft, hc3] at heq
  have hown : suspendedNine.th.addWrites ws = suspendedNine.th := congrArg Cont.th (List.cons.inj heq).1
  exact addWrites_own hws suspendedNine.th (by rw [hown]; rfl)

end Sys2Proof.Machine
end

section
namespace Sys2Proof.Machine

/-! ## Lane threads start, move and end (R270 to R273) -/

theorem vblk_starts (o : WJ) (s s1 : State) (l : Line) (h : runsNow .whole s) (hg : vtGrp s = 1) (hty : typeValid (vtType s) = true)
    (hl : enterLine s (relTarget (curPc s) o.ld.toInt o.hd.toNat) false true = .ok l s1) :
    ∃ r : LaneRun, exec (.vblk o) s = .next (committed .whole (s1.updT fun t => { t with lanes := some r })) ∧
      r.lanes.map Lane.g = List.range ((s.t.ctl.vl + 256 / typeWidth (vtType s) - 1) / (256 / typeWidth (vtType s))) ∧ r.read = [] ∧
      (∀ x ∈ r.lanes, x.pc = relTarget (curPc s) o.ld.toInt o.hd.toNat ∧ x.line = l ∧ x.status = .running) ∧ (s.t.xctx = none → r.sregs = s.t.s) ∧
      (∀ c, s.t.xctx = some c → r.sregs = c.entry.sregs) ∧ r.env = s1.t.ctl.env ∧ r.binds = s1.t.binds := by
  let ls := (List.range ((s.t.ctl.vl + 256 / typeWidth (vtType s) - 1) / (256 / typeWidth (vtType s)))).map fun g =>
    ({ g := g, pc := relTarget (curPc s) o.ld.toInt o.hd.toNat, line := l, status := .running, geom := 0, since := s1.cycle, issued := false } : Lane)
  refine ⟨{ lanes := ls, sregs := capturedS s, env := s1.t.ctl.env, binds := s1.t.binds, read := [] }, ?_, ?_, rfl, ?_, fun hx => ?_, fun c hx => ?_,
    rfl, rfl⟩
  · change execVblk o s = _
    unfold execVblk
    refine executeOp_ok h ?_
    rw [if_neg (by simp [hg, hty])]
    dsimp only
    rw [hl] <;> rfl
  · simp [ls, Function.comp_def]
  · intro x hx
    obtain ⟨g, -, rfl⟩ := List.mem_map.1 hx
    exact ⟨rfl, rfl, rfl⟩
  · simp [capturedS, hx]
  · simp [capturedS, hx]

theorem lfetchTaken_iff (s : State) (mk : BitVec 3) (g : Nat) : lfetchTaken s mk.toNat g = true ↔
    mk = 0 ∨ ∃ e < s.t.ctl.vl, e / (256 / typeWidth (vtType s)) = g ∧ (getM s mk.toNat).getLsbD e = true := by
  have h0 : mk.toNat = 0 ↔ mk = 0 := by rw [← BitVec.toNat_inj]; rfl
  simp only [lfetchTaken, maskOn, Bool.or_eq_true, beq_iff_eq, List.any_eq_true, List.mem_range, Bool.and_eq_true, h0]
  constructor
  · rintro (h | ⟨e, he, hg, h | h⟩)
    · exact .inl h
    · exact .inl h
    · exact .inr ⟨e, he, hg, h⟩
  · rintro (h | ⟨e, he, hg, h⟩)
    · exact .inl h
    · exact .inr ⟨e, he, hg, .inr h⟩

theorem updWhere_lane (ls : List Lane) (g : Nat) (f : Lane → Lane) :
    updWhere ls (fun x => x.g == g) f = ls.map fun x => if x.g = g then f x else x := by
  simp [updWhere]

section
variable {s : State} {c : XCtx} {g : Nat} (hx : s.t.xctx = some c) (hg : c.lane = some g)
include hx hg

theorem lfetch_moves (o : WL) {l : Line} {s1 : State} (ht : lfetchTaken s o.msk.toNat g = true)
    (hl : enterLine s (relTarget c.entry.pc o.ld.toInt o.hd.toNat) false true = .ok l s1) :
    exec (.lfetch o) s = .next { laneJump s1 g (relTarget c.entry.pc o.ld.toInt o.hd.toNat) l with stalled := false } := by
  change execLfetch o s = _
  unfold execLfetch
  simp only [hx, Option.bind_some, hg, ht, if_true, hl]
  rfl

theorem lfetch_passes (o : WL) (ht : lfetchTaken s o.msk.toNat g = false) :
    exec (.lfetch o) s = .next { laneNext s g with stalled := false } := by
  have hadv : advance s = laneNext s g := by
    unfold advance
    simp only [hx, hg]
  change execLfetch o s = _
  unfold execLfetch
  simp only [hx, Option.bind_some, hg, ht, Bool.false_eq_true, if_false, hadv]
  rfl

end

theorem lstop_ends {s : State} {g : Nat} (h : laneOf s = some g) : exec .lstop s = .next { laneEnd s g with stalled := false } := by
  change execLstop s = _
  unfold execLstop
  rw [show s.t.xctx.bind XCtx.lane = some g from h] <;> rfl

/-! ## vjoin and the faults of lane threads (R274 to R276) -/

theorem vjoin_idle {s : State} (h : runsNow .join s) (hl : s.t.lanes = none) : exec .vjoin s = .next (committed .join s) := by
  change execVjoin s = _
  unfold execVjoin
  refine executeOp_ok h ?_
  rw [hl]

theorem not_running {ls : List Lane} (h : ∀ x ∈ ls, x.status ≠ .running) : ls.any Lane.isRunning = false := by
  rw [List.any_eq_false]
  intro x hx
  simpa [Lane.isRunning] using h x hx

theorem faults_of_ended {ls : List Lane} (h : ∀ x ∈ ls, x.status = .ended) : (ls.filterMap fun l => l.fault.map fun f => (l, f)) = [] := by
  rw [List.filterMap_eq_nil_iff]
  intro x hx
  simp [Lane.fault, h x hx]

theorem vjoin_joins {s : State} {r : LaneRun} (h : runsNow .join s) (hl : s.t.lanes = some r) (hend : ∀ x ∈ r.lanes, x.status = .ended) :
    let bs := s.t.binds.filter fun b => r.read.contains b.vd && r.binds.any fun u => u.sameAs b
    let n := (bs.map fun b => b.retagged 0 b.c).sum
    let s1 := s.updT fun t => { t with lanes := none }
    exec .vjoin s = .next (committed .join (bs.foldl (fun a b => beginChunk a { b with q := b.q + 1 }) (if n = 0 then s1 else countRetags s1 n))) := by
  intro bs n s1
  change execVjoin s = _
  unfold execVjoin
  refine executeOp_ok h ?_
  rw [hl]
  dsimp only
  rw [if_neg (by rw [not_running fun x hx => by rw [hend x hx]; exact LaneStatus.noConfusion]; exact Bool.false_ne_true)]
  unfold joinLanes
  rw [faults_of_ended hend]
  have hn : (bs.map fun b => b.retagged 0 b.c).foldl (· + ·) 0 = n := List.sum_eq_foldl.symm
  rw [← hn]
  rfl

theorem faultX_join (tr : Trap) (s : State) : faultX .join tr s = stopAt none s := by
  unfold faultX
  split <;> rfl

/-- The faults of lane threads of which the first that has not ended has faulted. -/
theorem faults_of_first {ls pre post : List Lane} {l : Lane} {tr : Trap} {tpc : Word} {held : Bool} (hls : ls = pre ++ l :: post)
    (hst : l.status = .faulted tr tpc held) (hpre : ∀ x ∈ pre, x.status = .ended) :
    (ls.filterMap fun l => l.fault.map fun f => (l, f)) = (l, tr, tpc) :: post.filterMap fun l => l.fault.map fun f => (l, f) := by
  rw [hls, List.filterMap_append, faults_of_ended hpre, List.filterMap_cons]
  simp [Lane.fault, hst]

theorem fault_ne_page {ls : List Lane} (h : ∀ x ∈ ls, ∀ a b c, x.status = .faulted a b c → a.cls ≠ 0x05) :
    ∀ x ∈ ls.filterMap fun l => l.fault.map fun f => (l, f), x.2.1.cls ≠ 0x05 := by
  intro x hx
  obtain ⟨y, hy, hfy⟩ := List.mem_filterMap.1 hx
  obtain ⟨f, hf, rfl⟩ := Option.map_eq_some_iff.1 hfy
  unfold Lane.fault at hf
  split at hf
  · next a b c hs =>
    cases hf
    exact h y hy a b c hs
  · cases hf
  · cases hf

/-- Without a page fault the first faulting lane thread's trap is taken, with its tgeom1 (R275, R330). -/
theorem joinLanes_faults {s : State} {r : LaneRun} {l : Lane} {tr : Trap} {tpc : Word} {rest : List (Lane × Trap × Word)}
    (hf : (r.lanes.filterMap fun l => l.fault.map fun f => (l, f)) = (l, tr, tpc) :: rest) (hrest : ∀ x ∈ rest, x.2.1.cls ≠ 0x05)
    (h5 : tr.cls ≠ 0x05) (h2 : tr.cls ≠ 0x02) :
    joinLanes r s = .trap { tr with telem := l.g }
      ((if 0x07 ≤ tr.cls ∧ tr.cls ≤ 0x0A then s.updC fun c => { c with tgeom1 := l.geom } else s).updT fun t =>
        { t with lanes := some { r with lanes := [{ l with status := .running }] } }) := by
  have hpage : (((l, tr, tpc) :: rest).find? fun x => x.2.1.cls == 0x05) = none := by
    rw [List.find?_eq_none]
    intro x hx
    rcases List.mem_cons.1 hx with rfl | hx
    · simpa using h5
    · simpa using hrest x hx
  unfold joinLanes
  rw [hf]
  dsimp only
  rw [hpage]
  dsimp only
  rw [if_neg h2]

theorem vjoin_faults {s : State} {r : LaneRun} {pre post : List Lane} {l : Lane} {tr : Trap} {tpc : Word} {held : Bool} (h : runsNow .join s)
    (hl : s.t.lanes = some r) (hr : r.lanes = pre ++ l :: post) (hst : l.status = .faulted tr tpc held) (hpre : ∀ x ∈ pre, x.status = .ended)
    (hpost : ∀ x ∈ post, x.status ≠ .running ∧ ∀ a b c, x.status = .faulted a b c → a.cls ≠ 0x05) (h5 : tr.cls ≠ 0x05) (h2 : tr.cls ≠ 0x02) :
    let s1 := if 0x07 ≤ tr.cls ∧ tr.cls ≤ 0x0A then s.updC fun c => { c with tgeom1 := l.geom } else s
    exec .vjoin s = .next { takeTrap { tr with telem := l.g }
      (stopAt none (s1.updT fun t => { t with lanes := some { r with lanes := [{ l with status := .running }] } })) with stalled := false } := by
  intro s1
  have hstopped : r.lanes.any Lane.isRunning = false := by
    refine not_running fun x hx => ?_
    rw [hr, List.mem_append, List.mem_cons] at hx
    rcases hx with hx | rfl | hx
    · rw [hpre x hx]
      exact LaneStatus.noConfusion
    · rw [hst]
      exact LaneStatus.noConfusion
    · exact (hpost x hx).1
  have hjoin := joinLanes_faults (s := s) (faults_of_first hr hst hpre) (fault_ne_page fun x hx => (hpost x hx).2) h5 h2
  rw [← faultX_join { tr with telem := l.g }]
  change execVjoin s = _
  unfold execVjoin
  refine executeOp_traps (tr := { tr with telem := l.g }) h ?_ h5
  rw [hl]
  dsimp only
  rw [if_neg (by rw [hstopped]; exact Bool.false_ne_true)]
  exact hjoin

theorem laneFault_stops {s : State} {r : LaneRun} {l : Lane} {tr : Trap} (hl : s.t.lanes = some r)
    (hr : (r.lanes.find? fun x => x.g == l.g && x.isRunning) = some l) (hc : tr.cls = 0x01 ∨ tr.cls = 0x02 ∨ (0x07 ≤ tr.cls ∧ tr.cls ≤ 0x0A)) :
    ∃ t, exec (.laneFault l.g tr) s = .next t ∧ t.stalled = false ∧ t.t.v = s.t.v ∧ t.t.xctx = none ∧
      t.t.lanes = some { r with lanes := r.lanes.map fun x => if x.g = l.g then
        { x with status := .faulted tr l.pc (decide (tr.cls ≠ 0x02)), geom := s.t.ctl.tgeom1 } else x } := by
  have hexec : exec (.laneFault l.g tr) s = happening (laneStop s l.g tr l.pc (decide (tr.cls ≠ 0x02))) := by
    change execLaneFault l.g tr s = _
    unfold execLaneFault
    simp only [hl, hr]
    rw [if_pos hc]
  refine ⟨_, hexec, rfl, rfl, rfl, ?_⟩
  change s.t.lanes.map _ = _
  rw [hl, Option.map_some, updWhere_lane]

/-! ## Lanes that re-execute (R441 to R444) -/

/-- The entry of an error stands last in the log. -/
theorem logError_last (s : State) (die cls unit part addr : Nat) {event : Nat} (he : event < 256) :
    ∃ e : ErrEntry, (logError s die cls event unit part addr).errLog.getLast? = some e ∧ e.die = die ∧
      (e.word0.extractLsb' 48 8).toNat = event := by
  have hev : ((BitVec.ofNat 64 (cls * 2 ^ 56 + event * 2 ^ 48 + unit % 2 ^ 16 * 2 ^ 32 + part % 2 ^ 6 * 2 ^ 26)).extractLsb' 48 8).toNat =
      event := by
    rw [BitVec.extractLsb'_toNat, BitVec.toNat_ofNat, Nat.shiftRight_eq_div_pow]
    omega
  unfold logError
  dsimp only
  split <;> exact ⟨_, List.getLast?_concat .., rfl, hev⟩

theorem sampledElem_cases (s : State) : sampledElem s = none ∨ ∃ k tree act, sampledElem s = some (k, sampleStep tree s act) := by
  unfold sampledElem
  extract_lets h maj mn tree per w act
  split
  · cases hs : (sampleStep tree s act).samples.head? with
    | none => exact .inl rfl
    | some x => exact .inr ⟨x.chosen, tree, act, rfl⟩
  · exact .inl rfl

theorem sampleStep_keeps (tree : Bool) (s : State) (act : List Nat) :
    (sampleStep tree s act).home = s.home ∧ (sampleStep tree s act).errLog = s.errLog := by
  unfold sampleStep
  split <;> exact ⟨rfl, rfl⟩

theorem laneReexecute_ends {s : State} (lane eg elem : Nat) (sampled : Bool) (hrun : s.t.status = .running) (hq : s.t.vq = [])
    (hd : s.t.xdec = []) (hl : runningLanes s = []) :
    ∃ t u cls, exec (.laneReexecute lane eg ⟨sampled, false, elem⟩) s = .next t ∧ t.stalled = false ∧
      t.t.status = .ending 1 (if sampled then 0x11 else 0x12) u 0 ∧ t.home = s.home ∧
      t.errLog = (logError s (dieOf s.t.core) cls (if sampled then 3 else 4) (laneUnit s.t.core (lane % lanesOf s.t.core)) s.t.part 0).errLog := by
  let cls := if sampled then 0x11 else 0x12
  let s1 := logError s (dieOf s.t.core) cls (if sampled then 3 else 4) (laneUnit s.t.core (lane % lanesOf s.t.core)) s.t.part 0
  have hlog := logError_eq s (dieOf s.t.core) cls (if sampled then 3 else 4) (laneUnit s.t.core (lane % lanesOf s.t.core)) s.t.part 0
  have ht : s1.t = s.t := by
    have h := congrArg State.t hlog
    exact h
  have hhome : s1.home = s.home := by
    have h := congrArg State.home hlog
    exact h
  have hstand : standSlice eg s1 = s1 := by
    have hl1 : runningLanes s1 = [] := by
      unfold runningLanes at hl ⊢
      rw [ht]
      exact hl
    unfold standSlice standOldest
    rw [hl1, ht, hq, hd] <;> rfl
  have hexec : exec (.laneReexecute lane eg ⟨sampled, false, elem⟩) s =
      happening (let r := (if sampled then sampledElem (standSlice eg s1) else none).getD (elem, standSlice eg s1)
        endByTrap { cls := cls, tval := 0, telem := r.1, va := false } r.2) := by
    change execLaneReexecute lane eg ⟨sampled, false, elem⟩ s = _
    unfold execLaneReexecute
    rw [if_neg (not_not_intro hrun)]
    rfl
  have hkeep : ∀ r, (if sampled then sampledElem (standSlice eg s1) else none).getD (elem, standSlice eg s1) = r →
      r.2.home = s.home ∧ r.2.errLog = s1.errLog := by
    rintro r rfl
    rw [hstand]
    cases sampled with
    | false => exact ⟨hhome, rfl⟩
    | true =>
      rw [if_pos rfl]
      rcases sampledElem_cases s1 with he | ⟨k, tree, act, he⟩
      · rw [he]
        exact ⟨hhome, rfl⟩
      · obtain ⟨hh, hlg⟩ := sampleStep_keeps tree s1 act
        rw [he]
        exact ⟨hh.trans hhome, hlg⟩
  obtain ⟨hh, hlg⟩ := hkeep _ rfl
  exact ⟨_, _, cls, hexec, rfl, rfl, hh, hlg⟩

/-! ## The slice that a core issues (R81) -/

/-- R81's lateness: a wait counts from 64 cycles on. -/
def lateness (a : Slice) : Nat := if 64 ≤ a.waited then a.waited else 0

/-- R81 lets slice `x` go no later than slice `y`. -/
def notAfter (x y : Slice) : Prop :=
  lateness y < lateness x ∨ (lateness y = lateness x ∧ (x.remaining < y.remaining ∨ (x.remaining = y.remaining ∧
    (x.age < y.age ∨ (x.age = y.age ∧ x.slot ≤ y.slot)))))

theorem notAfter_refl (x : Slice) : notAfter x x := by
  unfold notAfter
  omega

theorem notAfter_trans {x y z : Slice} (h : notAfter x y) (k : notAfter y z) : notAfter x z := by
  unfold notAfter at h k ⊢
  omega

theorem sliceBefore_iff (a b : Slice) : sliceBefore a b = true ↔ lateness b < lateness a ∨ (lateness a = lateness b ∧ (a.remaining < b.remaining ∨
    (a.remaining = b.remaining ∧ (a.age < b.age ∨ (a.age = b.age ∧ a.slot < b.slot))))) := by
  change (decide (lateness b < lateness a) || (lateness a == lateness b && (decide (a.remaining < b.remaining) || (a.remaining == b.remaining &&
    (decide (a.age < b.age) || (a.age == b.age && decide (a.slot < b.slot))))))) = true ↔ _
  simp

theorem notAfter_of_sliceBefore {a b : Slice} (h : sliceBefore a b = true) : notAfter a b := by
  rw [sliceBefore_iff] at h
  unfold notAfter
  omega

theorem notAfter_of_not_sliceBefore {a b : Slice} (h : ¬sliceBefore a b = true) : notAfter b a := by
  rw [sliceBefore_iff] at h
  unfold notAfter
  omega

/-- The slice chosen goes no later than any other. -/
theorem chooseSlice_first : ∀ l : List Slice, (chooseSlice l = none ∧ l = []) ∨ ∃ x ∈ l, chooseSlice l = some x ∧ ∀ y ∈ l, notAfter x y
  | [] => .inl ⟨rfl, rfl⟩
  | c :: r => by
    right
    rcases chooseSlice_first r with ⟨hn, rfl⟩ | ⟨b, hb, hc, hfirst⟩
    · exact ⟨c, List.mem_cons_self, rfl, fun y hy => by rw [List.mem_singleton.1 hy]; exact notAfter_refl c⟩
    · by_cases hbc : sliceBefore b c = true
      · refine ⟨b, List.mem_cons_of_mem _ hb, by simp only [chooseSlice, hc]; exact if_pos hbc, fun y hy => ?_⟩
        rcases List.mem_cons.1 hy with rfl | hy
        · exact notAfter_of_sliceBefore hbc
        · exact hfirst y hy
      · refine ⟨c, List.mem_cons_self, by simp only [chooseSlice, hc]; exact if_neg hbc, fun y hy => ?_⟩
        rcases List.mem_cons.1 hy with rfl | hy
        · exact notAfter_refl y
        · exact notAfter_trans (notAfter_of_not_sliceBefore hbc) (hfirst y hy)

/-- What an issued slice leaves of its thread: all but what tells how far its instructions have issued. -/
def issuesAs (t u : Thread) : Prop := u.v = t.v ∧ u.s = t.s ∧ u.vq.map XEntry.head = t.vq.map XEntry.head

theorem issuesAs_refl (t : Thread) : issuesAs t t := ⟨rfl, rfl, rfl⟩

theorem issuesAs_trans {t u w : Thread} (h : issuesAs t u) (k : issuesAs u w) : issuesAs t w :=
  ⟨k.1.trans h.1, k.2.1.trans h.2.1, k.2.2.trans h.2.2⟩

theorem weigh_entries (core : Nat) : ∀ (m : Env × List Env) (q : List XEntry), (weigh core m q).map Prod.fst = q
  | _, [] => rfl
  | _, e :: r => congrArg (e :: ·) (weigh_entries core _ r)

theorem restWaits_heads (now : Nat) : ∀ older l : List Weighed,
    (restWaits now older l).map XEntry.head = l.map fun e => e.1.head
  | _, [] => rfl
  | older, e :: r => by
    rw [restWaits, List.map_cons, List.map_cons, restWaits_heads now (older ++ [e]) r]
    split <;> rfl

theorem issuesAs_rested (now : Nat) (t : Thread) : issuesAs t { t with vq := restWaits now [] t.weighed } := by
  refine ⟨rfl, rfl, (restWaits_heads ..).trans ?_⟩
  have hw := congrArg (List.map XEntry.head) (weigh_entries t.core (t.ctl.env, t.shadow) t.vq)
  rw [List.map_map] at hw
  exact hw

/-- A change of one element that a function does not see. -/
theorem map_modify_of_eq {α β : Type} {f : α → α} (g : α → β) (h : ∀ x, g (f x) = g x) (i : Nat) (l : List α) :
    (l.modify i f).map g = l.map g := by
  refine List.ext_getElem? fun j => ?_
  rw [List.getElem?_map, List.getElem?_map, List.getElem?_modify]
  cases l[j]? with
  | none => rfl
  | some x =>
    by_cases hij : i = j
    · simp [hij, h]
    · simp [hij]

theorem issuesAs_issue (now : Nat) (c : Slice) (t : Thread) : issuesAs t (t.issue now c) := by
  unfold Thread.issue
  split
  · exact ⟨rfl, rfl, rfl⟩
  · refine ⟨rfl, rfl, ?_⟩
    refine map_modify_of_eq XEntry.head ?_ c.entry t.vq
    exact fun _ => rfl

/-- The slices that a core may issue: those of its threads, entries that are not issuable waiting anew. -/
def coreSlices (s : State) (core : Nat) : List Slice :=
  (((allThreads s).filter fun t => t.core == core && t.status != .free).map fun t =>
    threadSlices s.cycle { t with vq := restWaits s.cycle [] t.weighed }).flatten

theorem sliceIssue_issues (pkg core : Nat) (s : State) : ∃ u ps, exec (.sliceIssue pkg core) s =
    .next { s with t := u, parked := ps, issued := chooseSlice (coreSlices s (pkg * 384 + core)), stalled := false } ∧ issuesAs s.t u := by
  let here := fun (t : Thread) => t.core == pkg * 384 + core && t.status != .free
  let wait := fun (t : Thread) => if here t then { t with vq := restWaits s.cycle [] t.weighed } else t
  let s1 := { s with t := wait s.t, parked := s.parked.map wait }
  have hwait : issuesAs s.t (wait s.t) := by
    dsimp only [wait]
    split
    · exact issuesAs_rested ..
    · exact issuesAs_refl _
  have hslices : (((allThreads s1).filter here).map (threadSlices s.cycle)).flatten = coreSlices s (pkg * 384 + core) := by
    have hthreads : allThreads s1 = (allThreads s).map wait := rfl
    have hhere : here ∘ wait = here := by
      funext t
      by_cases h : here t = true
      · simp only [Function.comp_apply, wait, if_pos h]
        rfl
      · simp only [Function.comp_apply, wait, if_neg h]
    rw [hthreads, List.filter_map, hhere, List.map_map]
    refine congrArg List.flatten (List.map_congr_left fun t ht => ?_)
    simp only [Function.comp_apply, wait, if_pos (List.mem_filter.1 ht).2]
  change ∃ u ps, execSliceIssue pkg core s = _ ∧ _
  unfold execSliceIssue
  dsimp only
  rw [hslices]
  cases hc : chooseSlice (coreSlices s (pkg * 384 + core)) with
  | none => exact ⟨_, _, rfl, hwait⟩
  | some c =>
    refine ⟨_, _, rfl, issuesAs_trans hwait ?_⟩
    change issuesAs (wait s.t) (if here (wait s.t) && (wait s.t).slot == c.slot then (wait s.t).issue s.cycle c else wait s.t)
    generalize wait s.t = u
    split
    · exact issuesAs_issue ..
    · exact issuesAs_refl _

/-- Settles O39: the instructions and happenings of lane threads case by case; the slice chosen by induction on R81's choice. -/
theorem laneThreads : Obligations.LaneThreads := by
  unfold Obligations.LaneThreads
  refine ⟨fun o s s1 l h hg hty hl => vblk_starts o s s1 l h hg hty hl, fun o s c g hx hg => ⟨fun ht l s1 hl => ?_, fun ht => ?_⟩,
    fun s g h => ⟨_, lstop_ends h, rfl, rfl, ?_⟩, fun s h hl => vjoin_idle h hl, fun s r h hl hend => vjoin_joins h hl hend,
    fun s r pre post l tr tpc held h hl hr hst hpre hpost h5 h2 => vjoin_faults h hl hr hst hpre hpost h5 h2,
    fun s r l tr hl hr hc => laneFault_stops hl hr hc, fun s lane eg elem sampled hrun => ⟨?_, fun hq hd _ hl => ?_⟩, fun pkg core s => ?_⟩
  · refine ⟨_, lfetch_moves hx hg o ((lfetchTaken_iff ..).2 ht) hl, rfl, rfl, ?_⟩
    change s1.t.lanes.map _ = _
    simp only [updWhere_lane]
  · exact lfetch_passes hx hg o (Bool.eq_false_iff.2 fun h => ht ((lfetchTaken_iff ..).1 h))
  · change s.t.lanes.map _ = _
    simp only [updWhere_lane]
  · have hlog := logError_eq s (dieOf s.t.core) 0 (if sampled then 0x03 else 0x02) (laneUnit s.t.core (lane % lanesOf s.t.core)) s.t.part 0
    have ht := congrArg State.t hlog
    have hhome := congrArg State.home hlog
    refine ⟨_, laneReexecute_repaired lane eg elem sampled hrun, rfl, ht, hhome, ?_⟩
    exact logError_last s _ 0 _ _ _ (by cases sampled <;> decide)
  · obtain ⟨t, u, cls, hexec, hst, hstatus, hhome, hlog⟩ := laneReexecute_ends lane eg elem sampled hrun hq hd hl
    refine ⟨t, u, hexec, hst, hstatus, hhome, ?_⟩
    dsimp only
    rw [hlog]
    exact logError_last s _ cls _ _ _ (by cases sampled <;> decide)
  · obtain ⟨u, ps, hexec, hv, hs, hvq⟩ := sliceIssue_issues pkg core s
    refine ⟨_, hexec, rfl, rfl, hv, hs, hvq, ?_⟩
    rcases chooseSlice_first (coreSlices s (pkg * 384 + core)) with ⟨hn, he⟩ | ⟨x, hx, hc, hfirst⟩
    · refine ⟨fun _ => hn, fun y hy => ?_⟩
      have hnil : y ∈ ([] : List Slice) := he ▸ hy
      exact absurd hnil List.not_mem_nil
    · refine ⟨fun he => ?_, fun y hy => ⟨x, hx, hc, hfirst y hy⟩⟩
      have hnil : x ∈ ([] : List Slice) := he ▸ hx
      exact absurd hnil List.not_mem_nil

end Sys2Proof.Machine
end

section
namespace Sys2Proof

/-! ## Whole words read back (R117, R125 to R128) -/

/-- The flags of R128 read back. -/
theorem SeqFlag.dec_enc {fl : SeqFlag} (h : fl.wf = true) : SeqFlag.dec fl.enc = some fl := by
  cases fl with
  | none => rfl
  | first k =>
    have hk : k ≤ 5 := of_decide_eq_true h
    interval_cases k <;> rfl
  | last k =>
    have hk : k ≤ 5 := of_decide_eq_true h
    interval_cases k <;> rfl

/-- Only a flag of R128 is read. -/
theorem SeqFlag.wf_of_dec {f : BitVec 4} {fl : SeqFlag} (h : SeqFlag.dec f = some fl) : fl.wf = true := by
  unfold SeqFlag.dec at h
  split at h
  · cases h
    rfl
  · split at h
    · cases h
      exact decide_eq_true (by omega)
    · split at h
      · cases h
        exact decide_eq_true (by omega)
      · cases h

theorem SeqFlag.enc_ne_zero {fl : SeqFlag} (h : fl.wf = true) (hn : fl ≠ .none) : fl.enc ≠ 0 := fun h0 => by
  have hdec : SeqFlag.dec fl.enc = some .none := by rw [h0]; rfl
  rw [SeqFlag.dec_enc h] at hdec
  exact hn (Option.some.inj hdec)

/-! ### The fields of a head and of a tail -/

theorem headBits_tl {tl : Nat} (maj mn : Nat) (h : tl < 4) : ((headBits tl maj mn).extractLsb' 14 2).toNat = tl := by
  have hf : (headBits tl maj mn).extractLsb' 14 2 = BitVec.ofNat 2 tl :=
    (BitVec.extractLsb'_append_eq_of_le (by decide)).trans BitVec.extractLsb'_append_eq_left
  rw [hf, BitVec.toNat_ofNat, Nat.mod_eq_of_lt h]

theorem headBits_maj {maj : Nat} (tl mn : Nat) (h : maj < 64) : ((headBits tl maj mn).extractLsb' 8 6).toNat = maj := by
  have hf : (headBits tl maj mn).extractLsb' 8 6 = BitVec.ofNat 6 maj :=
    (BitVec.extractLsb'_append_eq_of_le (by decide)).trans BitVec.extractLsb'_append_eq_right
  rw [hf, BitVec.toNat_ofNat, Nat.mod_eq_of_lt h]

theorem headBits_mn {mn : Nat} (tl maj : Nat) (h : mn < 256) : ((headBits tl maj mn).extractLsb' 0 8).toNat = mn := by
  have hf : (headBits tl maj mn).extractLsb' 0 8 = BitVec.ofNat 8 mn := BitVec.extractLsb'_append_eq_right
  rw [hf, BitVec.toNat_ofNat, Nat.mod_eq_of_lt h]

theorem tail_operands (y : BitVec 32) (f : BitVec 4) (x : BitVec 28) : (y ++ f ++ x : BitVec 64).extractLsb' 0 28 = x :=
  BitVec.extractLsb'_append_eq_right

theorem tail_flag (y : BitVec 32) (f : BitVec 4) (x : BitVec 28) : (y ++ f ++ x : BitVec 64).extractLsb' 28 4 = f :=
  (BitVec.extractLsb'_append_eq_of_le (by decide)).trans BitVec.extractLsb'_append_eq_right

theorem tail_high (y : BitVec 32) (f : BitVec 4) (x : BitVec 28) : (y ++ f ++ x : BitVec 64).extractLsb' 32 32 = y :=
  (BitVec.extractLsb'_append_eq_of_le (by decide)).trans BitVec.extractLsb'_append_eq_left

/-- The form field of a vector tail (R133). -/
theorem tail_form (y : BitVec 32) (f : BitVec 4) (o : WV) : (y ++ f ++ o.enc : BitVec 64).extractLsb' 21 2 = o.src.fm :=
  (extract_low _ 28 o.enc (tail_operands y f o.enc) 21 2 (by decide)).trans o.enc_fm

/-- Only the immediate form of a vector instruction is of format LV (R133). -/
theorem isImmForm_iff (src : Src2) : encVec.isImmForm src = true ↔ src.fm = 2 := by
  cases src <;> simp [encVec.isImmForm, Src2.fm]

/-! ### The decoder takes apart what each format's encoder puts together -/

section
variable {i : Instr} {fl : SeqFlag} {maj mn : Nat} (hm : maj < 64 ∧ mn < 256) (hi : wf i = true) (hfl : fl.wf = true)
include hm hi hfl

/-- What decoding comes to when the tail splits into a flag of R128 and operand bits from which the opcode builds a
well-formed instruction. -/
theorem decode_of_split {k : TailKind} {tl : Nat} {tail w : BitVec 64} (htl : tl < 4) (hk : tailKind maj mn = some k)
    (hs : splitTail k tl tail = some (fl.enc, w)) (hb : build maj mn w = some i) : decode (headBits tl maj mn) tail = some (i, fl) := by
  unfold decode
  simp only [headBits_tl maj mn htl, headBits_maj tl mn hm.1, headBits_mn tl maj hm.2, hk, hs, SeqFlag.dec_enc hfl, hb, hi, if_true]

theorem decode_encNone (hk : tailKind maj mn = some .none) (hb : ∀ w, build maj mn w = some i) :
    decode (encNone maj mn fl).1 (encNone maj mn fl).2 = some (i, fl) := by
  unfold encNone
  split
  case isTrue hnone =>
    subst hnone
    exact decode_of_split hm hi hfl (by decide) hk rfl (hb 0)
  case isFalse hflag =>
    have hlow : (0#48 ++ fl.enc ++ 0#12 : BitVec 64).extractLsb' 0 12 = 0 := BitVec.extractLsb'_append_eq_right
    have hsqf : (0#48 ++ fl.enc ++ 0#12 : BitVec 64).extractLsb' 12 4 = fl.enc :=
      (BitVec.extractLsb'_append_eq_of_le (by decide)).trans BitVec.extractLsb'_append_eq_right
    refine decode_of_split hm hi hfl (by decide) hk ?_ (hb 0)
    simpa [splitTail, hlow, hsqf] using SeqFlag.enc_ne_zero hfl hflag

theorem decode_encHalf {x : BitVec 16} (hk : tailKind maj mn = some .half)
    (hb : ∀ w : BitVec 64, w.extractLsb' 0 16 = x → build maj mn w = some i) :
    decode (encHalf maj mn x fl).1 (encHalf maj mn x fl).2 = some (i, fl) := by
  unfold encHalf
  split
  case isTrue hnone =>
    subst hnone
    exact decode_of_split hm hi hfl (by decide) hk rfl (hb _ BitVec.extractLsb'_append_eq_right)
  case isFalse =>
    have hgap : (0#32 ++ fl.enc ++ 0#12 ++ x : BitVec 64).extractLsb' 16 12 = 0 :=
      (BitVec.extractLsb'_append_eq_of_le (by decide)).trans BitVec.extractLsb'_append_eq_right
    have hsqf : (0#32 ++ fl.enc ++ 0#12 ++ x : BitVec 64).extractLsb' 28 4 = fl.enc :=
      (BitVec.extractLsb'_append_eq_of_le (by decide)).trans
        ((BitVec.extractLsb'_append_eq_of_le (by decide)).trans BitVec.extractLsb'_append_eq_right)
    refine decode_of_split hm hi hfl (by decide) hk ?_ (hb (0#32 ++ fl.enc ++ 0#12 ++ x) BitVec.extractLsb'_append_eq_right)
    simp [splitTail, hgap, hsqf]

theorem decode_encWord {x : BitVec 28} (hk : tailKind maj mn = some .word)
    (hb : ∀ w : BitVec 64, w.extractLsb' 0 28 = x → build maj mn w = some i) :
    decode (encWord maj mn x fl).1 (encWord maj mn x fl).2 = some (i, fl) := by
  unfold encWord
  exact decode_of_split hm hi hfl (by decide) hk (by simp [splitTail, tail_flag]) (hb _ (tail_operands 0 fl.enc x))

theorem decode_encLong {y : BitVec 32} {x : BitVec 28} (hk : tailKind maj mn = some .long)
    (hb : ∀ w : BitVec 64, w.extractLsb' 0 28 = x → w.extractLsb' 32 32 = y → build maj mn w = some i) :
    decode (encLong maj mn y x fl).1 (encLong maj mn y x fl).2 = some (i, fl) := by
  unfold encLong
  exact decode_of_split hm hi hfl (by decide) hk (by simp [splitTail, tail_flag]) (hb _ (tail_operands y fl.enc x) (tail_high y fl.enc x))

theorem decode_encVec {o : WV} (hk : tailKind maj mn = some .vec)
    (hb : ∀ w : BitVec 64, w.extractLsb' 0 28 = o.enc → w.extractLsb' 32 32 = o.src.imm32 → build maj mn w = some i) :
    decode (encVec maj mn o fl).1 (encVec maj mn o fl).2 = some (i, fl) := by
  unfold encVec
  refine decode_of_split hm hi hfl (by split <;> decide) hk ?_ (hb _ (tail_operands _ fl.enc o.enc) (tail_high _ fl.enc o.enc))
  simp only [splitTail, tail_form, tail_flag, isImmForm_iff, if_true]

end

namespace Laws

/-- Every well-formed instruction stands in the opcode table; the rows are in the order of the constructors. -/
theorem rowOf_of_wf (i : Instr) : F.Statement i :=
  Instr.casesOn (motive := F.Statement) i
    F.svc F.mfc F.mtc F.mtcTpc F.mtcVtype F.mtcVl F.mtcFrm F.mtcPbnd F.dqput F.dqget F.xqput F.xqget F.bqput F.phase F.fence F.bar
    F.add F.sub F.and F.or F.xor F.sll F.srl F.sra F.slt F.sltn F.mul F.mulh F.mulhn F.div F.divn F.rem F.remn F.min F.max F.minn
    F.maxn F.popc F.clz F.ctz F.fadd F.fsub F.fmul F.fdiv F.fsqrt F.fmin F.fmax F.feq F.flt F.fle F.fsgnj F.fmadd F.fmsub F.fnmadd
    F.fnmsub F.fcvt F.nspawn F.nspawnW F.addi F.andi F.ori F.xori F.slli F.srli F.srai F.slti F.sltni F.limm F.pcaddr F.beq F.bne F.blt
    F.bge F.bltn F.bgen F.jal F.jalr F.bqx F.seqlev F.seqbind F.seqstride F.seqrun F.seqhalt F.ldS8 F.ldS16 F.ldS32 F.ldS64 F.ldN8
    F.ldN16 F.ldN32 F.stN8 F.stN16 F.stN32 F.stN64 F.ldq F.atswap F.atadd F.atand F.ator F.atxor F.atmin F.atmax F.atminn F.atmaxn
    F.atcas F.vstream F.vstreamSt F.vsunbind F.vld F.vst F.vlds F.vsts F.vldx F.vstx F.vldu F.vstu F.vldbp F.vstbp F.sldsc F.sstsc
    F.vspill F.vfill F.vldf F.vstf F.folbind F.folrel F.folfill F.foldrain F.vldView F.vregView F.vdropView F.vwaitView F.vsetvl
    F.vsettype F.vadd F.vsub F.vrsub F.vmul F.vmulh F.vmin F.vmax F.vand F.vor F.vxor F.vadds F.vsubs F.vabs F.vavg F.vsll F.vsrl
    F.vsra F.vsrar F.vsrlr F.vnsra F.vfunl F.vfunr F.vmac F.vmacs F.vdot2 F.vdot2s F.vdot4 F.vdot4s F.vceq F.vcne F.vclt F.vcle F.vcgt
    F.vcge F.mand F.mor F.mxor F.mnot F.mpopc F.vslup F.vsldn F.vcompress F.vexpand F.viota F.vgather F.vmerge F.vmv F.vredsum
    F.vredsums F.vredmax F.vredmin F.vredand F.vredor F.vredxor F.vscan F.vfadd F.vfsub F.vfmul F.vfdiv F.vfsqrt F.vfmin F.vfmax
    F.vfabs F.vfneg F.vfsgnj F.vfma F.vfms F.vfnma F.vfnms F.vcvt F.vcvtz F.vquant F.vdeq F.vfredsum F.vfredmax F.vfredmin F.vfscan
    F.vfred2 F.vblk F.lfetch F.mmode F.mexit F.tcfg F.trel F.tmvr F.tmvc F.tld F.tst F.mop F.mopsp F.mopneg F.accmv F.accPeek F.acczero
    F.accsp F.accfl F.gcvt F.gadd F.gsub F.gscale F.gsettag F.gtagof F.fnew F.fmove F.fsplit F.fdel F.fdelAdopt F.fdelFwd F.freclaim
    F.fread F.xcopy F.xput F.xputW F.xreduce F.xcopyView F.zenc F.zdec F.cbinit F.cbarrive F.cbwait F.cbtest F.pput F.ptake F.ptakeW
    F.pbnd F.pstat F.pdrain F.nop F.nend F.tret F.brk F.vjoin F.lstop F.barrierComplete F.spawnQueueMade F.lineEntry F.streamChunkFill
    F.streamEgLanded F.folioFillComplete F.folioFillFault F.folioDrainComplete F.laneFault F.sliceIssue F.mmodeGrant
    F.matrixQueueComplete F.xcopyComplete F.putWaitAccept F.putSourceRead F.putPacketLand F.putComplete F.collectiveForm
    F.zcodecComplete F.cbFlipObserved F.roundBoundary F.poolSteal F.poolPutWake F.dispatch F.priorityAging F.resumeListPost
    F.resumeListTake F.continuationReady F.crossDieEdge F.queueStallTimeout F.trapEntry F.pageFaultService F.laneReexecute F.scrub
    F.dieCacheEvict F.tlbShootdown F.pageMigration F.pageSwitch F.viewRefreshRead F.viewRefreshPublish F.pathArbitration F.preempt
    F.preemptResume F.nodeEnded F.codePageHashFail F.tetherPeerEnd F.version F.launch F.waitForLaunch F.poolCreate F.poolEnd
    F.tetherGrant F.tetherRevoke F.mapMemory F.unmap F.log F.attestationQuote F.enrolSigningKey F.clearBootRecordAlternatives
    F.unknownService F.codexLoad F.hostMailboxRequest F.quoteRequest F.packageStart F.powerLoss F.xcopyViewComplete F.partitionCreate
    F.partitionResize F.debugStep

/-- An instruction of the opcode table is read back from its encoding, whichever its format is. -/
theorem RowOf.decode_encode {i : Instr} {fl : SeqFlag} {h : BitVec 16} {w : BitVec 64} (r : RowOf i) (hi : wf i = true)
    (hfl : fl.wf = true) (he : encode i fl = some (h, w)) : decode h w = some (i, fl) := by
  cases r with
  | step henc => exact absurd ((henc fl).symm.trans he) (by simp)
  | none maj mn hm hk henc hb =>
    simpa only [Option.some.inj ((henc fl).symm.trans he)] using decode_encNone hm hi hfl hk hb
  | half maj mn x hm hk henc hb =>
    simpa only [Option.some.inj ((henc fl).symm.trans he)] using decode_encHalf hm hi hfl hk hb
  | word maj mn x hm hk henc hb =>
    simpa only [Option.some.inj ((henc fl).symm.trans he)] using decode_encWord hm hi hfl hk hb
  | long maj mn y x hm hk henc hb =>
    simpa only [Option.some.inj ((henc fl).symm.trans he)] using decode_encLong hm hi hfl hk hb
  | vec maj mn o hm hk henc hb =>
    simpa only [Option.some.inj ((henc fl).symm.trans he)] using decode_encVec hm hi hfl hk hb

end Laws

/-- Decoding ends with the field rules (R141), so that what it gives meets them. -/
theorem wf_of_decode {h : BitVec 16} {w : BitVec 64} {i : Instr} {fl : SeqFlag} (hd : decode h w = some (i, fl)) :
    wf i = true ∧ fl.wf = true := by
  unfold decode at hd
  dsimp only at hd
  split at hd
  · cases hd
  · split at hd
    · cases hd
    · split at hd
      case h_1 hflag _ =>
        split at hd
        case isTrue hwf =>
          cases hd
          exact ⟨hwf, SeqFlag.wf_of_dec hflag⟩
        case isFalse => cases hd
      case h_2 => cases hd

/-- Settles O53: each instruction's row of the opcode table, and one read-back lemma for each kind of tail. -/
theorem encodeDecodeRoundTrip : Obligations.EncodeDecodeRoundTrip :=
  ⟨fun i _ _ _ hi hfl he => (Laws.rowOf_of_wf i hi).decode_encode hi hfl he, fun _ _ _ _ hd => wf_of_decode hd⟩

/-! ## A line that holds one instruction (R116, R118, R119) -/

theorem tailLen_le (tl : BitVec 2) : tailLen tl.toNat ≤ 4 := by
  have := tl.isLt
  unfold tailLen
  split <;> omega

theorem length_valueHalves (k v : Nat) : (valueHalves k v).length = k := by
  induction k generalizing v with
  | zero => rfl
  | succ k ih => exact congrArg (· + 1) (ih _)

/-- The half-words of a value give the value back as far as they reach. -/
theorem halvesValue_valueHalves (k v : Nat) : halvesValue (valueHalves k v) = v % 2 ^ (16 * k) := by
  induction k generalizing v with
  | zero => simp [valueHalves, halvesValue, Nat.mod_one]
  | succ k ih => rw [valueHalves, halvesValue, ih, BitVec.toNat_ofNat, Nat.mul_succ, Nat.add_comm (16 * k), pow_add, Nat.mod_mul]

/-- The tail that a line of one instruction holds at its top. -/
theorem tailBits_oneLine (h : BitVec 16) (w : BitVec 64) (hw : w.toNat < 2 ^ (16 * tailLen (h.extractLsb' 14 2).toNat)) :
    tailBits (oneLine h w) 0 (tailLen (h.extractLsb' 14 2).toNat) = w := by
  have hlen := tailLen_le (h.extractLsb' 14 2)
  unfold tailBits oneLine
  generalize tailLen (h.extractLsb' 14 2).toNat = l at hw hlen ⊢
  have htop : (h :: (List.replicate (31 - l) 0 ++ valueHalves l w.toNat)).drop (32 - 0 - l) = valueHalves l w.toNat := by
    rw [show 32 - 0 - l = (31 - l) + 1 by omega, List.drop_succ_cons, List.drop_left' (List.length_replicate ..)]
  have htake : (valueHalves l w.toNat).take l = valueHalves l w.toNat := List.take_of_length_le (length_valueHalves l _).le
  dsimp only
  rw [htop, htake, halvesValue_valueHalves, Nat.mod_eq_of_lt hw, BitVec.ofNat_toNat, BitVec.setWidth_eq]

/-- Behind its only head a line of one instruction holds lend, which ends it (R119). -/
theorem halfWord_oneLine_one (h : BitVec 16) (w : BitVec 64) : halfWord (oneLine h w) 1 = 0 := by
  have hlen := tailLen_le (h.extractLsb' 14 2)
  unfold halfWord oneLine
  rw [List.getD_cons_succ, show 31 - tailLen (h.extractLsb' 14 2).toNat = (30 - tailLen (h.extractLsb' 14 2).toNat) + 1 by omega,
    List.replicate_succ]
  rfl

theorem lineFrom_lend {line : Line} {i t : Nat} (fuel : Nat) (h : halfWord line i = 0) : lineFrom line (fuel + 1) i t = .ok [] := by
  unfold lineFrom
  simp [h]

theorem lineHeads_oneLine (h : BitVec 16) (w : BitVec 64) (hop : h.extractLsb' 8 8 ≠ 0)
    (hw : w.toNat < 2 ^ (16 * tailLen (h.extractLsb' 14 2).toNat)) : lineHeads (oneLine h w) = .ok [(h, w)] := by
  have hlen := tailLen_le (h.extractLsb' 14 2)
  have hhead : halfWord (oneLine h w) 0 = h := rfl
  unfold lineHeads lineFrom
  simp only [hhead, hop, lineFrom_lend 30 (halfWord_oneLine_one h w), tailBits_oneLine h w hw, if_false,
    show ¬ 0 + 1 + 0 + tailLen (h.extractLsb' 14 2).toNat > 32 by omega, show ¬ 0 + 0 = 32 by omega]

/-- Settles O54: the words by running the decoder on them, the line by its one head and the tail at its top. -/
theorem encodedWords : Obligations.EncodedWords := by
  refine ⟨?_, ?_, ?_, ?_, ?_, ?_, ?_, ?_, ?_, ?_, lineHeads_oneLine⟩
  all_goals decide

end Sys2Proof
end

section
namespace Sys2Proof.Machine

/-! ## s registers (R132, R163) -/

theorem getS_zero (s : State) : getS s 0 = 0 := if_pos rfl

/-- A write to s0 is lost. -/
theorem setS_zero_s (s : State) (v : Word) : (setS s 0 v).t.s = s.t.s := by
  unfold setS
  split
  · split <;> rfl
  · rfl

theorem Thread.putS_s (t : Thread) {r : BitVec 5} (hr : r ≠ 0) (v : Word) : (t.putS r v).s = t.s.set r.toNat v r.isLt := by
  unfold Thread.putS
  rw [if_neg hr]

/-- A register reads what was last written to it, outside a queued instruction. -/
theorem getS_setS {s : State} {r : BitVec 5} (q : BitVec 5) (v : Word) (hx : s.t.xctx = none) (hr : r ≠ 0) :
    getS (setS s r v) q = if q = r then v else getS s q := by
  have hset : (setS s r v).t.s = s.t.s.set r.toNat v r.isLt := by
    unfold setS
    rw [hx]
    exact Thread.putS_s s.t hr v
  unfold getS
  simp only [setS_t_xctx, hx, hset]
  by_cases hqr : q = r
  · subst hqr
    rw [if_neg hr, if_pos rfl]
    exact Vector.getElem_set_self _
  · have hne : r.toNat ≠ q.toNat := fun h => hqr (BitVec.eq_of_toNat_eq h.symm)
    rw [if_neg hqr, Vector.getElem_set_ne _ _ hne]

/-- Settles O1: reads and writes of the register file, and the frames' own wait for a pending source. -/
theorem scalarRegistersAndWaits : Obligations.ScalarRegistersAndWaits := by
  refine ⟨fun s r q v => ⟨getS_zero s, setS_zero_s s v, fun hx hr => getS_setS q v hx hr⟩,
    fun o p b s => ⟨fun h => ?_, fun h => ?_, fun h => ?_, fun h => ?_⟩⟩
  · change execAdd o s = _ ∧ execJalr o s = _ ∧ execDqput o s = _ ∧ execBqput o s = _
    unfold execAdd intOp execJalr execDqput execBqput
    exact ⟨accessOp_waits _ (List.mem_cons_self ..) h, jumpOp_waits _ (List.mem_cons_self ..) h,
      accessOp_waits _ (List.mem_cons_self ..) h, accessOp_waits _ (List.mem_cons_self ..) h⟩
  · change execAddi p s = _ ∧ execLdS64 p s = _ ∧ execLdq p s = _
    unfold execAddi immOp execLdS64 loadOp execLdq
    exact ⟨accessOp_waits _ (List.mem_cons_self ..) h, accessOp_waits _ (List.mem_cons_self ..) h,
      accessOp_waits _ (List.mem_cons_self ..) h⟩
  · change execStN64 p s = _
    unfold execStN64 storeOp
    exact accessOp_waits _ (List.mem_cons_of_mem _ (List.mem_cons_self ..)) h
  · change execBeq b s = _
    unfold execBeq branchOp
    exact jumpOp_waits _ (List.mem_cons_of_mem _ (List.mem_cons_self ..)) h

end Sys2Proof.Machine
end

section
namespace Sys2Proof.Machine

/-! ## Addresses of lines and heads (R116, R122, R123) -/

/-- The line of an address. -/
theorem lineOf_toNat (pc : Word) : (pc &&& ~~~(63 : Word)).toNat = pc.toNat / 64 * 64 := by
  have hmask : ~~~(63 : Word) = BitVec.allOnes 64 <<< 6 := by decide
  have hdiv : pc &&& ~~~(63 : Word) = (pc >>> 6) <<< 6 := by
    rw [hmask]
    ext i hi
    simp only [BitVec.getElem_and, BitVec.getElem_shiftLeft, BitVec.getElem_allOnes, BitVec.getElem_ushiftRight]
    by_cases h6 : i < 6
    · simp [h6]
    · simp [h6, show 6 + (i - 6) = i by omega, BitVec.getLsbD_eq_getElem hi]
  rw [hdiv]
  have := pc.isLt
  simp only [BitVec.toNat_shiftLeft, BitVec.toNat_ushiftRight, Nat.shiftLeft_eq, Nat.shiftRight_eq_div_pow]
  omega

/-- The index of the head that a PC points to. -/
theorem headIndex_toNat (pc : Word) : (pc.extractLsb' 1 5).toNat = pc.toNat % 64 / 2 := by
  rw [BitVec.extractLsb'_toNat, Nat.shiftRight_eq_div_pow]
  omega

/-- The relative target of R123, exactly and then as an address. -/
theorem relTarget_eq (pc : Word) (ld : Int) (hd : Nat) :
    relTarget pc ld hd = BitVec.ofInt 64 (((pc.toNat / 64 * 64 : Nat) : Int) + ld * 64 + 2 * hd) := by
  have hline : pc &&& ~~~(63 : Word) = BitVec.ofInt 64 ((pc.toNat / 64 * 64 : Nat) : Int) := by
    rw [← lineOf_toNat, BitVec.ofInt_natCast, BitVec.ofNat_toNat, BitVec.setWidth_eq]
  have hhead : BitVec.ofNat 64 (hd * 2) = BitVec.ofInt 64 (2 * (hd : Int)) := by
    rw [← BitVec.ofInt_natCast]
    exact congrArg _ (by push_cast; ring)
  unfold relTarget
  rw [hline, hhead, BitVec.ofInt_add, BitVec.ofInt_add]

end Sys2Proof.Machine
end

section
namespace Sys2Proof.Machine

/-! ## Immediate operations, limm and pcaddr (R166 to R168) -/

theorem immOp_writes {f : Word → Int → Word} (o : WI) {s : State} (h : settledFor [o.fa] s) {v : Word}
    (hv : f (getS s o.fa) o.imm.toInt = v) : immOp f o s = writesS s o.fd v := by
  subst hv
  exact accessOp_ok h rfl

/-- The count of a shift is IMM18[5:0]. -/
theorem shiftOp_writes {f : Word → Nat → Word} (o : WI) {s : State} (h : settledFor [o.fa] s) {v : Word}
    (hv : f (getS s o.fa) (o.imm.toNat % 64) = v) : shiftOp f o s = writesS s o.fd v := by
  have hcount : (o.imm.extractLsb' 0 6).toNat = o.imm.toNat % 64 := BitVec.extractLsb'_toNat 0 6 o.imm
  rw [← hcount] at hv
  subst hv
  exact accessOp_ok h rfl

/-- An addition of exact values, of which the first may be read with either sign (R164). -/
theorem truncW_toNat_add (a : Word) (k : Int) : truncW (a.toNat + k) = BitVec.ofInt 64 (a.toInt + k) := by
  rw [truncW, BitVec.ofInt_add, BitVec.ofInt_add, BitVec.ofInt_toInt, BitVec.ofInt_natCast, BitVec.ofNat_toNat, BitVec.setWidth_eq]

theorem shiftLeft_eq_mul (a : Word) (n : Nat) : a <<< n = BitVec.ofNat 64 (a.toNat * 2 ^ n) := by
  apply BitVec.eq_of_toNat_eq
  rw [BitVec.toNat_shiftLeft, Nat.shiftLeft_eq, BitVec.toNat_ofNat]

theorem ushiftRight_eq_div (a : Word) (n : Nat) : a >>> n = BitVec.ofNat 64 (a.toNat / 2 ^ n) := by
  apply BitVec.eq_of_toNat_eq
  rw [BitVec.toNat_ushiftRight, Nat.shiftRight_eq_div_pow, BitVec.toNat_ofNat,
    Nat.mod_eq_of_lt (lt_of_le_of_lt (Nat.div_le_self ..) a.isLt)]

theorem sshiftRight_eq_div (a : Word) (n : Nat) : a.sshiftRight n = BitVec.ofInt 64 (a.toInt / (2 ^ n : Nat)) := by
  rw [BitVec.sshiftRight, Int.shiftRight_eq_div_pow]

theorem bit_decide (p : Prop) [Decidable p] : bit (decide p) = if p then 1 else 0 := by
  by_cases h : p <;> simp [bit, h]

/-- A comparison with the unsigned value of a sign-extended immediate. -/
theorem lt_truncW_iff (n : Nat) (k : Int) : n < (truncW k).toNat ↔ (n : Int) < k % 2 ^ 64 := by
  rw [truncW, BitVec.toNat_ofInt]
  omega

/-- Settles O3: each operation writes what its form computes, which is the exact result of the table in 64 bits. -/
theorem scalarImmediateResults : Obligations.ScalarImmediateResults := by
  have hset : ∀ s, settledFor [] s := fun _ _ hr => absurd hr List.not_mem_nil
  refine ⟨fun o s h => ⟨?_, ?_, ?_, ?_, ?_, ?_, ?_, ?_, ?_⟩, fun o s => ?_, fun o s => ?_⟩
  · change execAddi o s = _
    exact immOp_writes o h (truncW_toNat_add _ _)
  · change execAndi o s = _
    exact immOp_writes o h rfl
  · change execOri o s = _
    exact immOp_writes o h rfl
  · change execXori o s = _
    exact immOp_writes o h rfl
  · change execSlli o s = _
    exact shiftOp_writes o h (shiftLeft_eq_mul _ _)
  · change execSrli o s = _
    exact shiftOp_writes o h (ushiftRight_eq_div _ _)
  · change execSrai o s = _
    exact shiftOp_writes o h (sshiftRight_eq_div _ _)
  · change execSlti o s = _
    exact immOp_writes o h (bit_decide _)
  · change execSltni o s = _
    exact immOp_writes o h ((bit_decide _).trans (if_congr (lt_truncW_iff _ _) rfl rfl))
  · change execLimm o s = _
    unfold execLimm
    exact accessOp_ok (hset s) rfl
  · dsimp only
    rw [← relTarget_eq]
    change execPcaddr o s = _
    unfold execPcaddr
    exact accessOp_ok (hset s) rfl

end Sys2Proof.Machine
end

section
namespace Sys2Proof.Machine

/-! ## Branches, jalr and the next PC (R122, R169 to R171) -/

/-- A branch goes to its target when its condition holds of the sources, and to the next PC otherwise (R169). -/
theorem branchOp_does {taken : Word → Word → Bool} (o : WB) {s : State} (h : settledFor [o.fa, o.fb] s) (p : Prop) [Decidable p]
    (hp : taken (getS s o.fa) (getS s o.fb) = true ↔ p) :
    branchOp taken o s = .next (if p then
      { jumpTo s (BitVec.ofInt 64 ((s.t.pc.toNat / 64 * 64 : Nat) + o.ld.toInt * 64 + 2 * o.hd.toNat)) with stalled := false }
      else passed s) := by
  rw [← relTarget_eq]
  by_cases hc : p
  · rw [if_pos hc]
    exact jumpOp_ok h (if_pos (hp.2 hc))
  · rw [if_neg hc]
    exact jumpOp_ok h (if_neg (mt hp.1 hc))

/-- The next PC of an entered line: the next head if it is executable, otherwise the following line. -/
theorem nextPc_toNat {pc : Word} {l : Line} {hs : List (BitVec 16 × BitVec 64)} (hl : lineHeads l = .ok hs)
    (htop : pc.toNat + 64 < 2 ^ 64) :
    (nextPc pc l).toNat = if pc.toNat % 64 / 2 + 1 < hs.length then pc.toNat + 2 else pc.toNat / 64 * 64 + 64 := by
  unfold nextPc
  simp only [hl, headIndex_toNat]
  split
  · rw [BitVec.toNat_add, Nat.mod_eq_of_lt (by simpa using by omega)]
    rfl
  · have hlt : (pc &&& ~~~(63 : Word)).toNat + (64 : Word).toNat < 2 ^ 64 := by
      rw [lineOf_toNat]
      change _ + 64 < _
      omega
    rw [BitVec.toNat_add, Nat.mod_eq_of_lt hlt, lineOf_toNat]
    rfl

/-- Settles O5: a branch by its condition on the settled sources, jalr by the frame of jumps, the next PC by the heads of its line. -/
theorem branchesJumpsAndNextPc : Obligations.BranchesJumpsAndNextPc := by
  refine ⟨⟨fun o s h => ?_, fun o s h => ?_⟩, fun pc l hs hl _ htop => nextPc_toNat hl htop⟩
  · change execBeq o s = _ ∧ execBne o s = _ ∧ execBlt o s = _ ∧ execBge o s = _ ∧ execBltn o s = _ ∧ execBgen o s = _
    unfold execBeq execBne execBlt execBge execBltn execBgen
    exact ⟨branchOp_does o h _ beq_iff_eq, branchOp_does o h _ bne_iff_ne, branchOp_does o h _ decide_eq_true_iff,
      branchOp_does o h _ decide_eq_true_iff, branchOp_does o h _ decide_eq_true_iff, branchOp_does o h _ decide_eq_true_iff⟩
  · change execJalr o s = _
    unfold execJalr
    exact jumpOp_ok h rfl

end Sys2Proof.Machine
end

section
namespace Sys2Proof.Machine

/-! ## The entry of a line (R119 to R122) -/

section
variable {s : State} {l : Line} {s1 : State}

theorem enterOwn_oddPc (h : s.t.pc.getLsbD 0 = true) : enterOwn s = .trap (lineTrap 0x20) s := by
  unfold enterOwn enterLine
  rw [if_pos h]

variable (heven : s.t.pc.getLsbD 0 = false) (hf : fetchLine s (s.t.pc &&& ~~~(63 : Word)) = .ok l s1)
include heven hf

theorem enterOwn_badLine {k : Nat} (hl : lineHeads l = .error k) : enterOwn s = .trap (lineTrap k) s1 := by
  unfold enterOwn enterLine
  simp only [heven, hf, hl]
  rfl

/-- The check of a fetched line of good format: only the index of its PC is left to look at. -/
theorem enterLine_goodLine {hs : List (BitVec 16 × BitVec 64)} (hl : lineHeads l = .ok hs) (seq : Bool) :
    enterLine s s.t.pc seq false = if hs.length ≤ s.t.pc.toNat % 64 / 2 ∧ !(seq && s.t.pc.toNat % 64 / 2 == 0) then
      .bad (lineTrap (s.t.pc.toNat % 64 / 2)) s1 else .ok l s1 := by
  unfold enterLine
  simp only [heven, hf, hl, headIndex_toNat]
  rfl

theorem enterOwn_pastHeads {hs : List (BitVec 16 × BitVec 64)} (hl : lineHeads l = .ok hs) (hpast : hs.length ≤ s.t.pc.toNat % 64 / 2)
    (hjump : sequential s = false ∨ s.t.pc.toNat % 64 / 2 ≠ 0) : enterOwn s = .trap (lineTrap (s.t.pc.toNat % 64 / 2)) s1 := by
  have hc : (!(sequential s && s.t.pc.toNat % 64 / 2 == 0)) = true := by
    rcases hjump with h | h
    · simp [h]
    · simp [beq_false_of_ne h]
  unfold enterOwn
  rw [enterLine_goodLine heven hf hl, if_pos ⟨hpast, hc⟩]

theorem enterOwn_atHead {hs : List (BitVec 16 × BitVec 64)} (hl : lineHeads l = .ok hs) (hin : s.t.pc.toNat % 64 / 2 < hs.length) :
    enterOwn s = .ok (s1.updT fun t => { t with line := some (s.t.pc &&& ~~~(63 : Word), l), flows := false }) := by
  unfold enterOwn
  rw [enterLine_goodLine heven hf hl, if_neg (fun h => absurd h.1 (Nat.not_le.2 hin))]
  cases hs with
  | nil => exact absurd hin (Nat.not_lt_zero _)
  | cons x xs => simp only [hl]

/-- A PC at head 0 is the address of its line. -/
theorem enterOwn_emptyLine (hl : lineHeads l = .ok []) (hzero : s.t.pc.toNat % 64 / 2 = 0) (hseq : sequential s = true) :
    enterOwn s = .ok (s1.updT fun t => { t with line := some (s.t.pc, l), pc := s.t.pc + 64, flows := false }) := by
  have hbit : s.t.pc.toNat % 2 = 0 := by
    have h0 : decide (s.t.pc.toNat % 2 = 1) = false := by
      rw [← Nat.testBit_zero]
      exact heven
    have := of_decide_eq_false h0
    omega
  have hpc : s.t.pc &&& ~~~(63 : Word) = s.t.pc := BitVec.eq_of_toNat_eq (by rw [lineOf_toNat]; omega)
  unfold enterOwn
  rw [enterLine_goodLine heven hf hl, if_neg (by simp [hseq, hzero])]
  simp only [hl, hpc]

end

theorem lineEntry_ok {s s1 : State} (hne : entered s = false) (he : enterOwn s = .ok s1) :
    exec .lineEntry s = .next { s1 with stalled := false } := by
  change execLineEntry s = _
  unfold execLineEntry
  rw [if_neg (by simp [hne]), he]
  rfl

theorem lineEntry_trap {s s1 : State} {tr : Trap} (hne : entered s = false) (hx : xBusy s = false) (he : enterOwn s = .trap tr s1) :
    exec .lineEntry s = .next { takeTrap tr s1 with stalled := false } := by
  change execLineEntry s = _
  unfold execLineEntry
  rw [if_neg (by simp [hne]), he]
  exact congrArg Host.Outcome.next (finish_trap hx)

/-- Settles O13: the checks of R120 and R121 in their order, each with the trap that LINE_ENTRY takes at once. -/
theorem lineEntryChecks : Obligations.LineEntryChecks := by
  intro s hne hx _
  refine ⟨fun hodd => lineEntry_trap hne hx (enterOwn_oddPc hodd), fun heven l s1 hf =>
    ⟨fun k hl => lineEntry_trap hne hx (enterOwn_badLine heven hf hl), fun hs hl => ⟨fun hpast hjump => ?_, fun hin => ?_, ?_⟩⟩⟩
  · exact lineEntry_trap hne hx (enterOwn_pastHeads heven hf hl hpast hjump)
  · exact lineEntry_ok hne (enterOwn_atHead heven hf hl hin)
  · rintro rfl hzero hseq
    exact lineEntry_ok hne (enterOwn_emptyLine heven hf hl hzero hseq)

end Sys2Proof.Machine
end

section
namespace Sys2Proof.Machine

/-! ## Addresses that an access refuses (R155 to R158, R202, R402) -/

/-- A canonical address repeats bit 56 above it. -/
theorem canonical_iff (va : Word) : canonical va = true ↔ ∀ b, 57 ≤ b → b < 64 → va.getLsbD b = va.getLsbD 56 := by
  have hbit : ∀ j < 8, (va.extractLsb' 56 8).getLsbD j = va.getLsbD (56 + j) := fun j hj => by simp [hj]
  have hones : ∀ j < 8, (0xFF : BitVec 8).getLsbD j = true := by decide
  simp only [canonical, Bool.or_eq_true, beq_iff_eq]
  constructor
  · rintro (h | h) b hlo hhi <;> rw [h] at hbit
    · have h1 := hbit (b - 56) (by omega)
      rw [show 56 + (b - 56) = b by omega] at h1
      rw [← h1, ← hbit 0 (by omega)]
      simp
    · have h1 := hbit (b - 56) (by omega)
      rw [show 56 + (b - 56) = b by omega] at h1
      rw [← h1, ← hbit 0 (by omega), hones _ (by omega), hones _ (by omega)]
  · intro h
    have hall : ∀ j < 8, va.getLsbD (56 + j) = va.getLsbD 56 := fun j hj => by
      rcases Nat.eq_zero_or_pos j with rfl | hpos
      · rfl
      · exact h _ (by omega) (by omega)
    cases htop : va.getLsbD 56 with
    | false =>
      refine .inl (BitVec.eq_of_getLsbD_eq fun j hj => ?_)
      rw [hbit j hj, hall j hj, htop]
      simp
    | true =>
      refine .inr (BitVec.eq_of_getLsbD_eq fun j hj => ?_)
      rw [hbit j hj, hall j hj, htop, hones j hj]

theorem translate_not_canonical {s : State} {va : Word} (h : canonical va = false) (w : Who) (acc : Access) :
    translate s w acc va = .fault 0x04 s := if_pos h

theorem translate_guarded {s : State} {w : Who} {va : Word} (h : guarded s w.part w.pkg va = true) (acc : Access) :
    translate s w acc va = .fault 0x04 s := by
  by_cases hc : canonical va = false
  · exact translate_not_canonical hc w acc
  · rw [translate, if_neg hc, if_pos h]

theorem field_pkg (pa : Nat) : field pa 51 44 = pa / 2 ^ 44 % 2 ^ 8 := by
  rw [field, Nat.shiftRight_eq_div_pow]

/-- The last check of R154: an address outside the package's populated memory is refused. -/
theorem ite_outside (pa pkg : Nat) (a b : Translated) : (if field pa 51 44 ≠ pkg ∨ populated pa = false then a else b) =
    if pa / 2 ^ 44 % 2 ^ 8 = pkg ∧ populated pa = true then b else a := by
  rw [field_pkg, ← ite_not]
  congr 1
  simp only [ne_eq, not_or, not_not, Bool.not_eq_false]

section
variable {s : State} {w : Who} {c : Nat} {va : Word} (hw : w.core = some c) (hc : canonical va = true)
  (hg : guarded s w.part w.pkg va = false)

include hw hc hg in
/-- The entry of the core's own TLB answers first (log 10). -/
theorem translate_hit {e : TlbEntry} (acc : Access)
    (he : ((tlbEntries s c).find? fun e => e.hits w.part w.pkg (va.toNat % 2 ^ 57)) = some e) : translate s w acc va =
      if e.allows acc = false then .fault 0x04 s
      else if acc = .store ∧ e.dirty = false then translateWalk s w acc va
      else if field (e.pa + va.toNat % 2 ^ 57 % 2 ^ e.size) 51 44 ≠ w.pkg ∨ populated (e.pa + va.toNat % 2 ^ 57 % 2 ^ e.size) = false then .fault 0x04 s
      else .ok (e.pa + va.toNat % 2 ^ 57 % 2 ^ e.size) s := by
  unfold translate
  rw [if_neg (by simp [hc]), if_neg (by simp [hg])]
  simp only [hw, he, Option.orElse_some]

include hw hc hg in
/-- Without an entry in either TLB the tables are walked. -/
theorem translate_miss (acc : Access)
    (he : ((tlbEntries s c).find? fun e => e.hits w.part w.pkg (va.toNat % 2 ^ 57)) = none)
    (hd : ((tlbEntries s (dieTlb w.die)).find? fun e => e.hits w.part w.pkg (va.toNat % 2 ^ 57)) = none) :
    translate s w acc va = translateWalk s w acc va := by
  unfold translate
  rw [if_neg (by simp [hc]), if_neg (by simp [hg])]
  simp only [hw, he, hd, Option.orElse_none]

end

/-- Settles O20: translation's checks in their order, with the entry that answers or the walk that no entry spares. -/
theorem translationRules : Obligations.TranslationRules := by
  intro s w c acc va hw
  refine ⟨canonical_iff va, fun h => translate_not_canonical h w acc, fun h => translate_guarded h acc, fun hc hg =>
    ⟨fun e he => ⟨fun hno => ?_, fun hyes hdirty => ?_⟩, fun he hd => ⟨fun hwalk => ?_, fun hwalk => ?_⟩⟩⟩
  · rw [translate_hit hw hc hg acc he, if_pos hno]
  · rw [translate_hit hw hc hg acc he, if_neg (by simp [hyes]), if_neg (fun h => by simp [hdirty h.1] at h)]
    exact ite_outside ..
  · rw [translate_miss hw hc hg acc he hd, translateWalk, hwalk]
  · rw [translate_miss hw hc hg acc he hd, translateWalk, hwalk]

/-! ## The faults of a scalar access (R202, R435) -/

/-- A walk gives no other classes than Protection and the page fault. -/
theorem translateWalk_fault_class {s u : State} {w : Who} {acc : Access} {va : Word} {c : Nat} (h : translateWalk s w acc va = .fault c u) :
    c = 0x04 ∨ c = 0x05 := by
  unfold translateWalk at h
  dsimp only at h
  split at h
  · injection h with hcls _
    exact .inr hcls.symm
  · injection h with hcls _
    exact .inl hcls.symm
  · split at h
    · injection h with hcls _
      exact .inl hcls.symm
    · split at h
      · injection h with hcls _
        exact .inl hcls.symm
      · exact nomatch h

theorem translate_fault_class {s u : State} {w : Who} {acc : Access} {va : Word} {c : Nat} (h : translate s w acc va = .fault c u) :
    c = 0x04 ∨ c = 0x05 := by
  have hprot : ∀ {x : State}, Translated.fault 0x04 x = .fault c u → c = 0x04 ∨ c = 0x05 := fun h => by
    injection h with hcls _
    exact .inl hcls.symm
  unfold translate at h
  split at h
  · exact hprot h
  · split at h
    · exact hprot h
    · dsimp only at h
      split at h
      · split at h
        · exact hprot h
        · split at h
          · exact translateWalk_fault_class h
          · split at h
            · exact hprot h
            · exact nomatch h
      · exact translateWalk_fault_class h

section
variable {s : State} {va : Word} (acc : Access) {n : Nat} (elem : Nat)

theorem keyOf_not_canonical (h : canonical va = false) : keyOf s acc va n elem = .bad (addrTrap 0x04 va elem) s := if_pos h

theorem keyOf_misaligned (hc : canonical va = true) (h : va.toNat % n ≠ 0) : keyOf s acc va n elem = .bad (addrTrap 0x03 va elem) s := by
  unfold keyOf
  rw [if_neg (by simp [hc]), if_pos h]

theorem keyOf_guarded (hc : canonical va = true) (ha : va.toNat % n = 0) (h : guardedIn s s.t.part (pkgOf s.t.core) va.toNat n ≠ none) :
    keyOf s acc va n elem = .bad (addrTrap 0x04 va elem) s := by
  unfold keyOf
  rw [if_neg (by simp [hc]), if_neg (by simp [ha]), if_pos (Option.isSome_iff_ne_none.2 h)]

/-- A canonical, aligned and unguarded address takes the fault that its translation gives. -/
theorem keyOf_fault {c : Nat} {u : State} (hc : canonical va = true) (ha : va.toNat % n = 0)
    (hg : guardedIn s s.t.part (pkgOf s.t.core) va.toNat n = none) (ht : translate s (me s) acc va = .fault c u) :
    keyOf s acc va n elem = .bad (addrTrap c va elem) u := by
  unfold keyOf
  rw [if_neg (by simp [hc]), if_neg (by simp [ha]), if_neg (by simp [hg])]
  simp only [ht]

end

/-- A load whose address has no key traps, with nothing written. -/
theorem loadOp_faults {n : Nat} (signed : Bool) {o : WI} {s s2 : State} {tr : Trap} (h : settledFor [o.fa] s)
    (hc : conflicts (settleMatrix s) (wiAddr s o) n false = false) (hk : keyOf (settleMatrix s) .load (wiAddr s o) n 0 = .bad tr s2) :
    loadOp n signed o s = .next (finish (.trap tr s2) s) := by
  have hl : loadAt (settleMatrix s) (wiAddr s o) n n 0 = .bad tr s2 := by rw [loadAt, hk]
  rw [loadOp, accessOp_settled _ h, scalarLoad, if_neg (by simp [hc]), hl]
  rfl

/-- A store whose address has no key traps, with nothing stored. -/
theorem storeOp_faults {n : Nat} {o : WI} {s s2 : State} {tr : Trap} (h : settledFor [o.fa, o.fd] s)
    (hc : conflicts (settleMatrix s) (wiAddr s o) n true = false) (hk : keyOf (settleMatrix s) .store (wiAddr s o) n 0 = .bad tr s2) :
    storeOp n o s = .next (finish (.trap tr s2) s) := by
  have hst : storeAt (settleMatrix s) (wiAddr s o) n n 0 (getS s o.fd).toNat = .bad tr s2 := by rw [storeAt, hk]
  rw [storeOp, accessOp_settled _ h, scalarStore, if_neg (by simp [hc]), hst]
  rfl

theorem settledFor_mono {rd rd' : List (BitVec 5)} {s : State} (h : settledFor rd s) (hsub : ∀ r ∈ rd', r ∈ rd) : settledFor rd' s :=
  fun r hr => h r (hsub r hr)

/-- Settles O19: the checks of R202 in their order name the trap, which the frame of scalar accesses takes. -/
theorem scalarAccessFaults : Obligations.ScalarAccessFaults := by
  intro o i s n acc hi va s1 takes hset hconf
  have hfaults : ∀ tr s2, keyOf s1 acc va n 0 = .bad tr s2 → exec i s = .next (finish (.trap tr s2) s) := by
    intro tr s2 hk
    have hload : acc = .load → ∀ signed, loadOp n signed o s = .next (finish (.trap tr s2) s) := fun hacc signed => by
      subst hacc
      exact loadOp_faults signed (settledFor_mono hset (by simp)) hconf hk
    have hstore : acc = .store → storeOp n o s = .next (finish (.trap tr s2) s) := fun hacc => by
      subst hacc
      exact storeOp_faults hset hconf hk
    clear takes
    simp only [List.mem_cons, Prod.mk.injEq, List.not_mem_nil, or_false] at hi
    rcases hi with ⟨rfl, rfl, hacc⟩ | ⟨rfl, rfl, hacc⟩ | ⟨rfl, rfl, hacc⟩ | ⟨rfl, rfl, hacc⟩ | ⟨rfl, rfl, hacc⟩ | ⟨rfl, rfl, hacc⟩ |
      ⟨rfl, rfl, hacc⟩ | ⟨rfl, rfl, hacc⟩ | ⟨rfl, rfl, hacc⟩ | ⟨rfl, rfl, hacc⟩ | ⟨rfl, rfl, hacc⟩
    · exact hload hacc true
    · exact hload hacc true
    · exact hload hacc true
    · exact hload hacc true
    · exact hload hacc false
    · exact hload hacc false
    · exact hload hacc false
    · exact hstore hacc
    · exact hstore hacc
    · exact hstore hacc
    · exact hstore hacc
  refine ⟨fun hc => hfaults _ _ (keyOf_not_canonical acc 0 hc), fun hc ha => hfaults _ _ (keyOf_misaligned acc 0 hc ha),
    fun hc ha hg => hfaults _ _ (keyOf_guarded acc 0 hc ha hg), fun c s2 hc ha hg ht => ⟨hfaults _ _ (keyOf_fault acc 0 hc ha hg ht), translate_fault_class ht⟩⟩

end Sys2Proof.Machine
end

section
namespace Sys2Proof.Machine

/-! ## Elements of bit strings (R4) -/

theorem elemAt_lt (x w i : Nat) : elemAt x w i < 2 ^ w := Nat.mod_lt _ (Nat.two_pow_pos w)

theorem packElems_lt (w : Nat) : ∀ l : List Nat, packElems w l < 2 ^ (w * l.length)
  | [] => by simp [packElems]
  | e :: r => by
    have he : e % 2 ^ w < 2 ^ w := Nat.mod_lt _ (Nat.two_pow_pos w)
    calc e % 2 ^ w + 2 ^ w * packElems w r < 2 ^ w * (packElems w r + 1) := by rw [Nat.mul_succ]; omega
      _ ≤ 2 ^ w * 2 ^ (w * r.length) := Nat.mul_le_mul_left _ (packElems_lt w r)
      _ = 2 ^ (w * (e :: r).length) := by rw [← Nat.pow_add, List.length_cons, Nat.mul_succ, Nat.add_comm]

/-- The elements of packed elements are those elements, cut to the width. -/
theorem elemAt_packElems (w : Nat) : ∀ (l : List Nat) (i : Nat) (h : i < l.length), elemAt (packElems w l) w i = l[i] % 2 ^ w
  | e :: r, 0, _ => by simp [elemAt, packElems]
  | e :: r, i + 1, h => by
    have he : e % 2 ^ w < 2 ^ w := Nat.mod_lt _ (Nat.two_pow_pos w)
    have hrest : (e % 2 ^ w + 2 ^ w * packElems w r) / 2 ^ w = packElems w r := by
      rw [Nat.add_mul_div_left _ _ (Nat.two_pow_pos w), Nat.div_eq_of_lt he, Nat.zero_add]
    rw [List.getElem_cons_succ, ← elemAt_packElems w r i (by simpa using h)]
    simp only [elemAt, packElems, Nat.shiftRight_eq_div_pow]
    rw [Nat.mul_succ, Nat.add_comm (w * i) w, Nat.pow_add, ← Nat.div_div_eq_div_mul, hrest]

/-! ## Groups of registers (R232) -/

theorem typeWidth_dvd (ty : Nat) : typeWidth ty ∣ 8192 := by
  unfold typeWidth
  split
  · decide
  · split
    · decide
    · split
      · decide
      · split <;> decide

theorem typeWidth_pos (ty : Nat) : 0 < typeWidth ty := Nat.pos_of_dvd_of_pos (typeWidth_dvd ty) (by decide)

theorem typeWidth_bytes (ty : Nat) : 8 * (typeWidth ty / 8) = typeWidth ty := by
  have h : 8 ∣ typeWidth ty := by
    unfold typeWidth
    split
    · decide
    · split
      · decide
      · split
        · decide
        · split <;> decide
  exact Nat.mul_div_cancel' h

/-- A register that is a multiple of its group's size begins a group that lies in the register file. -/
theorem group_le {s : State} {r : Nat} (hr : r < 32) (hg : r % vtGrp s = 0) : r + vtGrp s ≤ 32 := by
  have hk : (s.t.ctl.vtype.extractLsb' 10 2).toNat < 4 := BitVec.isLt _
  unfold vtGrp at hg ⊢
  generalize (s.t.ctl.vtype.extractLsb' 10 2).toNat = k at hk hg ⊢
  interval_cases k <;> omega

theorem getGroup_succ (s : State) (r n : Nat) : getGroup s r (n + 1) = getGroup s r n + (getV s (r + n)).toNat * 2 ^ (8192 * n) := by
  simp only [getGroup, List.range_succ, List.foldl_append, List.foldl_cons, List.foldl_nil]

theorem setGroup_succ (s : State) (r n x : Nat) :
    setGroup s r (n + 1) x = setV (setGroup s r n x) (r + n) (BitVec.ofNat 8192 (x >>> (8192 * n))) := by
  simp only [setGroup, List.range_succ, List.foldl_append, List.foldl_cons, List.foldl_nil]

/-- Writing registers leaves all but the vector registers. -/
theorem setGroup_eq (s : State) (r x : Nat) : ∀ n, setGroup s r n x = { s with t := { s.t with v := (setGroup s r n x).t.v } }
  | 0 => rfl
  | n + 1 => by
    rw [setGroup_succ]
    conv_lhs => rw [setGroup_eq s r x n]
    rfl

theorem getV_setGroup (s : State) (r x q : Nat) : ∀ n, r + n ≤ 32 → getV (setGroup s r n x) q =
    if r ≤ q ∧ q < r + n then BitVec.ofNat 8192 (x >>> (8192 * (q - r))) else getV s q
  | 0, _ => by rw [if_neg (by omega)]; rfl
  | n + 1, h => by
    rw [setGroup_succ, getV_setV _ _ _ _ (by omega), getV_setGroup s r x q n (by omega)]
    by_cases hq : q = r + n
    · rw [if_pos hq, if_pos (by omega), hq, Nat.add_sub_cancel_left]
    · rw [if_neg hq]
      by_cases hin : r ≤ q ∧ q < r + n
      · rw [if_pos hin, if_pos (by omega)]
      · rw [if_neg hin, if_neg (by omega)]

theorem mod_add_shiftRight_mod (x p q : Nat) : x % 2 ^ p + (x >>> p) % 2 ^ q * 2 ^ p = x % 2 ^ (p + q) := by
  rw [Nat.pow_add, Nat.mod_mul, Nat.shiftRight_eq_div_pow, Nat.mul_comm (2 ^ p)]

/-- A group reads back the bits written to it. -/
theorem getGroup_setGroup (s : State) {r n : Nat} (x : Nat) (h : r + n ≤ 32) : ∀ m ≤ n, getGroup (setGroup s r n x) r m = x % 2 ^ (8192 * m)
  | 0, _ => by simp [getGroup, Nat.mod_one]
  | m + 1, hm => by
    rw [getGroup_succ, getGroup_setGroup s x h m (by omega), getV_setGroup s r x _ n h, if_pos (by omega), BitVec.toNat_ofNat,
      Nat.add_sub_cancel_left, mod_add_shiftRight_mod, Nat.mul_succ]

/-- A group of registers reads back the elements written to it, cut to their width. -/
theorem element_setGroup (s : State) {r g w : Nat} {es : List Nat} (h : r + g ≤ 32) (hw : w * es.length = 8192 * g) {e : Nat} (he : e < es.length) :
    element (setGroup s r g (packElems w es)) r g w e = es[e] % 2 ^ w := by
  rw [element, getGroup_setGroup s _ h g le_rfl, Nat.mod_eq_of_lt (hw ▸ packElems_lt w es), elemAt_packElems w es e he]

theorem mem_regsOf {r g q : Nat} : q ∈ regsOf r g ↔ r ≤ q ∧ q < r + g := by
  simp only [regsOf, List.mem_map, List.mem_range]
  exact ⟨fun ⟨j, hj, hq⟩ => by omega, fun ⟨h1, h2⟩ => ⟨q - r, by omega, by omega⟩⟩

theorem getGroup_congr {s t : State} {r : Nat} : ∀ {n : Nat}, (∀ j < n, getV t (r + j) = getV s (r + j)) → getGroup t r n = getGroup s r n
  | 0, _ => rfl
  | n + 1, h => by rw [getGroup_succ, getGroup_succ, h n (by omega), getGroup_congr fun j hj => h j (by omega)]

/-! ## Masks, tails and elements below vstart (R235, R271, R439) -/

/-- What an instruction that does not stop short leaves in an element of its destination. -/
theorem placed_mod {s : State} (hl : s.t.limit = none) (sw n start mk i w x : Nat) {o : Nat} (ho : o < 2 ^ w) :
    placed s sw n start mk i o x % 2 ^ w = destElem s sw n start mk i o (x % 2 ^ w) := by
  have ho' : o % 2 ^ w = o := Nat.mod_eq_of_lt ho
  unfold placed touched selected belowLimit destElem
  rw [hl]
  cases laneOf s with
  | none =>
    by_cases hst : i < start
    · simp [hst, ho', Nat.not_le.2 hst]
    · by_cases hn : i < n
      · by_cases hm : maskOn s mk i = true
        · simp [hst, hn, hm, Nat.not_lt.1 hst]
        · by_cases hp : vtMp s = true <;> simp [hst, hn, hm, hp, ho', Nat.not_lt.1 hst]
      · by_cases hp : vtTp s = true <;> simp [hst, hn, hp, ho', Nat.not_lt.1 hst]
  | some g =>
    by_cases hin : i / (256 / sw) = g ∧ start ≤ i ∧ i < n
    · obtain ⟨hg, hst, hn⟩ := hin
      by_cases hm : maskOn s mk i = true
      · simp [hg, hst, hn, hm]
      · by_cases hp : vtMp s = true <;> simp [hg, hst, hn, hm, hp, ho']
    · rw [if_pos (by simpa [and_assoc] using hin), ho']
      exact (if_neg hin).symm

/-- The registers that a vector instruction which does not stop short writes. -/
theorem writeGroup_eq {s : State} (hl : s.t.limit = none) (vd g w sw n start mk : Nat) (res : Nat → Nat) :
    writeGroup s vd g w sw n start mk res = markDirty (setGroup s vd g (packElems w ((List.range (g * 8192 / w)).map fun i =>
      placed s sw n start mk i (element s vd g w i) (res i)))) vd g := by
  rw [writeGroup, hl]
  rfl

/-- All else is as before but vdirty. -/
theorem writeGroup_keeps {s : State} (hl : s.t.limit = none) (vd g w sw n start mk : Nat) (res : Nat → Nat) :
    ∃ v d, writeGroup s vd g w sw n start mk res = { s with t := { s.t with v := v, ctl := { s.t.ctl with vdirty := d } } } := by
  rw [writeGroup_eq hl, setGroup_eq]
  exact ⟨_, _, rfl⟩

section
variable {s : State} (hl : s.t.limit = none) {vd g w : Nat} (hvd : vd + g ≤ 32)

include hl hvd in
theorem getV_writeGroup (sw n start mk : Nat) (res : Nat → Nat) {q : Nat} (hq : q ∉ regsOf vd g) :
    getV (writeGroup s vd g w sw n start mk res) q = getV s q := by
  rw [writeGroup_eq hl]
  exact (getV_setGroup s vd _ q g hvd).trans (if_neg fun h => hq (mem_regsOf.2 h))

include hl hvd in
theorem element_writeGroup (hw : w ∣ 8192) (sw n start mk : Nat) (res : Nat → Nat) {e : Nat} (he : e < g * 8192 / w) :
    element (writeGroup s vd g w sw n start mk res) vd g w e = destElem s sw n start mk e (element s vd g w e) (res e % 2 ^ w) := by
  rw [writeGroup_eq hl]
  refine (element_setGroup s hvd ?_ (by simpa using he)).trans ?_
  · rw [List.length_map, List.length_range, Nat.mul_div_cancel' (hw.mul_left g), Nat.mul_comm]
  · rw [List.getElem_map, List.getElem_range]
    exact placed_mod hl _ _ _ _ _ _ _ (elemAt_lt ..)

end

end Sys2Proof.Machine
end

section
namespace Sys2Proof.Machine

/-! ## What committing and consuming bound sources leave (R79, R218, R330) -/

theorem committed_vcommit {s : State} (h : laneOf s = none) (k : StartRule) :
    (committed k s).t.ctl.vcommit = (s.t.ctl.vcommit + 1) % 2 ^ 48 := by
  unfold laneOf at h
  simp [committed, commitX, h]

theorem mem_boundSources {s : State} {srcs : List Nat} {b : Binding} (h : b ∈ boundSources s srcs) : b ∈ s.t.binds := by
  obtain ⟨r, _, hr⟩ := List.mem_filterMap.1 h
  exact List.mem_of_find?_eq_some hr

/-- A chunk begins by a change of the bindings and, where it has one, of its live mask. -/
theorem beginChunk_keeps (s : State) (b : Binding) : ∃ binds m,
    beginChunk s b = { s with t := { s.t with binds := binds, m := m } } ∧ (b.live = 0 → m = s.t.m) := by
  unfold beginChunk
  dsimp only
  by_cases hb : b.live = 0
  · rw [if_pos hb]
    exact ⟨_, s.t.m, rfl, fun _ => rfl⟩
  · rw [if_neg hb, setM, if_neg hb]
    exact ⟨_, _, rfl, fun h => absurd h hb⟩

theorem foldl_beginChunk_keeps : ∀ (bs : List Binding) (s : State), ∃ binds m,
    bs.foldl (fun a b => beginChunk a { b with q := b.q + 1 }) s = { s with t := { s.t with binds := binds, m := m } } ∧
      ((∀ b ∈ bs, b.live = 0) → m = s.t.m)
  | [], s => ⟨s.t.binds, s.t.m, rfl, fun _ => rfl⟩
  | b :: bs, s => by
    obtain ⟨binds, m, hb, hm⟩ := beginChunk_keeps s { b with q := b.q + 1 }
    obtain ⟨binds', m', hbs, hm'⟩ := foldl_beginChunk_keeps bs (beginChunk s { b with q := b.q + 1 })
    refine ⟨binds', m', ?_, fun h => ?_⟩
    · rw [List.foldl_cons, hbs, hb]
    · rw [hm' fun x hx => h x (List.mem_cons_of_mem _ hx), hb]
      exact hm (h b List.mem_cons_self)

/-- All that an instruction that has read bound sources changes: their bindings and live masks, the count of retags and, in a lane thread, the
list of what it has read. -/
theorem consumeSources_keeps (srcs : List Nat) (s : State) : ∃ lanes binds m g, consumeSources srcs s =
    { s with t := { s.t with lanes := lanes, binds := binds, m := m, ctl := { s.t.ctl with tgeom0 := g } } } ∧
      ((∀ b ∈ s.t.binds, b.live = 0) → m = s.t.m) := by
  unfold consumeSources
  dsimp only
  by_cases hl : (laneOf s).isSome = true
  · rw [if_pos hl]
    exact ⟨_, s.t.binds, s.t.m, s.t.ctl.tgeom0, rfl, fun _ => rfl⟩
  · obtain ⟨g, hg⟩ : ∃ g, countSources srcs (startElem s) 8192 s = { s with t := { s.t with ctl := { s.t.ctl with tgeom0 := g } } } := by
      unfold countSources
      dsimp only
      split
      · exact ⟨s.t.ctl.tgeom0, rfl⟩
      · exact ⟨_, rfl⟩
    rw [if_neg hl, hg]
    obtain ⟨binds, m, hb, hm⟩ := foldl_beginChunk_keeps (boundSources s srcs) { s with t := { s.t with ctl := { s.t.ctl with tgeom0 := g } } }
    exact ⟨s.t.lanes, binds, m, g, hb, fun h => hm fun b hb => h b (mem_boundSources hb)⟩

/-- All that an instruction changes when it commits behind what its body has written (R79, R218, R330, R434, R439). -/
theorem committed_consumed (k : StartRule) (srcs : List Nat) (s : State) : ∃ pc lanes binds m vcommit vstart g,
    committed k (consumeSources srcs s) = { s with
      stalled := false
      t := { s.t with
        pc := pc, lanes := lanes, binds := binds, m := m
        ctl := { s.t.ctl with vcommit := vcommit, vstart := vstart, tgeom0 := g } } } ∧
      ((∀ b ∈ s.t.binds, b.live = 0) → m = s.t.m) ∧ (laneOf s = none → vcommit = (s.t.ctl.vcommit + 1) % 2 ^ 48) := by
  obtain ⟨lanes, binds, m, g, hc, hm⟩ := consumeSources_keeps srcs s
  have heq := committed_eq k (consumeSources srcs s)
  have hcount := fun h => committed_vcommit (s := consumeSources srcs s) h k
  rw [hc] at heq hcount ⊢
  exact ⟨_, _, binds, m, _, _, g, heq, hm, hcount⟩

theorem getV_committed_consumed (k : StartRule) (srcs : List Nat) (s : State) (q : Nat) :
    getV (committed k (consumeSources srcs s)) q = getV s q := by
  obtain ⟨_, _, _, _, _, _, _, hc, _, _⟩ := committed_consumed k srcs s
  exact getV_congr (by rw [hc]) q

theorem readByte_committed_consumed (k : StartRule) (srcs : List Nat) (s : State) (a : Nat) :
    (committed k (consumeSources srcs s)).t.readByte a = s.t.readByte a := by
  obtain ⟨_, _, _, _, _, _, _, hc, _, _⟩ := committed_consumed k srcs s
  rw [hc]
  rfl

/-- The frame of an instruction that has written nothing but the vector registers `dst` (R235). -/
theorem vecKeeps_committed {dst : List Nat} {u v : State} (srcs : List Nat)
    (hv : ∃ x d, v = { u with t := { u.t with v := x, ctl := { u.t.ctl with vdirty := d } } }) (hq : ∀ q, q ∉ dst → getV v q = getV u q) :
    vecKeeps dst none u (committed .elements (consumeSources srcs v)) ∧ raised u (committed .elements (consumeSources srcs v)) 0 := by
  have hreg := fun q hd => (getV_committed_consumed .elements srcs v q).trans (hq q hd)
  obtain ⟨_, _, _, m, c, _, _, hc, hm, hcount⟩ := committed_consumed .elements srcs v
  rw [hc] at hreg ⊢
  obtain ⟨x, d, rfl⟩ := hv
  refine ⟨⟨rfl, hreg, fun hlive q _ => ?_, rfl, rfl, rfl, rfl, rfl, fun _ => rfl, rfl, rfl, rfl, hcount⟩, ?_, ?_⟩
  · unfold getM
    dsimp only
    rw [hm hlive]
  · simp
  · simp

/-! ## Loads of elements (R203) -/

/-- A loop of loads that all succeed packs the enabled elements' values. -/
theorem loadLoop_eq {w : Nat} {act : Nat → Bool} {load : State → Nat → Got Nat} {σ : Nat → State} {x : Nat → Nat} : ∀ n lo,
    loadsTo load act σ x lo (lo + n) → loadLoop w act load n lo (σ lo) =
      { packed := packElems w ((List.range' lo n).map fun i => if act i then x i else 0), bad := none, s := σ (lo + n) }
  | 0, _, _ => rfl
  | n + 1, lo, h => by
    have hrest : loadsTo load act σ x (lo + 1) (lo + 1 + n) := fun i hlo hhi => h i (by omega) (by omega)
    have hfirst := h lo le_rfl (by omega)
    rw [loadLoop, List.range'_succ, List.map_cons, packElems]
    cases ha : act lo with
    | true =>
      rw [ha, if_pos rfl] at hfirst
      rw [if_pos rfl, hfirst]
      dsimp only
      rw [loadLoop_eq n (lo + 1) hrest, if_pos rfl, Nat.add_right_comm, Nat.add_assoc lo]
    | false =>
      rw [ha, if_neg Bool.false_ne_true] at hfirst
      rw [if_neg Bool.false_ne_true, ← hfirst, loadLoop_eq n (lo + 1) hrest, if_neg Bool.false_ne_true, Nat.zero_mod, Nat.zero_add,
        Nat.add_right_comm, Nat.add_assoc lo]

theorem elemAt_loaded {w : Nat} {act : Nat → Bool} {x : Nat → Nat} {lo n i : Nat} (hlo : lo ≤ i) (hhi : i < lo + n) (ha : act i = true) :
    elemAt (packElems w ((List.range' lo n).map fun i => if act i then x i else 0)) w (i - lo) = x i % 2 ^ w := by
  have hi : lo + (i - lo) = i := by omega
  rw [elemAt_packElems _ _ _ (by simp; omega)]
  simp [hi, ha]

/-- What every successful load of a sequence keeps, the sequence keeps. -/
theorem loadsTo_keeps {load : State → Nat → Got Nat} {act : Nat → Bool} {σ : Nat → State} {x : Nat → Nat} {lo hi : Nat}
    (P : State → Prop) (hP : ∀ y e v y', load y e = .ok v y' → P y → P y') (h : loadsTo load act σ x lo hi) (h0 : P (σ lo)) :
    ∀ n, lo + n ≤ hi → P (σ (lo + n))
  | 0, _ => h0
  | n + 1, hn => by
    have ih := loadsTo_keeps P hP h h0 n (by omega)
    have hs := h (lo + n) (by omega) (by omega)
    split at hs
    · exact hP _ _ _ _ hs ih
    · rw [← Nat.add_assoc, hs]
      exact ih

theorem loadsTo_mono {load load' : State → Nat → Got Nat} {act : Nat → Bool} {σ : Nat → State} {x : Nat → Nat} {lo hi : Nat}
    (hl : ∀ y e v y', e < hi → load y e = .ok v y' → load' y e = .ok v y') (h : loadsTo load act σ x lo hi) :
    loadsTo load' act σ x lo hi := fun i hlo hhi => by
  have hs := h i hlo hhi
  split at hs
  · rename_i ha
    rw [if_pos ha]
    exact hl _ _ _ _ hhi hs
  · rename_i ha
    rw [if_neg ha]
    exact hs

/-- What a vector load leaves before it commits: its destination by R235, written from the elements read. -/
def loadWrites (u : State) (vd g w vl st mk : Nat) (x : Nat → Nat) : State :=
  if vl = 0 then u else writeGroup u vd g w w vl st mk x

/-- A vector load whose enabled elements can all be read writes its destination and consumes its sources. -/
theorem loadVec_ok {geo : Bool} {vd mk w : Nat} {srcs : List Nat} {load : State → Nat → Got Nat} {s s1 : State} {σ : Nat → State}
    {x : Nat → Nat} (hfit : s.t.ctl.vl ≤ vtGrp s * 8192 / w) (hvd : vd % vtGrp s = 0)
    (hs : sourcesAt srcs (regsOf vd (vtGrp s)) none s s1) (hgeo : geo = true → (catalogue s1).isSome = true) (hlim : s1.t.limit = none)
    (hσ : σ (startElem s1) = s1) (hl : loadsTo load (maskOn s1 mk) σ x (startElem s1) s1.t.ctl.vl)
    (hulim : (σ (max (startElem s1) s1.t.ctl.vl)).t.limit = none) (hp : plainDest (regsOf vd (vtGrp s)) (σ (max (startElem s1) s1.t.ctl.vl))) :
    ∃ y : Nat → Nat, (∀ e, startElem s1 ≤ e → e < s1.t.ctl.vl → maskOn s1 mk e = true → y e = x e % 2 ^ w) ∧
      loadVec geo vd mk w srcs load s = .ok (consumeSources srcs
        (loadWrites (σ (max (startElem s1) s1.t.ctl.vl)) vd (vtGrp s) w s1.t.ctl.vl (startElem s1) mk y)) := by
  have htop : topElem s1 = s1.t.ctl.vl := by simp [topElem, hlim]
  have hcat : (geo && (catalogue s1).isNone) = false := by
    cases geo with
    | false => rfl
    | true => simpa [Option.isSome_iff_ne_none] using hgeo rfl
  have hmax : startElem s1 + (s1.t.ctl.vl - startElem s1) = max (startElem s1) s1.t.ctl.vl := by omega
  have hloop := loadLoop_eq (w := w) (load := load) (σ := σ) (act := maskOn s1 mk) (x := x) (s1.t.ctl.vl - startElem s1) (startElem s1)
    fun i hlo hhi => hl i hlo (by omega)
  rw [hσ, hmax] at hloop
  refine ⟨fun e => elemAt (packElems w ((List.range' (startElem s1) (s1.t.ctl.vl - startElem s1)).map fun i =>
    if maskOn s1 mk i then x i else 0)) w (e - startElem s1), fun e hlo hhi ha => elemAt_loaded (act := maskOn s1 mk) hlo (by omega) ha, ?_⟩
  unfold loadVec
  rw [if_neg (by simp [memFits, groupOk, hfit, hvd])]
  refine vecFrame_ok hs _ ?_ ?_
  · dsimp only
    rw [if_neg (by simp [hcat]), htop, hloop]
    dsimp only [loadWrites]
    split <;> rfl
  · unfold loadWrites
    split
    · exact hp
    · obtain ⟨v, d, hw⟩ := writeGroup_keeps hulim vd (vtGrp s) w w s1.t.ctl.vl (startElem s1) mk fun e =>
        elemAt (packElems w ((List.range' (startElem s1) (s1.t.ctl.vl - startElem s1)).map fun i => if maskOn s1 mk i then x i else 0)) w
          (e - startElem s1)
      rw [hw]
      exact hp

theorem maskOn_congr {s t : State} (h : t.t.m = s.t.m) (mk e : Nat) : maskOn t mk e = maskOn s mk e := by
  unfold maskOn getM
  rw [h]

theorem destElem_congr {s : State} {sw n start mk e old x y : Nat} (h : start ≤ e → e < n → maskOn s mk e = true → x = y) :
    destElem s sw n start mk e old x = destElem s sw n start mk e old y := by
  have hc : start ≤ e → e < n → (if maskOn s mk e then x else if vtMp s then 0 else old) =
      if maskOn s mk e then y else if vtMp s then 0 else old := fun h1 h2 => by
    split
    · exact h h1 h2 ‹_›
    · rfl
  unfold destElem
  cases laneOf s with
  | none =>
    by_cases h1 : e < start
    · simp [h1]
    · by_cases h2 : e < n
      · simp only [h1, h2, if_true, if_false, hc (by omega) h2]
      · simp [h1, h2]
  | some g =>
    by_cases hin : e / (256 / sw) = g ∧ start ≤ e ∧ e < n
    · simp only [hin, hc hin.2.1 hin.2.2]
    · dsimp only
      rw [if_neg hin, if_neg hin]

/-- A vector load's registers, frame and flags once it has committed (R235). -/
theorem loadWrites_results {u : State} {vd g w : Nat} (hlim : u.t.limit = none) (hvd : vd + g ≤ 32) (hw : w ∣ 8192) (srcs : List Nat)
    (vl st mk : Nat) (x : Nat → Nat) :
    let t := committed .elements (consumeSources srcs (loadWrites u vd g w vl st mk x))
    vecKeeps (regsOf vd g) none u t ∧ raised u t 0 ∧ ∀ e < g * 8192 / w, element t vd g w e =
      if vl = 0 then element u vd g w e else destElem u w vl st mk e (element u vd g w e) (x e % 2 ^ w) := by
  have hkeeps : (∃ v d, loadWrites u vd g w vl st mk x = { u with t := { u.t with v := v, ctl := { u.t.ctl with vdirty := d } } }) ∧
      ∀ q, q ∉ regsOf vd g → getV (loadWrites u vd g w vl st mk x) q = getV u q := by
    unfold loadWrites
    split
    · exact ⟨⟨u.t.v, u.t.ctl.vdirty, rfl⟩, fun _ _ => rfl⟩
    · exact ⟨writeGroup_keeps hlim .., fun q hq => getV_writeGroup hlim hvd _ _ _ _ _ hq⟩
  obtain ⟨hvec, hraised⟩ := vecKeeps_committed srcs hkeeps.1 hkeeps.2
  refine ⟨hvec, hraised, fun e he => ?_⟩
  rw [element, getGroup_congr fun j _ => getV_committed_consumed .elements srcs _ (vd + j)]
  unfold loadWrites
  split
  · rfl
  · exact element_writeGroup hlim hvd hw _ _ _ _ _ he

/-- A load instruction whose body is the vector load `load` does what `loadResult` says. -/
theorem loadResult_of {i : Instr} {geo : Prop} {gb : Bool} {vd mk w : Nat} {srcs : List Nat} {s sp : State} {load load' : State → Nat → Got Nat}
    (hvd : vd < 32) (hw : w ∣ 8192) (hgeo : gb = true → geo)
    (hbody : ∀ v, runsNow .elements s → sp.t.ctl.vl ≤ vtGrp sp * 8192 / w → vd % vtGrp sp = 0 → loadVec gb vd mk w srcs load' sp = .ok v →
      exec i s = .next (committed .elements v))
    (hload : ∀ y e v y', load y e = .ok v y' → load' y e = .ok v y' ∧ y'.t.m = y.t.m ∧ y'.t.limit = y.t.limit) :
    loadResult i geo vd mk w srcs s sp load := by
  intro s1 σ x g vl st u hrun hfit halign hs hcat hσ hl hp
  have hlim : s1.t.limit = none := by
    obtain ⟨_, _, rfl⟩ := hs
    rfl
  have hu : u.t.m = s1.t.m ∧ u.t.limit = none := by
    have hmax : max st vl = st + (vl - st) := by omega
    rw [show u = σ (max st vl) from rfl, hmax]
    by_cases hle : vl ≤ st
    · rw [show vl - st = 0 by omega, Nat.add_zero, hσ]
      exact ⟨rfl, hlim⟩
    · refine loadsTo_keeps (fun y => y.t.m = s1.t.m ∧ y.t.limit = none) (fun y e v y' hy h => ?_) hl ?_ _ (by omega)
      · obtain ⟨_, hm, hlim⟩ := hload y e v y' hy
        exact ⟨hm.trans h.1, hlim.trans h.2⟩
      · rw [hσ]
        exact ⟨rfl, hlim⟩
  obtain ⟨y, hy, hok⟩ := loadVec_ok (geo := gb) (load := load') hfit halign hs (fun h => hcat (hgeo h)) hlim hσ
    (loadsTo_mono (fun y e v y' _ h => (hload y e v y' h).1) hl) hu.2 hp
  obtain ⟨hkeeps, hraised, helems⟩ := loadWrites_results hu.2 (group_le hvd halign) hw srcs vl st mk y
  refine ⟨_, hbody _ hrun hfit halign hok, hkeeps, hraised, fun e he => ?_⟩
  rw [helems e he]
  split
  · rfl
  · refine destElem_congr fun h1 h2 hm => ?_
    rw [hy e h1 h2 (by rwa [maskOn_congr hu.1] at hm), Nat.mod_mod]

end Sys2Proof.Machine
end

section
namespace Sys2Proof.Machine

/-! ## What finding and reading a unit leaves (R202, R211) -/

/-- The key of an address is that of its translation, behind the filling of the compressed block that holds it. -/
theorem keyOf_ok {s u : State} {acc : Access} {va : Word} {n e k : Nat} (h : keyOf s acc va n e = .ok k u) :
    ∃ u1, translate s (me s) acc va = .ok k u1 ∧ u = fillBlock u1 k := by
  unfold keyOf at h
  split at h
  · exact nomatch h
  · split at h
    · exact nomatch h
    · split at h
      · exact nomatch h
      · split at h
        · rename_i k' u1 ht
          injection h with hk hu
          subst hk
          exact ⟨u1, ht, hu.symm⟩
        · exact nomatch h

theorem OnlyMemory.of_keyOf {s u : State} {acc : Access} {va : Word} {n e k : Nat} (h : keyOf s acc va n e = .ok k u) : OnlyMemory s u := by
  obtain ⟨u1, ht, rfl⟩ := keyOf_ok h
  exact (OnlyMemory.of_translate_ok ht).trans (.fillBlock u1 k)

theorem OnlyMemory.of_loadAt {s u : State} {va : Word} {n al e v : Nat} (h : loadAt s va n al e = .ok v u) : OnlyMemory s u := by
  unfold loadAt at h
  split at h
  · exact nomatch h
  · rename_i k s1 hk
    split at h
    · exact nomatch h
    · injection h with _ hu
      exact hu ▸ .of_keyOf hk

theorem retag_ok {s u : State} {e x v : Nat} (h : retag s e x = .ok v u) : ∃ n, u = countRetags s n := by
  unfold retag at h
  split at h
  · injection h with _ hu
    exact ⟨_, hu.symm⟩
  · exact nomatch h
  · exact nomatch h

theorem loadOne_keeps {s u : State} {ty e v : Nat} {va : Word} (h : loadOne ty va s e = .ok v u) :
    u.t.m = s.t.m ∧ u.t.limit = s.t.limit := by
  unfold loadOne at h
  dsimp only at h
  split at h
  · exact nomatch h
  · rename_i x s1 hl
    have ht := (OnlyMemory.of_loadAt hl).t
    split at h
    · obtain ⟨n, rfl⟩ := retag_ok h
      rw [countRetags, State.updC_t_m, State.updC_t_limit, ht]
      exact ⟨rfl, rfl⟩
    · injection h with _ hu
      rw [← hu, ht]
      exact ⟨rfl, rfl⟩

/-! ## Vector loads from memory and from folios (R203, R209, R210, R215) -/

/-- i × sx(b) in 64 bits. -/
theorem stride_toInt (b : Word) (e : Nat) : BitVec.ofInt 64 ((e : Int) * b.toInt) = BitVec.ofNat 64 e * b := by
  rw [BitVec.ofInt_mul, BitVec.ofInt_natCast, BitVec.ofInt_toInt]

section
variable (o : WM) (s : State)

theorem vld_result : loadResult (.vld o) (o.ty = 0x0E) o.vd.toNat o.msk.toNat (typeWidth o.ty.toNat) [] s (settleMatrix s) fun x e =>
    loadOne o.ty.toNat (unitAddr o (settleMatrix s) e) x e :=
  loadResult_of o.vd.isLt (typeWidth_dvd _) eq_of_beq (fun _ hrun _ _ hv => executeOp_ok hrun hv) fun _ _ _ _ h => ⟨h, loadOne_keeps h⟩

theorem vlds_result : loadResult (.vlds o) (o.ty = 0x0E) o.vd.toNat o.msk.toNat (typeWidth o.ty.toNat) [] s (settleMatrix s) fun x e =>
    loadOne o.ty.toNat (strideAddr o (settleMatrix s) e) x e :=
  loadResult_of o.vd.isLt (typeWidth_dvd _) eq_of_beq (fun _ hrun _ _ hv => executeOp_ok hrun hv) fun _ _ _ _ h => ⟨h, loadOne_keeps h⟩

theorem vldx_result (hx : o.xb.toNat % vtGrp (settleMatrix s) = 0) : loadResult (.vldx o) (o.ty = 0x0E) o.vd.toNat o.msk.toNat
    (typeWidth o.ty.toNat) (regsOf o.xb.toNat (vtGrp (settleMatrix s))) s (settleMatrix s) fun x e => loadOne o.ty.toNat (indexAddr o x e) x e := by
  refine loadResult_of o.vd.isLt (typeWidth_dvd _) eq_of_beq (fun v hrun _ _ hv => executeOp_ok hrun ?_) fun _ _ _ _ h => ⟨h, loadOne_keeps h⟩
  exact (if_neg (by simp [groupOk, hx])).trans hv

end

/-- Naming a ready folio of a space that the instruction may name. -/
theorem withFolio_ready {m : WM} {h : Nat} {ok : Nat → Bool} {f : FolioEntry} (body : FolioEntry → State → Res) {s : State}
    (hfit : s.t.ctl.vl ≤ vtGrp s * 8192 / typeWidth m.ty.toNat) (hvd : m.vd.toNat % vtGrp s = 0) (hn : nameFolio s h = .ready f)
    (hsp : ok f.space = true) : withFolio m h ok body s = body f s := by
  unfold withFolio
  rw [if_neg (by simp [memFits, groupOk, hfit, hvd]), hn]
  dsimp only
  rw [if_pos hsp]

/-- An element that lies in its folio, aligned to its size, passes R215's checks. -/
theorem folioCheck_ok {f : FolioEntry} {off : Int} {z : Nat} (h0 : 0 ≤ off) (h1 : off + z ≤ f.size) (ha : off % z = 0) (e : Nat) :
    folioCheck f off z e = .ok off.toNat := by
  unfold folioCheck
  rw [if_neg (by omega), if_neg (by simp [ha])]

/-- Nothing is poisoned: a read consumes no poison. -/
theorem poisoned_of_nil {s : State} (h : s.poison = []) (k n : Nat) : poisoned s k n = false := by simp [poisoned, h]

theorem vldf_result (o : LF) (s : State) {f : FolioEntry} (hn : nameFolio (settleMatrix s) o.fh.toNat = .ready f) (hsp : f.space ≠ 0)
    (hty : o.wm.ty ≠ 0x0E) : loadResult (.vldf o) False o.wm.vd.toNat o.wm.msk.toNat (8 * (typeWidth o.wm.ty.toNat / 8)) [] s (settleMatrix s)
      fun x e =>
        let off := folioOff o (settleMatrix s) e
        let z := typeWidth o.wm.ty.toNat / 8
        if x.poison = [] ∧ 0 ≤ off ∧ off + z ≤ f.size ∧ off % z = 0 then .ok (leNat (x.t.readBytes z (f.key off.toNat))) x
        else .bad (mkTrap 0 0) x := by
  have hty' : o.wm.ty.toNat ≠ 0x0E := fun h => hty (BitVec.eq_of_toNat_eq h)
  refine loadResult_of o.wm.vd.isLt (by rw [typeWidth_bytes]; exact typeWidth_dvd _) (fun h => hty (eq_of_beq h))
    (fun v hrun hfit halign hv => executeOp_ok hrun ((withFolio_ready _ (by rwa [typeWidth_bytes] at hfit) halign hn (by simp [hsp])).trans hv)) ?_
  intro y e v y' h
  dsimp only at h
  split at h
  · rename_i hok
    obtain ⟨hp, h0, h1, ha⟩ := hok
    injection h with hval hst
    subst hst hval
    rw [folioCheck_ok h0 h1 ha]
    dsimp only
    rw [poisoned_of_nil hp, if_neg Bool.false_ne_true, if_neg hty']
    exact ⟨rfl, rfl, rfl⟩
  · exact nomatch h

/-- Settles O32: each form of load is the vector load whose elements its address rule names. -/
theorem vectorLoadResults : Obligations.VectorLoadResults := by
  refine ⟨fun o s => ⟨vld_result o s, ?_, vldx_result o s⟩, fun o s f hn hsp hty _ _ => vldf_result o s hn hsp hty⟩
  simpa only [stride_toInt, strideAddr] using vlds_result o s

end Sys2Proof.Machine
end

section
namespace Sys2Proof.Machine

/-! ## A thread's own writes (R204, R349) -/

/-- A thread reads back the byte it stored, and every other byte as before. -/
theorem Thread.readByte_storeByte (t : Thread) (k : Nat) (v : Byte) (unit a : Nat) :
    (t.storeByte k v unit).readByte a = if a = k then v else t.readByte a := by
  unfold Thread.readByte Thread.ownWrite Thread.storeByte
  by_cases h : a = k
  · subst h
    simp
  · have hold : ((t.own.filter fun o => o.key != k).find? fun o => o.key == a && !o.seen) = t.own.find? fun o => o.key == a && !o.seen := by
      rw [List.find?_filter]
      congr 1
      funext o
      by_cases ho : o.key = a <;> simp [ho, h]
    rw [if_neg h]
    simp only [List.find?_cons, Ne.symm h, beq_eq_false_iff_ne.2, ne_eq, not_false_iff, Bool.false_and, hold]

theorem Thread.readByte_storeBytes (unit a : Nat) : ∀ (bs : List Byte) (k : Nat) (t : Thread), (t.storeBytes unit k bs).readByte a =
    if k ≤ a ∧ a < k + bs.length then bs.getD (a - k) 0 else t.readByte a
  | [], k, t => by rw [if_neg (by simp)]; rfl
  | b :: r, k, t => by
    rw [Thread.storeBytes, Thread.readByte_storeBytes unit a r (k + 1), Thread.readByte_storeByte, List.length_cons]
    by_cases hk : a = k
    · subst hk
      rw [if_neg (by omega), if_pos rfl, if_pos (by omega), Nat.sub_self, List.getD_cons_zero]
    · by_cases hin : k + 1 ≤ a ∧ a < k + 1 + r.length
      · rw [if_pos hin, if_pos (by omega), show a - k = a - (k + 1) + 1 by omega, List.getD_cons_succ]
      · rw [if_neg hin, if_neg hk, if_neg (by omega)]

theorem natLe_getD : ∀ {n : Nat} (v : Nat) {j : Nat}, j < n → (natLe n v).getD j 0 = BitVec.ofNat 8 (v / 256 ^ j)
  | n + 1, v, 0, _ => by simp [natLe]
  | n + 1, v, j + 1, h => by
    rw [natLe, List.getD_cons_succ, natLe_getD (v / 256) (by omega), Nat.pow_succ', Nat.div_div_eq_div_mul]

/-! ## Stores of elements (R203, R204) -/

/-- In `t` the thread reads the low `z` bytes of a value from key `k` on, and every other byte as in `s`. -/
def wroteAt (z k v : Nat) (s t : State) : Prop :=
  ∀ a, t.t.readByte a = if k ≤ a ∧ a < k + z then BitVec.ofNat 8 (v / 256 ^ (a - k)) else s.t.readByte a

theorem wroteAt_storeBytes {s τ : State} (ht : τ.t = s.t) (z k v unit : Nat) :
    wroteAt z k v s (τ.updT fun t => t.storeBytes unit k (natLe z v)) := fun a => by
  rw [State.updT_t, Thread.readByte_storeBytes, natLe_length, ht]
  by_cases h : k ≤ a ∧ a < k + z
  · rw [if_pos h, if_pos h, natLe_getD v (by omega)]
  · rw [if_neg h, if_neg h]

/-- Stores in ascending order: a byte reads as the last element that covers it, or as before. -/
theorem storesRead_of_wrote {z : Nat} {val : Nat → Nat} {act : Nat → Bool} {k : Nat → Nat} {σ : Nat → State} {lo hi : Nat} (hle : lo ≤ hi)
    (h : ∀ i, lo ≤ i → i < hi → if act i then wroteAt z (k i) (val i) (σ i) (σ (i + 1)) else σ (i + 1) = σ i) :
    storesRead z val act k lo hi (σ lo) (σ hi) := by
  induction hi, hle using Nat.le_induction with
  | base => exact ⟨fun i h1 h2 => absurd h2 (by omega), fun _ _ => rfl⟩
  | succ hi hle ih =>
    obtain ⟨hread, hkeep⟩ := ih fun i h1 h2 => h i h1 (by omega)
    have hlast := h hi hle (by omega)
    refine ⟨fun i h1 h2 ha j hj hlater => ?_, fun a hout => ?_⟩
    · by_cases hi' : i = hi
      · subst hi'
        rw [if_pos ha] at hlast
        rw [hlast, if_pos (by omega), Nat.add_sub_cancel_left]
      · have hbefore := hread i h1 (by omega) ha j hj fun m h3 h4 => hlater m h3 (by omega)
        split at hlast
        · have hapart := hlater hi (by omega) (by omega) ‹_›
          rw [hlast, if_neg (by omega), hbefore]
        · rw [hlast, hbefore]
    · have hbefore := hkeep a fun i h1 h2 => hout i h1 (by omega)
      split at hlast
      · have hapart := hout hi hle (by omega) ‹_›
        rw [hlast, if_neg (by omega), hbefore]
      · rw [hlast, hbefore]

theorem storesRead_congr {z : Nat} {val : Nat → Nat} {act : Nat → Bool} {k : Nat → Nat} {lo hi : Nat} {s t u : State}
    (h : storesRead z val act k lo hi s t) (hu : ∀ a, u.t.readByte a = t.t.readByte a) : storesRead z val act k lo hi s u :=
  ⟨fun i h1 h2 ha j hj hl => (hu _).trans (h.1 i h1 h2 ha j hj hl), fun a hout => (hu a).trans (h.2 a hout)⟩

/-- The same from vstart on, where no element below vl may be left. -/
theorem storesRead_of_steps {z : Nat} {val : Nat → Nat} {act : Nat → Bool} {k : Nat → Nat} {σ : Nat → State} {s : State} {lo hi : Nat}
    (h0 : σ lo = s) (h : ∀ i, lo ≤ i → i < hi → if act i then wroteAt z (k i) (val i) (σ i) (σ (i + 1)) else σ (i + 1) = σ i) :
    storesRead z val act k lo hi s (σ (max lo hi)) := by
  subst h0
  rcases Nat.le_total lo hi with hle | hle
  · rw [Nat.max_eq_right hle]
    exact storesRead_of_wrote hle h
  · rw [Nat.max_eq_left hle]
    exact ⟨fun i h1 h2 => absurd h2 (by omega), fun _ _ => rfl⟩

/-- A loop of stores that all succeed. -/
theorem storeLoop_eq {act : Nat → Bool} {store : State → Nat → Got Unit} {σ : Nat → State} : ∀ n lo,
    (∀ i, lo ≤ i → i < lo + n → if act i then store (σ i) i = .ok () (σ (i + 1)) else σ (i + 1) = σ i) →
    storeLoop act store n lo (σ lo) = .ok (σ (lo + n))
  | 0, _, _ => rfl
  | n + 1, lo, h => by
    have hrest := storeLoop_eq n (lo + 1) fun i h1 h2 => h i (by omega) (by omega)
    have hfirst := h lo le_rfl (by omega)
    rw [storeLoop]
    cases ha : act lo with
    | true =>
      rw [ha, if_pos rfl] at hfirst
      rw [if_pos rfl, hfirst]
      dsimp only
      rw [hrest, Nat.add_right_comm, Nat.add_assoc lo]
    | false =>
      rw [ha, if_neg Bool.false_ne_true] at hfirst
      rw [if_neg Bool.false_ne_true, ← hfirst, hrest, Nat.add_right_comm, Nat.add_assoc lo]

theorem topElem_of_none {s : State} (h : s.t.limit = none) : topElem s = s.t.ctl.vl := by simp [topElem, h]

theorem limit_of_sourcesAt {srcs dsts : List Nat} {dm : Option Nat} {s s1 : State} (h : sourcesAt srcs dsts dm s s1) : s1.t.limit = none := by
  obtain ⟨_, _, rfl⟩ := h
  rfl

/-- A vector store whose enabled elements can all be stored consumes its sources. -/
theorem storeVec_ok {vd mk w : Nat} {srcs : List Nat} {store : State → Nat → Nat → Got Unit} {s s1 : State} {σ : Nat → State}
    (hfit : s.t.ctl.vl ≤ vtGrp s * 8192 / w) (hvd : vd % vtGrp s = 0) (hs : sourcesAt (regsOf vd (vtGrp s) ++ srcs) [] none s s1)
    (hσ : σ (startElem s1) = s1) (h : ∀ e, startElem s1 ≤ e → e < s1.t.ctl.vl →
      if maskOn s1 mk e then store (σ e) e (element s1 vd (vtGrp s) w e) = .ok () (σ (e + 1)) else σ (e + 1) = σ e) :
    storeVec vd mk w srcs store s = .ok (consumeSources (regsOf vd (vtGrp s) ++ srcs) (σ (max (startElem s1) s1.t.ctl.vl))) := by
  have hmax : startElem s1 + (s1.t.ctl.vl - startElem s1) = max (startElem s1) s1.t.ctl.vl := by omega
  have hloop := storeLoop_eq (store := fun a e => store a e (element s1 vd (vtGrp s) w e)) (act := maskOn s1 mk) (σ := σ)
    (s1.t.ctl.vl - startElem s1) (startElem s1) fun e h1 h2 => h e h1 (by omega)
  rw [hσ, hmax] at hloop
  unfold storeVec
  rw [if_neg (by simp [memFits, groupOk, hfit, hvd])]
  refine vecFrame_ok hs _ ?_ (plainDest_nil _)
  dsimp only
  rw [topElem_of_none (limit_of_sourcesAt hs)]
  exact hloop

/-- The thread has done nothing but store. -/
def onlyStored (s y : State) : Prop := ∃ own, y.t = { s.t with own := own }

theorem onlyStored_storeBytes {s y τ : State} (h : onlyStored s y) (ht : τ.t = y.t) (unit : Nat) : ∀ (bs : List Byte) (k : Nat),
    onlyStored s (τ.updT fun t => t.storeBytes unit k bs) := by
  obtain ⟨own, hy⟩ := h
  suffices hs : ∀ (bs : List Byte) (k : Nat) (t : Thread), ∃ own', t.storeBytes unit k bs = { t with own := own' } by
    intro bs k
    obtain ⟨own', ho⟩ := hs bs k τ.t
    exact ⟨own', by rw [State.updT_t, ho, ht, hy]⟩
  intro bs
  induction bs with
  | nil => exact fun _ t => ⟨t.own, rfl⟩
  | cons b r ih =>
    intro k t
    obtain ⟨own', ho⟩ := ih (k + 1) (t.storeByte k b unit)
    exact ⟨own', ho⟩

/-- A sequence of stores leaves the thread all but its own writes. -/
theorem onlyStored_seq {σ : Nat → State} {lo hi : Nat} {s : State} (h0 : onlyStored s (σ lo))
    (h : ∀ i, lo ≤ i → i < hi → onlyStored s (σ i) → onlyStored s (σ (i + 1))) : ∀ i, lo ≤ i → i ≤ hi → onlyStored s (σ i) := by
  intro i hlo
  induction i, hlo using Nat.le_induction with
  | base => exact fun _ => h0
  | succ i hle ih => exact fun hi' => h i hle (by omega) (ih (by omega))

/-- A store instruction whose body is the vector store `store` does what `storeResult` says. -/
theorem storeResult_of {i : Instr} {vd mk w : Nat} {srcs : List Nat} {s sp : State} {addr : State → Nat → Word}
    {store : State → Nat → Nat → Got Unit}
    (hbody : ∀ v, runsNow .elements s → storeVec vd mk w srcs store sp = .ok v → exec i s = .next (committed .elements v))
    (hstore : ∀ s1 y e v k τ, onlyStored s1 y → keyOf y .store (addr s1 e) (w / 8) e = .ok k τ →
      store y e v = .ok () (τ.updT fun t => t.storeBytes k k (natLe (w / 8) v))) : storeResult i vd mk w srcs s sp addr := by
  intro s1 σ k g vl st u all hrun hfit halign hs hσ hst
  simp only [storesTo, BitVec.ofNat_toNat, BitVec.setWidth_eq] at hst
  have honly : ∀ e, st ≤ e → e ≤ vl → onlyStored s1 (σ e) := onlyStored_seq ⟨s1.t.own, by rw [hσ]⟩ fun e h1 h2 hy => by
    have hstep := hst e h1 h2
    split at hstep
    · obtain ⟨τ, hk, hnext⟩ := hstep
      rw [hnext]
      exact onlyStored_storeBytes hy (OnlyMemory.of_keyOf hk).t ..
    · rwa [hstep]
  have hwrote : storesRead (w / 8) (element s1 vd g w) (maskOn s1 mk) k st vl s1 u := storesRead_of_steps hσ fun e h1 h2 => by
    have hstep := hst e h1 h2
    split at hstep
    · obtain ⟨τ, hk, hnext⟩ := hstep
      rw [if_pos ‹_›, hnext]
      exact wroteAt_storeBytes (OnlyMemory.of_keyOf hk).t _ _ _ _
    · rwa [if_neg ‹_›]
  refine ⟨hbody _ hrun (storeVec_ok hfit halign hs hσ fun e h1 h2 => ?_), storesRead_congr hwrote (readByte_committed_consumed .elements all u),
    getV_committed_consumed .elements all u⟩
  have hstep := hst e h1 h2
  split at hstep
  · obtain ⟨τ, hk, hnext⟩ := hstep
    rw [if_pos ‹_›, hnext]
    exact hstore s1 (σ e) e _ (k e) τ (honly e h1 (by omega)) hk
  · rwa [if_neg ‹_›]

theorem storeOne_ok {ty e k v : Nat} {va : Word} {y τ : State} (h : keyOf y .store va (typeWidth ty / 8) e = .ok k τ) :
    storeOne ty va y e v = .ok () (τ.updT fun t => t.storeBytes k k (natLe (typeWidth ty / 8) v)) := by
  unfold storeOne storeAt
  simp only [h]

/-- What the index form adds up is as before where the thread has only stored. -/
theorem indexAddr_congr (o : WM) {s y : State} (h : onlyStored s y) (e : Nat) : indexAddr o y e = indexAddr o s e := by
  obtain ⟨own, ht⟩ := h
  have hg : vtGrp y = vtGrp s := by rw [vtGrp, ht, vtGrp]
  have hb : getGroup y o.xb.toNat (vtGrp s) = getGroup s o.xb.toNat (vtGrp s) := getGroup_congr fun j _ => getV_congr (by rw [ht]) _
  have hr : getS y o.sa = getS s o.sa := by rw [getS, ht, getS]
  simp only [indexAddr, hg, hb, hr]

section
variable (o : WM) (s : State)

theorem vst_result : storeResult (.vst o) o.vd.toNat o.msk.toNat (typeWidth o.ty.toNat) [] s (settleMatrix s) fun _ e =>
    unitAddr o (settleMatrix s) e :=
  storeResult_of (fun _ hrun hv => executeOp_ok hrun hv) fun _ _ _ _ _ _ _ hk => storeOne_ok hk

theorem vsts_result : storeResult (.vsts o) o.vd.toNat o.msk.toNat (typeWidth o.ty.toNat) [] s (settleMatrix s) fun _ e =>
    strideAddr o (settleMatrix s) e :=
  storeResult_of (fun _ hrun hv => executeOp_ok hrun hv) fun _ _ _ _ _ _ _ hk => storeOne_ok hk

theorem vstx_result (hx : o.xb.toNat % vtGrp (settleMatrix s) = 0) : storeResult (.vstx o) o.vd.toNat o.msk.toNat (typeWidth o.ty.toNat)
    (regsOf o.xb.toNat (vtGrp (settleMatrix s))) s (settleMatrix s) (indexAddr o) := by
  refine storeResult_of (fun v hrun hv => executeOp_ok hrun ?_) fun s1 y e v k τ hy hk => storeOne_ok (indexAddr_congr o hy e ▸ hk)
  exact (if_neg (by simp [groupOk, hx])).trans hv

end

/-! ## Stores into a folio (R148, R215) -/

/-- The state before element `st + n` of a store into a folio: the enabled ones of the elements below have been stored at the offsets `off`. -/
def folioStored (f : FolioEntry) (z : Nat) (off : Nat → Int) (val : Nat → Nat) (act : Nat → Bool) (st : Nat) (s : State) : Nat → State
  | 0 => s
  | n + 1 =>
    let x := folioStored f z off val act st s n
    let k := f.key (off (st + n)).toNat
    if act (st + n) then (soilFolio x f).updT fun t => t.storeBytes k k (natLe z (val (st + n))) else x

/-- The entry is no longer clean and no longer what a view delivered. -/
def soiled (f : FolioEntry) (s : State) : Prop := ∀ x ∈ s.folios, x.core = f.core → x.index = f.index → x.clean = false ∧ x.view = none

theorem soiled_soilFolio (s : State) (f : FolioEntry) : soiled f (soilFolio s f) := by
  intro x hx hc hi
  obtain ⟨y, _, rfl⟩ := List.mem_map.1 hx
  by_cases hy : (y.core == f.core && y.index == f.index) = true
  · rw [if_pos hy]
    exact ⟨rfl, rfl⟩
  · rw [if_neg hy] at hc hi
    exact absurd (by simp [hc, hi]) hy

section
variable (f : FolioEntry) (z : Nat) (off : Nat → Int) (val : Nat → Nat) (act : Nat → Bool) (st : Nat) (s : State)

theorem folioStored_step {e : Nat} (h : st ≤ e) : folioStored f z off val act st s (e + 1 - st) =
    if act e then (soilFolio (folioStored f z off val act st s (e - st)) f).updT fun t =>
      t.storeBytes (f.key (off e).toNat) (f.key (off e).toNat) (natLe z (val e))
    else folioStored f z off val act st s (e - st) := by
  have he : st + (e - st) = e := by omega
  rw [show e + 1 - st = e - st + 1 by omega, folioStored]
  simp only [he]

theorem folioStored_onlyStored : ∀ n, onlyStored s (folioStored f z off val act st s n)
  | 0 => ⟨s.t.own, rfl⟩
  | n + 1 => by
    have ih := folioStored_onlyStored n
    rw [folioStored]
    split
    · exact onlyStored_storeBytes (τ := soilFolio _ f) ih rfl ..
    · exact ih

theorem folioStored_soiled : ∀ n, (∃ e, st ≤ e ∧ e < st + n ∧ act e = true) → soiled f (folioStored f z off val act st s n)
  | 0, ⟨e, h1, h2, _⟩ => absurd h2 (by omega)
  | n + 1, ⟨e, h1, h2, ha⟩ => by
    rw [folioStored]
    split
    · exact soiled_soilFolio _ f
    · rename_i hn
      refine folioStored_soiled n ⟨e, h1, ?_, ha⟩
      have hne : e ≠ st + n := fun h => hn (h ▸ ha)
      omega

theorem folioStored_storesRead (hi : Nat) :
    storesRead z val act (fun e => f.key (off e).toNat) st hi s (folioStored f z off val act st s (max st hi - st)) := by
  refine storesRead_of_steps (σ := fun e => folioStored f z off val act st s (e - st)) (by rw [Nat.sub_self]; rfl) fun e h1 h2 => ?_
  rw [folioStored_step f z off val act st s h1]
  split
  · exact wroteAt_storeBytes (τ := soilFolio _ f) rfl _ _ _ _
  · rfl

end

section
variable (o : LF) {s s1 : State} {f : FolioEntry}

/-- The state of a vstf behind its stores. -/
def vstfStored (f : FolioEntry) (sp s1 : State) : State :=
  let z := typeWidth o.wm.ty.toNat / 8
  folioStored f z (folioOff o sp) (element s1 o.wm.vd.toNat (vtGrp sp) (8 * z)) (maskOn s1 o.wm.msk.toNat) (startElem s1) s1
    (max (startElem s1) s1.t.ctl.vl - startElem s1)

/-- A vstf whose elements lie in its folio commits behind their stores. -/
theorem vstf_commits (hn : nameFolio (settleMatrix s) o.fh.toNat = .ready f) (hsp : f.space = 1)
    (hin : ∀ e < s1.t.ctl.vl, 0 ≤ folioOff o (settleMatrix s) e ∧ folioOff o (settleMatrix s) e + (typeWidth o.wm.ty.toNat / 8 : Nat) ≤ f.size ∧
      folioOff o (settleMatrix s) e % (typeWidth o.wm.ty.toNat / 8 : Nat) = 0)
    (hrun : runsNow .elements s) (hfit : (settleMatrix s).t.ctl.vl ≤ vtGrp (settleMatrix s) * 8192 / typeWidth o.wm.ty.toNat)
    (halign : o.wm.vd.toNat % vtGrp (settleMatrix s) = 0)
    (hs : sourcesAt (regsOf o.wm.vd.toNat (vtGrp (settleMatrix s))) [] none (settleMatrix s) s1) :
    exec (.vstf o) s = .next (committed .elements (consumeSources (regsOf o.wm.vd.toNat (vtGrp (settleMatrix s)))
      (vstfStored o f (settleMatrix s) s1))) := by
  rw [← List.append_nil (regsOf o.wm.vd.toNat (vtGrp (settleMatrix s)))] at hs ⊢
  refine executeOp_ok hrun ((withFolio_ready _ hfit halign hn (by simp [hsp])).trans (storeVec_ok (σ := fun e => folioStored f
    (typeWidth o.wm.ty.toNat / 8) (folioOff o (settleMatrix s)) _ (maskOn s1 o.wm.msk.toNat) (startElem s1) s1 (e - startElem s1))
    (by rwa [typeWidth_bytes]) halign hs (by rw [Nat.sub_self]; rfl) fun e h1 h2 => ?_))
  obtain ⟨h0, hend, hal⟩ := hin e h2
  dsimp only
  rw [folioStored_step _ _ _ _ _ _ _ h1, folioCheck_ok h0 hend hal]
  split <;> rfl

end

/-- Settles O33: each form of store is the vector store whose elements its address rule names, and vstf stores at its folio's keys. -/
theorem vectorStoreResults : Obligations.VectorStoreResults := by
  refine ⟨fun o s => ⟨vst_result o s, ?_, vstx_result o s⟩, fun o s s1 f => ?_⟩
  · simpa only [stride_toInt, strideAddr] using vsts_result o s
  · intro sp z g vd mk off hn hsp hin hrun hfit halign hs st vl
    obtain ⟨own, hu⟩ : onlyStored s1 (vstfStored o f sp s1) := folioStored_onlyStored ..
    refine ⟨_, vstf_commits o hn hsp hin hrun (by rwa [typeWidth_bytes] at hfit) halign hs, ?_⟩
    have hread := readByte_committed_consumed .elements (regsOf vd g) (vstfStored o f sp s1)
    obtain ⟨_, _, _, _, _, _, _, hc, _, _⟩ := committed_consumed .elements (regsOf vd g) (vstfStored o f sp s1)
    refine ⟨by rw [hc], by rw [hc, hu], storesRead_congr (folioStored_storesRead f z off _ _ st s1 vl) hread, ?_⟩
    rintro ⟨e, h1, h2, ha⟩
    rw [hc]
    exact folioStored_soiled f z off _ _ st s1 _ ⟨e, h1, by omega, ha⟩

end Sys2Proof.Machine
end

section
namespace Sys2Proof.Machine

/-! ## Mantissas read from bit planes (R160, R213) -/

/-- One element of vldbp: the planes of its mantissa, read as a sign-extended byte. -/
def loadMantissa (a : Word) (m : Nat) (s : State) (i : Nat) : Got Nat :=
  planeCheck a i s fun s1 =>
    match loadPlanes a m i m s1 with
    | .bad t s2 => .bad t s2
    | .ok v s2 => .ok (bfpByte (bfpMant m v)) s2

/-- The mantissa whose bit j is the given bit of plane byte j. -/
theorem loadPlanes_ok {a : Word} {m i : Nat} {s : State} {byte : Nat → Nat} : ∀ n,
    (∀ j < n, loadAt s (planeAddr a m i j) 1 1 i = .ok (byte j) s) →
    loadPlanes a m i n s = .ok ((List.range n).map fun j => if (byte j).testBit (i % 8) then 2 ^ j else 0).sum s
  | 0, _ => rfl
  | n + 1, h => by
    rw [loadPlanes, loadPlanes_ok n fun j hj => h j (by omega)]
    dsimp only
    rw [h n (by omega)]
    dsimp only
    rw [List.range_succ, List.map_append, List.sum_append, List.map_singleton, List.sum_singleton]
    split <;> rfl

theorem OnlyMemory.of_loadPlanes {a : Word} {m i : Nat} {s : State} : ∀ {n v : Nat} {u : State}, loadPlanes a m i n s = .ok v u → OnlyMemory s u
  | 0, v, u, h => by
    injection h with _ hu
    exact hu ▸ .refl s
  | n + 1, v, u, h => by
    rw [loadPlanes] at h
    split at h
    · exact nomatch h
    · rename_i hx
      split at h
      · exact nomatch h
      · rename_i hb
        injection h with _ hu
        exact hu ▸ (OnlyMemory.of_loadPlanes hx).trans (.of_loadAt hb)

theorem planeCheck_ok {α : Type} {a : Word} (hc : canonical a = true) (ha : a.toNat % 32 = 0) (i : Nat) (s : State) (f : State → Got α) :
    planeCheck a i s f = f s := by
  unfold planeCheck
  rw [if_neg (by simp [hc]), if_neg (by simp [ha])]

theorem planeCheck_eq_ok {α : Type} {a : Word} {i : Nat} {s u : State} {f : State → Got α} {x : α} (h : planeCheck a i s f = .ok x u) :
    f s = .ok x u := by
  unfold planeCheck at h
  split at h
  · exact nomatch h
  · split at h
    · exact nomatch h
    · exact h

theorem loadMantissa_keeps {a : Word} {m e v : Nat} {s u : State} (h : loadMantissa a m s e = .ok v u) :
    u.t.m = s.t.m ∧ u.t.limit = s.t.limit := by
  have h1 := planeCheck_eq_ok h
  split at h1
  · exact nomatch h1
  · rename_i hx
    injection h1 with _ hu
    rw [← hu, (OnlyMemory.of_loadPlanes hx).t]
    exact ⟨rfl, rfl⟩

theorem vldbp_result (o : WM) (s : State) : loadResult (.vldbp o) False o.vd.toNat o.msk.toNat 8 [] s (settleMatrix s)
    (loadMantissa (getS (settleMatrix s) o.sa) (o.ty.toNat - 0x10 + 2)) :=
  loadResult_of (gb := false) o.vd.isLt (by decide) (fun h => nomatch h) (fun _ hrun _ _ hv => executeOp_ok hrun hv)
    fun _ _ _ _ h => ⟨h, loadMantissa_keeps h⟩

theorem truncInt_lt (x : Int) (w : Nat) : truncInt x w < 2 ^ w := by
  have hpos : (0 : Int) < (2 ^ w : Nat) := by exact_mod_cast Nat.two_pow_pos w
  have h1 := Int.emod_lt_of_pos x hpos
  have h0 := Int.emod_nonneg x (ne_of_gt hpos)
  unfold truncInt
  omega

/-! ## Mantissas written to bit planes (R160, R213) -/

theorem vstbp_commits {o : WM} {s s1 : State} {σ τ : Nat → State} (hrun : runsNow .elements s)
    (hfit : (settleMatrix s).t.ctl.vl ≤ vtGrp (settleMatrix s) * 1024) (halign : o.vd.toNat % vtGrp (settleMatrix s) = 0)
    (hs : sourcesAt (regsOf o.vd.toNat (vtGrp (settleMatrix s))) [] none (settleMatrix s) s1) (hσ : σ (startElem s1) = s1)
    (hst : ∀ e, startElem s1 ≤ e → e < s1.t.ctl.vl → if maskOn s1 o.msk.toNat e then
      storePlanes (getS (settleMatrix s) o.sa) (o.ty.toNat - 0x10 + 2) (σ e) e (element s1 o.vd.toNat (vtGrp (settleMatrix s)) 8 e) = .ok () (σ (e + 1))
      else σ (e + 1) = σ e)
    (hτ : τ s1.t.ctl.vl = σ (max (startElem s1) s1.t.ctl.vl))
    (hpad : ∀ e, s1.t.ctl.vl ≤ e → e < (s1.t.ctl.vl + 255) / 256 * 256 →
      storePlanes (getS (settleMatrix s) o.sa) (o.ty.toNat - 0x10 + 2) (τ e) e 0 = .ok () (τ (e + 1))) :
    exec (.vstbp o) s = .next (committed .elements (consumeSources (regsOf o.vd.toNat (vtGrp (settleMatrix s)))
      (τ ((s1.t.ctl.vl + 255) / 256 * 256)))) := by
  have hlim := limit_of_sourcesAt hs
  have hmax : startElem s1 + (s1.t.ctl.vl - startElem s1) = max (startElem s1) s1.t.ctl.vl := by omega
  have htop : (if s1.t.ctl.vl = 0 then 0 else ((s1.t.ctl.vl - 1) / 256 + 1) * 256) = (s1.t.ctl.vl + 255) / 256 * 256 := by split <;> omega
  have hend : s1.t.ctl.vl + ((s1.t.ctl.vl + 255) / 256 * 256 - s1.t.ctl.vl) = (s1.t.ctl.vl + 255) / 256 * 256 := by omega
  have helems := storeLoop_eq (act := maskOn s1 o.msk.toNat) (store := fun b e => storePlanes (getS (settleMatrix s) o.sa)
    (o.ty.toNat - 0x10 + 2) b e (element s1 o.vd.toNat (vtGrp (settleMatrix s)) 8 e)) (σ := σ) (s1.t.ctl.vl - startElem s1) (startElem s1)
    fun e h1 h2 => hst e h1 (by omega)
  have hzeros := storeLoop_eq (act := fun _ => true) (store := fun b e => storePlanes (getS (settleMatrix s) o.sa) (o.ty.toNat - 0x10 + 2) b e 0)
    (σ := τ) ((s1.t.ctl.vl + 255) / 256 * 256 - s1.t.ctl.vl) s1.t.ctl.vl fun e h1 h2 => (if_pos rfl).mpr (hpad e h1 (by omega))
  rw [hσ, hmax, ← hτ] at helems
  rw [hend] at hzeros
  refine executeOp_ok hrun ((if_neg (by simp [memFits, groupOk, halign]; omega)).trans (vecFrame_ok hs _ ?_ (plainDest_nil _)))
  dsimp only
  rw [htop, topElem_of_none hlim, hlim]
  exact (congrArg (fun r => Res.bind r _) helems).trans hzeros

/-- A number with bit `b` cleared and then given. -/
def withBit (x b : Nat) (bit : Bool) : Nat :=
  let cleared := if x.testBit b then x - 2 ^ b else x
  if bit then cleared + 2 ^ b else cleared

theorem withBit_eq (x b : Nat) (bit : Bool) : withBit x b bit = 2 ^ b * (2 * (x / 2 ^ b / 2) + bit.toNat) + x % 2 ^ b := by
  have hx : 2 ^ b * (x / 2 ^ b) + x % 2 ^ b = x := Nat.div_add_mod ..
  have hq : 2 * (x / 2 ^ b / 2) + x / 2 ^ b % 2 = x / 2 ^ b := Nat.div_add_mod ..
  have hcleared : (if x.testBit b then x - 2 ^ b else x) = 2 ^ b * (2 * (x / 2 ^ b / 2)) + x % 2 ^ b := by
    rw [Nat.testBit_eq_decide_div_mod_eq]
    by_cases hb : x / 2 ^ b % 2 = 1
    · rw [hb] at hq
      rw [if_pos (by simpa using hb)]
      rw [← hq, Nat.mul_add] at hx
      omega
    · rw [if_neg (by simpa using hb), show 2 * (x / 2 ^ b / 2) = x / 2 ^ b by omega, hx]
  unfold withBit
  rw [hcleared]
  cases bit with
  | false => simp
  | true =>
    rw [if_pos rfl, Nat.mul_add (2 ^ b)]
    simp only [Bool.toNat_true]
    omega

theorem testBit_withBit (x b i : Nat) (bit : Bool) : (withBit x b bit).testBit i = if i = b then bit else x.testBit i := by
  have hl : x % 2 ^ b < 2 ^ b := Nat.mod_lt _ (Nat.two_pow_pos b)
  rw [withBit_eq, Nat.testBit_two_pow_mul_add _ hl]
  by_cases hlt : i < b
  · rw [if_pos hlt, if_neg (by omega), Nat.testBit_mod_two_pow]
    simp [hlt]
  · rw [if_neg hlt]
    obtain ⟨j, rfl⟩ : ∃ j, i = b + j := ⟨i - b, by omega⟩
    rw [Nat.add_sub_cancel_left]
    cases j with
    | zero => cases bit <;> simp
    | succ j =>
      rw [if_neg (by omega), Nat.testBit_succ, show (2 * (x / 2 ^ b / 2) + bit.toNat) / 2 = x / 2 ^ b / 2 by cases bit <;> simp; omega,
        ← Nat.testBit_succ, Nat.testBit_div_two_pow, Nat.add_comm]

/-- One plane byte gets its bit of the mantissa. -/
def setPlaneBit (b v : Nat) (s : State) (p : Nat × Nat) : State :=
  s.updT fun t => t.storeByte p.2 (BitVec.ofNat 8 (withBit (t.readByte p.2).toNat b (v.testBit p.1))) p.2

theorem setPlaneBits_eq (s : State) (b v : Nat) (ks : List Nat) : setPlaneBits s b v ks = (ks.mapIdx fun j k => (j, k)).foldl (setPlaneBit b v) s := rfl

theorem readByte_setPlaneBit (b v : Nat) (s : State) (p : Nat × Nat) (a : Nat) : (setPlaneBit b v s p).t.readByte a =
    if a = p.2 then BitVec.ofNat 8 (withBit (s.t.readByte p.2).toNat b (v.testBit p.1)) else s.t.readByte a :=
  Thread.readByte_storeByte ..

/-- Bytes of planes at keys that differ: each is the byte as it was with its own bit given, and no other byte changes. -/
theorem foldl_setPlaneBit (b v : Nat) : ∀ (ks : List Nat) (n : Nat) (s : State), ks.Nodup →
    let t := (ks.mapIdx fun j k => (j + n, k)).foldl (setPlaneBit b v) s
    (∀ j (h : j < ks.length), t.t.readByte ks[j] = BitVec.ofNat 8 (withBit (s.t.readByte ks[j]).toNat b (v.testBit (j + n)))) ∧
      ∀ p, p ∉ ks → t.t.readByte p = s.t.readByte p
  | [], _, _, _ => ⟨fun _ h => absurd h (Nat.not_lt_zero _), fun _ _ => rfl⟩
  | k :: ks, n, s, hn => by
    obtain ⟨hk, hks⟩ := List.nodup_cons.1 hn
    have hidx : ((k :: ks).mapIdx fun j k => (j + n, k)) = (n, k) :: ks.mapIdx fun j k => (j + (n + 1), k) := by
      rw [List.mapIdx_cons, Nat.zero_add]
      congr 2
      funext j k
      rw [Nat.add_right_comm, Nat.add_assoc]
    obtain ⟨hset, hkeep⟩ := foldl_setPlaneBit b v ks (n + 1) (setPlaneBit b v s (n, k)) hks
    intro t
    have ht : t = (ks.mapIdx fun j k => (j + (n + 1), k)).foldl (setPlaneBit b v) (setPlaneBit b v s (n, k)) := by
      rw [← List.foldl_cons, ← hidx]
    refine ⟨fun j hj => ?_, fun p hp => ?_⟩
    · rw [ht]
      cases j with
      | zero => rw [List.getElem_cons_zero, hkeep k hk, readByte_setPlaneBit, if_pos rfl, Nat.zero_add]
      | succ j =>
        have hj' : j < ks.length := by simpa using hj
        have hmem : ks[j] ∈ ks := List.getElem_mem hj'
        rw [List.getElem_cons_succ, hset j hj', readByte_setPlaneBit, if_neg (fun h : ks[j] = k => hk (h ▸ hmem)), Nat.add_right_comm,
          Nat.add_assoc]
    · rw [ht, hkeep p fun h => hp (List.mem_cons_of_mem _ h), readByte_setPlaneBit, if_neg fun h : p = k => hp (h ▸ List.mem_cons_self)]

theorem checkStores_length {e : Nat} : ∀ {l : List Word} {s u : State} {ks : List Nat}, checkStores e l s = .ok ks u → ks.length = l.length
  | [], s, u, ks, h => by
    injection h with hk _
    exact hk ▸ rfl
  | va :: l, s, u, ks, h => by
    rw [checkStores] at h
    split at h
    · exact nomatch h
    · split at h
      · exact nomatch h
      · rename_i hr
        injection h with hk _
        rw [← hk, List.length_cons, checkStores_length hr, List.length_cons]

/-- A mantissa that has been written: the bits of its planes at the keys that were checked. -/
theorem storePlanes_eq {a : Word} {m e v : Nat} {s s1 s2 : State} {ks : List Nat}
    (hk : checkStores e ((List.range m).map (planeAddr a m e)) s = .ok ks s1) (h : storePlanes a m s e v = .ok () s2) :
    s2 = setPlaneBits s1 (e % 8) v ks := by
  have h1 := planeCheck_eq_ok h
  rw [hk] at h1
  dsimp only at h1
  split at h1
  · exact nomatch h1
  · injection h1 with _ hs
    exact hs.symm

/-- Settles O36: the loads, the stores and the padding of the two instructions, and the bits of one mantissa's plane bytes. -/
theorem bitPlaneResults : Obligations.BitPlaneResults := by
  refine ⟨fun o s s1 byte => ?_, fun o s s1 σ τ => ?_, fun s s1 s2 a m e v ks hk hn h => ?_⟩
  · intro sp m g vd a vl st mant hrun hfit halign hs hload hp
    have hloads : loadsTo (loadMantissa a m) (maskOn s1 o.msk.toNat) (fun _ => s1) (fun e => truncInt (sextNat (mant e) m) 8) st vl := by
      intro e h1 h2
      split
      · rename_i ha
        obtain ⟨hc, hal, hbytes⟩ := hload e h1 h2 ha
        rw [loadMantissa, planeCheck_ok hc hal, loadPlanes_ok m hbytes]
        rfl
      · rfl
    have hgroup : ∀ x : Nat, x * 8192 / 8 = x * 1024 := fun x => by omega
    obtain ⟨t, ht, hkeeps, _, helems⟩ := vldbp_result o s s1 (fun _ => s1) _ hrun (by rw [hgroup]; exact hfit) halign hs False.elim rfl hloads hp
    refine ⟨t, ht, hkeeps, fun e he => ?_⟩
    rw [helems e (by rw [hgroup]; exact he), Nat.mod_eq_of_lt (truncInt_lt _ 8)]
  · intro sp m g vd a vl st top hrun hfit halign hs hσ hst hτ hpad
    exact vstbp_commits hrun hfit halign hs hσ hst hτ hpad
  · obtain ⟨hset, hkeep⟩ := foldl_setPlaneBit (e % 8) v ks 0 s1 hn
    have hlen : ks.length = m := by rw [checkStores_length hk, List.length_map, List.length_range]
    simp only [Nat.add_zero] at hset hkeep
    rw [storePlanes_eq hk h, setPlaneBits_eq]
    refine ⟨fun j hj b hb => ?_, hkeep⟩
    have hj' : j < ks.length := by omega
    rw [List.getD_eq_getElem _ _ hj', hset j hj', BitVec.getLsbD_ofNat, testBit_withBit]
    simp [hb, BitVec.getLsbD]

end Sys2Proof.Machine
end

section
namespace Sys2Proof.Machine

/-! ## Entries of folio tables (R146) -/

/-- Other indices of a core's table, or other cores, do not meet the test for an entry. -/
theorem index_ne {c i core index : Nat} (h : (c, i) ≠ (core, index)) (x : FolioEntry) (hx : (x.core == c && x.index == i) = true) :
    (x.core == core && x.index == index) = false := by
  obtain ⟨hc, hi⟩ : x.core = c ∧ x.index = i := by simpa using hx
  subst hc hi
  simpa [Prod.ext_iff] using h

theorem folioAt_some {s : State} {c i : Nat} {e : FolioEntry} (h : folioAt s c i = some e) : e ∈ s.folios ∧ e.core = c ∧ e.index = i := by
  have hp := List.find?_some (p := fun x : FolioEntry => x.core == c && x.index == i) h
  exact ⟨List.mem_of_find?_eq_some h, by simpa using hp⟩

theorem folioAt_congr {s u : State} (h : u.folios = s.folios) (c i : Nat) : folioAt u c i = folioAt s c i := by
  unfold folioAt
  rw [h]

theorem folioAt_updFolio_same (s : State) (c i : Nat) {f : FolioEntry → FolioEntry} (hc : ∀ x, (f x).core = x.core)
    (hi : ∀ x, (f x).index = x.index) : folioAt (updFolio s c i f) c i = (folioAt s c i).map f :=
  find?_updWhere _ f (fun x => by rw [hc, hi]) s.folios

theorem folioAt_updFolio_of {s : State} {e : FolioEntry} (h : folioAt s e.core e.index = some e) (f : FolioEntry → FolioEntry)
    (hc : ∀ x, (f x).core = x.core) (hi : ∀ x, (f x).index = x.index) : folioAt (updFolio s e.core e.index f) e.core e.index = some (f e) := by
  rw [folioAt_updFolio_same s _ _ hc hi, h]
  rfl

theorem folioAt_updFolio_ne (s : State) {c i core index : Nat} (h : (c, i) ≠ (core, index)) {f : FolioEntry → FolioEntry}
    (hc : ∀ x, (f x).core = x.core) (hi : ∀ x, (f x).index = x.index) : folioAt (updFolio s core index f) c i = folioAt s c i := by
  unfold folioAt updFolio updWhere
  dsimp only
  rw [List.find?_map]
  have hq : (fun x : FolioEntry => x.core == c && x.index == i) ∘ (fun x => if x.core == core && x.index == index then f x else x) =
      fun x => x.core == c && x.index == i := by
    funext x
    dsimp only [Function.comp]
    split
    · rw [hc, hi]
    · rfl
  rw [hq]
  cases hx : s.folios.find? fun x => x.core == c && x.index == i with
  | none => rfl
  | some x =>
    have hp := List.find?_some (p := fun x : FolioEntry => x.core == c && x.index == i) hx
    have hne := index_ne h x hp
    simp only [Option.map_some, hne, Bool.false_eq_true, if_false]

theorem folioAt_dropFolio_same (s : State) (c i : Nat) : folioAt (dropFolio s c i) c i = none := by
  unfold folioAt dropFolio
  rw [List.find?_filter, List.find?_eq_none]
  intro x _ hx
  obtain ⟨hn, hy⟩ := of_decide_eq_true hx
  rw [hy] at hn
  cases hn

theorem folioAt_dropFolio_ne (s : State) {c i core index : Nat} (h : (c, i) ≠ (core, index)) :
    folioAt (dropFolio s core index) c i = folioAt s c i := by
  unfold folioAt dropFolio
  rw [List.find?_filter]
  congr 1
  funext x
  by_cases hx : (x.core == c && x.index == i) = true
  · simp [hx, index_ne h x hx]
  · simp [hx]

theorem OnlyMemory.folios {s u : State} (h : OnlyMemory s u) : u.folios = s.folios := by
  obtain ⟨_, _, _, _, _, _, _, _, _, _, _, rfl⟩ := h
  rfl

theorem OnlyMemory.conts {s u : State} (h : OnlyMemory s u) : u.conts = s.conts := by
  obtain ⟨_, _, _, _, _, _, _, _, _, _, _, rfl⟩ := h
  rfl

/-! ## Fills and releases (R148, R149, R357) -/

/-- What the start of a fill leaves in the entry's place. -/
structure FillStarted (e x : FolioEntry) : Prop where
  state : x.state = .filling
  view : x.view = none
  zeros : e.src = 0 → x.data = some (List.replicate e.size 0)
  rest : ∃ data bad, x = { e with state := .filling, view := none, data := data, bad := bad }

/-- A fill's start puts its entry at the head of the entries, and is otherwise a change of memory alone. -/
theorem startFill_eq (s : State) (e : FolioEntry) : ∃ u x, OnlyMemory s u ∧ FillStarted e x ∧
    startFill s e = { u with folios := x :: (dropFolio u e.core e.index).folios } := by
  unfold startFill
  by_cases h : e.src = 0
  · rw [if_pos h]
    exact ⟨s, _, .refl s, ⟨rfl, rfl, fun _ => rfl, _, _, rfl⟩, rfl⟩
  · rw [if_neg h]
    refine ⟨(fillBytes e.src e.sizek s).2, _, .fillBytes .., ?_, rfl⟩
    split
    · exact ⟨rfl, rfl, fun h0 => absurd h0 h, _, _, rfl⟩
    · exact ⟨rfl, rfl, fun h0 => absurd h0 h, _, _, rfl⟩

theorem folioAt_startFill_same (s : State) (e : FolioEntry) : ∃ x, folioAt (startFill s e) e.core e.index = some x ∧ FillStarted e x := by
  obtain ⟨u, x, _, hx, h⟩ := startFill_eq s e
  obtain ⟨_, _, hr⟩ := hx.rest
  refine ⟨x, ?_, hx⟩
  rw [h]
  exact List.find?_cons_of_pos (by simp [hr])

theorem folioAt_startFill_ne (s : State) (e : FolioEntry) {c i : Nat} (h : (c, i) ≠ (e.core, e.index)) :
    folioAt (startFill s e) c i = folioAt s c i := by
  obtain ⟨u, x, hu, hx, hs⟩ := startFill_eq s e
  obtain ⟨_, _, hr⟩ := hx.rest
  have hne : ¬(x.core == c && x.index == i) = true := fun hp => by
    have := index_ne h x hp
    simp [hr] at this
  calc folioAt (startFill s e) c i = folioAt (dropFolio u e.core e.index) c i := by
        rw [hs]
        exact List.find?_cons_of_neg hne
    _ = folioAt u c i := folioAt_dropFolio_ne u h
    _ = folioAt s c i := folioAt_congr hu.folios c i

theorem startFill_t (s : State) (e : FolioEntry) : (startFill s e).t = s.t := by
  obtain ⟨u, x, hu, _, h⟩ := startFill_eq s e
  rw [h]
  exact hu.t

theorem FolioEntry.drains_iff (e : FolioEntry) (uid : Nat) :
    e.drains uid = true ↔ (e.state = .ready ∧ e.drain = true) ∧ ∀ u ∈ e.owners, u = uid := by
  simp [FolioEntry.drains]

/-- With other owners the release leaves the entry to them. -/
theorem releaseFolio_shared {s : State} {e : FolioEntry} (h : ∃ u ∈ e.owners, u ≠ s.t.uid) (sc : Nat) (ks : List Nat) :
    releaseFolio s e sc ks = updFolio s e.core e.index fun x => { x with owners := e.owners.filter (· != s.t.uid) } := by
  obtain ⟨u, hu, hne⟩ := h
  have hr : (e.owners.filter fun u => u != s.t.uid).isEmpty = false :=
    List.isEmpty_eq_false_iff.2 (List.ne_nil_of_mem (List.mem_filter.2 ⟨hu, by simpa using hne⟩))
  unfold releaseFolio
  simp only [hr, Bool.not_false, if_true]

/-! The last binding's release follows the entry's state. -/

section
variable {s : State} {e : FolioEntry} (h : ¬∃ u ∈ e.owners, u ≠ s.t.uid) (sc : Nat) (ks : List Nat)

theorem no_other_owner {uid : Nat} (h : ¬∃ u ∈ e.owners, u ≠ uid) : (e.owners.filter fun u => u != uid).isEmpty = true := by
  rw [List.isEmpty_iff, List.filter_eq_nil_iff]
  intro u hu hne
  exact h ⟨u, hu, by simpa using hne⟩

include h

theorem releaseFolio_filling (hst : e.state = .filling) : releaseFolio s e sc ks = dropFolio s e.core e.index := by
  unfold releaseFolio
  simp only [no_other_owner h, hst, Bool.not_true, Bool.false_eq_true, if_false]

theorem releaseFolio_idle (h1 : e.state ≠ .filling) (h2 : e.state ≠ .ready) : releaseFolio s e sc ks = s := by
  unfold releaseFolio
  cases hst : e.state with
  | filling => exact absurd hst h1
  | ready => exact absurd hst h2
  | empty => simp only [no_other_owner h, Bool.not_true, Bool.false_eq_true, if_false]
  | draining => simp only [no_other_owner h, Bool.not_true, Bool.false_eq_true, if_false]

theorem releaseFolio_drains (hst : e.state = .ready) (hd : e.drain = true) :
    releaseFolio s e sc ks = updFolio s e.core e.index fun x =>
      { x with state := .draining, view := none, scope := sc, pages := ks, data := some (folioBytes s e) } := by
  unfold releaseFolio
  simp only [no_other_owner h, hst, hd, Bool.not_true, Bool.false_eq_true, if_false, if_true]

theorem releaseFolio_retains (hst : e.state = .ready) (hd : e.drain = false) (hc : e.clean = true) :
    releaseFolio s e sc ks = updFolio s e.core e.index fun x => { x with owners := [], view := none } := by
  unfold releaseFolio
  simp only [no_other_owner h, hst, hd, hc, Bool.not_true, Bool.false_eq_true, if_false, if_true]

theorem releaseFolio_drops (hst : e.state = .ready) (hd : e.drain = false) (hc : e.clean = false) :
    releaseFolio s e sc ks = dropFolio s e.core e.index := by
  unfold releaseFolio
  simp only [no_other_owner h, hst, hd, hc, Bool.not_true, Bool.false_eq_true, if_false]

end

theorem folioAt_releaseFolio_same {s : State} {e : FolioEntry} (h : folioAt s e.core e.index = some e) (sc : Nat) (ks : List Nat) :
    folioAt (releaseFolio s e sc ks) e.core e.index =
      (if ∃ u ∈ e.owners, u ≠ s.t.uid then some { e with owners := e.owners.filter (· != s.t.uid) }
      else if e.state = .filling then none
      else if e.state = .ready then
        (if e.drain then some { e with state := .draining, view := none, scope := sc, pages := ks, data := some (folioBytes s e) }
          else if e.clean then some { e with owners := [], view := none } else none)
      else some e) := by
  by_cases ho : ∃ u ∈ e.owners, u ≠ s.t.uid
  · rw [if_pos ho, releaseFolio_shared ho]
    exact folioAt_updFolio_of h _ (fun _ => rfl) fun _ => rfl
  rw [if_neg ho]
  by_cases hf : e.state = .filling
  · rw [if_pos hf, releaseFolio_filling ho sc ks hf]
    exact folioAt_dropFolio_same ..
  rw [if_neg hf]
  by_cases hr : e.state = .ready
  · rw [if_pos hr]
    by_cases hd : e.drain = true
    · rw [if_pos hd, releaseFolio_drains ho sc ks hr hd]
      exact folioAt_updFolio_of h _ (fun _ => rfl) fun _ => rfl
    by_cases hc : e.clean = true
    · rw [if_neg hd, if_pos hc, releaseFolio_retains ho sc ks hr (Bool.eq_false_of_not_eq_true hd) hc]
      exact folioAt_updFolio_of h _ (fun _ => rfl) fun _ => rfl
    · rw [if_neg hd, if_neg hc, releaseFolio_drops ho sc ks hr (Bool.eq_false_of_not_eq_true hd) (Bool.eq_false_of_not_eq_true hc)]
      exact folioAt_dropFolio_same ..
  · rw [if_neg hr, releaseFolio_idle ho sc ks hf hr]
    exact h

theorem folioAt_releaseFolio_ne (s : State) (e : FolioEntry) (sc : Nat) (ks : List Nat) {c i : Nat} (h : (c, i) ≠ (e.core, e.index)) :
    folioAt (releaseFolio s e sc ks) c i = folioAt s c i := by
  by_cases ho : ∃ u ∈ e.owners, u ≠ s.t.uid
  · rw [releaseFolio_shared ho]
    exact folioAt_updFolio_ne s h (fun _ => rfl) fun _ => rfl
  by_cases hf : e.state = .filling
  · rw [releaseFolio_filling ho sc ks hf]
    exact folioAt_dropFolio_ne s h
  by_cases hr : e.state = .ready
  · cases hd : e.drain with
    | true =>
      rw [releaseFolio_drains ho sc ks hr hd]
      exact folioAt_updFolio_ne s h (fun _ => rfl) fun _ => rfl
    | false =>
      cases hc : e.clean with
      | true =>
        rw [releaseFolio_retains ho sc ks hr hd hc]
        exact folioAt_updFolio_ne s h (fun _ => rfl) fun _ => rfl
      | false =>
        rw [releaseFolio_drops ho sc ks hr hd hc]
        exact folioAt_dropFolio_ne s h
  · rw [releaseFolio_idle ho sc ks hf hr]

/-! ## The folio instructions (R221) -/

section
variable {rd : List (BitVec 5)} {h : Nat} {f : State → Res} {s u : State}

theorem folioOp_ok (hset : settledFor rd s) (hq : folioQueued (settleMatrix s) h = false) (hf : f (settleMatrix s) = .ok u) :
    folioOp h rd f s = .next (passed u) := by
  refine accessOp_ok hset ?_
  simp only [hq, Bool.false_eq_true, if_false]
  exact hf

theorem folioOp_trap {tr : Trap} (hset : settledFor rd s) (hx : xBusy s = false) (hq : folioQueued (settleMatrix s) h = false)
    (hf : f (settleMatrix s) = .trap tr u) : folioOp h rd f s = .next { takeTrap tr u with stalled := false } := by
  refine accessOp_trap hset hx ?_
  simp only [hq, Bool.false_eq_true, if_false]
  exact hf

end

theorem settledFor_nil (s : State) : settledFor [] s := fun _ hr => by cases hr

section
variable (o : W4) {s s2 : State} {e : FolioEntry}

theorem folrel_does {keys : List Nat} (hq : folioQueued (settleMatrix s) o.fc.toNat = false)
    (he : handleEntry (settleMatrix s) o.fc.toNat = some e) (hst : e.state = .ready ∨ e.state = .filling)
    (hk : if (e.state = .ready ∧ e.drain = true) ∧ ∀ u ∈ e.owners, u = (settleMatrix s).t.uid then
      checkDrain (settleMatrix s) e = .ok keys s2 else keys = [] ∧ s2 = settleMatrix s) :
    exec (.folrel o) s = .next (passed (setHandle (releaseFolio s2 e o.sc.toNat keys) o.fc.toNat none)) := by
  change execFolrel o s = _
  refine folioOp_ok (settledFor_nil s) hq ?_
  have hlive : ¬(e.state = .draining ∨ e.state = .empty) := by rcases hst with h | h <;> simp [h]
  simp only [he, if_neg hlive, releaseHandle, FolioEntry.drains_iff]
  by_cases hd : (e.state = .ready ∧ e.drain = true) ∧ ∀ u ∈ e.owners, u = (settleMatrix s).t.uid
  · rw [if_pos hd] at hk ⊢
    rw [hk]
    rfl
  · rw [if_neg hd] at hk ⊢
    rw [hk.1, hk.2]

theorem drainNow_ok {ks : List Nat} {s3 : State} (hc : checkDrain s e = .ok ks s3) (sc : Nat) (k : State → Res) :
    drainNow s e sc k = k (writeBack s3 s3.t.uid e (folioBytes s3 e) (ks.map some) sc) := by
  unfold drainNow
  rw [hc]
  rfl

theorem folfill_fills (hq : folioQueued (settleMatrix s) o.fc.toNat = false)
    (he : handleEntry (settleMatrix s) o.fc.toNat = some e) (hst : e.state = .ready ∨ e.state = .filling)
    (hw : fillWaits (settleMatrix s) e.src e.sizek = false) (hd : ¬(e.state = .ready ∧ e.drain = true)) :
    exec (.folfill o) s = .next (passed (startFill (settleMatrix s) e)) := by
  change execFolfill o s = _
  refine folioOp_ok (settledFor_nil s) hq ?_
  have hlive : ¬(e.state = .draining ∨ e.state = .empty) := by rcases hst with h | h <;> simp [h]
  simp only [he, if_neg hlive, hw, Bool.false_eq_true, if_false, if_neg hd]

theorem folfill_drains {ks : List Nat} {s3 : State} (hq : folioQueued (settleMatrix s) o.fc.toNat = false)
    (he : handleEntry (settleMatrix s) o.fc.toNat = some e) (hw : fillWaits (settleMatrix s) e.src e.sizek = false)
    (hd : e.state = .ready ∧ e.drain = true) (hc : checkDrain (settleMatrix s) e = .ok ks s3) :
    exec (.folfill o) s = .next (passed (startFill (writeBack s3 s3.t.uid e (folioBytes s3 e) (ks.map some) 5) e)) := by
  change execFolfill o s = _
  refine folioOp_ok (settledFor_nil s) hq ?_
  have hlive : ¬(e.state = .draining ∨ e.state = .empty) := by simp [hd.1]
  simp only [he, if_neg hlive, hw, Bool.false_eq_true, if_false, if_pos hd]
  rw [drainNow_ok hc]

theorem nameFolio_ready {x : Nat} (he : handleEntry s x = some e) (hst : e.state = .ready) : nameFolio s x = .ready e := by
  simp only [nameFolio, he, hst]

theorem nameFolio_unbound {x : Nat} (he : handleEntry s x = none) : nameFolio s x = .unbound := by
  simp only [nameFolio, he]

theorem foldrain_drains {ks : List Nat} {s3 : State} (hq : folioQueued (settleMatrix s) o.fc.toNat = false)
    (he : handleEntry (settleMatrix s) o.fc.toNat = some e) (hst : e.state = .ready) (hsrc : e.src ≠ 0)
    (hc : checkDrain (settleMatrix s) e = .ok ks s3) :
    exec (.foldrain o) s = .next (passed (writeBack s3 s3.t.uid e (folioBytes s3 e) (ks.map some) o.sc.toNat)) := by
  change execFoldrain o s = _
  refine folioOp_ok (settledFor_nil s) hq ?_
  simp only [nameFolio_ready he hst, if_neg hsrc]
  rw [drainNow_ok hc]

/-- A handle with no entry takes the folio unbound fault (R145). -/
theorem folioOps_unbound (hq : folioQueued (settleMatrix s) o.fc.toNat = false) (he : handleEntry (settleMatrix s) o.fc.toNat = none)
    (hx : xBusy s = false) :
    let t := Host.Outcome.next ({ takeTrap (unboundTrap o.fc.toNat 0) (settleMatrix s) with stalled := false } : State)
    exec (.folrel o) s = t ∧ exec (.folfill o) s = t ∧ exec (.foldrain o) s = t := by
  change execFolrel o s = _ ∧ execFolfill o s = _ ∧ execFoldrain o s = _
  refine ⟨folioOp_trap (settledFor_nil s) hx hq ?_, folioOp_trap (settledFor_nil s) hx hq ?_, folioOp_trap (settledFor_nil s) hx hq ?_⟩
  · simp only [he]
  · simp only [he]
  · simp only [nameFolio_unbound he]

end

end Sys2Proof.Machine
end

section
namespace Sys2Proof.Machine

/-! ## Posted matrix instructions change neither scalar registers nor handles (R298 to R315) -/

/-- The scalar registers, what a queued instruction has captured, and the handles are as before. -/
structure KeepsScalars (s u : State) : Prop where
  sregs : u.t.s = s.t.s
  xctx : u.t.xctx = s.t.xctx
  handles : u.t.handles = s.t.handles

namespace KeepsScalars

theorem refl (s : State) : KeepsScalars s s := ⟨rfl, rfl, rfl⟩

theorem trans {s u v : State} (h : KeepsScalars s u) (k : KeepsScalars u v) : KeepsScalars s v :=
  ⟨k.sregs.trans h.sregs, k.xctx.trans h.xctx, k.handles.trans h.handles⟩

theorem foldl {α : Type} {f : State → α → State} (h : ∀ a x, KeepsScalars a (f a x)) (l : List α) (s : State) : KeepsScalars s (l.foldl f s) :=
  foldl_keeps (KeepsScalars s) f (fun a x ha => ha.trans (h a x)) l s (.refl s)

theorem raise (s : State) (fl : Fl) : KeepsScalars s (raise s fl) := ⟨rfl, rfl, rfl⟩

theorem writeRow (s : State) (vd ty n : Nat) (tp : Bool) (f : Nat → Nat) : KeepsScalars s (writeRow s vd ty n tp f) := ⟨rfl, rfl, rfl⟩

/-- Stores of the thread touch its own writes alone. -/
theorem stores {α : Type} {f : Thread → α → Thread} (hf : ∀ t x, ∃ own, f t x = { t with own := own }) (l : List α) (s : State) :
    KeepsScalars s (s.updT fun t => l.foldl f t) := by
  have h : (l.foldl f s.t).s = s.t.s ∧ (l.foldl f s.t).xctx = s.t.xctx ∧ (l.foldl f s.t).handles = s.t.handles := by
    refine foldl_keeps (fun t : Thread => t.s = s.t.s ∧ t.xctx = s.t.xctx ∧ t.handles = s.t.handles) f ?_ l s.t ⟨rfl, rfl, rfl⟩
    intro t x ht
    obtain ⟨own, e⟩ := hf t x
    rw [e]
    exact ht
  obtain ⟨hs, hx, hh⟩ := h
  exact ⟨hs, hx, hh⟩

theorem completeOp (op : MatOp) (s : State) : KeepsScalars s (completeOp op s) := by
  unfold Machine.completeOp
  cases hu : s.t.munit with
  | none => cases op <;> exact ⟨rfl, rfl, rfl⟩
  | some u =>
    cases op with
    | mmode | mexit | tcfg | trel | tld | acczero | accfl => exact ⟨rfl, rfl, rfl⟩
    | tmvr | mop =>
      dsimp only
      refine trans ?_ (.raise ..)
      exact ⟨rfl, rfl, rfl⟩
    | tmvc | accmv =>
      dsimp only
      exact trans (.writeRow ..) (.raise ..)
    | tst ta rows =>
      dsimp only
      exact foldl (fun a p => stores (fun t q => ⟨_, rfl⟩) _ a) _ s
    | accsp ad base entry =>
      have h := stores (f := fun t (p : Nat × Byte) => t.storeByte p.1 p.2
        (p.1 / (typeWidth (cellTy u.mtype) / 8) * (typeWidth (cellTy u.mtype) / 8))) (fun t p => ⟨_, rfl⟩)
        ((natLe (mvlOf u.mtype * mvlOf u.mtype * (typeWidth (cellTy u.mtype) / 8)) (u.acc.getD ad 0).toNat).mapIdx fun i b => (base + i, b)) s
      exact ⟨h.sregs, h.xctx, h.handles⟩

theorem matrixStep (s : State) : KeepsScalars s (matrixStep s) := by
  unfold Machine.matrixStep
  split
  · exact .refl s
  · next op r _ =>
    have h := completeOp op (s.updT fun t => { t with mq := r })
    exact ⟨h.sregs, h.xctx, h.handles⟩

theorem settleMatrix (s : State) : KeepsScalars s (settleMatrix s) := by
  unfold Machine.settleMatrix
  split
  · exact foldl (fun a _ => .matrixStep a) _ s
  · exact .refl s

theorem getS {s u : State} (h : KeepsScalars s u) (r : BitVec 5) : getS u r = getS s r := by
  unfold Machine.getS
  rw [h.xctx, h.sregs]

end KeepsScalars

theorem OnlyMemory.of_loadWords {va : Word} : ∀ {n j : Nat} {s u : State} {ws : List Word}, loadWords va n j s = .ok ws u → OnlyMemory s u
  | 0, _, s, _, _, h => by
    cases h
    exact .refl s
  | n + 1, j, s, u, ws, h => by
    simp only [loadWords] at h
    cases h1 : loadAt s (va + BitVec.ofNat 64 (8 * j)) 8 8 0 with
    | bad t x =>
      rw [h1] at h
      cases h
    | ok w x =>
      rw [h1] at h
      dsimp only at h
      cases h2 : loadWords va n (j + 1) x with
      | bad t y =>
        rw [h2] at h
        cases h
      | ok r y =>
        rw [h2] at h
        cases h
        exact (OnlyMemory.of_loadAt h1).trans (.of_loadWords h2)

/-! ## Binding a range (R148, R221) -/

theorem mem_coreFolios {s : State} {core : Nat} {x : FolioEntry} : x ∈ coreFolios s core ↔ x ∈ s.folios ∧ x.core = core := by
  simp [coreFolios]

/-- Fewer entries leave the free indices free. -/
theorem freeIndex_mono {s u : State} {core : Nat} (h : ∀ x ∈ coreFolios u core, ∃ y ∈ coreFolios s core, y.index = x.index)
    (hf : freeIndex s core ≠ none) : freeIndex u core ≠ none := by
  obtain ⟨i, hi⟩ := Option.ne_none_iff_exists'.1 hf
  have hm : i ∈ List.range 64 := List.mem_of_find?_eq_some hi
  have hs : (coreFolios s core).all (fun e => e.index != i) = true :=
    List.find?_some (p := fun i => (coreFolios s core).all fun e => e.index != i) hi
  intro hn
  refine List.find?_eq_none.1 hn i hm (List.all_eq_true.2 fun x hx => ?_)
  obtain ⟨y, hy, e⟩ := h x hx
  rw [← e]
  exact List.all_eq_true.1 hs y hy

theorem FolioEntry.meets_of_same {x : FolioEntry} {f : FolioSpec} (h : x.same f = true) (hz : f.sizek ≠ 0) : x.meets f = true := by
  simp only [FolioEntry.same, Bool.and_eq_true, beq_iff_eq] at h
  obtain ⟨⟨⟨hs, hb⟩, hk⟩, _⟩ := h
  simp only [FolioEntry.meets, rangesMeet, hs, hb, hk, Bool.and_eq_true, beq_iff_eq, decide_eq_true_eq, true_and]
  omega

theorem sizek_ne_zero_of_specOk {w0 w1 : Word} (h : specOk w0 w1 = true) : (FolioSpec.dec w0 w1).sizek ≠ 0 := by
  simp only [specOk, Bool.and_eq_true, bne_iff_ne] at h
  exact h.1.1.2

/-- The entry that folbind makes for a thread (R221). -/
structure BoundTo (f : FolioSpec) (uid : Nat) (x : FolioEntry) : Prop where
  state : x.state = .filling
  owners : x.owners = [uid]
  src : x.src = f.src
  space : x.space = f.space
  basek : x.basek = f.basek
  sizek : x.sizek = f.sizek
  drain : x.drain = f.drain
  keep : x.keep = f.keep

/-- A state in which handle `h` names a filling entry of the thread with the fields of `f`. -/
def bindsTo (h : Nat) (f : FolioSpec) (uid core : Nat) (u : State) : Prop :=
  ∃ i x, u.t.handles.getD h none = some i ∧ folioAt u core i = some x ∧ BoundTo f uid x

theorem bindsTo_startFill {y : State} {e : FolioEntry} {h : Nat} {f : FolioSpec} {uid : Nat} (hh : h < y.t.handles.length)
    (he : ∀ x, FillStarted e x → BoundTo f uid x) : bindsTo h f uid e.core (setHandle (startFill y e) h (some e.index)) := by
  obtain ⟨x, hx, hs⟩ := folioAt_startFill_same y e
  refine ⟨e.index, x, ?_, hx, he x hs⟩
  change ((startFill y e).t.handles.set h (some e.index)).getD h none = some e.index
  rw [startFill_t, List.getD_eq_getElem?_getD, List.getElem?_set_self hh]
  rfl

/-- A range that only entries without owners meet gets a new entry, when an index is free. -/
theorem bindRange_binds {y : State} {h : Nat} {f : FolioSpec} (hz : f.sizek ≠ 0) (hfree : freeIndex y y.t.core ≠ none)
    (hm : ∀ x ∈ coreFolios y y.t.core, x.meets f = true → x.owners = []) (hh : h < y.t.handles.length) :
    ∃ u, bindRange y h f = .ok u ∧ bindsTo h f y.t.uid y.t.core u := by
  have hnone : (coreFolios y y.t.core).find? (fun e =>
      e.same f && (e.state == .filling || e.state == .ready) && e.owners.any fun u => u != y.t.uid && teamHere y u) = none := by
    rw [List.find?_eq_none]
    intro x hx hp
    simp only [Bool.and_eq_true] at hp
    obtain ⟨⟨hsame, _⟩, hany⟩ := hp
    rw [hm x hx (FolioEntry.meets_of_same hsame hz)] at hany
    cases hany
  have hfree1 : freeIndex { y with folios := y.folios.filter fun e => !(e.core == y.t.core && e.retained && e.meets f) } y.t.core ≠ none :=
    freeIndex_mono (fun x hx => ⟨x, mem_coreFolios.2 ⟨List.mem_of_mem_filter (mem_coreFolios.1 hx).1, (mem_coreFolios.1 hx).2⟩, rfl⟩) hfree
  obtain ⟨i, hi⟩ := Option.ne_none_iff_exists'.1 hfree1
  unfold bindRange
  simp only [hnone, makeRoom, hi, Option.isSome_some, if_true]
  refine ⟨_, rfl, bindsTo_startFill hh fun x hx => ?_⟩
  obtain ⟨_, _, rfl⟩ := hx.rest
  exact ⟨rfl, rfl, rfl, rfl, rfl, rfl, rfl, rfl⟩

/-! ## folbind (R221) -/

section
variable {s : State} {e : FolioEntry} {f : FolioSpec} {h : Nat}

theorem handleEntry_some (he : handleEntry s h = some e) :
    s.t.handles.getD h none = some e.index ∧ e.core = s.t.core ∧ e ∈ s.folios ∧ folioAt s e.core e.index = some e := by
  unfold handleEntry at he
  split at he
  · next i hi =>
    obtain ⟨hm, hc, hx⟩ := folioAt_some he
    exact ⟨by rw [hi, hx], hc, hm, by rw [hc, hx]; exact he⟩
  · cases he

/-- The entries that meet `f` are the ready entry that the thread alone owns by the handle that it binds again. -/
def roomFor (s : State) (h : Nat) (f : FolioSpec) : Prop :=
  ∀ x ∈ coreFolios s s.t.core, x.meets f = true →
    x.owners = [s.t.uid] ∧ x.state = .ready ∧ s.t.handles.getD h none = some x.index

theorem roomFor_checks (hr : roomFor s h f) :
    (coreFolios s s.t.core).filter (fun e => e.meets f && refusesRange s.t.uid e &&
      !(e.same f && (e.state == .filling || e.state == .ready) && e.owners.any fun u => u != s.t.uid && teamHere s u)) = [] ∧
    (coreFolios s s.t.core).any (fun e => e.meets f && e.owners.contains s.t.uid && some e.index != s.t.handles.getD h none &&
      (e.state == .filling || e.state == .ready)) = false ∧
    (coreFolios s s.t.core).any (fun e => e.meets f && e.state == .draining) = false := by
  refine ⟨List.filter_eq_nil_iff.2 fun x hx hp => ?_, List.any_eq_false.2 fun x hx hp => ?_, List.any_eq_false.2 fun x hx hp => ?_⟩
  · simp only [Bool.and_eq_true] at hp
    obtain ⟨⟨hm, href⟩, _⟩ := hp
    obtain ⟨ho, _, _⟩ := hr x hx hm
    simp [refusesRange, ho] at href
  · simp only [Bool.and_eq_true] at hp
    obtain ⟨⟨⟨hm, _⟩, hne⟩, _⟩ := hp
    obtain ⟨_, _, hi⟩ := hr x hx hm
    rw [hi] at hne
    simp at hne
  · simp only [Bool.and_eq_true] at hp
    obtain ⟨hm, hd⟩ := hp
    obtain ⟨_, hst, _⟩ := hr x hx hm
    simp [hst] at hd

/-- A release by the only owner of a ready entry without DRAIN leaves every other entry, and this one, if at all, without owner. -/
theorem mem_releaseFolio (ho : e.owners = [s.t.uid]) (hst : e.state = .ready) (hd : e.drain = false) (sc : Nat) (ks : List Nat) {x : FolioEntry}
    (hx : x ∈ (releaseFolio s e sc ks).folios) : ∃ y ∈ s.folios, y.core = x.core ∧ y.index = x.index ∧ (∀ f, x.meets f = y.meets f) ∧
      (x.owners = [] ∨ (x = y ∧ ¬(y.core = e.core ∧ y.index = e.index))) := by
  have hlast : ¬∃ u ∈ e.owners, u ≠ s.t.uid := by simp [ho]
  cases hc : e.clean with
  | true =>
    rw [releaseFolio_retains hlast sc ks hst hd hc] at hx
    obtain ⟨y, hy, rfl⟩ := List.mem_map.1 hx
    refine ⟨y, hy, ?_⟩
    by_cases hp : (y.core == e.core && y.index == e.index) = true
    · simp only [hp, if_true]
      exact ⟨trivial, trivial, fun _ => rfl, .inl trivial⟩
    · simp only [hp, Bool.false_eq_true, if_false]
      exact ⟨trivial, trivial, fun _ => trivial, .inr ⟨trivial, by simpa using hp⟩⟩
  | false =>
    rw [releaseFolio_drops hlast sc ks hst hd hc] at hx
    obtain ⟨hm, hp⟩ := List.mem_filter.1 hx
    exact ⟨x, hm, rfl, rfl, fun _ => rfl, .inr ⟨rfl, fun hce => by simp [hce] at hp⟩⟩

theorem releaseFolio_t (sc : Nat) (ks : List Nat) : (releaseFolio s e sc ks).t = s.t := by
  unfold releaseFolio
  dsimp only
  split
  · rfl
  · cases e.state with
    | ready =>
      dsimp only
      split
      · rfl
      · split <;> rfl
    | _ => rfl

/-- The handle's own entry is released, and its range bound anew. -/
theorem bindRange_released (hz : f.sizek ≠ 0) (hfree : freeIndex s s.t.core ≠ none) (hh : h < s.t.handles.length)
    (he : handleEntry s h = some e) (ho : e.owners = [s.t.uid]) (hst : e.state = .ready) (hd : e.drain = false)
    (hother : ∀ x ∈ coreFolios s s.t.core, x ≠ e → x.meets f = false) :
    ∃ u, bindRange (setHandle (releaseFolio s e 5 []) h none) h f = .ok u ∧ bindsTo h f s.t.uid s.t.core u := by
  have ht : (releaseFolio s e 5 []).t = s.t := releaseFolio_t 5 []
  obtain ⟨_, hcore, _, _⟩ := handleEntry_some he
  have hmem : ∀ x ∈ coreFolios (setHandle (releaseFolio s e 5 []) h none) s.t.core, ∃ y ∈ coreFolios s s.t.core, y.index = x.index ∧
      (∀ f, x.meets f = y.meets f) ∧ (x.owners = [] ∨ y ≠ e) := by
    intro x hx
    obtain ⟨hm, hc⟩ := mem_coreFolios.1 hx
    obtain ⟨y, hy, hyc, hyi, hym, hyo⟩ := mem_releaseFolio ho hst hd 5 [] hm
    refine ⟨y, mem_coreFolios.2 ⟨hy, hyc.trans hc⟩, hyi, hym, hyo.imp_right fun hne heq => hne.2 ?_⟩
    rw [heq]
    exact ⟨rfl, rfl⟩
  have htu : (setHandle (releaseFolio s e 5 []) h none).t.uid = s.t.uid := by rw [← ht]; rfl
  have htc : (setHandle (releaseFolio s e 5 []) h none).t.core = s.t.core := by rw [← ht]; rfl
  have hth : h < (setHandle (releaseFolio s e 5 []) h none).t.handles.length := by
    change h < ((releaseFolio s e 5 []).t.handles.set h none).length
    rw [List.length_set, ht]
    exact hh
  have hb := bindRange_binds (y := setHandle (releaseFolio s e 5 []) h none) (h := h) hz
  rw [htu, htc] at hb
  refine hb (freeIndex_mono (fun x hx => ?_) hfree) (fun x hx hxm => ?_) hth
  · obtain ⟨y, hy, hi, _⟩ := hmem x hx
    exact ⟨y, hy, hi⟩
  · obtain ⟨y, hy, _, hmeet, hor⟩ := hmem x hx
    refine hor.resolve_right fun hne => ?_
    rw [hmeet, hother y hy hne] at hxm
    cases hxm

end

/-- The cases in which a binding starts at once: the handle is free, or its entry is ready and goes. -/
def bindable (s : State) (h : Nat) (f : FolioSpec) : Prop :=
  (handleEntry s h = none ∧ ∀ x ∈ coreFolios s s.t.core, x.meets f = false) ∨
    (∃ e, handleEntry s h = some e ∧ e.owners = [s.t.uid] ∧ e.drain = false ∧ e.state = .ready ∧
      ∀ x ∈ coreFolios s s.t.core, x ≠ e → x.meets f = false)

theorem bindable.roomFor {s : State} {h : Nat} {f : FolioSpec} (hb : bindable s h f) : roomFor s h f := by
  intro x hx hm
  rcases hb with ⟨_, hno⟩ | ⟨e, he, ho, _, hst, hno⟩
  · rw [hno x hx] at hm
    cases hm
  · have hxe : x = e := by
      by_contra hne
      rw [hno x hx hne] at hm
      cases hm
    rw [hxe]
    exact ⟨ho, hst, (handleEntry_some he).1⟩

theorem bindable.not_drains {s : State} {h : Nat} {f : FolioSpec} {e : FolioEntry} (hb : bindable s h f) (he : handleEntry s h = some e) :
    e.drains s.t.uid = false := by
  rcases hb with ⟨hn, _⟩ | ⟨x, hx, _, hd, _⟩
  · rw [hn] at he
    cases he
  · cases hx.symm.trans he
    simp [FolioEntry.drains, hd]

/-- The binding of a range by a handle that is free, or whose entry goes first without a write-back. -/
def rebind (s : State) (h : Nat) (f : FolioSpec) : Res :=
  match handleEntry s h with
  | none => bindRange s h f
  | some e => bindRange (setHandle (releaseFolio s e 5 []) h none) h f

theorem rebind_binds {s : State} {h : Nat} {f : FolioSpec} (hz : f.sizek ≠ 0) (hfree : freeIndex s s.t.core ≠ none)
    (hh : h < s.t.handles.length) (hb : bindable s h f) : ∃ u, rebind s h f = .ok u ∧ bindsTo h f s.t.uid s.t.core u := by
  unfold rebind
  rcases hb with ⟨he, hno⟩ | ⟨e, he, ho, hd, hst, hno⟩
  · rw [he]
    exact bindRange_binds hz hfree (fun x hx hm => by rw [hno x hx] at hm; cases hm) hh
  · rw [he]
    exact bindRange_released hz hfree hh he ho hst hd hno

/-- folbind binds a fresh filling entry with the list entry's fields (R147, R221). -/
theorem folbind_binds {o : W4} {s s2 : State} {ws : List Word} (hset : settledFor [o.fa] s)
    (hq : folioQueued (settleMatrix s) o.fc.toNat = false) (hh : o.fc.toNat < s.t.handles.length) (ha : (getS s o.fa).toNat % 16 = 0)
    (hc : conflicts (settleMatrix s) (getS s o.fa) 16 false = false) (hl : loadWords (getS s o.fa) 2 0 (settleMatrix s) = .ok ws s2)
    (hok : specOk (ws.getD 0 0) (ws.getD 1 0) = true)
    (hfits : specFits s2.t.core (FolioSpec.dec (ws.getD 0 0) (ws.getD 1 0)) = true)
    (hw : fillWaits s2 (FolioSpec.dec (ws.getD 0 0) (ws.getD 1 0)).src (FolioSpec.dec (ws.getD 0 0) (ws.getD 1 0)).sizek = false)
    (hfree : freeIndex s2 s2.t.core ≠ none) (hb : bindable s2 o.fc.toNat (FolioSpec.dec (ws.getD 0 0) (ws.getD 1 0))) :
    ∃ u, exec (.folbind o) s = .next (passed u) ∧ bindsTo o.fc.toNat (FolioSpec.dec (ws.getD 0 0) (ws.getD 1 0)) s2.t.uid s2.t.core u := by
  have hk := KeepsScalars.settleMatrix s
  have hga : getS (settleMatrix s) o.fa = getS s o.fa := hk.getS o.fa
  have hh1 : ¬(settleMatrix s).t.handles.length ≤ o.fc.toNat := by rw [hk.handles]; omega
  have hh2 : o.fc.toNat < s2.t.handles.length := by rw [(OnlyMemory.of_loadWords hl).t, hk.handles]; exact hh
  have ha1 : ¬(canonical (getS s o.fa) = true ∧ (getS s o.fa).toNat % 16 ≠ 0) := fun h => h.2 ha
  obtain ⟨hothers, hown, hleaving⟩ := roomFor_checks hb.roomFor
  obtain ⟨u, hu, hbound⟩ := rebind_binds (sizek_ne_zero_of_specOk hok) hfree hh2 hb
  refine ⟨u, ?_, hbound⟩
  change execFolbind o s = _
  refine folioOp_ok hset hq ?_
  simp only [hga, if_neg hh1, if_neg ha1, hc, hl, hok, hfits, hothers, hown, hleaving, hw, Bool.false_eq_true, if_false,
    List.isEmpty_nil, Bool.not_true, or_self, reduceCtorEq]
  unfold rebind at hu
  cases he : handleEntry s2 o.fc.toNat with
  | none =>
    rw [he] at hu
    exact hu
  | some e =>
    rw [he] at hu
    have hbr : bindRange (setHandle (releaseFolio s2 e 5 []) o.fc.toNat none) o.fc.toNat (FolioSpec.dec (ws.getD 0 0) (ws.getD 1 0)) = .ok u := hu
    simp only [hb.not_drains he, Bool.false_eq_true, if_false, hbr]

end Sys2Proof.Machine
end

section
namespace Sys2Proof.Machine

/-! ## A compressed block expands within its 4096 bytes (R159, R282) -/

theorem decodeTokens_length {img : List Byte} {stop g : Nat} : ∀ {fuel pos : Nat} {out bs : List Byte},
    decodeTokens img stop g fuel pos out = some bs → out.length ≤ 32 * g + 32 → bs.length ≤ 32 * g + 32
  | 0, pos, out, bs, h, hl => by
    simp only [decodeTokens] at h
    split at h
    · cases h
      exact hl
    · cases h
  | fuel + 1, pos, out, bs, h, hl => by
    simp only [decodeTokens] at h
    split at h
    · split at h
      · cases h
        exact hl
      · cases h
    · split at h
      · cases h
      · next hn =>
        split at h
        · split at h
          · cases h
          · refine decodeTokens_length h ?_
            simp only [List.length_append, List.length_take, List.length_replicate]
            omega
        · split at h
          · split at h
            · cases h
            · refine decodeTokens_length h ?_
              simp only [List.length_append, List.length_replicate]
              omega
          · split at h
            · cases h
            · refine decodeTokens_length h ?_
              simp only [List.length_append, List.length_take]
              omega

theorem decodeGroups_length {img : List Byte} : ∀ {ls : List Nat} {g pos : Nat} {out bs : List Byte},
    decodeGroups img ls g pos out = some bs → out.length ≤ 32 * g → bs.length ≤ 32 * (g + ls.length)
  | [], g, _, out, bs, h, hl => by
    cases h
    exact hl
  | l :: ls, g, pos, out, bs, h, hl => by
    simp only [decodeGroups] at h
    split at h
    · cases h
    · next out' ho =>
      have h1 := decodeTokens_length ho (by omega)
      have h2 := decodeGroups_length h (by omega)
      rw [List.length_cons]
      omega

theorem decodeBlock_length {sect : Nat} {img bs : List Byte} (h : decodeBlock sect img = some bs) : bs.length ≤ 4096 := by
  unfold decodeBlock at h
  split at h
  · cases h
    exact List.length_take_le ..
  · split at h
    · cases h
    · dsimp only at h
      split at h
      · cases h
      · next hbad =>
        have hlen : ((img.take 128).map BitVec.toNat).length = 128 := by
          by_contra hne
          exact hbad (.inl hne)
        have := decodeGroups_length h (Nat.zero_le _)
        omega

theorem mem_fillBlock_zblocks {s : State} {key : Nat} {z : ZBlock} (h : z ∈ (fillBlock s key).zblocks) : z ∈ s.zblocks ∧ z.block ≠ key / 4096 := by
  unfold fillBlock at h
  split at h
  · next hn => exact ⟨h, by simpa using List.find?_eq_none.1 hn z h⟩
  · have hf : z ∈ s.zblocks.filter fun x => x.block != key / 4096 := by
      dsimp only at h
      split at h <;> exact h
    obtain ⟨hm, hb⟩ := List.mem_filter.1 hf
    exact ⟨hm, by simpa using hb⟩

/-- Filling a block leaves the bytes of every block that is not compressed. -/
theorem fillBlock_read {s : State} (hw : s.home.wf = true) {key k : Nat} (hk : ∀ z ∈ s.zblocks, z.block ≠ k / 4096) :
    (fillBlock s key).home.read k = s.home.read k := by
  unfold fillBlock
  split
  · rfl
  · next z hz =>
    have hb : z.block = key / 4096 := by simpa using List.find?_some (p := fun z : ZBlock => z.block == key / 4096) hz
    have hne : k / 4096 ≠ key / 4096 := fun e => hk z (List.mem_of_find?_eq_some hz) (hb.trans e.symm)
    dsimp only
    split
    · next bs hd =>
      have hlen := decodeBlock_length hd
      refine Memory.read_foldl_write Prod.fst Prod.snd _ _ hw (fun p hp hpk => ?_) (.inl rfl)
      obtain ⟨i, hi, rfl⟩ := mem_mapIdx_key.1 hp
      dsimp only at hpk
      omega
    · rfl

/-! ## Writes at the home, blocks that are compressed among them (R292, R367) -/

theorem SeqMap.get_set_le {a k q : Nat} : ∀ {m : SeqMap}, m.get k ≤ q → (m.set a q).get k ≤ q
  | [], _ => by
    simp only [SeqMap.set, SeqMap.get]
    split
    · exact le_rfl
    · split <;> exact Nat.zero_le q
  | (j, p) :: r, h => by
    simp only [SeqMap.get] at h
    simp only [SeqMap.set]
    by_cases haj : a = j
    · simp only [haj, if_true, SeqMap.get]
      by_cases hkj : k = j
      · simp [hkj]
      · simpa [hkj] using h
    · by_cases hlt : a < j
      · simp only [haj, hlt, if_false, if_true, SeqMap.get]
        by_cases hka : k = a
        · simp [hka]
        · by_cases hlta : k < a
          · simp [hka, hlta]
          · simpa [hka, hlta] using h
      · simp only [haj, hlt, if_false, SeqMap.get]
        by_cases hkj : k = j
        · simpa [hkj] using h
        · by_cases hltj : k < j
          · simp [hkj, hltj]
          · simp only [hkj, hltj, if_false] at h ⊢
            exact SeqMap.get_set_le h

/-- A byte stands at its home, in no compressed block, with a value. -/
structure Stands (k : Nat) (b : Byte) (s : State) : Prop where
  wf : s.home.wf = true
  plain : ∀ z ∈ s.zblocks, z.block ≠ k / 4096
  reads : s.home.read k = b

section
variable {s : State} {k x q : Nat} {b v : Byte}

theorem homeWrite_homeSeq_le (h : s.homeSeq.get x ≤ q) : (homeWrite s k v q).homeSeq.get x ≤ q := by
  unfold homeWrite
  split
  · rw [fillBlock_eq]
    exact SeqMap.get_set_le h
  · exact h

theorem homeWrite_stands_same (hw : s.home.wf = true) (hq : s.homeSeq.get k ≤ q) : Stands k v (homeWrite s k v q) := by
  refine ⟨homeWrite_wf hw k v q, ?_, ?_⟩
  · unfold homeWrite
    rw [if_pos hq]
    exact fun z hz => (mem_fillBlock_zblocks hz).2
  · unfold homeWrite
    rw [if_pos hq]
    exact (Memory.read_write _ (fillBlock_wf hw k) k v k).trans (if_pos rfl)

/-- A byte that stands keeps its value through the writes of other bytes, and of its own value. -/
theorem Stands.homeWrite (h : Stands x b s) (hv : k = x → v = b) : Stands x b (homeWrite s k v q) := by
  refine ⟨homeWrite_wf h.wf k v q, ?_, ?_⟩
  · unfold Machine.homeWrite
    split
    · exact fun z hz => h.plain z (mem_fillBlock_zblocks hz).1
    · exact h.plain
  · unfold Machine.homeWrite
    split
    · refine (Memory.read_write _ (fillBlock_wf h.wf k) k v x).trans ?_
      by_cases hx : x = k
      · rw [if_pos hx]
        exact hv hx.symm
      · rw [if_neg hx]
        exact (fillBlock_read h.wf h.plain).trans h.reads
    · exact h.reads

theorem Stands.foldl_homeWrite : ∀ {l : List (Nat × Byte)} {s : State}, Stands x b s → (∀ p ∈ l, p.1 = x → p.2 = b) →
    Stands x b (l.foldl (fun a p => Machine.homeWrite a p.1 p.2 q) s)
  | [], _, h, _ => h
  | p :: _, _, h, hv => by
    rw [List.foldl_cons]
    exact Stands.foldl_homeWrite (h.homeWrite (hv p List.mem_cons_self)) fun y hy => hv y (List.mem_cons_of_mem _ hy)

/-- A byte that writes in a row all write with one value stands with it. -/
theorem foldl_homeWrite_stands : ∀ {l : List (Nat × Byte)} {s : State}, s.home.wf = true → s.homeSeq.get x ≤ q →
    (∀ p ∈ l, p.1 = x → p.2 = b) → (∃ p ∈ l, p.1 = x) → Stands x b (l.foldl (fun a p => homeWrite a p.1 p.2 q) s)
  | [], _, _, _, _, ⟨_, hp, _⟩ => by cases hp
  | p :: r, s, hw, hq, hv, ⟨y, hy, hyx⟩ => by
    have hr : ∀ p ∈ r, p.1 = x → p.2 = b := fun y hy => hv y (List.mem_cons_of_mem _ hy)
    rw [List.foldl_cons]
    by_cases hpx : p.1 = x
    · have h1 := homeWrite_stands_same (v := p.2) hw (hpx ▸ hq)
      rw [hpx, hv p List.mem_cons_self hpx] at h1
      rw [hpx, hv p List.mem_cons_self hpx]
      exact h1.foldl_homeWrite hr
    · have hyr : y ∈ r := (List.mem_cons.1 hy).resolve_left fun e => hpx (e ▸ hyx)
      exact foldl_homeWrite_stands (homeWrite_wf hw ..) (homeWrite_homeSeq_le hq) hr ⟨y, hyr, hyx⟩

end

/-! ## FOLIO_FILL_COMPLETE (R148) -/

theorem FolioEntry.key_add (e : FolioEntry) (i : Nat) : e.key i = e.key 0 + i := by
  simp only [FolioEntry.key, folioKey]
  omega

theorem FolioEntry.mem_cells {e : FolioEntry} {bs : List Byte} {p : Nat × Byte} :
    p ∈ e.cells bs ↔ ∃ i, ∃ hi : i < bs.length, p = (e.key 0 + i, bs[i]) := mem_mapIdx_key

/-- The bytes of a fill written to the core's folios. -/
def landed (s : State) (e : FolioEntry) (bs : List Byte) : State :=
  (e.cells bs).foldl (fun a p => homeWrite a p.1 p.2 (s.pubs + 1)) { s with pubs := s.pubs + 1 }

theorem landFill_home (s : State) (e : FolioEntry) (bs : List Byte) : (landFill s e bs).home = (landed s e bs).home := rfl

theorem landed_folios (s : State) (e : FolioEntry) (bs : List Byte) : (landed s e bs).folios = s.folios :=
  (OnlyMemory.foldl (fun a (p : Nat × Byte) => .homeWrite a p.1 p.2 (s.pubs + 1)) (e.cells bs) { s with pubs := s.pubs + 1 }).folios

section
variable {s : State} {e : FolioEntry} {bs : List Byte}

theorem folioAt_landFill (h : folioAt s e.core e.index = some e) :
    folioAt (landFill s e bs) e.core e.index = some { e with state := .ready, clean := true, data := none } := by
  have hl : folioAt (landed s e bs) e.core e.index = some e := (folioAt_congr (landed_folios s e bs) _ _).trans h
  exact folioAt_updFolio_of hl (fun x => { x with state := .ready, clean := true, data := none }) (fun _ => rfl) fun _ => rfl

/-- The folio reads as the bytes of its fill. -/
theorem landed_read_key (hw : s.home.wf = true) (hq : ∀ i < bs.length, s.homeSeq.get (e.key i) ≤ s.pubs + 1) {i : Nat} (hi : i < bs.length) :
    (landed s e bs).home.read (e.key i) = bs.getD i 0 := by
  have hv : bs.getD i 0 = bs[i] := (List.getElem_eq_getD 0).symm
  rw [hv]
  refine (foldl_homeWrite_stands (s := { s with pubs := s.pubs + 1 }) hw (hq i hi) (fun p hp hk => ?_) ⟨_, FolioEntry.mem_cells.2 ⟨i, hi, rfl⟩, (e.key_add i).symm⟩).reads
  obtain ⟨j, hj, rfl⟩ := FolioEntry.mem_cells.1 hp
  rw [e.key_add i] at hk
  have hji : j = i := Nat.add_left_cancel hk
  subst hji
  rfl

/-- Bytes outside the folio, in no compressed block, are as before. -/
theorem landed_read_outside (hw : s.home.wf = true) {k : Nat} (hk : k < e.key 0 ∨ e.key 0 + bs.length ≤ k)
    (hz : ∀ z ∈ s.zblocks, z.block ≠ k / 4096) : (landed s e bs).home.read k = s.home.read k := by
  have h0 : Stands k (s.home.read k) { s with pubs := s.pubs + 1 } := ⟨hw, hz, rfl⟩
  refine (h0.foldl_homeWrite fun p hp hpk => ?_).reads
  obtain ⟨j, hj, rfl⟩ := FolioEntry.mem_cells.1 hp
  dsimp only at hpk
  omega

end

end Sys2Proof.Machine
end

section
namespace Sys2Proof.Machine

/-! ## Write-backs touch their writer alone among the threads (R150, R366) -/

/-- The numbers of the suspended threads. -/
def contUids (s : State) : List Nat := s.conts.map fun k => k.th.uid

/-- Folio entries and the numbers of the suspended threads are as before, and the current thread is when it is not `uid`. -/
structure WritesFor (uid : Nat) (s u : State) : Prop where
  folios : u.folios = s.folios
  conts : contUids u = contUids s
  other : s.t.uid ≠ uid → u.t = s.t

namespace WritesFor

variable {uid : Nat}

theorem refl (s : State) : WritesFor uid s s := ⟨rfl, rfl, fun _ => rfl⟩

theorem trans {s u v : State} (h : WritesFor uid s u) (k : WritesFor uid u v) : WritesFor uid s v :=
  ⟨k.folios.trans h.folios, k.conts.trans h.conts, fun hne => by
    have hu := h.other hne
    exact (k.other (by rw [hu]; exact hne)).trans hu⟩

theorem foldl {α : Type} {f : State → α → State} (h : ∀ a x, WritesFor uid a (f a x)) (l : List α) (s : State) : WritesFor uid s (l.foldl f s) :=
  foldl_keeps (WritesFor uid s) f (fun a x ha => ha.trans (h a x)) l s (.refl s)

theorem of_memory {s u : State} (h : OnlyMemory s u) : WritesFor uid s u := ⟨h.folios, congrArg (List.map fun k : Cont => k.th.uid) h.conts, fun _ => h.t⟩

theorem updAnyThread_addWrites (s : State) (ws : List OwnWrite) : WritesFor uid s (updAnyThread s uid fun t => t.addWrites ws) := by
  refine ⟨?_, ?_, fun hne => ?_⟩
  · unfold updAnyThread updThread
    split <;> rfl
  · unfold contUids
    rw [updAnyThread_conts, updWhere, List.map_map]
    refine List.map_congr_left fun c _ => ?_
    dsimp only [Function.comp]
    split <;> rfl
  · unfold updAnyThread updThread
    rw [if_neg hne]

end WritesFor

theorem OnlyMemory.pointWrite (s : State) (core part sc k : Nat) (v : Byte) (u q : Nat) (a : WriteKind) :
    OnlyMemory s (pointWrite s core part sc k v u q a) := by
  refine of_points (.pointWrite ..) ?_
  unfold Machine.pointWrite
  split
  · exact homeWrite_t ..
  · unfold narrowWrite
    split <;> rfl

namespace WritesFor

variable {uid : Nat}

theorem publishBytes (s : State) (core part scope : Nat) (kvs : List (Nat × Byte)) :
    WritesFor uid s (publishBytes s uid core part scope kvs) := by
  unfold Machine.publishBytes
  extract_lets n s1 s2 s3
  split
  · exact .refl s
  · have h1 : WritesFor uid s s1 := WritesFor.trans (u := { s with pubs := n }) ⟨rfl, rfl, fun _ => rfl⟩
      (WritesFor.foldl (fun a p => of_memory (.pointWrite ..)) _ _)
    have h2 : WritesFor uid s1 s2 := by
      change WritesFor uid s1 (if 4 ≤ scope then _ else s1)
      split
      · exact WritesFor.foldl (fun a l => of_memory (.of_points (.promoteLine ..) (promoteLine_t ..))) _ s1
      · exact .refl s1
    have h3 : WritesFor uid s2 s3 := by
      change WritesFor uid s2 (if 4 ≤ scope then s2 else _)
      split
      · exact .refl s2
      · exact .updAnyThread_addWrites ..
    exact ((h1.trans h2).trans h3).trans (of_memory (.of_points (.publishMasters ..) (publishMasters_t ..)))

theorem writeBack (s : State) (e : FolioEntry) (bs : List Byte) (keys : List (Option Nat)) (scope : Nat) :
    WritesFor uid s (writeBack s uid e bs keys scope) := .publishBytes ..

theorem drainSaved (s : State) (e : FolioEntry) : WritesFor uid s (drainSaved uid s e) := by
  unfold Machine.drainSaved
  split
  · split
    · exact (of_memory (.drainKeys ..)).trans (.writeBack ..)
    · exact .refl s
  · exact .refl s

end WritesFor

/-! ## A node ends wherever its thread is (R74, R149) -/

/-- What the end of the nodes of `us` leaves: no suspended thread of them, none of a new number, the folio entries, the home when no thread is
saved, the current thread when it is none of them, and the end of its node with the class when it is. -/
structure NodesEnd (us : List Nat) (c a : Nat) (s u : State) : Prop where
  folios : u.folios = s.folios
  gone : ∀ v ∈ us, v ∉ contUids u
  conts : ∀ v ∈ contUids u, v ∈ contUids s
  saved : s.saved = [] → u.saved = [] ∧ u.home = s.home
  other : s.t.uid ∉ us → u.t = s.t
  mine : s.t.uid ∈ us → s.t.status = .running ∨ s.t.status = .ending 1 c 0 a → u.t.uid = s.t.uid ∧ u.t.status = .ending 1 c 0 a

/-- The threads of number `uid` are suspended no longer; the rest that the end of a node looks at is as before. -/
structure Dropped (uid : Nat) (s u : State) : Prop where
  folios : u.folios = s.folios
  saved : u.saved = s.saved
  home : u.home = s.home
  t : u.t = s.t
  conts : ∀ v ∈ contUids u, v ≠ uid ∧ v ∈ contUids s

theorem mem_foldl_dropCont {l : List Cont} {s : State} {x : Cont} (h : x ∈ (l.foldl dropCont s).conts) : x ∈ s.conts ∧ ∀ c ∈ l, x.id ≠ c.id := by
  induction l generalizing s with
  | nil => exact ⟨h, fun _ hc => absurd hc List.not_mem_nil⟩
  | cons c r ih =>
    obtain ⟨hm, hr⟩ := ih h
    obtain ⟨hms, hid⟩ := List.mem_filter.1 hm
    exact ⟨hms, List.forall_mem_cons.2 ⟨by simpa using hid, hr⟩⟩

theorem dropped_foldl_dropCont (s : State) (uid : Nat) : Dropped uid s ((s.conts.filter fun c => c.th.uid == uid).foldl dropCont s) where
  folios := foldl_keeps (fun x : State => x.folios = s.folios) dropCont (fun _ _ h => h) _ s rfl
  saved := foldl_keeps (fun x : State => x.saved = s.saved) dropCont (fun _ _ h => h) _ s rfl
  home := foldl_keeps (fun x : State => x.home = s.home) dropCont (fun _ _ h => h) _ s rfl
  t := foldl_keeps (fun x : State => x.t = s.t) dropCont (fun _ _ h => h) _ s rfl
  conts := by
    intro v hv
    obtain ⟨x, hx, rfl⟩ := List.mem_map.1 hv
    obtain ⟨hm, hid⟩ := mem_foldl_dropCont hx
    exact ⟨fun e => hid x (List.mem_filter.2 ⟨hm, by simpa using e⟩) rfl, List.mem_map_of_mem hm⟩

theorem Dropped.nodesEnd {uid c a : Nat} {s s1 u : State} (h : Dropped uid s s1) (hw : WritesFor uid s1 u)
    (hsaved : s.saved = [] → u.saved = [] ∧ u.home = s.home)
    (hmine : s.t.uid = uid → s.t.status = .running ∨ s.t.status = .ending 1 c 0 a → u.t.uid = s.t.uid ∧ u.t.status = .ending 1 c 0 a) :
    NodesEnd [uid] c a s u where
  folios := hw.folios.trans h.folios
  gone := by
    intro v hv hm
    rw [hw.conts] at hm
    exact (h.conts v hm).1 (List.mem_singleton.1 hv)
  conts := by
    intro v hv
    rw [hw.conts] at hv
    exact (h.conts v hv).2
  saved := hsaved
  other := fun hne => (hw.other fun e => hne (by rw [← e, h.t]; exact List.mem_singleton_self _)).trans h.t
  mine := fun hm => hmine (List.mem_singleton.1 hm)

theorem endThread_writesFor (s : State) (uid c a : Nat) : WritesFor uid s (endThread s uid c 0 a) := by
  unfold endThread updThread
  by_cases h : s.t.uid = uid
  · rw [if_pos h]
    exact ⟨rfl, rfl, fun hne => absurd h hne⟩
  · rw [if_neg h]
    exact ⟨rfl, rfl, fun _ => rfl⟩

theorem endThread_saved_home (s : State) (uid c a : Nat) :
    (endThread s uid c 0 a).saved = s.saved ∧ (endThread s uid c 0 a).home = s.home := by
  unfold endThread updThread
  split <;> exact ⟨rfl, rfl⟩

theorem endThread_mine {s : State} {uid c a : Nat} (hu : s.t.uid = uid) (h : s.t.status = .running ∨ s.t.status = .ending 1 c 0 a) :
    (endThread s uid c 0 a).t.uid = s.t.uid ∧ (endThread s uid c 0 a).t.status = .ending 1 c 0 a := by
  unfold endThread updThread
  rw [if_pos hu, State.updT_t]
  rcases h with e | e
  · rw [e]
    exact ⟨rfl, rfl⟩
  · rw [e]
    exact ⟨rfl, e⟩

theorem findThread_mine {s : State} {uid c a : Nat} (hu : s.t.uid = uid) (h : s.t.status = .running ∨ s.t.status = .ending 1 c 0 a) :
    (findThread s uid).isSome = true := by
  have hlive : s.t.status ≠ .free := by rcases h with e | e <;> simp [e]
  simp [findThread, allThreads, hu, hlive]

/-- The node of a resident thread ends there; another thread is taken out of the suspended or the saved ones. -/
theorem endNode_nodesEnd (s : State) (uid c a : Nat) : NodesEnd [uid] c a s (endNode s uid c 0 a) := by
  unfold endNode
  extract_lets gone s1
  have h : Dropped uid s s1 := dropped_foldl_dropCont s uid
  clear_value s1 gone
  by_cases hfind : (findThread s1 uid).isSome = true
  · rw [if_pos hfind]
    obtain ⟨hsaved, hhome⟩ := endThread_saved_home s1 uid c a
    refine h.nodesEnd (endThread_writesFor s1 uid c a) (fun h0 => ⟨hsaved.trans (h.saved.trans h0), hhome.trans h.home⟩) fun hu hst => ?_
    rw [← h.t] at hu hst ⊢
    exact endThread_mine hu hst
  · rw [if_neg hfind]
    have habsent : s.t.uid = uid → ¬(s.t.status = .running ∨ s.t.status = .ending 1 c 0 a) := fun hu hst =>
      hfind (findThread_mine (by rw [h.t]; exact hu) (by rw [h.t]; exact hst))
    split
    · next v hv =>
      refine h.nodesEnd (WritesFor.trans ?_ (WritesFor.foldl (fun x e => .drainSaved x e) _ _)) (fun h0 => ?_)
        fun hu hst => absurd hst (habsent hu)
      · exact ⟨rfl, rfl, fun _ => rfl⟩
      · rw [h.saved, h0] at hv
        cases hv
    · split
      · exact h.nodesEnd ⟨rfl, rfl, fun _ => rfl⟩ (fun h0 => ⟨h.saved.trans h0, h.home⟩) fun hu hst => absurd hst (habsent hu)
      · exact h.nodesEnd (.refl s1) (fun h0 => ⟨h.saved.trans h0, h.home⟩) fun hu hst => absurd hst (habsent hu)

/-- The nodes of several threads end one after the other. -/
theorem foldl_endNode_nodesEnd (c a : Nat) : ∀ (us : List Nat) (s : State), NodesEnd us c a s (us.foldl (fun x u => endNode x u c 0 a) s)
  | [], s => ⟨rfl, fun _ hv => absurd hv List.not_mem_nil, fun _ hv => hv, fun h0 => ⟨h0, rfl⟩, fun _ => rfl,
    fun hm => absurd hm List.not_mem_nil⟩
  | u :: r, s => by
    rw [List.foldl_cons]
    have h1 := endNode_nodesEnd s u c a
    have h2 := foldl_endNode_nodesEnd c a r (endNode s u c 0 a)
    have hother : s.t.uid ≠ u → (endNode s u c 0 a).t = s.t := fun hne => h1.other (by simpa using hne)
    refine ⟨h2.folios.trans h1.folios, ?_, fun v hv => h1.conts v (h2.conts v hv), fun h0 => ?_, fun hne => ?_, fun hmem hst => ?_⟩
    · intro v hv hm
      rcases List.mem_cons.1 hv with rfl | hr
      · exact h1.gone v List.mem_cons_self (h2.conts v hm)
      · exact h2.gone v hr hm
    · obtain ⟨hs1, hh1⟩ := h1.saved h0
      obtain ⟨hs2, hh2⟩ := h2.saved hs1
      exact ⟨hs2, hh2.trans hh1⟩
    · obtain ⟨hu, hr⟩ : s.t.uid ≠ u ∧ s.t.uid ∉ r := by simpa using hne
      have ht := hother hu
      exact (h2.other (by rw [ht]; exact hr)).trans ht
    · by_cases hu : s.t.uid = u
      · obtain ⟨hid, hend⟩ := h1.mine (by simp [hu]) hst
        by_cases hr : s.t.uid ∈ r
        · obtain ⟨hid2, hend2⟩ := h2.mine (by rw [hid]; exact hr) (.inr hend)
          exact ⟨hid2.trans hid, hend2⟩
        · have ht := h2.other (by rw [hid]; exact hr)
          rw [ht]
          exact ⟨hid, hend⟩
      · have ht := hother hu
        have hr : s.t.uid ∈ r := (List.mem_cons.1 hmem).resolve_left hu
        have := h2.mine (by rw [ht]; exact hr) (by rw [ht]; exact hst)
        rw [ht] at this
        exact this

/-! ## The ends of fills and write-backs (R148, R149, R469) -/

theorem logError_frame (s : State) (die cls event unit part addr : Nat) : ∃ l m, logError s die cls event unit part addr =
    { s with errLog := l, errLost := m } := by
  unfold logError
  dsimp only
  split <;> exact ⟨_, _, rfl⟩

/-- FOLIO_FILL_FAULT: the entry becomes empty, and its owners' nodes end. -/
theorem folioFillFault_ends {s : State} {core entry c a : Nat} {e : FolioEntry} (h : folioAt s core entry = some e) (hst : e.state = .filling)
    (hb : e.bad = some (c, a)) : ∃ u t, exec (.folioFillFault core entry) s = .next { t with stalled := false } ∧
      u.t = s.t ∧ u.home = s.home ∧ u.saved = s.saved ∧ folioAt u core entry = none ∧ NodesEnd e.owners c (a % 2 ^ 57) u t := by
  have hrun : ∃ l m, exec (.folioFillFault core entry) s = happening (e.owners.foldl (fun x u => endNode x u c 0 (a % 2 ^ 57))
      (dropFolio { s with errLog := l, errLost := m } core entry)) := by
    change ∃ l m, execFolioFillFault core entry s = _
    unfold execFolioFillFault
    simp only [h, hst, hb]
    by_cases hc : c = 0x0E
    · obtain ⟨l, m, hl⟩ := logError_frame s (dieOf core) c 0x04 (laneUnit core 0) e.part a
      exact ⟨l, m, by rw [if_pos hc, hl]⟩
    · exact ⟨s.errLog, s.errLost, by rw [if_neg hc]⟩
  obtain ⟨l, m, hrun⟩ := hrun
  exact ⟨dropFolio { s with errLog := l, errLost := m } core entry, _, hrun, rfl, rfl, rfl, folioAt_dropFolio_same .., foldl_endNode_nodesEnd c (a % 2 ^ 57) e.owners _⟩

/-- A finished drain drops its entry and leaves every other one. -/
theorem folioAt_finishDrain_same (s : State) (e : FolioEntry) : folioAt (finishDrain s e).2 e.core e.index = none := folioAt_dropFolio_same ..

theorem folioAt_finishDrain_ne (s : State) (e : FolioEntry) {c i : Nat} (h : (c, i) ≠ (e.core, e.index)) :
    folioAt (finishDrain s e).2 c i = folioAt s c i := by
  unfold finishDrain
  extract_lets w r
  have hr : r.2.2.folios = s.folios := by
    by_cases hp : e.pages.isEmpty = true
    · rw [show r = drainKeys w e.src e.sizek s from if_pos hp]
      exact (OnlyMemory.drainKeys ..).folios
    · rw [show r = (e.pages.map some, none, s) from if_neg hp]
  clear_value r
  refine (folioAt_dropFolio_ne _ h).trans (folioAt_congr ?_ c i)
  exact (WritesFor.writeBack (uid := e.owners.headD 0) ..).folios.trans hr

/-- An ending thread takes the class of the write-back that faulted (R469). -/
def Thread.drainFault (c a : Nat) (t : Thread) : Thread :=
  match t.status with
  | .ending 0 _ _ _ => { t with status := .ending 1 c 0 a }
  | _ => t

theorem updThread_folios (s : State) (uid : Nat) (f : Thread → Thread) : (updThread s uid f).folios = s.folios := by
  unfold updThread
  split <;> rfl

/-- The thread of a number ends, with the class given or with none yet. -/
def endsWith (uid c a : Nat) (s : State) : Prop :=
  s.t.uid = uid ∧ ((∃ x y z, s.t.status = .ending 0 x y z) ∨ s.t.status = .ending 1 c 0 a)

theorem updThread_drainFault_mine {s : State} {uid c a : Nat} (h : endsWith uid c a s) :
    (updThread s uid (Thread.drainFault c a)).t.uid = uid ∧ (updThread s uid (Thread.drainFault c a)).t.status = .ending 1 c 0 a := by
  obtain ⟨hu, hst⟩ := h
  unfold updThread
  rw [if_pos hu, State.updT_t]
  unfold Thread.drainFault
  rcases hst with ⟨x, y, z, e⟩ | e
  · rw [e]
    exact ⟨hu, rfl⟩
  · rw [e]
    exact ⟨hu, e⟩

theorem updThread_drainFault_other {s : State} {v c a : Nat} (h : s.t.uid ≠ v) : (updThread s v (Thread.drainFault c a)).t = s.t := by
  unfold updThread
  rw [if_neg h]

theorem foldl_drainFault {s : State} {uid c a : Nat} {us : List Nat} (hu : uid ∈ us) (h : endsWith uid c a s) :
    (us.foldl (fun x u => updThread x u (Thread.drainFault c a)) s).t.status = .ending 1 c 0 a := by
  have hstep : ∀ b v, endsWith uid c a b → endsWith uid c a (updThread b v (Thread.drainFault c a)) := by
    intro b v hb
    by_cases hv : v = uid
    · subst hv
      obtain ⟨hid, hend⟩ := updThread_drainFault_mine hb
      exact ⟨hid, .inr hend⟩
    · have ht := updThread_drainFault_other (c := c) (a := a) (s := b) (v := v) (by rw [hb.1]; exact Ne.symm hv)
      unfold endsWith
      rw [ht]
      exact hb
  have hkeep : ∀ b v, (b.t.uid = uid ∧ b.t.status = .ending 1 c 0 a) →
      (updThread b v (Thread.drainFault c a)).t.uid = uid ∧ (updThread b v (Thread.drainFault c a)).t.status = .ending 1 c 0 a := by
    intro b v hb
    by_cases hv : v = uid
    · subst hv
      exact updThread_drainFault_mine ⟨hb.1, .inr hb.2⟩
    · rw [updThread_drainFault_other (by rw [hb.1]; exact Ne.symm hv)]
      exact hb
  exact (foldl_reaches (endsWith uid c a) (fun b => b.t.uid = uid ∧ b.t.status = .ending 1 c 0 a)
    (fun x u => updThread x u (Thread.drainFault c a)) hstep hkeep (fun b hb => updThread_drainFault_mine hb) us s hu h).2

/-- FOLIO_DRAIN_COMPLETE finishes the drain, and hands a fault to the nodes that end. -/
theorem folioDrainComplete_does {s : State} {core entry : Nat} {e : FolioEntry} (h : folioAt s core entry = some e) (hst : e.state = .draining) :
    exec (.folioDrainComplete core entry) s = .next { (match (finishDrain s e).1 with
      | none => (finishDrain s e).2
      | some (c, a) => e.owners.foldl (fun x u => updThread x u (Thread.drainFault c a)) (finishDrain s e).2) with stalled := false } := by
  change execFolioDrainComplete core entry s = _
  unfold execFolioDrainComplete
  simp only [h, hst, ne_eq, not_true_eq_false, if_false]
  cases (finishDrain s e).1 with
  | none => rfl
  | some p => rfl

end Sys2Proof.Machine
end

section
namespace Sys2Proof.Machine

/-- Settles O41: an instruction runs on the state after the posted matrix accesses and moves its entry as R148 and R221 say; a filled folio's bytes
all stand at its keys, since a write at the home leaves no compressed block over its byte; the end of a node ends its thread wherever it is. -/
theorem folioInstructions : Obligations.FolioInstructions := by
  refine ⟨?_, ?_, ?_, ?_, ?_, ?_, ?_, ?_⟩
  · intro o s s2 e keys s1 h hq he hst drains hk
    exact ⟨folrel_does o hq he hst hk, fun hw => ⟨fun hd => folfill_fills o hq he hst hw hd, fun _ _ hd hc => folfill_drains o hq he hw hd hc⟩,
      fun _ _ hr hsrc hc => foldrain_drains o hq he hr hsrc hc⟩
  · intro o s hq he hx
    exact folioOps_unbound o hq he hx
  · intro s e sc ks h
    exact ⟨folioAt_releaseFolio_same h sc ks, fun c i hne => folioAt_releaseFolio_ne s e sc ks hne⟩
  · intro s e
    obtain ⟨x, hx, hs⟩ := folioAt_startFill_same s e
    obtain ⟨_, _, rfl⟩ := hs.rest
    exact ⟨⟨_, hx, hs.state, hs.view, rfl, rfl, hs.zeros⟩, fun c i hne => folioAt_startFill_ne s e hne⟩
  · intro o s s2 ws h a f hset hq hh ha hc hl hok hfits hw hfree hb
    obtain ⟨u, hu, i, x, hi, hx, hbound⟩ := folbind_binds hset hq hh ha hc hl hok hfits hw hfree hb
    have hhandles : (advance u).t.handles.getD h none = some i := by rw [advance_t_handles]; exact hi
    have hentry : folioAt (advance u) s2.t.core i = some x := (folioAt_congr (advance_folios u) _ _).trans hx
    exact ⟨passed u, i, x, hu, rfl, hhandles, hentry, hbound.state, hbound.owners, hbound.src, hbound.space, hbound.basek, hbound.sizek, hbound.drain,
      hbound.keep⟩
  · intro s core entry e bs h hst hd hw hq
    have hrun : exec (.folioFillComplete core entry) s = .next { landFill s e bs with stalled := false } := by
      change execFolioFillComplete core entry s = _
      simp only [execFolioFillComplete, h, hst, hd]
      rfl
    obtain ⟨_, hcore, hindex⟩ := folioAt_some h
    refine ⟨_, hrun, rfl, ?_, fun i hi => landed_read_key hw hq hi, fun k hk hz => landed_read_outside hw hk hz⟩
    subst hcore hindex
    exact folioAt_landFill h
  · intro s core entry c a e h hst hb
    obtain ⟨u, t, hrun, ht, hhome, hsaved, hgone, hends⟩ := folioFillFault_ends h hst hb
    refine ⟨_, hrun, rfl, (folioAt_congr hends.folios core entry).trans hgone, fun h0 => ?_, fun k hk hmem => ?_, fun hmem hrunning => ?_,
      fun hne => ?_⟩
    · exact (hends.saved (hsaved.trans h0)).2.trans hhome
    · exact hends.gone _ hmem (List.mem_map_of_mem hk)
    · exact (hends.mine (by rw [ht]; exact hmem) (.inl (by rw [ht]; exact hrunning))).2
    · exact (hends.other (by rw [ht]; exact hne)).trans ht
  · intro s core entry e h hst
    have hrun := folioDrainComplete_does h hst
    obtain ⟨_, hcore, hindex⟩ := folioAt_some h
    subst hcore hindex
    cases hf : (finishDrain s e).1 with
    | none =>
      rw [hf] at hrun
      exact ⟨_, hrun, rfl, folioAt_finishDrain_same s e, fun c i hne => folioAt_finishDrain_ne s e hne, fun _ => rfl, fun c a hca => by cases hca⟩
    | some p =>
      obtain ⟨c, a⟩ := p
      rw [hf] at hrun
      have hfol := foldl_keeps (fun x : State => x.folios = (finishDrain s e).2.folios)
        (fun x u => updThread x u (Thread.drainFault c a)) (fun x u hx => (updThread_folios x u _).trans hx) e.owners _ rfl
      refine ⟨_, hrun, rfl, (folioAt_congr hfol _ _).trans (folioAt_finishDrain_same s e),
        fun c i hne => (folioAt_congr hfol _ _).trans (folioAt_finishDrain_ne s e hne), fun hn => (by cases hn), ?_⟩
      intro c' a' hca hmem huid x y z hstat
      cases hca
      exact foldl_drainFault hmem ⟨huid, .inl ⟨x, y, z, hstat⟩⟩

end Sys2Proof.Machine
end
